-- ==== Sys2Proof/Word.lean ====
section
/-!
DEFINITION. The machine's word types (00 R3 to R5): bytes, 64-bit words, 56-bit addresses, and the byte-order helpers
that turn a list of bytes into a number, the lowest address first (little-endian, R5).
-/
namespace Sys2Proof

/-- A byte of memory. -/
abbrev Byte := BitVec 8
/-- A 64-bit register pattern (g-registers, control registers). -/
abbrev Word := BitVec 64
/-- A 56-bit address (a-registers, 03 Table 3.2). -/
abbrev Addr := BitVec 56

/-- The number whose bytes are `bs`, the least significant first (R5). -/
def leNat : List Byte → Nat
  | [] => 0
  | b :: bs => b.toNat + 256 * leNat bs

/-- The `n` bytes of `v`, the least significant first (R5). -/
def leBytes : Nat → Nat → List Byte
  | 0, _ => []
  | n + 1, v => BitVec.ofNat 8 v :: leBytes n (v / 256)

end Sys2Proof
end

