-- ==== Sys2Proof/Config.lean ====
section
/-!
DEFINITION. What one module or one run fixes and the spec leaves open: the free values. Each is an opaque constant
with no body, so nothing can be proved about its value. notes/assumptions names each of them.
-/
namespace Sys2Proof.Config

/-- DESIGN CHOICE (log 6): the `n`-th free choice of the device: which of the events that may take place now does so. -/
opaque choose : Nat → Nat

/-- DESIGN CHOICE (log 10): the `n`-th byte whose value the spec calls unpredictable (19 R281, R283). -/
opaque freeByte : Nat → Byte

/-- DESIGN CHOICE (log 36): whether a CXL replay delays the `n`-th engine job, which touches second-tier memory (19 R288);
the spec gives no event for a replay. -/
opaque cxlReplay : Nat → Bool

/-- DESIGN CHOICE (log 8): the FP32 bits the device's algorithm for special function `f` (the S5 opcode) forms of an
FP32 argument (13 R190). The machine uses it only where it keeps the bound of Table 13.5. -/
opaque specialFn : Nat → BitVec 32 → BitVec 32

/-- DESIGN CHOICE (log 9): the `n`-th pick of a free node id (21 R323). -/
opaque freeNode : Nat → Nat

/-- DESIGN CHOICE (log 9): CHAIN of a node (21 Table 21.2), which the spec ties to the engine's own bucket order. -/
opaque nodeChain : Nat → BitVec 32

/-- DESIGN CHOICE (log 9): the operation-cache hits counted at the `n`-th look (21 Table 21.10). -/
opaque cacheHits : Nat → Nat

/-- DESIGN CHOICE (log 11): the weight of energy class `c` at operating point `p` in units of 0.1 pJ (27 R409). The
machine uses it for points 0 to 6 only, and never above the weight of point 7. -/
opaque weight : Nat → Nat → Nat

/-- DESIGN CHOICE (log 11): the rounding of the `n`-th charge to 16 fraction bits, up or down (27 R408). -/
opaque energyRound : Nat → Bool

/-- DESIGN CHOICE (log 5): the Yarkel public key of a KEYID, whose digest is fused in the hub (26 R394). -/
opaque yarkelKey : Nat → BitVec 256

/-- DESIGN CHOICE (log 5): the 32 bytes of fused entropy (26 R396). -/
opaque entropy : BitVec 256

/-- DESIGN CHOICE (log 5): the KEYID of the image of a kind that the root monitor loads at boot (26 R393). -/
opaque bootKeyid : Nat → BitVec 8

/-- DESIGN CHOICE (log 5): the VERSION of that image. -/
opaque bootVersion : Nat → BitVec 32

/-- DESIGN CHOICE (log 5): the SHA-512 digest of that image. -/
opaque bootDigest : Nat → BitVec 512

/-- DESIGN CHOICE (log 5): the SHA-512 digest of the decode table loaded at boot (26 R396). -/
opaque tableDigest : BitVec 512

/-- DESIGN CHOICE (log 48): where the region of context records begins in the MSC, in units of 64 bytes (24 R375). -/
opaque recBase : Nat

/-- DESIGN CHOICE (log 5): the VERSION fused for an image kind (26 Table 26.5). -/
opaque fusedVersion : Nat → Nat

/-- DESIGN CHOICE (log 5): whether the key of a KEYID is revoked by its fuse (26 R394). -/
opaque keyRevoked : Nat → Bool

/-- DESIGN CHOICE (log 17): whether an address of a COPY record is a host address (23 Table 23.3 tells it by no bit). -/
opaque copyHost : Word → Bool

/-- DESIGN CHOICE (log 18): the function to which the scheduler firmware assigns a queue at a layout commit, for the
`n`-th commit and a queue number (26 R393); a number of 96 or more leaves the queue without one. -/
opaque queueOwner : Nat → Nat → Nat

/-- DESIGN CHOICE (log 18): the entry the root monitors write for a local partition in the table of a peer port at the
`n`-th commit (26 R389): remote partition and function, or none. -/
opaque portEntry : Nat → Nat → Nat → Option (BitVec 5 × BitVec 7)

/-- DESIGN CHOICE (log 58): byte `i` of the payload of the `n`-th flit: the spec gives no coding of a transaction in it. -/
opaque flitByte : Nat → Nat → Byte

end Sys2Proof.Config
end

