-- ==== Sys2Proof/Syntax.lean ====
section
/-!
DEFINITION. The instructions and events of the Talrok 9640: one constructor of `Instr` for each row of
spec/opcode_table.json. Rows 10 to 219 are the 210 slot forms (08 Table 8.1, with their operands and modifiers); rows 0
to 9 and 220 to 292 are the steps of the device itself (95), with the agents and values they concern as arguments.
-/
namespace Sys2Proof

/-- Index of a g, d or w register (05 Table 5.4). -/
abbrev R64 := Fin 64
/-- Index of an a, p or m register, and an ordering class (05 Table 5.4). -/
abbrev R16 := Fin 16
/-- Index of a b register or a stage predicate. -/
abbrev R8 := Fin 8
/-- An accumulator block name q0 to q511. -/
abbrev Q512 := Fin 512
/-- A word of the constant bank. -/
abbrev Cb := Fin 1024
/-- A global core number (01 R11). -/
abbrev CoreId := Fin 192
/-- A context of a core. -/
abbrev CtxId := Fin 4
/-- A loop level l0 to l5, also the index of a stride register. -/
abbrev Lvl := Fin 6

/-- The guard of a slot: p(GP), or its negation when GN = 1 (05 R59). -/
structure Guard where
  neg : Bool
  p   : R16
  deriving DecidableEq, Repr

/-- The immediate of format I by its KIND (05 Table 5.7). -/
inductive Imm where
  | int20 (v : BitVec 20)
  | fp20  (v : BitVec 20)
  | lit   (k : Fin 3)
  | cb    (n : Cb)
  | high  (v : BitVec 20)
  deriving DecidableEq, Repr

/-- Scopes ctx to system, codes 0 to 5 (05 R62, 10 Table 10.8). -/
inductive Scope where
  | ctx | core | heath | die | package | system
  deriving DecidableEq, Repr

/-- Ordering class and scope of format M. -/
structure Os where
  cls   : R16
  scope : Scope
  deriving DecidableEq, Repr

/-- The OFS field by XR: a displacement in access units, or an index register (05 R62). -/
inductive Ofs where
  | disp (d : BitVec 11)
  | idx  (r : R64)
  deriving DecidableEq, Repr

/-- The memory operand of format M. -/
structure Mem where
  base : R16
  ofs  : Ofs
  deriving DecidableEq, Repr

/-- The target of format B (05 R66). -/
inductive Target where
  | rel (ofs : BitVec 23)
  | ind (g : R64)
  deriving DecidableEq, Repr

/-- Signedness, group sg (`.s`, `.u`). -/
inductive Sg where
  | s | u
  deriving DecidableEq, Repr

/-- Rounding modes (12 Table 12.3). -/
inductive Rm where
  | rn | rz | ru | rd
  deriving DecidableEq, Repr

/-- Comparison conditions of CMP (09 Table 9.5). -/
inductive Cc where
  | eq | ne | lt | le | gt | ge | ltu | leu | gtu | geu
  deriving DecidableEq, Repr

/-- Comparison conditions of VCMP (13 R186). -/
inductive Fc where
  | eq | ne | lt | le | gt | ge | un
  deriving DecidableEq, Repr

/-- Conditions of WAIT (09 Table 9.12). -/
inductive Wc where
  | eq | ne | geu | ltu | any | dd
  deriving DecidableEq, Repr

/-- SIZE codes 0 to 6 of the scalar memory forms (10 Table 10.3). -/
inductive MSize where
  | b | h | w | d | sb | sh | sw
  deriving DecidableEq, Repr

/-- Lane widths, and the sizes of EXT (13 R185). -/
inductive LaneW where
  | b | h | w | d
  deriving DecidableEq, Repr

/-- Vector element types (13 Table 13.1). -/
inductive VTy where
  | f32 | f16 | bf16 | e4m3 | e5m2 | e2m1 | e3m2 | e2m3 | i8 | i16 | i32 | i4 | u8 | u16 | u32
  deriving DecidableEq, Repr

/-- Scan operations (13 R203). -/
inductive ScanOp where
  | add | max | min
  deriving DecidableEq, Repr

/-- Operations of ATOM (10 R146). -/
inductive AtOp where
  | add | min | max | and | or | xor | swap | cas
  deriving DecidableEq, Repr

/-- Operators of DDAPPLY (21 Table 21.4). -/
inductive BoolOp where
  | and | or | xor | andn | nand | nor | xnor | imp
  deriving DecidableEq, Repr

/-- Destination types of MCVT (17 R248). -/
inductive Dt where
  | e4m3 | e5m2 | bf16 | f16 | f32 | i8
  deriving DecidableEq, Repr

/-- A scalar MOVC: read of, or write to, a control register (08 R97). -/
inductive MovC where
  | read  (d : R64) (cr : BitVec 10)
  | write (cr : BitVec 10) (a : R64)
  deriving DecidableEq, Repr

/-- What performs an element of a store: an access of a context (core, context, access number, element), a copy job
(job number, element), a COPY record (record number, 64-byte piece), or a held device write to host memory (10 R135,
19 R281, 23 R341, 26 R392). -/
inductive StoreSrc where
  | access (c : CoreId) (x : CtxId) (id k : Nat)
  | job    (id k : Nat)
  | hub    (r k : Nat)
  | host
  deriving DecidableEq, Repr

/-- What is retired (23 R357): capacity of a memory channel in 1/256 of a stack, ways of a slice, or a heath. -/
inductive Retire where
  | hbm   (stack : Fin 12) (capacity : Nat)
  | msc   (slice : Fin 12) (ways : Nat)
  | heath (h : Fin 24)
  deriving DecidableEq, Repr

/-- A transaction on a peer port (26 R389): one that arrives, or element `k` of the far copy job `j` of this module. -/
inductive PeerTx where
  | mrd  (tag : BitVec 10) (a : Addr) (n : Nat)
  | mwr  (tag : BitVec 10) (a : Addr) (data : List Byte)
  | atom (tag : BitVec 10) (op : AtOp) (sg : Sg) (dword : Bool) (a : Addr) (x cmp : Word)
  | far  (j k : Nat)
  deriving DecidableEq, Repr

/-- What a completion bears of its request: its tag, its function and, on a peer port, its partition slot (26 R384, R389). -/
structure CplTag where
  tag   : BitVec 10
  f     : BitVec 7
  pslot : BitVec 5
  deriving DecidableEq, Repr

/-- The instructions and events, one constructor per row of the opcode table, in its order. -/
inductive Instr where
  -- rows 0 to 9
  | bundleIssue (c : CoreId)
  | idleStep (c : CoreId)
  | scaleByProduct (gd : Guard) (sp : Option R8) (q : Q512) (n n2 : Cb)
  | pendingTrapDelivery (c : CoreId) (x : CtxId)
  | resultVisible (c : CoreId)
  | lateDataArrival (c : CoreId) (x : CtxId) (id k : Nat)
  | storePerform (src : StoreSrc)
  | sleepuWake (c : CoreId) (x : CtxId)
  | barwWake (c : CoreId) (x : CtxId)
  | domainEffectApply (c : CoreId) (x : CtxId)
  -- control and branch (08 Table 8.3)
  | nop (gd : Guard)
  | prep (gd : Guard) (b : R8) (t : Target)
  | bra (gd : Guard) (b : R8)
  | call (gd : Guard) (b : R8)
  | ret (gd : Guard)
  | lset (gd : Guard) (l : Lvl) (st : R8) (a : R64)
  | lrun (gd : Guard) (k : Lvl) (ofs : BitVec 23)
  | lbrk (gd : Guard) (l : Lvl)
  | lidx (gd : Guard) (d : R64) (l : Lvl)
  | lclr (gd : Guard)
  | spset (gd : Guard) (a : R64)
  | wait (gd : Guard) (a : R16) (b : R64) (c : Wc) (dword : Bool)
  | sleepu (gd : Guard) (a : R64)
  | sleepuI (gd : Guard) (v : Imm)
  | yield (gd : Guard)
  | halt (gd : Guard)
  | trap (gd : Guard) (n : BitVec 8)
  | hbeat (gd : Guard)
  -- scalar (08 Table 8.4)
  | add (gd : Guard) (d a b : R64)
  | addi (gd : Guard) (d a : R64) (v : Imm)
  | sub (gd : Guard) (d a b : R64)
  | mul (gd : Guard) (d a b : R64)
  | muli (gd : Guard) (d a : R64) (v : Imm)
  | mulh (gd : Guard) (sg : Sg) (d a b : R64)
  | divs (gd : Guard) (d a b : R64)
  | divn (gd : Guard) (d a b : R64)
  | rem (gd : Guard) (sg : Sg) (d a b : R64)
  | and (gd : Guard) (d a b : R64)
  | andi (gd : Guard) (d a : R64) (v : Imm)
  | or (gd : Guard) (d a b : R64)
  | ori (gd : Guard) (d a : R64) (v : Imm)
  | xor (gd : Guard) (d a b : R64)
  | xori (gd : Guard) (d a : R64) (v : Imm)
  | andn (gd : Guard) (d a b : R64)
  | shl (gd : Guard) (d a b : R64)
  | shli (gd : Guard) (d a : R64) (v : Imm)
  | shr (gd : Guard) (d a b : R64)
  | shri (gd : Guard) (d a : R64) (v : Imm)
  | sra (gd : Guard) (d a b : R64)
  | srai (gd : Guard) (d a : R64) (v : Imm)
  | rot (gd : Guard) (d a b : R64)
  | clz (gd : Guard) (d a : R64)
  | popc (gd : Guard) (d a : R64)
  | min (gd : Guard) (sg : Sg) (d a b : R64)
  | max (gd : Guard) (sg : Sg) (d a b : R64)
  | sel (gd : Guard) (d a b : R64) (c : R16)
  | cmp (gd : Guard) (pair : Bool) (cc : Cc) (d : R16) (a b : R64)
  | ext (gd : Guard) (sg : Sg) (sz : LaneW) (d a : R64)
  | mov (gd : Guard) (d a : R64)
  | movi (gd : Guard) (d : R64) (v : Imm)
  | bfx (gd : Guard) (sg : Sg) (d a b : R64)
  | bfi (gd : Guard) (d a b : R64)
  | pand (gd : Guard) (d a b : R16)
  | por (gd : Guard) (d a b : R16)
  | pxor (gd : Guard) (d a b : R16)
  | pnot (gd : Guard) (d a : R16)
  | movc (gd : Guard) (m : MovC)
  | rdtime (gd : Guard) (d : R64)
  -- domain (08 Table 8.5)
  | dset (gd : Guard) (d a b : R64) (k : BitVec 10)
  | dsetm (gd : Guard) (d a : R64)
  | dlo (gd : Guard) (d a : R64)
  | dhi (gd : Guard) (d a : R64)
  | dcnt (gd : Guard) (d a : R64)
  | neq (gd : Guard) (k : Bool) (d a : R64)
  | nne (gd : Guard) (k : Bool) (d a : R64)
  | neqo (gd : Guard) (k : Bool) (d a : R64) (ofs : BitVec 10)
  | nneo (gd : Guard) (k : Bool) (d a : R64) (ofs : BitVec 10)
  | nlt (gd : Guard) (k : Bool) (d a : R64)
  | nle (gd : Guard) (k : Bool) (d a : R64)
  | nadd (gd : Guard) (k : Bool) (d a b : R64)
  | nsub (gd : Guard) (k : Bool) (d a b : R64)
  | nmul (gd : Guard) (k : Bool) (d a b : R64)
  | nmin (gd : Guard) (k : Bool) (d a b : R64)
  | nmax (gd : Guard) (k : Bool) (d a b : R64)
  | nabs (gd : Guard) (k : Bool) (d a : R64)
  | nin (gd : Guard) (k : Bool) (d a : R64)
  | ndiff (gd : Guard) (k : Bool) (d : R64) (n : BitVec 10)
  | nprop (gd : Guard)
  | nclr (gd : Guard)
  | nckpt (gd : Guard)
  | nrest (gd : Guard)
  | npop (gd : Guard)
  -- address and loop (08 Table 8.6)
  | aset (gd : Guard) (d : R16) (v : Imm)
  | aadd (gd : Guard) (d a : R16) (b : R64)
  | aupd (gd : Guard) (d : R16)
  | amov (gd : Guard) (d : R16) (a : R64)
  | aget (gd : Guard) (d : R64) (a : R16)
  | akset (gd : Guard) (d : R16) (j : Lvl) (v : Imm)
  | akmov (gd : Guard) (d : R16) (j : Lvl) (b : R64)
  | akget (gd : Guard) (d : R64) (a : R16) (j : Lvl)
  -- memory, atomic and fence (08 Table 8.7)
  | ld (gd : Guard) (sz : MSize) (os : Os) (d : R64) (m : Mem)
  | st (gd : Guard) (sz : MSize) (os : Os) (d : R64) (m : Mem)
  | ldc (gd : Guard) (sz : MSize) (os : Os) (d : R64) (m : Mem)
  | lda (gd : Guard) (sz : MSize) (os : Os) (d : R64) (m : Mem)
  | stl (gd : Guard) (sz : MSize) (os : Os) (d : R64) (m : Mem)
  | ldv (gd : Guard) (os : Os) (d : R64) (m : Mem)
  | stv (gd : Guard) (os : Os) (d : R64) (m : Mem)
  | gath (gd : Guard) (sz : MSize) (os : Os) (d : R64) (a : R16) (x : R64)
  | scat (gd : Guard) (sz : MSize) (os : Os) (d : R64) (a : R16) (x : R64)
  | ldt (gd : Guard) (os : Os) (d : R16) (m : Mem)
  | ldtMx4 (gd : Guard) (os : Os) (d : R16) (m : Mem)
  | stt (gd : Guard) (os : Os) (d : R16) (m : Mem)
  | ldq (gd : Guard) (os : Os) (d : R64) (m : Mem)
  | stq (gd : Guard) (os : Os) (d : R64) (m : Mem)
  | atom (gd : Guard) (op : AtOp) (sg : Sg) (sz : MSize) (os : Os) (d : R64) (a : R16) (c : R64)
  | fence (gd : Guard) (sc : Scope) (d : R64)
  | fenceE (gd : Guard) (sc : Scope) (d : R64)
  | pref (gd : Guard) (os : Os) (m : Mem)
  -- vector (08 Table 8.8)
  | vadd (gd : Guard) (ty : VTy) (rm : Rm) (d a b : R64)
  | vaddI (gd : Guard) (d a : R64) (v : Imm)
  | vsub (gd : Guard) (ty : VTy) (rm : Rm) (d a b : R64)
  | vmul (gd : Guard) (ty : VTy) (rm : Rm) (d a b : R64)
  | vfma (gd : Guard) (ty : VTy) (rm : Rm) (d a b : R64)
  | vfmaI (gd : Guard) (d a : R64) (v : Imm)
  | vfms (gd : Guard) (ty : VTy) (rm : Rm) (d a b : R64)
  | vmin (gd : Guard) (ty : VTy) (d a b : R64)
  | vmax (gd : Guard) (ty : VTy) (d a b : R64)
  | vabs (gd : Guard) (ty : VTy) (d a : R64)
  | vneg (gd : Guard) (ty : VTy) (d a : R64)
  | vrcp (gd : Guard) (ty : VTy) (d a : R64)
  | vrsq (gd : Guard) (ty : VTy) (d a : R64)
  | vsqrt (gd : Guard) (ty : VTy) (d a : R64)
  | vexp2 (gd : Guard) (ty : VTy) (d a : R64)
  | vlog2 (gd : Guard) (ty : VTy) (d a : R64)
  | vsin (gd : Guard) (ty : VTy) (d a : R64)
  | vcos (gd : Guard) (ty : VTy) (d a : R64)
  | vtanh (gd : Guard) (ty : VTy) (d a : R64)
  | vcmp (gd : Guard) (fc : Fc) (ty : VTy) (d a b : R64)
  | vsel (gd : Guard) (d a b c : R64)
  | viadd (gd : Guard) (ty : VTy) (sat : Bool) (d a b : R64)
  | visub (gd : Guard) (ty : VTy) (sat : Bool) (d a b : R64)
  | vimul (gd : Guard) (ty : VTy) (sat : Bool) (d a b : R64)
  | vimad (gd : Guard) (ty : VTy) (sat : Bool) (d a b : R64)
  | vand (gd : Guard) (d a b : R64)
  | vor (gd : Guard) (d a b : R64)
  | vxor (gd : Guard) (d a b : R64)
  | vshl (gd : Guard) (ty : VTy) (d a b : R64)
  | vshr (gd : Guard) (ty : VTy) (d a b : R64)
  | vsra (gd : Guard) (ty : VTy) (d a b : R64)
  | vcvt (gd : Guard) (dt st : VTy) (rm : Rm) (sat : Bool) (d a : R64)
  | vwiden (gd : Guard) (dt st : VTy) (d a : R64)
  | vnarr (gd : Guard) (dt st : VTy) (rm : Rm) (sat : Bool) (d a : R64)
  | vpack (gd : Guard) (dt st : VTy) (rm : Rm) (sat : Bool) (d a b : R64)
  | vunpk (gd : Guard) (dt st : VTy) (rm : Rm) (sat : Bool) (d a : R64)
  | vredadd (gd : Guard) (ty : VTy) (d a : R64)
  | vredmax (gd : Guard) (ty : VTy) (d a : R64)
  | vargmax (gd : Guard) (ty : VTy) (d a : R64)
  | vscan (gd : Guard) (op : ScanOp) (ty : VTy) (d a : R64)
  | vperm (gd : Guard) (lw : LaneW) (d a b : R64)
  | vbcast (gd : Guard) (lw : LaneW) (d a : R64)
  | vbcastI (gd : Guard) (d : R64) (v : Imm)
  | vshuf (gd : Guard) (lw : LaneW) (d a b : R64)
  | vmovg (gd : Guard) (lw : LaneW) (d a b : R64)
  | vmask (gd : Guard) (ty : VTy) (d a b : R64)
  -- matrix and tile (08 Table 8.9)
  | mma (gd : Guard) (sp : Option R8) (q : Q512) (a b : R16)
  | mmaTa (gd : Guard) (sp : Option R8) (q : Q512) (a b : R16)
  | mmaTb (gd : Guard) (sp : Option R8) (q : Q512) (a b : R16)
  | mzero (gd : Guard) (sp : Option R8) (q : Q512)
  | mscale (gd : Guard) (sp : Option R8) (q : Q512) (n : Cb)
  | mcvt (gd : Guard) (sp : Option R8) (dt : Dt) (rm : Rm) (sat : Bool) (d : R16) (q : Q512)
  | mcvtMx4 (gd : Guard) (sp : Option R8) (rm : Rm) (sat : Bool) (d : R16) (q : Q512)
  | mtrn (gd : Guard) (sp : Option R8) (d a : R16)
  | mcpy (gd : Guard) (sp : Option R8) (d a : R16)
  | mbias (gd : Guard) (sp : Option R8) (q : Q512) (a : R16)
  | mred (gd : Guard) (sp : Option R8) (d : R16) (q : Q512)
  | qadd (gd : Guard) (sp : Option R8) (q s : Q512)
  | qcpy (gd : Guard) (sp : Option R8) (q s : Q512)
  | mfill (gd : Guard) (sp : Option R8) (d : R16) (n : Cb)
  -- engine, configuration, Bracken and system (08 Table 8.10)
  | opsel (gd : Guard) (a : R64)
  | opselI (gd : Guard) (n : R8)
  | setfmt (gd : Guard) (a : R64)
  | setfmtI (gd : Guard) (v : Imm)
  | setsct (gd : Guard) (a : R16)
  | cpy (gd : Guard) (d : R64) (a : R16)
  | cpyst (gd : Guard) (d : R64) (a : R16)
  | subscr (gd : Guard) (d : R64) (a : R16)
  | unsub (gd : Guard) (r : Fin 4)
  | ringack (gd : Guard) (r : Fin 4)
  | bara (gd : Guard) (b : Fin 4)
  | barw (gd : Guard) (b : Fin 4)
  | barq (gd : Guard) (d : R64) (b : Fin 4)
  | icopy (gd : Guard) (d : R64) (a : R16)
  | icinv (gd : Guard) (d : R64) (a : R16)
  | ifence (gd : Guard)
  | rwflush (gd : Guard)
  | ddvar (gd : Guard) (d a : R64)
  | ddapply (gd : Guard) (bo : BoolOp) (a : R16) (b c : R64)
  | ddite (gd : Guard) (a : R16) (d b c : R64)
  | ddrestr (gd : Guard) (a : R16) (b c : R64)
  | ddexist (gd : Guard) (a : R16) (b c : R64)
  | dduniv (gd : Guard) (a : R16) (b c : R64)
  | ddnot (gd : Guard) (a : R16) (b : R64)
  | ddcount (gd : Guard) (a : R16) (b c : R64)
  | ddmask (gd : Guard) (a : R16) (b c : R64)
  | ddref (gd : Guard) (b : R64)
  | ddunref (gd : Guard) (b : R64)
  | ddgc (gd : Guard) (a : R16)
  | ddord (gd : Guard) (a : R16)
  | ddswap (gd : Guard) (b : R64)
  | ddstat (gd : Guard) (a : R16)
  | tret (gd : Guard)
  | syscall (gd : Guard) (n : BitVec 8)
  | tlbinv (gd : Guard) (sc : Scope) (a : R64)
  | tlbinvAll (gd : Guard) (sc : Scope)
  | evsig (gd : Guard) (v : R64)
  | movcSysRead (gd : Guard) (d : R64) (cr : BitVec 10)
  | movcSysWrite (gd : Guard) (cr : BitVec 10) (a : R64)
  | frmst (gd : Guard) (a : R16)
  | frmld (gd : Guard) (a : R16)
  | ckill (gd : Guard) (a : R64)
  -- rows 220 to 292: steps of the other agents
  | tlbinvAckComplete (c : CoreId)
  | copyJobComplete (j : Nat)
  | codeLoadComplete (j : Nat)
  | icinvComplete (j : Nat)
  | loaderTileWrite (c : CoreId) (r : Fin 4)
  | storerSlotPull (c : CoreId) (r : Fin 4)
  | storerTileWrite (c : CoreId) (r : Fin 4)
  | subscriptionEnd (c : CoreId) (r : Fin 4)
  | brackenAccept (c : CoreId)
  | ddOperationComplete (c : CoreId) (e : R16)
  | ddAbandon (c : CoreId) (e : R16)
  | pageWalk (k : Nat)
  | trapRecordDeferredWrite
  | heartbeatIntervalEnd (p : Fin 24)
  | probeSend (u : BitVec 20)
  | probeReceive
  | settleEnd (c : CoreId)
  | capWrite (c : CoreId) (cap : R8)
  | droopAlarm (c : CoreId)
  | stretchEnd (c : CoreId)
  | splitWindowEnd (c : CoreId)
  | splitWindowRequest (c : CoreId)
  | heathGate (h : Fin 24)
  | thermalSample (t : List Int)
  | thermalCapStep
  | quantumBoundary
  | contextSaveComplete (g : Nat)
  | drainFallback (g : Nat)
  | groupResume (g : Nat)
  | doorbell (q : Fin 4096) (tail : BitVec 16)
  | frozenW1C (q : Fin 4096)
  | recordDispatch (q : Fin 4096)
  | launch (r : Nat)
  | launchBind (g : Nat)
  | groupRelease (g : Nat)
  | launchComplete (g : Nat)
  | copy (r : Nat)
  | signal (r : Nat)
  | waitRecord (r : Nat)
  | waitRecordSatisfied (r : Nat)
  | jcbInit (r : Nat)
  | jcbRaise (r : Nat)
  | layout (r : Nat)
  | quiesceComplete
  | layoutTick
  | channelRetire (w : Retire)
  | moduleReset
  | hubReset
  | partitionReset (p : Fin 24)
  | vfReset (f : Fin 96)
  | vfResetComplete (f : Fin 96)
  | faultreply (f : Fin 96) (page : Addr) (fail : Bool)
  | tqheadWrite (v : BitVec 32)
  | vectorMaskClear (f : Fin 97) (v : R64)
  | attest
  | attestReportComplete
  | hostWindowWrite (f : Fin 97) (ofs : Nat) (v : Word)
  | flitReceive (port : Fin 9) (flit : List Byte)
  | flitAck (port : Fin 9) (sq : BitVec 12)
  | flitNak (port : Fin 9) (sq : BitVec 12)
  | mrd (port : Fin 9) (tag : BitVec 10) (f : BitVec 7) (pslot : BitVec 5) (a : Addr) (n : Nat)
  | mwr (port : Fin 9) (f : BitVec 7) (pslot : BitVec 5) (a : Addr) (data : List Byte)
  | linkAtom (port : Fin 9) (tag : BitVec 10) (f : BitVec 7) (pslot : BitVec 5) (op : AtOp) (sg : Sg) (dword : Bool)
      (a : Addr) (x cmp : Word)
  | cpl (port : Fin 9) (tag : CplTag) (status : BitVec 3) (data : List Byte)
  | hostRetryTimer
  | peerTransaction (port : R8) (f : BitVec 7) (pslot : BitVec 5) (tx : PeerTx)
  | recoveryMsg
  | hostPortDown
  | hostPortUp
  | peerPortDown (port : R8)
  | cxlLinkDown (port : Fin 2)
  | peerPortUp (port : R8)
  | hubCopyComplete (r : Nat)
  deriving DecidableEq, Repr

end Sys2Proof
end

