-- ==== Sys2Proof/Machine/Forms.lean ====
section
/-!
DEFINITION. Which operand and modifier combinations each form accepts (09 R110, R131; 10 Tables 10.3 and 10.4;
13 Table 13.3 and R198 to R207; 15 R213; 24 Table 24.2 and R369), as one test over `Instr`, and the widths and lane
counts of the element types (13 Table 13.1).
-/
namespace Sys2Proof

/-- Width in bits of an element type (13 Table 13.1). -/
def VTy.width : VTy → Nat
  | .f32 | .i32 | .u32 => 32
  | .f16 | .bf16 | .i16 | .u16 => 16
  | .e4m3 | .e5m2 | .i8 | .u8 => 8
  | .e3m2 | .e2m3 => 6
  | .e2m1 | .i4 => 4

/-- Elements of a type in one register (13 Table 13.1). -/
def VTy.elems : VTy → Nat
  | .f32 | .i32 | .u32 => 128
  | .f16 | .bf16 | .i16 | .u16 => 256
  | .e4m3 | .e5m2 | .i8 | .u8 | .e3m2 | .e2m3 => 512
  | .e2m1 | .i4 => 1024

/-- Floating-point element types. -/
def VTy.isFp : VTy → Bool
  | .f32 | .f16 | .bf16 | .e4m3 | .e5m2 | .e2m1 | .e3m2 | .e2m3 => true
  | _ => false

/-- Signed integer element types. -/
def VTy.isSigned : VTy → Bool
  | .i8 | .i16 | .i32 | .i4 => true
  | _ => false

/-- Group F of 08 Table 8.2. -/
def VTy.inF : VTy → Bool
  | .f32 | .f16 | .bf16 => true
  | _ => false

/-- Group I of 08 Table 8.2. -/
def VTy.inI : VTy → Bool
  | .i8 | .i16 | .i32 | .u8 | .u16 | .u32 => true
  | _ => false

/-- Types narrower than a byte. -/
def VTy.sub : VTy → Bool
  | .e2m1 | .e3m2 | .e2m3 | .i4 => true
  | _ => false

/-- Width in bits of a lane width code. -/
def LaneW.width : LaneW → Nat
  | .b => 8 | .h => 16 | .w => 32 | .d => 64

/-- Bytes of a SIZE code (10 Table 10.3). -/
def MSize.bytes : MSize → Nat
  | .b | .sb => 1 | .h | .sh => 2 | .w | .sw => 4 | .d => 8

/-- `.w` or `.d`. -/
def MSize.wd : MSize → Bool
  | .w | .d => true
  | _ => false

/-- The unsigned sizes `.b` `.h` `.w` `.d`. -/
def MSize.plain : MSize → Bool
  | .b | .h | .w | .d => true
  | _ => false

namespace Machine

/-- The conversion pairs of 12 Table 12.4, a copy included. -/
def convPair (st dt : VTy) : Bool :=
  st == dt
  || (st.isFp && dt == .f32)
  || (st.isFp && st.width ≤ 8 && (dt == .f16 || dt == .bf16))
  || (st.sub && (dt == .e4m3 || dt == .e5m2))
  || (st.inF && dt.isFp && dt != .f32)
  || (st == .e4m3 && dt == .e5m2) || (st == .e5m2 && dt == .e4m3)
  || (st.isFp && !dt.isFp)
  || (st.inI && dt.isFp && !dt.sub)
  || (!st.isFp && !dt.isFp)

/-- VCVT (R198): one width of 8 bits or more. -/
def vcvtOk (dt st : VTy) : Bool := convPair st dt && st.width == dt.width && 8 ≤ st.width

/-- The ratio of two widths when it is 2 or 4, else 0 (R199). -/
def widthRatio (wide narrow : VTy) : Nat :=
  if wide.width == 2 * narrow.width then 2 else if wide.width == 4 * narrow.width then 4 else 0

/-- VWIDEN (R199): FP to a wider FP type, integer to a wider integer of the same signedness. -/
def vwidenOk (dt st : VTy) : Bool :=
  widthRatio dt st != 0 && 8 ≤ st.width &&
    ((st.isFp && dt.isFp) || (st.inI && dt.inI && st.isSigned == dt.isSigned))

/-- VNARR (R199). -/
def vnarrOk (dt st : VTy) : Bool := widthRatio st dt != 0 && 8 ≤ dt.width && convPair st dt

/-- Destination registers of VUNPK (R200): elements times width over 4096. -/
def vunpkCnt (dt st : VTy) : Nat := st.elems * dt.width / 4096

/-- VUNPK (R200), its list of pairs. -/
def vunpkOk (dt st : VTy) : Bool :=
  match st with
  | .e2m1 => dt == .e4m3 || dt == .e5m2 || dt == .f16 || dt == .bf16
  | .i4 => dt == .e4m3 || dt == .e5m2 || dt == .i8 || dt == .i16
  | .e3m2 | .e2m3 => dt == .e4m3 || dt == .e5m2 || dt == .f16 || dt == .bf16 || dt == .f32
  | _ => false

/-- VPACK (R201), its list of pairs. -/
def vpackOk (dt st : VTy) : Bool :=
  match dt with
  | .e2m1 | .e3m2 | .e2m3 => st.inF
  | .i4 => (st.isFp && 8 ≤ st.width) || st.inI
  | _ => false

/-- Control-register numbers of 08 Table 8.11, which MOVC accepts. -/
def crListed (n : BitVec 10) : Bool :=
  let k := n.toNat
  k ≤ 4 || (0x10 ≤ k && k ≤ 0x13) || (0x20 ≤ k && k ≤ 0x24) || (0x30 ≤ k && k ≤ 0x3F) || (0x100 ≤ k && k ≤ 0x10F)

/-- The privileged numbers of 24 Table 24.2. -/
def crPrivileged (n : BitVec 10) : Bool :=
  let k := n.toNat
  (0x200 ≤ k && k ≤ 0x205) || (0x208 ≤ k && k ≤ 0x211)

/-- Does the form accept these operands and modifiers? -/
def formOk : Instr → Bool
  | .lset _ l st _ => st == 0 || l == 0
  | .wait _ _ b c dword => c != .dd || (dword && b == 0)
  | .cmp _ pair _ d _ _ => !pair || d != 15
  | .ext _ _ sz _ _ => sz != .d
  | .movc _ (.read _ cr) => crListed cr
  | .movc _ (.write cr _) => crListed cr
  | .movcSysRead _ _ cr => crListed cr || crPrivileged cr
  | .movcSysWrite _ cr _ => crListed cr || crPrivileged cr
  | .ndiff _ _ d n => 2 ≤ n.toNat && n.toNat ≤ 8 && d.val + n.toNat ≤ 64
  | .st _ sz _ _ _ => sz.plain
  | .lda _ sz _ _ _ => sz.wd
  | .stl _ sz _ _ _ => sz.wd
  | .gath _ sz _ _ _ _ => sz.wd
  | .scat _ sz _ _ _ _ => sz.wd
  | .atom _ op sg sz _ _ _ c =>
      sz.wd && (op == .cas || c == 0) && (sg == .s || op == .min || op == .max || sz == .w)
  | .vadd _ ty _ _ _ _ | .vsub _ ty _ _ _ _ | .vmul _ ty _ _ _ _ | .vfma _ ty _ _ _ _ | .vfms _ ty _ _ _ _ => ty.inF
  | .vmin _ ty _ _ _ | .vmax _ ty _ _ _ | .vmask _ ty _ _ _ => ty.inF
  | .vabs _ ty _ _ | .vneg _ ty _ _ | .vrcp _ ty _ _ | .vrsq _ ty _ _ | .vsqrt _ ty _ _ | .vexp2 _ ty _ _ => ty.inF
  | .vlog2 _ ty _ _ | .vsin _ ty _ _ | .vcos _ ty _ _ | .vtanh _ ty _ _ => ty.inF
  | .vcmp _ _ ty _ _ _ => ty.inF
  | .viadd _ ty _ _ _ _ | .visub _ ty _ _ _ _ | .vimul _ ty _ _ _ _ | .vimad _ ty _ _ _ _ => ty.inI
  | .vshl _ ty _ _ _ | .vshr _ ty _ _ _ | .vsra _ ty _ _ _ => ty.inI
  | .vcvt _ dt st _ _ _ _ => vcvtOk dt st
  | .vwiden _ dt st d _ => vwidenOk dt st && d.val % widthRatio dt st == 0
  | .vnarr _ dt st _ _ _ a => vnarrOk dt st && a.val % widthRatio st dt == 0
  | .vpack _ dt st _ _ _ _ _ => vpackOk dt st
  | .vunpk _ dt st _ _ d _ => vunpkOk dt st && d.val % vunpkCnt dt st == 0
  | .vredadd _ ty _ _ | .vredmax _ ty _ _ | .vargmax _ ty _ _ => ty.inF || ty.inI
  | .vscan _ _ ty _ _ => ty.inF || ty.inI
  | .vperm _ lw _ _ _ => lw != .d
  | .vshuf _ lw d _ _ => lw != .d && d.val % 2 == 0
  | .vmovg _ lw _ _ _ => lw == .w || lw == .d
  | .tlbinv _ sc _ => sc == .core || sc == .die || sc == .package
  | .tlbinvAll _ sc => sc == .core || sc == .die || sc == .package
  | _ => true

/-- The literal word a slot names, if any (05 Table 5.7). -/
def immLit : Imm → Option (Fin 3)
  | .lit k => some k
  | _ => none

/-- The immediate of a format I form, if it has one. -/
def immOf : Instr → Option Imm
  | .sleepuI _ v => some v
  | .addi _ _ _ v | .muli _ _ _ v | .andi _ _ _ v | .ori _ _ _ v | .xori _ _ _ v => some v
  | .shli _ _ _ v | .shri _ _ _ v | .srai _ _ _ v => some v
  | .movi _ _ v => some v
  | .aset _ _ v => some v
  | .akset _ _ _ v => some v
  | .vaddI _ _ _ v | .vfmaI _ _ _ v => some v
  | .vbcastI _ _ v => some v
  | .setfmtI _ v => some v
  | _ => none

end Machine
end Sys2Proof
end

