-- ==== Sys2Proof/WellFormed.lean ====
section
/-!
DEFINITION. Well-formed instructions: the operand and modifier combinations the spec's forms accept, and the bound on
literal words that the header's LITC sets (05 Table 5.7). The tests themselves stand in Machine/Forms.lean.
-/
namespace Sys2Proof

/-- The instruction's operands and modifiers are ones its form accepts. -/
def WellFormed (i : Instr) : Bool := Machine.formOk i

/-- The instruction names no literal word beyond the bundle's LITC (05 Table 5.7). -/
def WellFormedIn (litc : Nat) (i : Instr) : Bool :=
  WellFormed i && (match (Machine.immOf i).bind Machine.immLit with | some k => k.val < litc | none => true)

end Sys2Proof
end

