-- ==== Sys2Proof/Decode.lean ====
section
/-!
DEFINITION. Decoding (05, 08): the slot words of the eight slots, the bundle around them, and the encoder written from
the same tables. Decoding is total and rejects by name (05 R76); the order of the faults of a bundle is R76's.
-/
namespace Sys2Proof

/-- Why a bundle is an illegal encoding (05 R76, Table 5.10), in the order of R76. -/
inductive Illegal where
  | reservedHeader | emptyPresence | overrun
  | unassigned | reservedBits | badRegister | badImmediate | badCode
  | duplicate | tretTransfer
  deriving DecidableEq, Repr

/-- The decoder's results. -/
abbrev Dec := Except Illegal

/-- Reject with `e` unless `p`. -/
def must (p : Bool) (e : Illegal) : Dec Unit := if p then .ok () else .error e

/-- The value of an option, or a rejection. -/
def getOr {α : Type} (o : Option α) (e : Illegal) : Dec α :=
  match o with
  | some x => .ok x
  | none => .error e

/-- The code of a `Scope` (10 Table 10.8). -/
def Scope.code : Scope → Nat
  | .ctx => 0 | .core => 1 | .heath => 2 | .die => 3 | .package => 4 | .system => 5
/-- The `Scope` of a code (10 Table 10.8). -/
def Scope.ofCode : Nat → Option Scope
  | 0 => some .ctx | 1 => some .core | 2 => some .heath | 3 => some .die | 4 => some .package | 5 => some .system | _ => none
/-- The code of a `Sg` (09 Table 9.3). -/
def Sg.code : Sg → Nat
  | .s => 0 | .u => 1
/-- The `Sg` of a code (09 Table 9.3). -/
def Sg.ofCode : Nat → Option Sg
  | 0 => some .s | 1 => some .u | _ => none
/-- The code of a `Rm` (12 Table 12.3). -/
def Rm.code : Rm → Nat
  | .rn => 0 | .rz => 1 | .ru => 2 | .rd => 3
/-- The `Rm` of a code (12 Table 12.3). -/
def Rm.ofCode : Nat → Option Rm
  | 0 => some .rn | 1 => some .rz | 2 => some .ru | 3 => some .rd | _ => none
/-- The code of a `Cc` (09 Table 9.5). -/
def Cc.code : Cc → Nat
  | .eq => 0 | .ne => 1 | .lt => 2 | .le => 3 | .gt => 4 | .ge => 5 | .ltu => 6 | .leu => 7 | .gtu => 8 | .geu => 9
/-- The `Cc` of a code (09 Table 9.5). -/
def Cc.ofCode : Nat → Option Cc
  | 0 => some .eq | 1 => some .ne | 2 => some .lt | 3 => some .le | 4 => some .gt | 5 => some .ge | 6 => some .ltu | 7 => some .leu | 8 => some .gtu | 9 => some .geu | _ => none
/-- The code of a `Fc` (13 R186). -/
def Fc.code : Fc → Nat
  | .eq => 0 | .ne => 1 | .lt => 2 | .le => 3 | .gt => 4 | .ge => 5 | .un => 6
/-- The `Fc` of a code (13 R186). -/
def Fc.ofCode : Nat → Option Fc
  | 0 => some .eq | 1 => some .ne | 2 => some .lt | 3 => some .le | 4 => some .gt | 5 => some .ge | 6 => some .un | _ => none
/-- The code of a `Wc` (09 Table 9.12). -/
def Wc.code : Wc → Nat
  | .eq => 0 | .ne => 1 | .geu => 2 | .ltu => 3 | .any => 4 | .dd => 5
/-- The `Wc` of a code (09 Table 9.12). -/
def Wc.ofCode : Nat → Option Wc
  | 0 => some .eq | 1 => some .ne | 2 => some .geu | 3 => some .ltu | 4 => some .any | 5 => some .dd | _ => none
/-- The code of a `MSize` (10 Table 10.3). -/
def MSize.code : MSize → Nat
  | .b => 0 | .h => 1 | .w => 2 | .d => 3 | .sb => 4 | .sh => 5 | .sw => 6
/-- The `MSize` of a code (10 Table 10.3). -/
def MSize.ofCode : Nat → Option MSize
  | 0 => some .b | 1 => some .h | 2 => some .w | 3 => some .d | 4 => some .sb | 5 => some .sh | 6 => some .sw | _ => none
/-- The code of a `LaneW` (13 R185). -/
def LaneW.code : LaneW → Nat
  | .b => 0 | .h => 1 | .w => 2 | .d => 3
/-- The `LaneW` of a code (13 R185). -/
def LaneW.ofCode : Nat → Option LaneW
  | 0 => some .b | 1 => some .h | 2 => some .w | 3 => some .d | _ => none
/-- The code of a `VTy` (13 Table 13.1). -/
def VTy.code : VTy → Nat
  | .f32 => 0 | .f16 => 1 | .bf16 => 2 | .e4m3 => 3 | .e5m2 => 4 | .e2m1 => 5 | .e3m2 => 6 | .e2m3 => 7 | .i8 => 8 | .i16 => 9 | .i32 => 10 | .i4 => 11 | .u8 => 12 | .u16 => 13 | .u32 => 14
/-- The `VTy` of a code (13 Table 13.1). -/
def VTy.ofCode : Nat → Option VTy
  | 0 => some .f32 | 1 => some .f16 | 2 => some .bf16 | 3 => some .e4m3 | 4 => some .e5m2 | 5 => some .e2m1 | 6 => some .e3m2 | 7 => some .e2m3 | 8 => some .i8 | 9 => some .i16 | 10 => some .i32 | 11 => some .i4 | 12 => some .u8 | 13 => some .u16 | 14 => some .u32 | _ => none
/-- The code of a `ScanOp` (13 R186). -/
def ScanOp.code : ScanOp → Nat
  | .add => 0 | .max => 1 | .min => 2
/-- The `ScanOp` of a code (13 R186). -/
def ScanOp.ofCode : Nat → Option ScanOp
  | 0 => some .add | 1 => some .max | 2 => some .min | _ => none
/-- The code of a `AtOp` (10 R146). -/
def AtOp.code : AtOp → Nat
  | .add => 0 | .min => 1 | .max => 2 | .and => 3 | .or => 4 | .xor => 5 | .swap => 6 | .cas => 7
/-- The `AtOp` of a code (10 R146). -/
def AtOp.ofCode : Nat → Option AtOp
  | 0 => some .add | 1 => some .min | 2 => some .max | 3 => some .and | 4 => some .or | 5 => some .xor | 6 => some .swap | 7 => some .cas | _ => none
/-- The code of a `BoolOp` (21 Table 21.4). -/
def BoolOp.code : BoolOp → Nat
  | .and => 0 | .or => 1 | .xor => 2 | .andn => 3 | .nand => 4 | .nor => 5 | .xnor => 6 | .imp => 7
/-- The `BoolOp` of a code (21 Table 21.4). -/
def BoolOp.ofCode : Nat → Option BoolOp
  | 0 => some .and | 1 => some .or | 2 => some .xor | 3 => some .andn | 4 => some .nand | 5 => some .nor | 6 => some .xnor | 7 => some .imp | _ => none
/-- The DT code of a `Dt` (17 R248, Table 17.2). -/
def Dt.code : Dt → Nat
  | .e4m3 => 0 | .e5m2 => 1 | .bf16 => 3 | .f16 => 4 | .f32 => 5 | .i8 => 6
/-- The `Dt` of a DT code (17 R248); codes 2 and 7 are illegal. -/
def Dt.ofCode : Nat → Option Dt
  | 0 => some .e4m3 | 1 => some .e5m2 | 3 => some .bf16 | 4 => some .f16 | 5 => some .f32 | 6 => some .i8 | _ => none

/-! ### Fields (05 Tables 5.3 to 5.9d) -/

/-- Bits [lo + n − 1 : lo] of a slot word. -/
def fld (w lo n : Nat) : Nat := w / 2 ^ lo % 2 ^ n

theorem fld_lt (w lo n : Nat) : fld w lo n < 2 ^ n := Nat.mod_lt _ (Nat.two_pow_pos n)

/-- OPC, bits [47:40]. -/
def fOpc (w : Nat) : Nat := fld w 40 8
/-- GN and GP, bits [39:35]. -/
def fGd (w : Nat) : Guard := ⟨fld w 39 1 == 1, ⟨fld w 35 4, fld_lt w 35 4⟩⟩
/-- Field D as a 64-register index. -/
def fD (w : Nat) : R64 := ⟨fld w 29 6, fld_lt w 29 6⟩
/-- Field A as a 64-register index. -/
def fA (w : Nat) : R64 := ⟨fld w 23 6, fld_lt w 23 6⟩
/-- Field B as a 64-register index. -/
def fB (w : Nat) : R64 := ⟨fld w 17 6, fld_lt w 17 6⟩
/-- Field C as a 64-register index. -/
def fC (w : Nat) : R64 := ⟨fld w 11 6, fld_lt w 11 6⟩
/-- MOD of format R. -/
def fMod (w : Nat) : Nat := fld w 0 11

/-- A 6-bit field that names a 16-register file: its high bits are reserved (05 R60). -/
def reg16 (r : R64) : Dec R16 := if h : r.val < 16 then .ok ⟨r.val, h⟩ else .error .badRegister
/-- A field that holds a level or stride index 0 to 5. -/
def lvl6 (n : Nat) : Dec Lvl := if h : n < 6 then .ok ⟨n, h⟩ else .error .badCode
/-- A 3-bit register or stage index. -/
def reg8 (w lo : Nat) : R8 := ⟨fld w lo 3, fld_lt w lo 3⟩
/-- A 10-bit constant-bank index in MOD of format X. -/
def fCb (w : Nat) : Cb := ⟨fld w 0 10, fld_lt w 0 10⟩
/-- Format X: block Q. -/
def fQ (w : Nat) : Q512 := ⟨fld w 26 9, fld_lt w 26 9⟩
/-- Format X: tile MA. -/
def fMa (w : Nat) : R16 := ⟨fld w 22 4, fld_lt w 22 4⟩
/-- Format X: tile MB. -/
def fMb (w : Nat) : R16 := ⟨fld w 18 4, fld_lt w 18 4⟩
/-- Format X: tile MD. -/
def fMd (w : Nat) : R16 := ⟨fld w 14 4, fld_lt w 14 4⟩

/-- The immediate of format I under the header's LITC (05 Table 5.7). -/
def fImm (litc w : Nat) : Dec Imm :=
  let v := fld w 0 20
  match fld w 20 3 with
  | 0 => .ok (.int20 (BitVec.ofNat 20 v))
  | 1 => .ok (.fp20 (BitVec.ofNat 20 v))
  | 2 => if v = 0 ∧ 1 ≤ litc then .ok (.lit 0) else .error .badImmediate
  | 3 => if v = 0 ∧ 2 ≤ litc then .ok (.lit 1) else .error .badImmediate
  | 4 => if v = 0 ∧ 3 ≤ litc then .ok (.lit 2) else .error .badImmediate
  | 5 => if h : v < 1024 then .ok (.cb ⟨v, h⟩) else .error .badImmediate
  | 6 => .ok (.high (BitVec.ofNat 20 v))
  | _ => .error .badImmediate

/-! ### Shapes of format R and I -/

/-- NOP: bits [34:0] are 0 (08 R94). -/
def sNop (w : Nat) : Dec Instr := do must (fld w 0 35 == 0) .reservedBits; return .nop (fGd w)
/-- No field used. -/
def sNone (w : Nat) (k : Guard → Instr) : Dec Instr := do must (fld w 0 35 == 0) .reservedBits; return k (fGd w)
/-- D, A and B used, C and MOD 0. -/
def sDAB (w : Nat) (k : Guard → R64 → R64 → R64 → Instr) : Dec Instr := do
  must (fld w 0 17 == 0) .reservedBits; return k (fGd w) (fD w) (fA w) (fB w)
/-- D, A and B used, MOD[0] sg. -/
def sDABsg (w : Nat) (k : Guard → Sg → R64 → R64 → R64 → Instr) : Dec Instr := do
  must (fld w 1 16 == 0) .reservedBits
  let sg ← getOr (Sg.ofCode (fld w 0 1)) .badCode
  return k (fGd w) sg (fD w) (fA w) (fB w)
/-- D and A used. -/
def sDA (w : Nat) (k : Guard → R64 → R64 → Instr) : Dec Instr := do
  must (fld w 0 23 == 0) .reservedBits; return k (fGd w) (fD w) (fA w)
/-- A used. -/
def sA (w : Nat) (k : Guard → R64 → Instr) : Dec Instr := do
  must (fld w 0 23 == 0 && fld w 29 6 == 0) .reservedBits; return k (fGd w) (fA w)
/-- D used. -/
def sD (w : Nat) (k : Guard → R64 → Instr) : Dec Instr := do
  must (fld w 0 29 == 0) .reservedBits; return k (fGd w) (fD w)
/-- B used. -/
def sB (w : Nat) (k : Guard → R64 → Instr) : Dec Instr := do
  must (fld w 0 17 == 0 && fld w 23 12 == 0) .reservedBits; return k (fGd w) (fB w)
/-- Three predicates. -/
def sPPP (w : Nat) (k : Guard → R16 → R16 → R16 → Instr) : Dec Instr := do
  must (fld w 0 17 == 0) .reservedBits
  let d ← reg16 (fD w); let a ← reg16 (fA w); let b ← reg16 (fB w)
  return k (fGd w) d a b
/-- Format I with D and A. -/
def sDAI (litc w : Nat) (k : Guard → R64 → R64 → Imm → Instr) : Dec Instr := do
  let v ← fImm litc w; return k (fGd w) (fD w) (fA w) v
/-- Format I with D. -/
def sDI (litc w : Nat) (k : Guard → R64 → Imm → Instr) : Dec Instr := do
  must (fld w 23 6 == 0) .reservedBits; let v ← fImm litc w; return k (fGd w) (fD w) v
/-- Format I with neither D nor A. -/
def sI (litc w : Nat) (k : Guard → Imm → Instr) : Dec Instr := do
  must (fld w 23 12 == 0) .reservedBits; let v ← fImm litc w; return k (fGd w) v
/-- Format B with BT only. -/
def sBT (w : Nat) (k : Guard → R8 → Instr) : Dec Instr := do
  must (fld w 0 32 == 0) .reservedBits; return k (fGd w) (reg8 w 32)

/-- PREP (05 R66, 09 R121). -/
def sPrep (w : Nat) : Dec Instr := do
  must (fld w 29 2 == 0) .reservedBits
  if fld w 31 1 == 0 then
    must (fld w 23 6 == 0) .reservedBits
    return .prep (fGd w) (reg8 w 32) (.rel (BitVec.ofNat 23 (fld w 0 23)))
  else
    must (fld w 0 23 == 0) .reservedBits
    return .prep (fGd w) (reg8 w 32) (.ind (fA w))

/-! ### S0 (08 Table 8.3) -/

/-- Slot S0. -/
def decodeS0 (litc w : Nat) : Dec Instr :=
  match fOpc w with
  | 0x00 => sNop w
  | 0x01 => sPrep w
  | 0x02 => sBT w .bra
  | 0x03 => sBT w .call
  | 0x04 => sNone w .ret
  | 0x05 => do
      must (fld w 6 17 == 0 && fld w 29 6 == 0) .reservedBits
      let l ← lvl6 (fld w 0 3)
      return .lset (fGd w) l (reg8 w 3) (fA w)
  | 0x06 => do
      must (fld w 23 9 == 0) .reservedBits
      let k ← lvl6 (fld w 32 3)
      return .lrun (fGd w) k (BitVec.ofNat 23 (fld w 0 23))
  | 0x07 => do
      must (fld w 3 32 == 0) .reservedBits
      let l ← lvl6 (fld w 0 3); return .lbrk (fGd w) l
  | 0x08 => do
      must (fld w 3 26 == 0) .reservedBits
      let l ← lvl6 (fld w 0 3); return .lidx (fGd w) (fD w) l
  | 0x09 => sNone w .lclr
  | 0x0A => sA w .spset
  | 0x0B => do
      must (fld w 4 13 == 0 && fld w 29 6 == 0) .reservedBits
      let a ← reg16 (fA w)
      let c ← getOr (Wc.ofCode (fld w 0 3)) .badCode
      return .wait (fGd w) a (fB w) c (fld w 3 1 == 1)
  | 0x0C => sA w .sleepu
  | 0x0D => sI litc w .sleepuI
  | 0x0E => sNone w .yield
  | 0x0F => sNone w .halt
  | 0x10 => do
      must (fld w 23 12 == 0) .reservedBits
      must (fld w 8 15 == 0) .badImmediate
      return .trap (fGd w) (BitVec.ofNat 8 (fld w 0 8))
  | 0x11 => sNone w .hbeat
  | _ => .error .unassigned

/-! ### S1 and S2 (08 Tables 8.4 and 8.5) -/

/-- The scalar forms, the same in S1 and S2 (08 R95). -/
def decodeScalar (litc w : Nat) : Dec Instr :=
  match fOpc w with
  | 0x00 => sNop w
  | 0x01 => sDAB w .add
  | 0x02 => sDAI litc w .addi
  | 0x03 => sDAB w .sub
  | 0x04 => sDAB w .mul
  | 0x05 => sDAI litc w .muli
  | 0x06 => sDABsg w .mulh
  | 0x07 => sDAB w .divs
  | 0x08 => sDAB w .divn
  | 0x09 => sDABsg w .rem
  | 0x0A => sDAB w .and
  | 0x0B => sDAI litc w .andi
  | 0x0C => sDAB w .or
  | 0x0D => sDAI litc w .ori
  | 0x0E => sDAB w .xor
  | 0x0F => sDAI litc w .xori
  | 0x10 => sDAB w .andn
  | 0x11 => sDAB w .shl
  | 0x12 => sDAI litc w .shli
  | 0x13 => sDAB w .shr
  | 0x14 => sDAI litc w .shri
  | 0x15 => sDAB w .sra
  | 0x16 => sDAI litc w .srai
  | 0x17 => sDAB w .rot
  | 0x18 => sDA w .clz
  | 0x19 => sDA w .popc
  | 0x1A => sDABsg w .min
  | 0x1B => sDABsg w .max
  | 0x1C => do
      must (fld w 0 11 == 0) .reservedBits
      let c ← reg16 (fC w)
      return .sel (fGd w) (fD w) (fA w) (fB w) c
  | 0x1D => do
      must (fld w 5 12 == 0) .reservedBits
      let d ← reg16 (fD w)
      let cc ← getOr (Cc.ofCode (fld w 0 4)) .badCode
      return .cmp (fGd w) (fld w 4 1 == 1) cc d (fA w) (fB w)
  | 0x1E => do
      must (fld w 3 20 == 0) .reservedBits
      let sg ← getOr (Sg.ofCode (fld w 2 1)) .badCode
      let sz ← getOr (LaneW.ofCode (fld w 0 2)) .badCode
      return .ext (fGd w) sg sz (fD w) (fA w)
  | 0x1F => sDA w .mov
  | 0x20 => sDI litc w .movi
  | 0x21 => sDABsg w .bfx
  | 0x22 => sDAB w .bfi
  | 0x23 => sPPP w .pand
  | 0x24 => sPPP w .por
  | 0x25 => sPPP w .pxor
  | 0x26 => do
      must (fld w 0 23 == 0) .reservedBits
      let d ← reg16 (fD w); let a ← reg16 (fA w)
      return .pnot (fGd w) d a
  | 0x27 => do
      must (fld w 11 12 == 0) .reservedBits
      if fld w 10 1 == 0 then
        must (fld w 23 6 == 0) .reservedBits
        return .movc (fGd w) (.read (fD w) (BitVec.ofNat 10 (fld w 0 10)))
      else
        must (fld w 29 6 == 0) .reservedBits
        return .movc (fGd w) (.write (BitVec.ofNat 10 (fld w 0 10)) (fA w))
  | 0x28 => sD w .rdtime
  | _ => .error .unassigned

/-- Format N with D, A and K (15 Table 15.3). -/
def sNDA (w : Nat) (k : Guard → Bool → R64 → R64 → Instr) : Dec Instr := do
  must (fld w 11 12 == 0 && fld w 0 10 == 0) .reservedBits
  return k (fGd w) (fld w 10 1 == 1) (fD w) (fA w)
/-- Format N with D, A, K and KOFS. -/
def sNDAo (w : Nat) (k : Guard → Bool → R64 → R64 → BitVec 10 → Instr) : Dec Instr := do
  must (fld w 11 12 == 0) .reservedBits
  return k (fGd w) (fld w 10 1 == 1) (fD w) (fA w) (BitVec.ofNat 10 (fld w 0 10))
/-- Format N with D, A, B and K. -/
def sNDAB (w : Nat) (k : Guard → Bool → R64 → R64 → R64 → Instr) : Dec Instr := do
  must (fld w 11 6 == 0 && fld w 0 10 == 0) .reservedBits
  return k (fGd w) (fld w 10 1 == 1) (fD w) (fA w) (fB w)

/-- Slot S2: the scalar forms and the domain forms. -/
def decodeS2 (litc w : Nat) : Dec Instr :=
  match fOpc w with
  | 0x40 => do
      must (fld w 10 7 == 0) .reservedBits
      return .dset (fGd w) (fD w) (fA w) (fB w) (BitVec.ofNat 10 (fld w 0 10))
  | 0x41 => sDA w .dsetm
  | 0x42 => sDA w .dlo
  | 0x43 => sDA w .dhi
  | 0x44 => sDA w .dcnt
  | 0x45 => sNDA w .neq
  | 0x46 => sNDA w .nne
  | 0x47 => sNDAo w .neqo
  | 0x48 => sNDAo w .nneo
  | 0x49 => sNDA w .nlt
  | 0x4A => sNDA w .nle
  | 0x4B => sNDAB w .nadd
  | 0x4C => sNDAB w .nsub
  | 0x4D => sNDAB w .nmul
  | 0x4E => sNDAB w .nmin
  | 0x4F => sNDAB w .nmax
  | 0x50 => sNDA w .nabs
  | 0x51 => sNDA w .nin
  | 0x52 => do
      must (fld w 11 18 == 0) .reservedBits
      return .ndiff (fGd w) (fld w 10 1 == 1) (fD w) (BitVec.ofNat 10 (fld w 0 10))
  | 0x53 => sNone w .nprop
  | 0x54 => sNone w .nclr
  | 0x55 => sNone w .nckpt
  | 0x56 => sNone w .nrest
  | 0x57 => sNone w .npop
  | _ => decodeScalar litc w

/-! ### S3 (08 Table 8.6) -/

/-- Slot S3. -/
def decodeS3 (litc w : Nat) : Dec Instr :=
  match fOpc w with
  | 0x00 => sNop w
  | 0x01 => do
      must (fld w 23 6 == 0) .reservedBits
      let d ← reg16 (fD w); let v ← fImm litc w
      return .aset (fGd w) d v
  | 0x02 => do
      must (fld w 0 17 == 0) .reservedBits
      let d ← reg16 (fD w); let a ← reg16 (fA w)
      return .aadd (fGd w) d a (fB w)
  | 0x03 => do
      must (fld w 0 29 == 0) .reservedBits
      let d ← reg16 (fD w); return .aupd (fGd w) d
  | 0x04 => do
      must (fld w 0 23 == 0) .reservedBits
      let d ← reg16 (fD w); return .amov (fGd w) d (fA w)
  | 0x05 => do
      must (fld w 0 23 == 0) .reservedBits
      let a ← reg16 (fA w); return .aget (fGd w) (fD w) a
  | 0x06 => do
      let d ← reg16 (fD w); let v ← fImm litc w; let j ← lvl6 (fA w).val
      return .akset (fGd w) d j v
  | 0x07 => do
      must (fld w 0 17 == 0) .reservedBits
      let d ← reg16 (fD w); let j ← lvl6 (fA w).val
      return .akmov (fGd w) d j (fB w)
  | 0x08 => do
      must (fld w 0 17 == 0) .reservedBits
      let a ← reg16 (fA w); let j ← lvl6 (fB w).val
      return .akget (fGd w) (fD w) a j
  | _ => .error .unassigned

/-! ### S4 (08 Table 8.7, 10 Table 10.4) -/

/-- CLASS and SCOPE of format M. -/
def fOs (w : Nat) : Dec Os := do
  let sc ← getOr (Scope.ofCode (fld w 4 3)) .badCode
  return ⟨⟨fld w 7 4, fld_lt w 7 4⟩, sc⟩
/-- The memory operand of format M (05 R62). -/
def fMem (w : Nat) : Dec Mem := do
  let a ← reg16 (fA w)
  if fld w 22 1 == 0 then return ⟨a, .disp (BitVec.ofNat 11 (fld w 11 11))⟩
  else
    must (fld w 11 5 == 0) .reservedBits
    return ⟨a, .idx ⟨fld w 16 6, fld_lt w 16 6⟩⟩
/-- A scalar memory form. -/
def sMem (w : Nat) (k : Guard → MSize → Os → R64 → Mem → Instr) : Dec Instr := do
  let m ← fMem w; let os ← fOs w
  let sz ← getOr (MSize.ofCode (fld w 0 4)) .badCode
  return k (fGd w) sz os (fD w) m
/-- A form with an implied SIZE code. -/
def sMemI (size w : Nat) (k : Guard → Os → R64 → Mem → Instr) : Dec Instr := do
  let m ← fMem w; let os ← fOs w
  must (fld w 0 4 == size) .badCode
  return k (fGd w) os (fD w) m
/-- A tile form: D names a tile. -/
def sTile (w : Nat) (k : Guard → Os → R16 → Mem → Instr) : Dec Instr := do
  let d ← reg16 (fD w)
  let m ← fMem w; let os ← fOs w
  must (fld w 0 4 == 9) .badCode
  return k (fGd w) os d m
/-- GATH and SCAT: XR is 1. -/
def sLane (w : Nat) (k : Guard → MSize → Os → R64 → R16 → R64 → Instr) : Dec Instr := do
  must (fld w 22 1 == 1 && fld w 11 5 == 0) .reservedBits
  let a ← reg16 (fA w); let os ← fOs w
  let sz ← getOr (MSize.ofCode (fld w 0 4)) .badCode
  return k (fGd w) sz os (fD w) a ⟨fld w 16 6, fld_lt w 16 6⟩
/-- FENCE and FENCE.e. -/
def sFence (w : Nat) (k : Guard → Scope → R64 → Instr) : Dec Instr := do
  must (fld w 7 22 == 0 && fld w 0 4 == 0) .reservedBits
  let sc ← getOr (Scope.ofCode (fld w 4 3)) .badCode
  return k (fGd w) sc (fD w)

/-- Slot S4. -/
def decodeS4 (w : Nat) : Dec Instr :=
  match fOpc w with
  | 0x00 => sNop w
  | 0x01 => sMem w .ld
  | 0x02 => sMem w .st
  | 0x03 => sMem w .ldc
  | 0x04 => sMem w .lda
  | 0x05 => sMem w .stl
  | 0x06 => sMemI 8 w .ldv
  | 0x07 => sMemI 8 w .stv
  | 0x08 => sLane w .gath
  | 0x09 => sLane w .scat
  | 0x0A => sTile w .ldt
  | 0x0B => sTile w .ldtMx4
  | 0x0C => sTile w .stt
  | 0x0D => sMemI 10 w .ldq
  | 0x0E => sMemI 10 w .stq
  | 0x0F => do
      must (fld w 22 1 == 0 && fld w 17 1 == 0) .reservedBits
      let a ← reg16 (fA w); let os ← fOs w
      let op ← getOr (AtOp.ofCode (fld w 19 3)) .badCode
      let sg ← getOr (Sg.ofCode (fld w 18 1)) .badCode
      let sz ← getOr (MSize.ofCode (fld w 0 4)) .badCode
      return .atom (fGd w) op sg sz os (fD w) a (fC w)
  | 0x10 => sFence w .fence
  | 0x11 => sFence w .fenceE
  | 0x12 => do
      must (fld w 29 6 == 0) .reservedBits
      let m ← fMem w; let os ← fOs w
      must (fld w 0 4 == 0) .badCode
      return .pref (fGd w) os m
  | _ => .error .unassigned

/-! ### S5 (08 Table 8.8, 13 Tables 13.2 and 13.3) -/

/-- TY of the typed class. -/
def fTy (w : Nat) : Dec VTy := getOr (VTy.ofCode (fld w 0 4)) .badCode
/-- A rounding mode. -/
def fRm (w lo : Nat) : Dec Rm := getOr (Rm.ofCode (fld w lo 2)) .badCode
/-- Typed, with RM. -/
def sVrm (w : Nat) (k : Guard → VTy → Rm → R64 → R64 → R64 → Instr) : Dec Instr := do
  must (fld w 6 11 == 0) .reservedBits
  let ty ← fTy w; let rm ← fRm w 4
  return k (fGd w) ty rm (fD w) (fA w) (fB w)
/-- Typed, two sources. -/
def sVab (w : Nat) (k : Guard → VTy → R64 → R64 → R64 → Instr) : Dec Instr := do
  must (fld w 4 13 == 0) .reservedBits
  let ty ← fTy w; return k (fGd w) ty (fD w) (fA w) (fB w)
/-- Typed, one source. -/
def sVa (w : Nat) (k : Guard → VTy → R64 → R64 → Instr) : Dec Instr := do
  must (fld w 4 19 == 0) .reservedBits
  let ty ← fTy w; return k (fGd w) ty (fD w) (fA w)
/-- Typed, with SAT. -/
def sVsat (w : Nat) (k : Guard → VTy → Bool → R64 → R64 → R64 → Instr) : Dec Instr := do
  must (fld w 7 10 == 0 && fld w 4 2 == 0) .reservedBits
  let ty ← fTy w; return k (fGd w) ty (fld w 6 1 == 1) (fD w) (fA w) (fB w)
/-- Conversion, one source. -/
def sVcv (w : Nat) (k : Guard → VTy → VTy → Rm → Bool → R64 → R64 → Instr) : Dec Instr := do
  must (fld w 11 12 == 0) .reservedBits
  let dt ← getOr (VTy.ofCode (fld w 7 4)) .badCode
  let st ← getOr (VTy.ofCode (fld w 3 4)) .badCode
  let rm ← fRm w 1
  return k (fGd w) dt st rm (fld w 0 1 == 1) (fD w) (fA w)
/-- Lane width, two sources. -/
def sVlw (w : Nat) (k : Guard → LaneW → R64 → R64 → R64 → Instr) : Dec Instr := do
  must (fld w 2 15 == 0) .reservedBits
  let lw ← getOr (LaneW.ofCode (fld w 0 2)) .badCode
  return k (fGd w) lw (fD w) (fA w) (fB w)

/-- Slot S5. -/
def decodeS5 (litc w : Nat) : Dec Instr :=
  match fOpc w with
  | 0x00 => sNop w
  | 0x01 => sVrm w .vadd
  | 0x02 => sDAI litc w .vaddI
  | 0x03 => sVrm w .vsub
  | 0x04 => sVrm w .vmul
  | 0x05 => sVrm w .vfma
  | 0x06 => sDAI litc w .vfmaI
  | 0x07 => sVrm w .vfms
  | 0x08 => sVab w .vmin
  | 0x09 => sVab w .vmax
  | 0x0A => sVa w .vabs
  | 0x0B => sVa w .vneg
  | 0x0C => sVa w .vrcp
  | 0x0D => sVa w .vrsq
  | 0x0E => sVa w .vsqrt
  | 0x0F => sVa w .vexp2
  | 0x10 => sVa w .vlog2
  | 0x11 => sVa w .vsin
  | 0x12 => sVa w .vcos
  | 0x13 => sVa w .vtanh
  | 0x14 => do
      must (fld w 10 7 == 0 && fld w 4 3 == 0) .reservedBits
      let fc ← getOr (Fc.ofCode (fld w 7 3)) .badCode
      let ty ← fTy w
      return .vcmp (fGd w) fc ty (fD w) (fA w) (fB w)
  | 0x15 => do
      must (fld w 0 11 == 0) .reservedBits
      return .vsel (fGd w) (fD w) (fA w) (fB w) (fC w)
  | 0x16 => sVsat w .viadd
  | 0x17 => sVsat w .visub
  | 0x18 => sVsat w .vimul
  | 0x19 => sVsat w .vimad
  | 0x1A => sDAB w .vand
  | 0x1B => sDAB w .vor
  | 0x1C => sDAB w .vxor
  | 0x1D => sVab w .vshl
  | 0x1E => sVab w .vshr
  | 0x1F => sVab w .vsra
  | 0x20 => sVcv w .vcvt
  | 0x21 => do
      must (fld w 11 12 == 0 && fld w 0 3 == 0) .reservedBits
      let dt ← getOr (VTy.ofCode (fld w 7 4)) .badCode
      let st ← getOr (VTy.ofCode (fld w 3 4)) .badCode
      return .vwiden (fGd w) dt st (fD w) (fA w)
  | 0x22 => sVcv w .vnarr
  | 0x23 => do
      must (fld w 11 6 == 0) .reservedBits
      let dt ← getOr (VTy.ofCode (fld w 7 4)) .badCode
      let st ← getOr (VTy.ofCode (fld w 3 4)) .badCode
      let rm ← fRm w 1
      return .vpack (fGd w) dt st rm (fld w 0 1 == 1) (fD w) (fA w) (fB w)
  | 0x24 => sVcv w .vunpk
  | 0x25 => sVa w .vredadd
  | 0x26 => sVa w .vredmax
  | 0x27 => sVa w .vargmax
  | 0x28 => do
      must (fld w 10 13 == 0 && fld w 4 3 == 0) .reservedBits
      let sc ← getOr (ScanOp.ofCode (fld w 7 3)) .badCode
      let ty ← fTy w
      return .vscan (fGd w) sc ty (fD w) (fA w)
  | 0x29 => sVlw w .vperm
  | 0x2A => do
      must (fld w 2 21 == 0) .reservedBits
      let lw ← getOr (LaneW.ofCode (fld w 0 2)) .badCode
      return .vbcast (fGd w) lw (fD w) (fA w)
  | 0x2B => sDI litc w .vbcastI
  | 0x2C => sVlw w .vshuf
  | 0x2D => sVlw w .vmovg
  | 0x2E => sVab w .vmask
  | _ => .error .unassigned

/-! ### S6 (08 Table 8.9, 17 Table 17.3) -/

/-- SPE and SP of format X (05 R64). -/
def fSp (w : Nat) : Dec (Option R8) :=
  if fld w 13 1 == 1 then .ok (some (reg8 w 10))
  else if fld w 10 3 == 0 then .ok none else .error .reservedBits
/-- An MMA form. -/
def sMma (w : Nat) (k : Guard → Option R8 → Q512 → R16 → R16 → Instr) : Dec Instr := do
  must (fld w 14 4 == 0 && fld w 0 10 == 0) .reservedBits
  let sp ← fSp w; return k (fGd w) sp (fQ w) (fMa w) (fMb w)
/-- MTRN and MCPY. -/
def sMDA (w : Nat) (k : Guard → Option R8 → R16 → R16 → Instr) : Dec Instr := do
  must (fld w 26 9 == 0 && fld w 18 4 == 0 && fld w 0 10 == 0) .reservedBits
  let sp ← fSp w; return k (fGd w) sp (fMd w) (fMa w)
/-- QADD and QCPY. -/
def sQQ (w : Nat) (k : Guard → Option R8 → Q512 → Q512 → Instr) : Dec Instr := do
  must (fld w 14 12 == 0 && fld w 9 1 == 0) .reservedBits
  let sp ← fSp w; return k (fGd w) sp (fQ w) ⟨fld w 0 9, fld_lt w 0 9⟩

/-- Slot S6. DEDUCED (log 20): MMA.ta is 0x02, as Tables 8.9 and 17.3 list it. -/
def decodeS6 (w : Nat) : Dec Instr :=
  match fOpc w with
  | 0x00 => sNop w
  | 0x01 => sMma w .mma
  | 0x02 => sMma w .mmaTa
  | 0x03 => sMma w .mmaTb
  | 0x04 => do
      must (fld w 14 12 == 0 && fld w 0 10 == 0) .reservedBits
      let sp ← fSp w; return .mzero (fGd w) sp (fQ w)
  | 0x05 => do
      must (fld w 14 12 == 0) .reservedBits
      let sp ← fSp w; return .mscale (fGd w) sp (fQ w) (fCb w)
  | 0x06 => do
      must (fld w 18 8 == 0 && fld w 6 4 == 0) .reservedBits
      let sp ← fSp w
      let dt ← getOr (Dt.ofCode (fld w 3 3)) .badCode
      let rm ← fRm w 1
      return .mcvt (fGd w) sp dt rm (fld w 0 1 == 1) (fMd w) (fQ w)
  | 0x07 => do
      must (fld w 18 8 == 0 && fld w 3 7 == 0) .reservedBits
      let sp ← fSp w
      let rm ← fRm w 1
      return .mcvtMx4 (fGd w) sp rm (fld w 0 1 == 1) (fMd w) (fQ w)
  | 0x08 => sMDA w .mtrn
  | 0x09 => sMDA w .mcpy
  | 0x0A => do
      must (fld w 14 8 == 0 && fld w 0 10 == 0) .reservedBits
      let sp ← fSp w; return .mbias (fGd w) sp (fQ w) (fMa w)
  | 0x0B => do
      must (fld w 18 8 == 0 && fld w 0 10 == 0) .reservedBits
      let sp ← fSp w; return .mred (fGd w) sp (fMd w) (fQ w)
  | 0x0C => sQQ w .qadd
  | 0x0D => sQQ w .qcpy
  | 0x0E => do
      must (fld w 18 17 == 0) .reservedBits
      let sp ← fSp w; return .mfill (fGd w) sp (fMd w) (fCb w)
  | _ => .error .unassigned

/-! ### S7 (08 Table 8.10, 19 Table 19.3, 21 Table 21.4, 24 Table 24.5) -/

/-- Format E with D and A (an a-register). -/
def sEDA (w : Nat) (k : Guard → R64 → R16 → Instr) : Dec Instr := do
  must (fld w 0 23 == 0) .reservedBits
  let a ← reg16 (fA w); return k (fGd w) (fD w) a
/-- Format E with A only. -/
def sEA (w : Nat) (k : Guard → R16 → Instr) : Dec Instr := do
  must (fld w 0 23 == 0 && fld w 29 6 == 0) .reservedBits
  let a ← reg16 (fA w); return k (fGd w) a
/-- Format E with a ring or barrier in FN and a fixed SCOPE. -/
def sEF (scope w : Nat) (k : Guard → Fin 4 → Instr) : Dec Instr := do
  must (fld w 11 24 == 0) .reservedBits
  must (fld w 8 3 == scope) .badCode
  must (fld w 2 6 == 0) .badCode
  return k (fGd w) ⟨fld w 0 2, fld_lt w 0 2⟩
/-- Format E with A, B and C. -/
def sEABC (w : Nat) (k : Guard → R16 → R64 → R64 → Instr) : Dec Instr := do
  must (fld w 29 6 == 0 && fld w 0 11 == 0) .reservedBits
  let a ← reg16 (fA w); return k (fGd w) a (fB w) (fC w)

/-- Slot S7. -/
def decodeS7 (litc w : Nat) : Dec Instr :=
  match fOpc w with
  | 0x00 => sNop w
  | 0x01 => sPrep w
  | 0x02 => sBT w .bra
  | 0x03 => sA w .opsel
  | 0x04 => do
      must (fld w 23 12 == 0) .reservedBits
      must (fld w 3 20 == 0) .badImmediate
      return .opselI (fGd w) (reg8 w 0)
  | 0x05 => sA w .setfmt
  | 0x06 => sI litc w .setfmtI
  | 0x07 => sEA w .setsct
  | 0x08 => sEDA w .cpy
  | 0x09 => sEDA w .cpyst
  | 0x0A => sEDA w .subscr
  | 0x0B => sEF 0 w .unsub
  | 0x0C => sEF 0 w .ringack
  | 0x0D => sEF 2 w .bara
  | 0x0E => sEF 0 w .barw
  | 0x0F => do
      must (fld w 8 21 == 0) .reservedBits
      must (fld w 2 6 == 0) .badCode
      return .barq (fGd w) (fD w) ⟨fld w 0 2, fld_lt w 0 2⟩
  | 0x10 => sEDA w .icopy
  | 0x11 => sEDA w .icinv
  | 0x12 => sNone w .ifence
  | 0x13 => sNone w .rwflush
  | 0x20 => sDA w .ddvar
  | 0x21 => do
      must (fld w 29 6 == 0 && fld w 8 3 == 0) .reservedBits
      let a ← reg16 (fA w)
      must (fld w 3 5 == 0) .badCode
      let bo ← getOr (BoolOp.ofCode (fld w 0 3)) .badCode
      return .ddapply (fGd w) bo a (fB w) (fC w)
  | 0x22 => do
      must (fld w 0 11 == 0) .reservedBits
      let a ← reg16 (fA w); return .ddite (fGd w) a (fD w) (fB w) (fC w)
  | 0x23 => sEABC w .ddrestr
  | 0x24 => sEABC w .ddexist
  | 0x25 => sEABC w .dduniv
  | 0x26 => do
      must (fld w 29 6 == 0 && fld w 0 17 == 0) .reservedBits
      let a ← reg16 (fA w); return .ddnot (fGd w) a (fB w)
  | 0x27 => sEABC w .ddcount
  | 0x28 => sEABC w .ddmask
  | 0x29 => sB w .ddref
  | 0x2A => sB w .ddunref
  | 0x2B => sEA w .ddgc
  | 0x2C => sEA w .ddord
  | 0x2D => sB w .ddswap
  | 0x2E => sEA w .ddstat
  | 0x30 => sNone w .tret
  | 0x31 => do
      must (fld w 8 27 == 0) .reservedBits
      return .syscall (fGd w) (BitVec.ofNat 8 (fld w 0 8))
  | 0x32 => do
      must (fld w 29 6 == 0 && fld w 11 12 == 0 && fld w 0 8 == 0) .reservedBits
      let sc ← getOr (Scope.ofCode (fld w 8 3)) .badCode
      return .tlbinv (fGd w) sc (fA w)
  | 0x33 => do
      must (fld w 11 24 == 0 && fld w 0 8 == 0) .reservedBits
      let sc ← getOr (Scope.ofCode (fld w 8 3)) .badCode
      return .tlbinvAll (fGd w) sc
  | 0x34 => do
      must (fld w 8 27 == 0) .reservedBits
      must (fld w 6 2 == 0) .badCode
      return .evsig (fGd w) ⟨fld w 0 6, fld_lt w 0 6⟩
  | 0x35 => do
      must (fld w 10 19 == 0) .reservedBits
      return .movcSysRead (fGd w) (fD w) (BitVec.ofNat 10 (fld w 0 10))
  | 0x36 => do
      must (fld w 10 13 == 0 && fld w 29 6 == 0) .reservedBits
      return .movcSysWrite (fGd w) (BitVec.ofNat 10 (fld w 0 10)) (fA w)
  | 0x37 => sEA w .frmst
  | 0x38 => sEA w .frmld
  | 0x39 => sA w .ckill
  | _ => .error .unassigned

/-- The map of each slot (05 R58). -/
def decodeMap (slot : Fin 8) (litc w : Nat) : Dec Instr :=
  match slot with
  | 0 => decodeS0 litc w
  | 1 => decodeScalar litc w
  | 2 => decodeS2 litc w
  | 3 => decodeS3 litc w
  | 4 => decodeS4 w
  | 5 => decodeS5 litc w
  | 6 => decodeS6 w
  | 7 => decodeS7 litc w

/-- Decoding one slot word: the slot's map, then the codes its form lists (05 R76, fault 4). -/
def decodeSlot (slot : Fin 8) (litc w : Nat) : Dec Instr := do
  let i ← decodeMap slot litc w
  must (WellFormed i) .badCode
  return i

/-! ### Destinations (05 R67, R68) -/

/-- A register named as a destination, by file and index. -/
inductive Dest where
  | g (n : Nat) | p (n : Nat) | b (n : Nat) | d (n : Nat) | w (n : Nat) | m (n : Nat) | q (n : Nat) | cr (n : Nat)
  | a (n : Nat)
  deriving DecidableEq, Repr

/-- The explicit destinations of a form; writes to g0 and p0 are exempt (05 R67). The base block of an MMA is one. DEDUCED (log 40): so
is the block it updates, which is found at issue (`State.blockConflict`). -/
def explicitDests (i : Instr) : List Dest :=
  let raw : List Dest := match i with
    | .prep _ b _ => [.b b.val]
    | .lidx _ d _ | .movi _ d _ | .mov _ d _ | .clz _ d _ | .popc _ d _ | .ext _ _ _ d _ | .rdtime _ d => [.g d.val]
    | .add _ d _ _ | .sub _ d _ _ | .mul _ d _ _ | .mulh _ _ d _ _ | .divs _ d _ _ | .divn _ d _ _ => [.g d.val]
    | .rem _ _ d _ _ | .and _ d _ _ | .or _ d _ _ | .xor _ d _ _ | .andn _ d _ _ | .shl _ d _ _ => [.g d.val]
    | .shr _ d _ _ | .sra _ d _ _ | .rot _ d _ _ | .min _ _ d _ _ | .max _ _ d _ _ | .sel _ d _ _ _ => [.g d.val]
    | .bfx _ _ d _ _ | .bfi _ d _ _ => [.g d.val]
    | .addi _ d _ _ | .muli _ d _ _ | .andi _ d _ _ | .ori _ d _ _ | .xori _ d _ _ => [.g d.val]
    | .shli _ d _ _ | .shri _ d _ _ | .srai _ d _ _ => [.g d.val]
    | .cmp _ _ _ d _ _ => [.p d.val]
    | .pand _ d _ _ | .por _ d _ _ | .pxor _ d _ _ | .pnot _ d _ => [.p d.val]
    | .movc _ (.read d _) => [.g d.val]
    | .movc _ (.write cr _) => [.cr cr.toNat]
    | .movcSysRead _ d _ => [.g d.val]
    | .movcSysWrite _ cr _ => [.cr cr.toNat]
    | .dset _ d _ _ _ | .dsetm _ d _ => [.d d.val]
    | .dlo _ d _ | .dhi _ d _ | .dcnt _ d _ => [.g d.val]
    | .neq _ _ d _ | .nne _ _ d _ | .neqo _ _ d _ _ | .nneo _ _ d _ _ | .nlt _ _ d _ | .nle _ _ d _ => [.d d.val]
    | .nadd _ _ d _ _ | .nsub _ _ d _ _ | .nmul _ _ d _ _ | .nmin _ _ d _ _ | .nmax _ _ d _ _ => [.d d.val]
    | .nabs _ _ d _ | .nin _ _ d _ | .ndiff _ _ d _ => [.d d.val]
    | .aset _ d _ | .aadd _ d _ _ | .aupd _ d | .amov _ d _ => [.a d.val]
    | .akset _ d j _ | .akmov _ d j _ => [.a (16 + 6 * d.val + j.val)]
    | .aget _ d _ | .akget _ d _ _ => [.g d.val]
    | .ld _ _ _ d _ | .ldc _ _ _ d _ | .lda _ _ _ d _ => [.g d.val]
    | .ldv _ _ d _ | .gath _ _ _ d _ _ => [.w d.val]
    | .ldt _ _ d _ | .ldtMx4 _ _ d _ => [.m d.val]
    | .atom _ _ _ _ _ d _ _ => [.g d.val]
    | .vadd _ _ _ d _ _ | .vsub _ _ _ d _ _ | .vmul _ _ _ d _ _ | .vfma _ _ _ d _ _ | .vfms _ _ _ d _ _ => [.w d.val]
    | .vaddI _ d _ _ | .vfmaI _ d _ _ | .vbcastI _ d _ => [.w d.val]
    | .vmin _ _ d _ _ | .vmax _ _ d _ _ | .vcmp _ _ _ d _ _ | .vmask _ _ d _ _ => [.w d.val]
    | .vabs _ _ d _ | .vneg _ _ d _ | .vrcp _ _ d _ | .vrsq _ _ d _ | .vsqrt _ _ d _ | .vexp2 _ _ d _ => [.w d.val]
    | .vlog2 _ _ d _ | .vsin _ _ d _ | .vcos _ _ d _ | .vtanh _ _ d _ => [.w d.val]
    | .vsel _ d _ _ _ | .vand _ d _ _ | .vor _ d _ _ | .vxor _ d _ _ => [.w d.val]
    | .viadd _ _ _ d _ _ | .visub _ _ _ d _ _ | .vimul _ _ _ d _ _ | .vimad _ _ _ d _ _ => [.w d.val]
    | .vshl _ _ d _ _ | .vshr _ _ d _ _ | .vsra _ _ d _ _ => [.w d.val]
    | .vcvt _ _ _ _ _ d _ | .vwiden _ _ _ d _ | .vnarr _ _ _ _ _ d _ | .vunpk _ _ _ _ _ d _ => [.w d.val]
    | .vpack _ _ _ _ _ d _ _ => [.w d.val]
    | .vredadd _ _ d _ | .vredmax _ _ d _ | .vscan _ _ _ d _ => [.w d.val]
    | .vargmax _ _ d _ | .vmovg _ _ d _ _ => [.g d.val]
    | .vperm _ _ d _ _ | .vshuf _ _ d _ _ | .vbcast _ _ d _ => [.w d.val]
    | .mma _ _ q _ _ | .mmaTa _ _ q _ _ | .mmaTb _ _ q _ _ | .mzero _ _ q | .mscale _ _ q _ | .mbias _ _ q _ => [.q q.val]
    | .qadd _ _ q _ | .qcpy _ _ q _ => [.q q.val]
    | .mcvt _ _ _ _ _ d _ | .mcvtMx4 _ _ _ _ d _ | .mtrn _ _ d _ | .mcpy _ _ d _ | .mred _ _ d _ => [.m d.val]
    | .mfill _ _ d _ => [.m d.val]
    | .cpy _ d _ | .cpyst _ d _ | .subscr _ d _ | .barq _ d _ | .icopy _ d _ | .icinv _ d _ | .ddvar _ d _ => [.g d.val]
    | _ => []
  raw.filter fun x => x != .g 0 && x != .p 0

/-- The implicit and range-named destinations of a form (05 R68). -/
def extraDests (i : Instr) : List Dest :=
  match i with
  | .call _ _ => [.b 7]
  | .cmp _ pair _ d _ _ => if pair then [.p (d.val + 1)] else []
  | .ndiff _ _ d n => (List.range (n.toNat - 1)).map fun j => .d (d.val + 1 + j)
  | .neq _ _ _ a | .nne _ _ _ a | .neqo _ _ _ a _ | .nneo _ _ _ a _ | .nlt _ _ _ a | .nle _ _ _ a | .nabs _ _ _ a => [.d a.val]
  | .nadd _ _ _ a b | .nsub _ _ _ a b | .nmul _ _ _ a b | .nmin _ _ _ a b | .nmax _ _ _ a b => [.d a.val, .d b.val]
  | .vwiden _ dt st d _ => (List.range (Machine.widthRatio dt st - 1)).map fun j => .w (d.val + 1 + j)
  | .vunpk _ dt st _ _ d _ => (List.range (Machine.vunpkCnt dt st - 1)).map fun j => .w (d.val + 1 + j)
  | .vshuf _ _ d _ _ => [.w (d.val + 1)]
  | .setfmt _ _ | .setfmtI _ _ => [.cr 0x010]
  | .setsct _ _ => (List.range 16).map fun j => .cr (0x030 + j)
  | .opsel _ _ | .opselI _ _ => [.cr 0x013]
  | .nprop _ | .nrest _ => [.cr 0x021]
  | _ => []

/-- BRA, CALL, RET and LRUN: the transfers of control TRET may not stand beside (24 R368). -/
def isTransfer : Instr → Bool
  | .bra _ _ | .call _ _ | .ret _ | .lrun _ _ _ => true
  | _ => false

/-- TRET. -/
def isTret : Instr → Bool
  | .tret _ => true
  | _ => false

/-! ### Bundles (05 R54 to R57, R76) -/

/-- A decoded bundle. -/
structure Bundle where
  slots : List (Fin 8 × Instr)
  lits  : List (BitVec 32)
  yld   : Bool
  rwf   : Bool
  len   : Nat
  deriving DecidableEq, Repr

/-- What stands at a bundle's address: a line pad, an illegal encoding (offset of the reported word, reason), a bundle. -/
inductive Fetched where
  | pad
  | illegal (ofs : Nat) (why : Illegal)
  | bundle (b : Bundle)
  deriving DecidableEq, Repr

/-- The present slots of PRES in ascending order (05 R55). -/
def presentSlots (pres : Nat) : List (Fin 8) := (List.finRange 8).filter fun k => fld pres k.val 1 == 1

/-- An LRUN whose END is at or before the next sequential bundle is an illegal encoding (09 R114). -/
def emptyBody (len : Nat) : Instr → Bool
  | .lrun _ _ ofs => decide (ofs.toInt * 2 ≤ (len : Int))
  | _ => false

/-- Decode the slot words in order; the first bad one is reported with its offset (05 R76, fault 4). -/
def decodeSlots (litc len : Nat) : List (Fin 8) → Nat → List Byte → Except (Nat × Illegal) (List (Fin 8 × Instr))
  | [], _, _ => .ok []
  | k :: ks, ofs, bytes =>
    match decodeSlot k litc (leNat (bytes.take 6)) with
    | .error e => .error (ofs, e)
    | .ok i =>
      if emptyBody len i then .error (ofs, .badCode)
      else
        match decodeSlots litc len ks (ofs + 6) (bytes.drop 6) with
        | .error e => .error e
        | .ok rest => .ok ((k, i) :: rest)

/-- Has a list a repeated element? -/
def hasDup : List Dest → Bool
  | [] => false
  | x :: xs => xs.contains x || hasDup xs

/-- Faults of combination (05 R76, fault 5). -/
def badCombination (slots : List (Fin 8 × Instr)) : Option Illegal :=
  if hasDup (slots.flatMap fun x => explicitDests x.2) then some .duplicate
  else if slots.any (fun x => isTret x.2) && slots.any (fun x => isTransfer x.2) then some .tretTransfer
  else none

/-- An implicit or ranged destination that meets another slot's destination (05 R68). -/
def writeConflict : List (Fin 8 × Instr) → Bool
  | [] => false
  | (_, i) :: rest =>
    rest.any (fun y =>
      (extraDests i).any (fun x => (explicitDests y.2).contains x || (extraDests y.2).contains x)
      || (extraDests y.2).any (fun x => (explicitDests i).contains x))
    || writeConflict rest

/-- Decode what stands at the start of `bytes`, the rest of the 64-byte line from the header on (05 R76). -/
def decodeBundle (bytes : List Byte) : Fetched :=
  let hdr := leNat (bytes.take 2)
  let pres := hdr / 256
  let litc := hdr / 64 % 4
  let slots := presentSlots pres
  let len := 2 + 6 * slots.length + 4 * litc
  if hdr = 0 then .pad
  else if hdr % 16 ≠ 0 then .illegal 0 .reservedHeader
  else if pres = 0 then .illegal 0 .emptyPresence
  else if bytes.length < len then .illegal 0 .overrun
  else
    match decodeSlots litc len slots 2 (bytes.drop 2) with
    | .error (o, e) => .illegal o e
    | .ok xs =>
      match badCombination xs with
      | some e => .illegal 0 e
      | none =>
        let litBytes := bytes.drop (2 + 6 * slots.length)
        .bundle ⟨xs, (List.range litc).map fun j => BitVec.ofNat 32 (leNat ((litBytes.drop (4 * j)).take 4)),
          fld hdr 5 1 == 1, fld hdr 4 1 == 1, len⟩

/-- The instruction in the bits `w` of `nbits` bits, numbered as the opcode table numbers them: `w`'s bytes, the least
significant first, are a bundle of one slot (bits above `nbits` are 0). -/
def decodeTableWord (nbits w : Nat) : Option Instr :=
  match decodeBundle (leBytes 64 (w % 2 ^ nbits)) with
  | .bundle b => match b.slots with
    | [(_, i)] => some i
    | _ => none
  | _ => none

/-! ### Encoding, from the same tables -/

/-- Bits [39:35] of a guard. -/
def encGd (g : Guard) : Nat := (if g.neg then 1 else 0) * 2 ^ 39 + g.p.val * 2 ^ 35
/-- A flag as a bit. -/
def bit1 (b : Bool) : Nat := if b then 1 else 0
/-- Format R (and formats N and E, whose low bits are laid out in `m`). -/
def encR (opc : Nat) (gd : Guard) (d a b c m : Nat) : Nat :=
  opc * 2 ^ 40 + encGd gd + d * 2 ^ 29 + a * 2 ^ 23 + b * 2 ^ 17 + c * 2 ^ 11 + m
/-- KIND and IMM20 (05 Table 5.7). -/
def encImm : Imm → Nat
  | .int20 v => v.toNat
  | .fp20 v => 1 * 2 ^ 20 + v.toNat
  | .lit k => (2 + k.val) * 2 ^ 20
  | .cb n => 5 * 2 ^ 20 + n.val
  | .high v => 6 * 2 ^ 20 + v.toNat
/-- Format I. -/
def encI (opc : Nat) (gd : Guard) (d a : Nat) (v : Imm) : Nat :=
  opc * 2 ^ 40 + encGd gd + d * 2 ^ 29 + a * 2 ^ 23 + encImm v
/-- XR and OFS. -/
def encOfs : Ofs → Nat
  | .disp d => d.toNat * 2 ^ 11
  | .idx r => 2 ^ 22 + r.val * 2 ^ 16
/-- CLASS and SCOPE. -/
def encOs (os : Os) : Nat := os.cls.val * 2 ^ 7 + os.scope.code * 2 ^ 4
/-- Format M. -/
def encM (opc : Nat) (gd : Guard) (d : Nat) (m : Mem) (os : Os) (size : Nat) : Nat :=
  opc * 2 ^ 40 + encGd gd + d * 2 ^ 29 + m.base.val * 2 ^ 23 + encOfs m.ofs + encOs os + size
/-- SPE and SP. -/
def encSp : Option R8 → Nat
  | some k => 2 ^ 13 + k.val * 2 ^ 10
  | none => 0
/-- Format X. -/
def encX (opc : Nat) (gd : Guard) (sp : Option R8) (q a b d m : Nat) : Nat :=
  opc * 2 ^ 40 + encGd gd + q * 2 ^ 26 + a * 2 ^ 22 + b * 2 ^ 18 + d * 2 ^ 14 + encSp sp + m
/-- Format B. -/
def encB (opc : Nat) (gd : Guard) (bt : Nat) (low : Nat) : Nat := opc * 2 ^ 40 + encGd gd + bt * 2 ^ 32 + low
/-- Typed class of S5. -/
def encV (opc : Nat) (gd : Guard) (ty : VTy) (d a b : Nat) (m : Nat) : Nat := encR opc gd d a b 0 (m + ty.code)
/-- Conversion class of S5. -/
def encC (opc : Nat) (gd : Guard) (dt st : VTy) (rm : Rm) (sat : Bool) (d a b : Nat) : Nat :=
  encR opc gd d a b 0 (dt.code * 2 ^ 7 + st.code * 2 ^ 3 + rm.code * 2 + bit1 sat)

/-- The slot word of a slot form (events have none). -/
def encode : Instr → Option Nat
  | .nop g => some (encR 0 g 0 0 0 0 0)
  | .prep g b (.rel o) => some (encB 1 g b.val o.toNat)
  | .prep g b (.ind a) => some (encB 1 g b.val (2 ^ 31 + a.val * 2 ^ 23))
  | .bra g b => some (encB 2 g b.val 0)
  | .call g b => some (encB 3 g b.val 0)
  | .ret g => some (encB 4 g 0 0)
  | .lset g l st a => some (encR 5 g 0 a.val 0 0 (st.val * 8 + l.val))
  | .lrun g k o => some (encB 6 g k.val o.toNat)
  | .lbrk g l => some (encR 7 g 0 0 0 0 l.val)
  | .lidx g d l => some (encR 8 g d.val 0 0 0 l.val)
  | .lclr g => some (encR 9 g 0 0 0 0 0)
  | .spset g a => some (encR 0x0A g 0 a.val 0 0 0)
  | .wait g a b c dw => some (encR 0x0B g 0 a.val b.val 0 (bit1 dw * 8 + c.code))
  | .sleepu g a => some (encR 0x0C g 0 a.val 0 0 0)
  | .sleepuI g v => some (encI 0x0D g 0 0 v)
  | .yield g => some (encR 0x0E g 0 0 0 0 0)
  | .halt g => some (encR 0x0F g 0 0 0 0 0)
  | .trap g n => some (encI 0x10 g 0 0 (.int20 (n.setWidth 20)))
  | .hbeat g => some (encR 0x11 g 0 0 0 0 0)
  | .add g d a b => some (encR 1 g d.val a.val b.val 0 0)
  | .addi g d a v => some (encI 2 g d.val a.val v)
  | .sub g d a b => some (encR 3 g d.val a.val b.val 0 0)
  | .mul g d a b => some (encR 4 g d.val a.val b.val 0 0)
  | .muli g d a v => some (encI 5 g d.val a.val v)
  | .mulh g sg d a b => some (encR 6 g d.val a.val b.val 0 sg.code)
  | .divs g d a b => some (encR 7 g d.val a.val b.val 0 0)
  | .divn g d a b => some (encR 8 g d.val a.val b.val 0 0)
  | .rem g sg d a b => some (encR 9 g d.val a.val b.val 0 sg.code)
  | .and g d a b => some (encR 0x0A g d.val a.val b.val 0 0)
  | .andi g d a v => some (encI 0x0B g d.val a.val v)
  | .or g d a b => some (encR 0x0C g d.val a.val b.val 0 0)
  | .ori g d a v => some (encI 0x0D g d.val a.val v)
  | .xor g d a b => some (encR 0x0E g d.val a.val b.val 0 0)
  | .xori g d a v => some (encI 0x0F g d.val a.val v)
  | .andn g d a b => some (encR 0x10 g d.val a.val b.val 0 0)
  | .shl g d a b => some (encR 0x11 g d.val a.val b.val 0 0)
  | .shli g d a v => some (encI 0x12 g d.val a.val v)
  | .shr g d a b => some (encR 0x13 g d.val a.val b.val 0 0)
  | .shri g d a v => some (encI 0x14 g d.val a.val v)
  | .sra g d a b => some (encR 0x15 g d.val a.val b.val 0 0)
  | .srai g d a v => some (encI 0x16 g d.val a.val v)
  | .rot g d a b => some (encR 0x17 g d.val a.val b.val 0 0)
  | .clz g d a => some (encR 0x18 g d.val a.val 0 0 0)
  | .popc g d a => some (encR 0x19 g d.val a.val 0 0 0)
  | .min g sg d a b => some (encR 0x1A g d.val a.val b.val 0 sg.code)
  | .max g sg d a b => some (encR 0x1B g d.val a.val b.val 0 sg.code)
  | .sel g d a b c => some (encR 0x1C g d.val a.val b.val c.val 0)
  | .cmp g pr cc d a b => some (encR 0x1D g d.val a.val b.val 0 (bit1 pr * 16 + cc.code))
  | .ext g sg sz d a => some (encR 0x1E g d.val a.val 0 0 (sg.code * 4 + sz.code))
  | .mov g d a => some (encR 0x1F g d.val a.val 0 0 0)
  | .movi g d v => some (encI 0x20 g d.val 0 v)
  | .bfx g sg d a b => some (encR 0x21 g d.val a.val b.val 0 sg.code)
  | .bfi g d a b => some (encR 0x22 g d.val a.val b.val 0 0)
  | .pand g d a b => some (encR 0x23 g d.val a.val b.val 0 0)
  | .por g d a b => some (encR 0x24 g d.val a.val b.val 0 0)
  | .pxor g d a b => some (encR 0x25 g d.val a.val b.val 0 0)
  | .pnot g d a => some (encR 0x26 g d.val a.val 0 0 0)
  | .movc g (.read d cr) => some (encR 0x27 g d.val 0 0 0 cr.toNat)
  | .movc g (.write cr a) => some (encR 0x27 g 0 a.val 0 0 (2 ^ 10 + cr.toNat))
  | .rdtime g d => some (encR 0x28 g d.val 0 0 0 0)
  | .dset g d a b k => some (encR 0x40 g d.val a.val b.val 0 k.toNat)
  | .dsetm g d a => some (encR 0x41 g d.val a.val 0 0 0)
  | .dlo g d a => some (encR 0x42 g d.val a.val 0 0 0)
  | .dhi g d a => some (encR 0x43 g d.val a.val 0 0 0)
  | .dcnt g d a => some (encR 0x44 g d.val a.val 0 0 0)
  | .neq g k d a => some (encR 0x45 g d.val a.val 0 0 (bit1 k * 2 ^ 10))
  | .nne g k d a => some (encR 0x46 g d.val a.val 0 0 (bit1 k * 2 ^ 10))
  | .neqo g k d a o => some (encR 0x47 g d.val a.val 0 0 (bit1 k * 2 ^ 10 + o.toNat))
  | .nneo g k d a o => some (encR 0x48 g d.val a.val 0 0 (bit1 k * 2 ^ 10 + o.toNat))
  | .nlt g k d a => some (encR 0x49 g d.val a.val 0 0 (bit1 k * 2 ^ 10))
  | .nle g k d a => some (encR 0x4A g d.val a.val 0 0 (bit1 k * 2 ^ 10))
  | .nadd g k d a b => some (encR 0x4B g d.val a.val b.val 0 (bit1 k * 2 ^ 10))
  | .nsub g k d a b => some (encR 0x4C g d.val a.val b.val 0 (bit1 k * 2 ^ 10))
  | .nmul g k d a b => some (encR 0x4D g d.val a.val b.val 0 (bit1 k * 2 ^ 10))
  | .nmin g k d a b => some (encR 0x4E g d.val a.val b.val 0 (bit1 k * 2 ^ 10))
  | .nmax g k d a b => some (encR 0x4F g d.val a.val b.val 0 (bit1 k * 2 ^ 10))
  | .nabs g k d a => some (encR 0x50 g d.val a.val 0 0 (bit1 k * 2 ^ 10))
  | .nin g k d a => some (encR 0x51 g d.val a.val 0 0 (bit1 k * 2 ^ 10))
  | .ndiff g k d n => some (encR 0x52 g d.val 0 0 0 (bit1 k * 2 ^ 10 + n.toNat))
  | .nprop g => some (encR 0x53 g 0 0 0 0 0)
  | .nclr g => some (encR 0x54 g 0 0 0 0 0)
  | .nckpt g => some (encR 0x55 g 0 0 0 0 0)
  | .nrest g => some (encR 0x56 g 0 0 0 0 0)
  | .npop g => some (encR 0x57 g 0 0 0 0 0)
  | .aset g d v => some (encI 1 g d.val 0 v)
  | .aadd g d a b => some (encR 2 g d.val a.val b.val 0 0)
  | .aupd g d => some (encR 3 g d.val 0 0 0 0)
  | .amov g d a => some (encR 4 g d.val a.val 0 0 0)
  | .aget g d a => some (encR 5 g d.val a.val 0 0 0)
  | .akset g d j v => some (encI 6 g d.val j.val v)
  | .akmov g d j b => some (encR 7 g d.val j.val b.val 0 0)
  | .akget g d a j => some (encR 8 g d.val a.val j.val 0 0)
  | .ld g sz os d m => some (encM 1 g d.val m os sz.code)
  | .st g sz os d m => some (encM 2 g d.val m os sz.code)
  | .ldc g sz os d m => some (encM 3 g d.val m os sz.code)
  | .lda g sz os d m => some (encM 4 g d.val m os sz.code)
  | .stl g sz os d m => some (encM 5 g d.val m os sz.code)
  | .ldv g os d m => some (encM 6 g d.val m os 8)
  | .stv g os d m => some (encM 7 g d.val m os 8)
  | .gath g sz os d a x => some (encM 8 g d.val ⟨a, .idx x⟩ os sz.code)
  | .scat g sz os d a x => some (encM 9 g d.val ⟨a, .idx x⟩ os sz.code)
  | .ldt g os d m => some (encM 0x0A g d.val m os 9)
  | .ldtMx4 g os d m => some (encM 0x0B g d.val m os 9)
  | .stt g os d m => some (encM 0x0C g d.val m os 9)
  | .ldq g os d m => some (encM 0x0D g d.val m os 10)
  | .stq g os d m => some (encM 0x0E g d.val m os 10)
  | .atom g op sg sz os d a c =>
      some (encR 0x0F g d.val a.val 0 0 0 + op.code * 2 ^ 19 + sg.code * 2 ^ 18 + c.val * 2 ^ 11 + encOs os + sz.code)
  | .fence g sc d => some (encR 0x10 g d.val 0 0 0 (sc.code * 16))
  | .fenceE g sc d => some (encR 0x11 g d.val 0 0 0 (sc.code * 16))
  | .pref g os m => some (encM 0x12 g 0 m os 0)
  | .vadd g ty rm d a b => some (encV 1 g ty d.val a.val b.val (rm.code * 16))
  | .vaddI g d a v => some (encI 2 g d.val a.val v)
  | .vsub g ty rm d a b => some (encV 3 g ty d.val a.val b.val (rm.code * 16))
  | .vmul g ty rm d a b => some (encV 4 g ty d.val a.val b.val (rm.code * 16))
  | .vfma g ty rm d a b => some (encV 5 g ty d.val a.val b.val (rm.code * 16))
  | .vfmaI g d a v => some (encI 6 g d.val a.val v)
  | .vfms g ty rm d a b => some (encV 7 g ty d.val a.val b.val (rm.code * 16))
  | .vmin g ty d a b => some (encV 8 g ty d.val a.val b.val 0)
  | .vmax g ty d a b => some (encV 9 g ty d.val a.val b.val 0)
  | .vabs g ty d a => some (encV 0x0A g ty d.val a.val 0 0)
  | .vneg g ty d a => some (encV 0x0B g ty d.val a.val 0 0)
  | .vrcp g ty d a => some (encV 0x0C g ty d.val a.val 0 0)
  | .vrsq g ty d a => some (encV 0x0D g ty d.val a.val 0 0)
  | .vsqrt g ty d a => some (encV 0x0E g ty d.val a.val 0 0)
  | .vexp2 g ty d a => some (encV 0x0F g ty d.val a.val 0 0)
  | .vlog2 g ty d a => some (encV 0x10 g ty d.val a.val 0 0)
  | .vsin g ty d a => some (encV 0x11 g ty d.val a.val 0 0)
  | .vcos g ty d a => some (encV 0x12 g ty d.val a.val 0 0)
  | .vtanh g ty d a => some (encV 0x13 g ty d.val a.val 0 0)
  | .vcmp g fc ty d a b => some (encV 0x14 g ty d.val a.val b.val (fc.code * 128))
  | .vsel g d a b c => some (encR 0x15 g d.val a.val b.val c.val 0)
  | .viadd g ty s d a b => some (encV 0x16 g ty d.val a.val b.val (bit1 s * 64))
  | .visub g ty s d a b => some (encV 0x17 g ty d.val a.val b.val (bit1 s * 64))
  | .vimul g ty s d a b => some (encV 0x18 g ty d.val a.val b.val (bit1 s * 64))
  | .vimad g ty s d a b => some (encV 0x19 g ty d.val a.val b.val (bit1 s * 64))
  | .vand g d a b => some (encR 0x1A g d.val a.val b.val 0 0)
  | .vor g d a b => some (encR 0x1B g d.val a.val b.val 0 0)
  | .vxor g d a b => some (encR 0x1C g d.val a.val b.val 0 0)
  | .vshl g ty d a b => some (encV 0x1D g ty d.val a.val b.val 0)
  | .vshr g ty d a b => some (encV 0x1E g ty d.val a.val b.val 0)
  | .vsra g ty d a b => some (encV 0x1F g ty d.val a.val b.val 0)
  | .vcvt g dt st rm s d a => some (encC 0x20 g dt st rm s d.val a.val 0)
  | .vwiden g dt st d a => some (encC 0x21 g dt st .rn false d.val a.val 0)
  | .vnarr g dt st rm s d a => some (encC 0x22 g dt st rm s d.val a.val 0)
  | .vpack g dt st rm s d a b => some (encC 0x23 g dt st rm s d.val a.val b.val)
  | .vunpk g dt st rm s d a => some (encC 0x24 g dt st rm s d.val a.val 0)
  | .vredadd g ty d a => some (encV 0x25 g ty d.val a.val 0 0)
  | .vredmax g ty d a => some (encV 0x26 g ty d.val a.val 0 0)
  | .vargmax g ty d a => some (encV 0x27 g ty d.val a.val 0 0)
  | .vscan g op ty d a => some (encV 0x28 g ty d.val a.val 0 (op.code * 128))
  | .vperm g lw d a b => some (encR 0x29 g d.val a.val b.val 0 lw.code)
  | .vbcast g lw d a => some (encR 0x2A g d.val a.val 0 0 lw.code)
  | .vbcastI g d v => some (encI 0x2B g d.val 0 v)
  | .vshuf g lw d a b => some (encR 0x2C g d.val a.val b.val 0 lw.code)
  | .vmovg g lw d a b => some (encR 0x2D g d.val a.val b.val 0 lw.code)
  | .vmask g ty d a b => some (encV 0x2E g ty d.val a.val b.val 0)
  | .mma g sp q a b => some (encX 1 g sp q.val a.val b.val 0 0)
  | .mmaTa g sp q a b => some (encX 2 g sp q.val a.val b.val 0 0)
  | .mmaTb g sp q a b => some (encX 3 g sp q.val a.val b.val 0 0)
  | .mzero g sp q => some (encX 4 g sp q.val 0 0 0 0)
  | .mscale g sp q n => some (encX 5 g sp q.val 0 0 0 n.val)
  | .mcvt g sp dt rm s d q => some (encX 6 g sp q.val 0 0 d.val (dt.code * 8 + rm.code * 2 + bit1 s))
  | .mcvtMx4 g sp rm s d q => some (encX 7 g sp q.val 0 0 d.val (rm.code * 2 + bit1 s))
  | .mtrn g sp d a => some (encX 8 g sp 0 a.val 0 d.val 0)
  | .mcpy g sp d a => some (encX 9 g sp 0 a.val 0 d.val 0)
  | .mbias g sp q a => some (encX 0x0A g sp q.val a.val 0 0 0)
  | .mred g sp d q => some (encX 0x0B g sp q.val 0 0 d.val 0)
  | .qadd g sp q s => some (encX 0x0C g sp q.val 0 0 0 s.val)
  | .qcpy g sp q s => some (encX 0x0D g sp q.val 0 0 0 s.val)
  | .mfill g sp d n => some (encX 0x0E g sp 0 0 0 d.val n.val)
  | .opsel g a => some (encR 3 g 0 a.val 0 0 0)
  | .opselI g n => some (encI 4 g 0 0 (.int20 (BitVec.ofNat 20 n.val)))
  | .setfmt g a => some (encR 5 g 0 a.val 0 0 0)
  | .setfmtI g v => some (encI 6 g 0 0 v)
  | .setsct g a => some (encR 7 g 0 a.val 0 0 0)
  | .cpy g d a => some (encR 8 g d.val a.val 0 0 0)
  | .cpyst g d a => some (encR 9 g d.val a.val 0 0 0)
  | .subscr g d a => some (encR 0x0A g d.val a.val 0 0 0)
  | .unsub g r => some (encR 0x0B g 0 0 0 0 r.val)
  | .ringack g r => some (encR 0x0C g 0 0 0 0 r.val)
  | .bara g b => some (encR 0x0D g 0 0 0 0 (2 * 256 + b.val))
  | .barw g b => some (encR 0x0E g 0 0 0 0 b.val)
  | .barq g d b => some (encR 0x0F g d.val 0 0 0 b.val)
  | .icopy g d a => some (encR 0x10 g d.val a.val 0 0 0)
  | .icinv g d a => some (encR 0x11 g d.val a.val 0 0 0)
  | .ifence g => some (encR 0x12 g 0 0 0 0 0)
  | .rwflush g => some (encR 0x13 g 0 0 0 0 0)
  | .ddvar g d a => some (encR 0x20 g d.val a.val 0 0 0)
  | .ddapply g bo a b c => some (encR 0x21 g 0 a.val b.val c.val bo.code)
  | .ddite g a d b c => some (encR 0x22 g d.val a.val b.val c.val 0)
  | .ddrestr g a b c => some (encR 0x23 g 0 a.val b.val c.val 0)
  | .ddexist g a b c => some (encR 0x24 g 0 a.val b.val c.val 0)
  | .dduniv g a b c => some (encR 0x25 g 0 a.val b.val c.val 0)
  | .ddnot g a b => some (encR 0x26 g 0 a.val b.val 0 0)
  | .ddcount g a b c => some (encR 0x27 g 0 a.val b.val c.val 0)
  | .ddmask g a b c => some (encR 0x28 g 0 a.val b.val c.val 0)
  | .ddref g b => some (encR 0x29 g 0 0 b.val 0 0)
  | .ddunref g b => some (encR 0x2A g 0 0 b.val 0 0)
  | .ddgc g a => some (encR 0x2B g 0 a.val 0 0 0)
  | .ddord g a => some (encR 0x2C g 0 a.val 0 0 0)
  | .ddswap g b => some (encR 0x2D g 0 0 b.val 0 0)
  | .ddstat g a => some (encR 0x2E g 0 a.val 0 0 0)
  | .tret g => some (encR 0x30 g 0 0 0 0 0)
  | .syscall g n => some (encR 0x31 g 0 0 0 0 n.toNat)
  | .tlbinv g sc a => some (encR 0x32 g 0 a.val 0 0 (sc.code * 256))
  | .tlbinvAll g sc => some (encR 0x33 g 0 0 0 0 (sc.code * 256))
  | .evsig g v => some (encR 0x34 g 0 0 0 0 v.val)
  | .movcSysRead g d cr => some (encR 0x35 g d.val 0 0 0 cr.toNat)
  | .movcSysWrite g cr a => some (encR 0x36 g 0 a.val 0 0 cr.toNat)
  | .frmst g a => some (encR 0x37 g 0 a.val 0 0 0)
  | .frmld g a => some (encR 0x38 g 0 a.val 0 0 0)
  | .ckill g a => some (encR 0x39 g 0 a.val 0 0 0)
  | _ => none

/-- The (lowest) slot that holds a slot form (08 R91, R95). -/
def homeSlot (i : Instr) : Fin 8 :=
  match i with
  | .nop _ | .prep _ _ _ | .bra _ _ | .call _ _ | .ret _ | .lset _ _ _ _ | .lrun _ _ _ | .lbrk _ _ | .lidx _ _ _ => 0
  | .lclr _ | .spset _ _ | .wait _ _ _ _ _ | .sleepu _ _ | .sleepuI _ _ | .yield _ | .halt _ | .trap _ _ | .hbeat _ => 0
  | .dset _ _ _ _ _ | .dsetm _ _ _ | .dlo _ _ _ | .dhi _ _ _ | .dcnt _ _ _ | .neq _ _ _ _ | .nne _ _ _ _ => 2
  | .neqo _ _ _ _ _ | .nneo _ _ _ _ _ | .nlt _ _ _ _ | .nle _ _ _ _ | .nadd _ _ _ _ _ | .nsub _ _ _ _ _ => 2
  | .nmul _ _ _ _ _ | .nmin _ _ _ _ _ | .nmax _ _ _ _ _ | .nabs _ _ _ _ | .nin _ _ _ _ | .ndiff _ _ _ _ => 2
  | .nprop _ | .nclr _ | .nckpt _ | .nrest _ | .npop _ => 2
  | .aset _ _ _ | .aadd _ _ _ _ | .aupd _ _ | .amov _ _ _ | .aget _ _ _ | .akset _ _ _ _ | .akmov _ _ _ _ => 3
  | .akget _ _ _ _ => 3
  | .ld _ _ _ _ _ | .st _ _ _ _ _ | .ldc _ _ _ _ _ | .lda _ _ _ _ _ | .stl _ _ _ _ _ | .ldv _ _ _ _ | .stv _ _ _ _ => 4
  | .gath _ _ _ _ _ _ | .scat _ _ _ _ _ _ | .ldt _ _ _ _ | .ldtMx4 _ _ _ _ | .stt _ _ _ _ | .ldq _ _ _ _ => 4
  | .stq _ _ _ _ | .atom _ _ _ _ _ _ _ _ | .fence _ _ _ | .fenceE _ _ _ | .pref _ _ _ => 4
  | .vadd _ _ _ _ _ _ | .vaddI _ _ _ _ | .vsub _ _ _ _ _ _ | .vmul _ _ _ _ _ _ | .vfma _ _ _ _ _ _ | .vfmaI _ _ _ _ => 5
  | .vfms _ _ _ _ _ _ | .vmin _ _ _ _ _ | .vmax _ _ _ _ _ | .vabs _ _ _ _ | .vneg _ _ _ _ | .vrcp _ _ _ _ => 5
  | .vrsq _ _ _ _ | .vsqrt _ _ _ _ | .vexp2 _ _ _ _ | .vlog2 _ _ _ _ | .vsin _ _ _ _ | .vcos _ _ _ _ | .vtanh _ _ _ _ => 5
  | .vcmp _ _ _ _ _ _ | .vsel _ _ _ _ _ | .viadd _ _ _ _ _ _ | .visub _ _ _ _ _ _ | .vimul _ _ _ _ _ _ => 5
  | .vimad _ _ _ _ _ _ | .vand _ _ _ _ | .vor _ _ _ _ | .vxor _ _ _ _ | .vshl _ _ _ _ _ | .vshr _ _ _ _ _ => 5
  | .vsra _ _ _ _ _ | .vcvt _ _ _ _ _ _ _ | .vwiden _ _ _ _ _ | .vnarr _ _ _ _ _ _ _ | .vpack _ _ _ _ _ _ _ _ => 5
  | .vunpk _ _ _ _ _ _ _ | .vredadd _ _ _ _ | .vredmax _ _ _ _ | .vargmax _ _ _ _ | .vscan _ _ _ _ _ | .vperm _ _ _ _ _ => 5
  | .vbcast _ _ _ _ | .vbcastI _ _ _ | .vshuf _ _ _ _ _ | .vmovg _ _ _ _ _ | .vmask _ _ _ _ _ => 5
  | .mma _ _ _ _ _ | .mmaTa _ _ _ _ _ | .mmaTb _ _ _ _ _ | .mzero _ _ _ | .mscale _ _ _ _ | .mcvt _ _ _ _ _ _ _ => 6
  | .mcvtMx4 _ _ _ _ _ _ | .mtrn _ _ _ _ | .mcpy _ _ _ _ | .mbias _ _ _ _ | .mred _ _ _ _ | .qadd _ _ _ _ => 6
  | .qcpy _ _ _ _ | .mfill _ _ _ _ | .scaleByProduct _ _ _ _ _ => 6
  | .opsel _ _ | .opselI _ _ | .setfmt _ _ | .setfmtI _ _ | .setsct _ _ | .cpy _ _ _ | .cpyst _ _ _ | .subscr _ _ _ => 7
  | .unsub _ _ | .ringack _ _ | .bara _ _ | .barw _ _ | .barq _ _ _ | .icopy _ _ _ | .icinv _ _ _ | .ifence _ => 7
  | .rwflush _ | .ddvar _ _ _ | .ddapply _ _ _ _ _ | .ddite _ _ _ _ _ | .ddrestr _ _ _ _ | .ddexist _ _ _ _ => 7
  | .dduniv _ _ _ _ | .ddnot _ _ _ | .ddcount _ _ _ _ | .ddmask _ _ _ _ | .ddref _ _ | .ddunref _ _ | .ddgc _ _ => 7
  | .ddord _ _ | .ddswap _ _ | .ddstat _ _ | .tret _ | .syscall _ _ | .tlbinv _ _ _ | .tlbinvAll _ _ | .evsig _ _ => 7
  | .movcSysRead _ _ _ | .movcSysWrite _ _ _ | .frmst _ _ | .frmld _ _ | .ckill _ _ => 7
  | _ => 1

/-- The bytes of a bundle that holds one slot word (05 R54). -/
def encodeBundle1 (slot : Fin 8) (litc word : Nat) : List Byte :=
  leBytes 2 (2 ^ (8 + slot.val) + litc * 64) ++ leBytes 6 word

end Sys2Proof
end

