-- ==== Sys2Proof/Machine/State.lean ====
section
/-!
DEFINITION. The state of the module: everything the spec gives the machine, as plain data, and its value after reset.
INVENTORY.md lists each piece with its rule and reset value. Registers the spec gives no reset value hold 0 (log 1).
-/
namespace Sys2Proof.Machine

/-- Why a machine stops with a fault. No meaning of this model raises one: every cause of 24 Table 24.1 is a trap the
machine takes, and an address the spec says does not exist raises an access violation there. -/
inductive Fault where
  /-- Raised by nobody. Safe: a fault only ever stops the model. -/
  | unreachable
  deriving DecidableEq, Repr

/-- Why an instruction is refused. -/
inductive Refusal where
  /-- Raised by an arm of `exec` whose instruction has no meaning yet. Safe: the model stops. -/
  | notModelled (mnemonic : String)
  deriving DecidableEq, Repr

/-- Bytes by address: strictly rising addresses, no entry equal to 0, which an unlisted address reads as (log 3). -/
abbrev Memory := List Host.Cell

/-! ### Registers of a context -/

/-- A domain register (15 Table 15.1). -/
structure DomReg where
  lo   : BitVec 32
  hi   : BitVec 32
  mask : BitVec 64
  deriving DecidableEq, Repr

/-- A g-register with its taint bit (09 R100). -/
structure GReg where
  v     : Word
  taint : Bool
  deriving DecidableEq, Repr

/-- An a-register with its taint bit and its stride registers k0 to k5 (09 R111). -/
structure AReg where
  v      : Addr
  taint  : Bool
  stride : Vector Addr 6
  deriving DecidableEq, Repr

/-- A b-register and the core step in which it was last written (09 R123). -/
structure BReg where
  v    : Word
  step : Nat
  deriving DecidableEq, Repr

/-- The loop sequencer (09 Table 9.7), with the drain state of 23 R351. -/
structure Loop where
  cnt     : Vector (BitVec 32) 6
  stages  : Nat
  run     : Bool
  k       : Nat
  body    : Word
  endA    : Word
  n       : Vector (BitVec 32) 6
  s       : Nat
  idx     : Vector (BitVec 33) 6
  n0      : BitVec 32
  drained : Option (BitVec 32 × Vector AReg 16)
  deriving DecidableEq, Repr

/-- The tile-sequencer cursor when it is not empty (17 R249). -/
structure Cursor where
  opc : Nat
  q   : Q512
  a   : R16
  b   : R16
  m   : Nat
  n   : Nat
  kk  : Nat
  ks  : Nat
  nbj : Nat
  nk  : Nat
  count : Nat
  pos : Nat
  deriving DecidableEq, Repr

/-- An entry of the constraint store (15 R222). -/
structure Constraint where
  opc  : Nat
  d    : R64
  a    : R64
  b    : R64
  kofs : BitVec 10
  mask : Word
  deriving DecidableEq, Repr

/-- cr.nstat without TOP, which is the length of the store (15 Table 15.6). -/
structure NStat where
  used  : BitVec 32
  entry : BitVec 8
  pass  : BitVec 11
  act   : Bool
  fail  : Bool
  bud   : Bool
  fp    : Bool
  deriving DecidableEq, Repr

/-- A checkpoint level (15 R237) without its registers, which stand in the core's domain save RAM. -/
structure Level where
  top   : Nat
  nstat : NStat
  deriving DecidableEq, Repr

/-- An effect of a domain form that is not yet applied (15 R215). -/
inductive DomEff where
  | narrow (ws : List (R64 × DomReg)) (record : Option Constraint)
  | set    (d : R64) (r : DomReg)
  | nprop
  | nclr
  | nckpt  (d : Vector DomReg 64) (l : Level)
  | nrest
  | npop
  deriving DecidableEq, Repr

/-- A pending domain effect: the core step at which it is applied, and the bundle of its form. -/
structure PendDom where
  due  : Nat
  hdr  : Word
  eff  : DomEff
  deriving DecidableEq, Repr

/-- A propagation episode that has not ended (15 R227, R233). -/
structure Episode where
  all   : Bool
  entry : Nat
  pass  : Nat
  used  : Nat
  prev  : Word
  cur   : Word
  hdr   : Word
  deriving DecidableEq, Repr

/-- A snapshot record of the held frame (24 R366): FILE, SLOT, TAINT, INDEX, LEN and its bytes as a number. -/
structure Snap where
  file  : BitVec 8
  slot  : R8
  taint : Bool
  index : BitVec 12
  len   : BitVec 32
  data  : Nat
  deriving DecidableEq, Repr

/-- The held frame (24 Table 24.3). The model's own, beside what the image holds: `p0`, the bundle of P0 of the match in progress (18 R276);
`cursor`, the tile sequencer's cursor at the first issue of the slots that are left, unless the frame came from memory (17 R258). -/
structure Frame where
  valid : Bool
  after : Bool
  pt    : Bool
  py    : Bool
  blk   : Bool
  sr    : R8
  addr  : Addr
  cause : BitVec 8
  faddr : Word
  info  : Word
  ptgt  : Word
  rwe   : BitVec 96
  prev  : Word
  cur   : Word
  bkind : BitVec 8
  baddr : Addr
  bval  : Word
  bmod  : BitVec 4
  tick  : Word
  b2kind : BitVec 8
  b2id  : Addr
  oslot : R8
  origin : Addr
  pact  : BitVec 8
  pn    : BitVec 8
  snaps : List Snap
  p0    : Option Word
  cursor : Option (Option Cursor)
  deriving DecidableEq, Repr

/-- A blocking condition of S0 (09 R124, R126). -/
inductive Block where
  | wait  (a : Addr) (c : Wc) (dword : Bool) (v : Word)
  | sleep (t : Word)
  deriving DecidableEq, Repr

/-- The kept blocks of a Blocked context (09 R130). -/
structure Blocks where
  s0  : Option Block
  bar : Option (Fin 4)
  deriving DecidableEq, Repr

/-- A fault met after commit, or a DD_TABLE_FULL, that waits for its delivery (24 R361, 21 R336). -/
structure PendFault where
  cause  : BitVec 8
  faddr  : Word
  info   : Word
  origin : Addr
  oslot  : R8
  deriving DecidableEq, Repr

/-! ### Memory accesses of a context -/

/-- One aligned element of an access: its address, its bytes, the store data, and the value once it has performed. -/
structure Elem where
  a    : Addr
  n    : Nat
  data : Word
  done : Bool
  val  : Word
  deriving DecidableEq, Repr

/-- What an access is (10 R150 to R158, R161, R298, 19 R302, 24 R371, R372). -/
inductive AccKind where
  | load (poc : Bool)
  | store
  | atom (op : AtOp) (sg : Sg) (x cmp : Word)
  | fence (e : Bool)
  | release
  | bara (b : Fin 4)
  | evsig (v : R64)
  | tlbinv (sc : Scope) (a : Option Word)
  deriving DecidableEq, Repr

/-- Where a load's value goes (10 R141 to R146). -/
inductive LoadDest where
  | none
  | g (d : R64) (n : Nat) (signed taint : Bool)
  | w (d : R64)
  | gath (d : R64)
  | tile (d : R16) (shape : BitVec 20)
  | tileMx4 (d : R16) (shape : BitVec 20) (sct : BitVec 512)
  | block (q : Q512)
  | sct
  | cpyst (d : R64)
  | card (d : R64) (job : Nat)
  | subCard (d : R64) (card : Nat)
  deriving DecidableEq, Repr

/-- An outstanding access, in program order. `mask` holds the classes it is ordered with (one bit for an access of one
class); `acq` marks an LDA or an STL; `rel` waits for every earlier store; `allRel` for every earlier access;
every later access waits for one with `acqAll`. -/
structure Access where
  id    : Nat
  kind  : AccKind
  mask  : BitVec 16
  scope : Scope
  elems : List Elem
  dest  : LoadDest
  due   : Nat
  acq   : Bool
  rel   : Bool
  allRel : Bool
  acqAll : Bool
  taint : Bool
  ldc   : Bool
  hdr   : Word
  slot  : R8
  poison : Option Addr
  fail  : Option (Addr × BitVec 8)
  deriving DecidableEq, Repr

/-! ### Results in flight -/

/-- An accumulating update of a block, with the sources it reads at issue (17 R247, R250, R252). -/
inductive AccOp where
  | mma (fmt : BitVec 12) (sct : BitVec 512) (ta tb : Bool) (ash bsh : BitVec 20) (aimg bimg : BitVec 262144)
      (m n k ks bi bj bk : Nat)
  | scale (fmt : BitVec 12) (s : BitVec 32)
  | add (fmt : BitVec 12) (v : BitVec 32768)
  | bias (fmt : BitVec 12) (sh : BitVec 20) (img : BitVec 262144)
  deriving DecidableEq, Repr

/-- A write that becomes visible at a later step (03 R40). -/
inductive Wr where
  | g (d : R64) (v : Word) (taint : Bool)
  | a (d : R16) (v : Addr) (taint : Bool)
  | stride (d : R16) (j : Lvl) (v : Addr)
  | p (d : R16) (v : Bool)
  | sp (v : BitVec 8)
  | b (d : R8) (v : Word) (step : Nat)
  | w (d : R64) (v : BitVec 4096)
  | tile (d : R16) (mask data : BitVec 262144)
  | q (d : Q512) (v : BitVec 32768)
  | acc (d : Q512) (op : AccOp)
  | cr (n : BitVec 10) (v : Word)
  | fmt (v : BitVec 12)
  | dom (d : R64) (v : Word)
  | load (id : Nat)
  | flags
  deriving DecidableEq, Repr

/-- A result in flight: its context, the core step at which it becomes visible, and the flags it raises. -/
structure Flight where
  ctx   : CtxId
  due   : Nat
  wr    : Wr
  flags : BitVec 7
  deriving DecidableEq, Repr

/-! ### Contexts -/

/-- Where a context stands for the selector. A context held by a fatal trap is `held`; a Trapped context in handler
mode is ready, running or blocked with `hm` set (24 R360). -/
inductive RunState where
  | unloaded | ready | running | blocked | held | halted
  deriving DecidableEq, Repr

/-- A fired rewrite match: its entry, its variables and the first matched position that has not issued (18 R271). -/
structure Fired where
  entry : Fin 64
  vars  : Vector (BitVec 10) 7
  next  : Nat
  hdr0  : Word
  deriving DecidableEq, Repr

/-- One context (03 Table 3.2, 24 Table 24.6). The model's own: `fmtAt`, the core step at which a SETFMT or SETSCT value
last took effect (18 Table 18.1); `waitHdr`, the bundle of the kept WAIT; `kept`, that bundle and the SLEEPU target set
aside while a trap is handled; `doneWide`, whether an engine job of the context of die scope or wider has completed
(10 R157). -/
structure Ctx where
  run    : RunState
  pc     : Word
  g      : Vector GReg 64
  a      : Vector AReg 16
  p      : Vector Bool 16
  sp     : BitVec 8
  b      : Vector BReg 8
  d      : Vector DomReg 64
  w      : Vector (BitVec 4096) 64
  bank   : Vector (BitVec 32) 1024
  loop   : Loop
  cursor : Option Cursor
  pri    : Bool
  priNext : Option Bool
  span   : Word
  egy    : BitVec 48
  egyFrac : BitVec 16
  fmt    : BitVec 12
  fmtAt  : Option Nat
  vstat  : BitVec 7
  rwp    : BitVec 2
  nbud   : BitVec 32
  nstat  : NStat
  nbt    : Bool
  npe    : Bool
  ftv    : Word
  fpc    : Word
  sct    : BitVec 512
  mshp   : Vector (BitVec 20) 16
  hm     : Bool
  thv    : Word
  tsv    : Vector Word 8
  ptroot : Word
  asid   : BitVec 7
  frame  : Frame
  store  : List Constraint
  levels : List Level
  episode : Option Episode
  pendDom : List PendDom
  accs   : List Access
  nextId : Nat
  blocks : Blocks
  awake  : Bool
  phase  : Vector (BitVec 32) 4
  faults : List PendFault
  fired  : Option Fired
  noRewrite : Bool
  bubbles : Nat
  transferred : Bool
  replay : Option (List Snap)
  lastHdr : Word
  waitHdr : Word
  promiseT : Option Word
  kept    : Word × Option Word
  doneWide : Bool
  waitFail : Option Nat
  stopping : Bool
  deriving DecidableEq, Repr

/-! ### Cores -/

/-- A ring's declaration (19 R292). -/
structure RingDecl where
  o : Nat
  n : Nat
  z : Nat
  deriving DecidableEq, Repr

/-- The state of a ring slot as the engine keeps it (19 Table 19.6). -/
inductive SlotState where
  | empty | full | finished
  deriving DecidableEq, Repr

/-- An active subscription (19 R294, R295): `held` are the tiles pulled and not yet written, `loaded` and `put` the pieces
of the tile that the loader and the storer are writing, `bytes` the bytes moved (27 R409). -/
structure Sub where
  owner  : CtxId
  card   : Nat
  mode   : Nat
  src    : Addr
  dst    : Addr
  words  : Vector Word 5
  td     : Nat
  cursor : Nat
  slots  : List SlotState
  tile   : Nat
  acks   : Nat
  pulled : Nat
  stored : Nat
  held   : List (Nat × List Byte)
  loaded : List Nat
  put    : List Nat
  bytes  : Nat
  ending : Option Nat
  deriving DecidableEq, Repr

/-- An operation in a core's Bracken queue (21 R319, R320). -/
structure DdEntry where
  ctx   : CtxId
  opc   : Nat
  fn    : Nat
  x     : Word
  y     : Word
  z     : Word
  rcd   : Option Nat
  seq   : Nat
  waitId : Nat
  accepted : Bool
  abandoned : Bool
  result : Option (BitVec 8 × Word × Word)
  reads : Nat
  deriving DecidableEq, Repr

/-- A cached line: physical line number, its 64 bytes, and the granules of it that are poisoned (10 R136, R165). -/
structure L1Line where
  line : Nat
  data : BitVec 512
  poison : List Nat
  deriving DecidableEq, Repr

/-- A TLB entry: address space, page base, page size, leaf (24 R377). -/
structure TlbEntry where
  asid : BitVec 7
  base : Nat
  size : Nat
  leaf : Word
  deriving DecidableEq, Repr

/-- What a resident launch allots to the contexts of a core (06 Table 6.4, 03 R29). -/
structure Allot where
  group   : Nat
  nheaths : Nat
  rheath  : Nat
  cmask   : BitVec 8
  nctx    : Nat
  scratch : Nat
  acc     : Nat
  tiles   : Nat
  domains : Nat
  store   : Nat
  queue1  : Nat
  queue2  : Nat
  queue3  : Nat
  part    : Nat
  deriving DecidableEq, Repr

/-- A bundle of a split window that has issued and not committed (27 R405): CYC at its issue and the control registers it
read then. -/
structure SplitIssue where
  cyc : Word
  crs : List (BitVec 10 × Word)
  deriving DecidableEq, Repr

/-- An 8-byte word of a register file, a tile or an accumulator block (10 R164); a d-register has one only as a copy of a poisoned
word of the save RAM (R165). -/
inductive RWord where
  | w (x : CtxId) (d : R64) (k : Nat)
  | d (x : CtxId) (d : R64) (k : Nat)
  | tile (t : Fin 16) (k : Nat)
  | block (q : Fin 512) (k : Nat)
  deriving DecidableEq, Repr

/-- Why a core is frozen (03 Table 3.7), the index of its freeze counter. -/
inductive FreezeCause where
  | lateral | l1miss | translation | domain | settle | droop
  deriving DecidableEq, Repr

/-- Heartbeat watch of a core (03 R49, R50). -/
structure Beat where
  last    : Vector (Option Word) 4
  seen    : Bool
  misses  : Nat
  watched : Option Nat
  deriving DecidableEq, Repr

/-- cr.opp (27 Table 27.2). -/
structure Opp where
  rem : BitVec 8
  cap : R8
  tgt : R8
  set : Bool
  cur : R8
  deriving DecidableEq, Repr

/-- One core with its vault. The model's own: `doneSubs` and `doneDds`, the cards of subscriptions that have ended and the records of
Bracken operations that have completed, so that their completion can be observed (10 R162). `stretch` counts the cycle in
progress and the stretched cycles to come (27 R404). -/
structure Core where
  step    : Nat
  clock   : Nat
  last    : CtxId
  current : Option CtxId
  switching : Bool
  fresh   : Bool
  allot   : Option Allot
  ctxs    : Vector Ctx 4
  vault   : Memory
  vpoison : List Nat
  rpoison : List RWord
  saveRam : Memory
  spoison : List Nat
  ispad   : Memory
  ipoison : List Nat
  marks   : List Nat
  tiles   : Vector (BitVec 262144) 16
  blocks  : Vector (BitVec 32768) 512
  l1      : List L1Line
  tlb     : List TlbEntry
  rules   : Vector (BitVec 256) 64
  inflight : List Flight
  freezeLeft : Nat
  freezeWhy : FreezeCause
  tlbAck  : Bool
  opp     : Opp
  droopMv : Nat
  stretch : Nat
  split   : Nat
  splitAt : Option SplitIssue
  freezes : Vector Nat 6
  firings : Vector Nat 64
  spanEgy : Vector Word 4
  errors  : Nat
  beat    : Beat
  ddq     : Vector (Option DdEntry) 16
  ddSeq   : Nat
  rings   : Vector (Option RingDecl) 4
  subs    : Vector (Option Sub) 4
  doneSubs : List Nat
  doneDds : List Nat
  deriving DecidableEq, Repr

/-! ### Heaths, dies, spaces and engine jobs -/

/-- A heath barrier (19 R301). -/
structure Barrier where
  phase : BitVec 32
  count : Nat
  relTick : Nat
  deriving DecidableEq, Repr

/-- A heath (01 R17): `sensor` is what its temperature sensor shows, `temp` what the last sample read (27 R410). -/
structure Heath where
  bars  : Vector Barrier 4
  gated : Bool
  lost  : Bool
  retired : Bool
  temp  : Int
  sensor : Int
  group : Option Nat
  deriving DecidableEq, Repr

/-- A compute die's shared units: the instruction cache's lines and the die TLB (19 R307, 24 R377). -/
structure Die where
  icache : List L1Line
  tlb    : List TlbEntry
  deriving DecidableEq, Repr

/-- A node of a space (21 Table 21.2). -/
structure Node where
  id    : Nat
  level : Nat
  lo    : Nat
  hi    : Nat
  ref   : Nat
  deriving DecidableEq, Repr

/-- A Bracken space (21 R311, R317, R331). `nodes` lists every node that is not free and is no terminal; `ptes` the leaves
the root monitor changed, with the entries they held before (R311). -/
structure Space where
  group : Nat
  pool  : Nat
  cap   : Nat
  nvars : Nat
  hwm   : Nat
  nodes : List Node
  ord   : List Nat
  ops   : Nat
  badop : Nat
  badref : Nat
  abandon : Nat
  gcs   : Nat
  hits  : Nat
  ptes  : List (Nat × Word)
  deriving DecidableEq, Repr

/-- The kinds of engine job. -/
inductive JobKind where
  | copy | icopy | icinv
  deriving DecidableEq, Repr

/-- A copy-engine or code-load job (19 R280 to R288, R306, R307): the card's address, its 64 bytes once read, its promise,
the tick by which it ends when nothing holds it (R288), the tick of its start, the bundle that started it, the elements
moved, the acknowledgements of a far copy's writes (R283), the code with which it ends, whether it was held, and whether it has
ended (an ended job stays listed, so that its completion can be observed); `past`, whether its card has started another since
(it stays listed while its promise still bears on later jobs, R287). -/
structure Job where
  id    : Nat
  kind  : JobKind
  core  : CoreId
  ctx   : CtxId
  card  : Nat
  image : Option (BitVec 512)
  promise : Option Nat
  dead  : Option Nat
  start : Nat
  hdr   : Word
  moved : List Nat
  acked : Nat
  status : Option Nat
  held  : Bool
  ended : Bool
  past  : Bool
  deriving DecidableEq, Repr

/-- A page walk in progress or waiting, or a held replayable fault (24 R377, R378). -/
structure Walk where
  die   : Fin 12
  asid  : BitVec 7
  page  : Nat
  unit  : BitVec 20
  faulted : Bool
  reported : Bool
  deriving DecidableEq, Repr

/-- A line pinned by a global ATOM (10 R159): its line number, its holder, the context that made it. -/
structure Pin where
  line  : Nat
  heath : Bool
  core  : CoreId
  scope : Scope
  ctx   : CtxId
  deriving DecidableEq, Repr

/-! ### Host queues, launches and partitions -/

/-- A queue descriptor (23 Table 23.4) with the dispatcher's own books (23 R343, R344). The model's own: `flush`, the code with
which its records complete once the host port is up and they can be read (26 R391, R392). -/
structure Queue where
  base   : Word
  tail   : BitVec 16
  head   : BitVec 16
  sizelog : BitVec 4
  prio   : BitVec 2
  cancel : Bool
  frozen : Bool
  owner  : Option (Fin 97)
  age    : Nat
  mapped : Bool
  flush  : Option Nat
  deriving DecidableEq, Repr

/-- A job control block (23 R345). -/
structure Jcb where
  expect : BitVec 32
  done   : BitVec 32
  err    : Bool
  deriving DecidableEq, Repr

/-- A record the dispatcher knows: queue, its 64 bytes, the code with which it ends once that is decided, whether it has
been flushed with that code and only waits for room in the hub to complete (26 R392), whether it has
posted to its job control block, the 64-byte pieces a COPY has moved, whether its work has begun, whether it is a LAUNCH
that waits at the head of its queue, and whether it has completed (a completed LAUNCH or COPY stays listed while a
JCB_RAISE may ask whether it has posted, 23 R345). -/
structure Record where
  id    : Nat
  queue : Fin 4096
  body  : BitVec 512
  code  : Option Nat
  flushed : Bool
  posted : Bool
  moved : List Nat
  begun : Bool
  atHead : Bool
  ended : Bool
  deriving DecidableEq, Repr

/-- How a group is being stopped (23 R350, R351). -/
inductive StopMode where
  | drain | checkpoint | kill
  deriving DecidableEq, Repr

/-- A saved core: contexts, tiles, accumulator blocks, vault, domain save RAM, poison, last beats, rings and unaccepted Bracken
entries (23 R351, 03 R50, 10 R165). -/
structure SavedCore where
  pos    : Nat
  ctxs   : Vector Ctx 4
  tiles  : Vector (BitVec 262144) 16
  blocks : Vector (BitVec 32768) 512
  vault  : Memory
  vpoison : List Nat
  rpoison : List RWord
  saveRam : Memory
  spoison : List Nat
  beats  : Vector (Option Word) 4
  subs   : Vector (Option Sub) 4
  ddq    : Vector (Option DdEntry) 16
  deriving DecidableEq, Repr

/-- The phases of a launch group. -/
inductive GroupPhase where
  | waiting | bound | resident | stopping | saved | ended
  deriving DecidableEq, Repr

/-- A launch group (23 R348 to R352): its record, its image's 256-byte header, heaths, times and saved state; the groups
pre-empted while it waits (R350), and the heaths a thermal migration moves it to (27 R411). -/
structure Group where
  id     : Nat
  record : Nat
  header : BitVec 2048
  image  : Word
  part   : Nat
  asid   : BitVec 7
  phase  : GroupPhase
  heaths : List (Fin 24)
  release : Nat
  resumed : Nat
  code   : Option Nat
  stop   : Option StopMode
  stopAt : Nat
  saved  : List (Nat × SavedCore)
  bars   : List (Vector Barrier 4)
  records : List (BitVec 20 × Word)
  victims : List Nat
  target : List (Fin 24)
  deriving DecidableEq, Repr

/-- A measured image (26 Table 26.6). -/
structure Meas where
  kind   : BitVec 8
  keyid  : BitVec 8
  version : BitVec 32
  digest : BitVec 512
  deriving DecidableEq, Repr

/-- A partition record (23 Table 23.7), with the body of its handler image and its measurement (26 R393). -/
structure Partition where
  heaths : BitVec 24
  prio   : BitVec 4
  hard   : Bool
  hbmmin : Vector (BitVec 8) 12
  mscmin : Vector (BitVec 4) 12
  qslots : BitVec 8
  droop  : BitVec 8
  vfmask : BitVec 96
  hbi    : BitVec 32
  wpath  : Vector (BitVec 16) 4
  handler : Word
  suspended : Bool
  image  : List Byte
  meas   : Option Meas
  jcbs   : List (Nat × Jcb)
  deriving DecidableEq, Repr

/-- A layout (23 R353): the header's fields, the partition records and the slot tables, stop by stop; an entry that is not
listed is open. -/
structure Layout where
  version : BitVec 32
  quantum : BitVec 32
  probe   : BitVec 32
  ths     : BitVec 8
  parts   : List Partition
  slots   : List Byte
  deriving DecidableEq, Repr

/-- A layout commit in progress (23 R355): the staged layout, the measurements of its handler images, the LAYOUT record (none
when the root monitor acts by itself), whether the units are quiet, and the number of the first engine job that is held as new
work. -/
structure Commit where
  next   : Layout
  meas   : List Meas
  record : Option Nat
  quiet  : Bool
  jobs   : Nat
  deriving DecidableEq, Repr

/-! ### Host interface -/

/-- An interrupt vector (26 Table 26.3). -/
structure IVec where
  addr : Word
  data : BitVec 32
  mask : Bool
  pend : Bool
  deriving DecidableEq, Repr

/-- A transaction the module sends (26 Table 26.2). A completion bears the tag, the function and the partition slot of its request; on the
host port there is no slot, and `pslot` is 0. -/
inductive Tx where
  | mwr (f : BitVec 7) (pslot : BitVec 5) (tag : BitVec 10) (a : Word) (data : List Byte)
  | mrd (f : BitVec 7) (tag : BitVec 10) (a : Word) (n : Nat)
  | cpl (f : BitVec 7) (pslot : BitVec 5) (tag : BitVec 10) (status : BitVec 3) (data : List Byte)
  deriving DecidableEq, Repr

/-- A Ditum port (26 R382, R383): send and receive sequence numbers, the flits not acknowledged with their bytes, the last
replayed, and the transactions that wait for room in the replay buffer. -/
structure Port where
  up     : Bool
  sendSeq : BitVec 12
  recvSeq : BitVec 12
  buffer : List (BitVec 12 × List Byte)
  replays : Nat
  lastNak : Option (BitVec 12)
  waiting : List Tx
  deriving DecidableEq, Repr

/-- An entry of a port table (26 R389): remote partition and remote virtual function. -/
structure PeerEntry where
  q : BitVec 5
  f : BitVec 7
  deriving DecidableEq, Repr

/-- What has left the module on its ports, in order: flits, and the transactions the flits carry (26 Table 26.1). -/
inductive Outgoing where
  | flit (port : Fin 9) (bytes : List Byte)
  | tx (port : Fin 9) (x : Tx)
  deriving DecidableEq, Repr

/-- A held device write to host memory (26 R392): function, address and bytes. -/
structure HostWrite where
  f    : BitVec 7
  a    : Nat
  data : List Byte
  deriving DecidableEq, Repr

/-- A link request refused at a pinned line, with the tick of its next try (26 R385). -/
structure Retry where
  tick : Nat
  port : Fin 9
  f    : BitVec 7
  pslot : BitVec 5
  tx   : PeerTx
  deriving DecidableEq, Repr

/-- A trap-queue record that waits for room (24 R380). -/
structure TrapRec where
  kind  : BitVec 8
  cause : BitVec 8
  vf    : BitVec 8
  part  : BitVec 5
  unit  : BitVec 20
  tick  : Word
  faddr : Word
  frame0 : Word
  info  : Word
  recAddr : Word
  deriving DecidableEq, Repr

/-- A probe on its way (03 R53): initiator, addressee and hops made. -/
structure Probe where
  origin : BitVec 20
  target : BitVec 20
  hops   : Nat
  deriving DecidableEq, Repr

/-- The management processor and root monitor (26 R393 to R397, 27 R410 to R412). -/
structure Monitor where
  nonce   : BitVec 256
  forming : Option (List Byte)
  ready   : Bool
  report  : List Byte
  meas    : List Meas
  table   : BitVec 512
  slot    : List Byte
  mailbox : Memory
  verifying : Bool
  recovery : Bool
  badImage : Bool
  noMigrate : Bool
  capTick : Option Nat
  errors  : Nat
  splitOk : Bool
  deriving DecidableEq, Repr

/-- The hub's error counters and queues (24 R379, R380, 26 R384, R392); `presets` are the partitions whose reset is under way
(26 R391), `irqs` the interrupt messages that wait for room among the held writes (26 R392). -/
structure Hub where
  tqbase  : Word
  tqtail  : BitVec 32
  tqhead  : BitVec 32
  deferred : List TrapRec
  drops   : Nat
  errors  : Nat
  hostQ   : List HostWrite
  irqs    : List (Fin 97 × R64)
  retries : List Retry
  out     : List Outgoing
  walks   : List Walk
  vectors : Vector (Vector IVec 64) 97
  resets  : List (Fin 96)
  presets : List Nat
  ports   : Vector Port 9
  peers   : Vector (List (Nat × PeerEntry)) 8
  cxl     : Vector Bool 2
  deriving DecidableEq, Repr

/-! ### The bundle being committed -/

/-- A taken transfer: its target, its fetch-bubble steps, and whether its start mark is checked (05 R75, 09 R114, R123). -/
structure Transfer where
  target  : Word
  bubbles : Nat
  checked : Bool
  deriving DecidableEq, Repr

/-- The model's own: the bundle and slot being committed, the deferred actions of 05 R73, and whether a trap has
stopped the bundle, a failure has discarded its higher slots, and a TRET has committed; `crs` holds the control registers
the bundle read at its issue (05 R69), `repl` the operation that stands in for its S6 slot (18 R271) (log 7). -/
structure Env where
  core   : CoreId
  ctx    : CtxId
  slot   : R8
  hdr    : Word
  next   : Word
  slots  : List (Fin 8 × Instr)
  lits   : List (BitVec 32)
  crs    : List (BitVec 10 × Word)
  repl   : Option Instr
  loop0  : Loop
  transfer : Option Transfer
  pact   : BitVec 8
  pn     : BitVec 8
  yield  : Bool
  block  : Blocks
  stopped : Bool
  discard : Bool
  tret   : Bool
  deriving DecidableEq, Repr

/-- A line of an MSC slice (10 R137): its 256-byte line number, the partition that brought it in (23 Table 23.7), and its valid and
dirty 64-byte sectors. -/
structure MscLine where
  line  : Nat
  part  : Nat
  valid : BitVec 4
  dirty : BitVec 4
  deriving DecidableEq, Repr

/-- Where an ECC error strikes (10 R164, R165): a 64-byte sector of memory, or an 8-byte word of a vault, of a register file, a tile or a block, of the
domain save RAM or the instruction scratchpad, or of a line of a core's L1 or a die's instruction cache. -/
inductive EccPlace where
  | vault (c : CoreId) (g : Fin 524288)
  | mem (g : Nat)
  | reg (c : CoreId) (r : RWord)
  | saveRam (c : CoreId) (g : Fin 8192)
  | ispad (c : CoreId) (g : Fin 32768)
  | l1 (c : CoreId) (line : Nat) (g : Nat)
  | icache (d : Fin 12) (line : Nat) (g : Nat)
  deriving DecidableEq, Repr

/-- What comes from outside the device's clocked parts (log 2): an instruction that stands for an event of the host, a link, a
sensor or firmware; an ECC error, corrected or not (10 R165); the temperatures the sensors show (27 R410); an access of `n` bytes to a
window (26 R386); a MSG of a code the device does not accept (26 R384). -/
inductive Input where
  | instr (i : Instr)
  | corrected
  | uncorrectable (p : EccPlace)
  | sensors (t : List Int)
  | windowRead (f : Fin 97) (tag : BitVec 10) (ofs n : Nat)
  | windowWrite (f : Fin 97) (ofs : Nat) (data : List Byte)
  | message
  deriving DecidableEq, Repr

/-- The whole module: `gpoison` lists the poisoned 64-byte sectors of memory (10 Table 10.9); `recMem` is the region of the MSC that holds context records, and `recNext` the bytes of it in use (24
R375). -/
structure State where
  cyc     : Word
  turn    : Nat
  choices : Nat
  inbox   : List (Nat × Input)
  env     : Env
  cores   : Vector Core 192
  heaths  : Vector Heath 24
  dies    : Vector Die 12
  gmem    : Memory
  gpoison : List Nat
  hmem    : Memory
  msc     : Vector (List MscLine) 12
  recMem  : Memory
  recNext : Nat
  pins    : List Pin
  retests : Bool
  roots   : Vector Word 96
  spaces  : List Space
  jobs    : List Job
  nextJob : Nat
  queues  : Vector Queue 4096
  records : List Record
  nextRec : Nat
  groups  : List Group
  layout  : Layout
  commit  : Option Commit
  probes  : List Probe
  probed  : List (BitVec 20 × Nat × Bool)
  hbmRetired : Vector Nat 12
  mscRetired : Vector Nat 12
  hub     : Hub
  mon     : Monitor
  deriving DecidableEq, Repr

/-! ### Reset -/

/-- d-registers hold the set {0} at launch (15 R210). -/
def DomReg.zero : DomReg := ⟨0, 0, 1⟩
/-- An a-register of 0. -/
def AReg.zero : AReg := ⟨0, false, Vector.replicate 6 0⟩
/-- A loop sequencer as after LCLR (09 R120). -/
def Loop.clear : Loop :=
  ⟨Vector.replicate 6 0, 1, false, 0, 0, 0, Vector.replicate 6 0, 1, Vector.replicate 6 0, 0, none⟩
/-- cr.nstat at launch (15 Table 15.6). -/
def NStat.zero : NStat := ⟨0, 0, 0, false, false, false, false⟩
/-- No frame held. -/
def Frame.empty : Frame :=
  ⟨false, false, false, false, false, 0, 0, 0, 0, 0, 0, 0, 0, 0, 0, 0, 0, 0, 0, 0, 0, 0, 0, 0, 0, [], none, none⟩
/-- The scale table at launch: every entry 0x3F80_0000 (12 R172). -/
def sctLaunch : BitVec 512 := BitVec.ofNat 512 (0x3F800000 * ((2 ^ 512 - 1) / (2 ^ 32 - 1)))

/-- A context whose registers hold their launch values (23 R349) and that is not allotted. -/
def Ctx.reset : Ctx where
  run := .unloaded
  pc := 0
  g := Vector.replicate 64 ⟨0, false⟩
  a := Vector.replicate 16 AReg.zero
  p := (Vector.replicate 16 false).set 0 true
  sp := 0
  b := Vector.replicate 8 ⟨0, 0⟩
  d := Vector.replicate 64 DomReg.zero
  w := Vector.replicate 64 0
  bank := Vector.replicate 1024 0
  loop := Loop.clear
  cursor := none
  pri := false
  priNext := none
  span := 0
  egy := 0
  egyFrac := 0
  fmt := 0
  fmtAt := none
  vstat := 0
  rwp := 0
  nbud := 0
  nstat := NStat.zero
  nbt := false
  npe := true
  ftv := 0
  fpc := 0
  sct := sctLaunch
  mshp := Vector.replicate 16 0x01F1F
  hm := false
  thv := 0
  tsv := Vector.replicate 8 0
  ptroot := 0
  asid := 0
  frame := Frame.empty
  store := []
  levels := []
  episode := none
  pendDom := []
  accs := []
  nextId := 0
  blocks := ⟨none, none⟩
  awake := false
  phase := Vector.replicate 4 0xFFFFFFFF
  faults := []
  fired := none
  noRewrite := false
  bubbles := 0
  transferred := false
  replay := none
  lastHdr := 0
  waitHdr := 0
  promiseT := none
  kept := (0, none)
  doneWide := false
  waitFail := none
  stopping := false

/-- A core after reset: no launch, operating point 7 settled (log 1), droop threshold 40 mV (27 R403). -/
def Core.reset : Core where
  step := 0
  clock := 0
  last := 3
  current := none
  switching := false
  fresh := false
  allot := none
  ctxs := Vector.replicate 4 Ctx.reset
  vault := []
  vpoison := []
  rpoison := []
  saveRam := []
  spoison := []
  ispad := []
  ipoison := []
  marks := []
  tiles := Vector.replicate 16 0
  blocks := Vector.replicate 512 0
  l1 := []
  tlb := []
  rules := Vector.replicate 64 0
  inflight := []
  freezeLeft := 0
  freezeWhy := .lateral
  tlbAck := false
  opp := ⟨0, 7, 7, false, 7⟩
  droopMv := 40
  stretch := 0
  split := 0
  splitAt := none
  freezes := Vector.replicate 6 0
  firings := Vector.replicate 64 0
  spanEgy := Vector.replicate 4 0
  errors := 0
  beat := ⟨Vector.replicate 4 none, false, 0, none⟩
  ddq := Vector.replicate 16 none
  ddSeq := 0
  rings := Vector.replicate 4 none
  subs := Vector.replicate 4 none
  doneSubs := []
  doneDds := []

/-- A heath after reset: its unit holds no barrier state (19 R301). -/
def Heath.reset : Heath := ⟨Vector.replicate 4 ⟨0, 0, 0⟩, false, false, false, 0, 0, none⟩
/-- The layout after reset: no partition, the default quantum, probe delay and threshold (23 R344, 03 R53, 27 R410). The spec
gives the slot tables no value before the first commit: every entry stands open. DESIGN CHOICE (log 1). -/
def Layout.reset : Layout := ⟨0, 3500000, 175000, 95, [], []⟩
/-- A queue descriptor after reset: all 0, the queue disabled (23 Table 23.4). -/
def Queue.reset : Queue := ⟨0, 0, 0, 0, 0, false, false, none, 0, false, none⟩
/-- A port after reset: up, with nothing sent (log 1). -/
def Port.reset : Port := ⟨true, 0, 0, [], 0, none, []⟩
/-- The images the root monitor has loaded at boot: itself, the scheduler firmware and the decode table (26 R393, log 5). -/
def bootMeas : List Meas :=
  [1, 2, 3].map fun k => ⟨BitVec.ofNat 8 k, Config.bootKeyid k, Config.bootVersion k, Config.bootDigest k⟩
/-- The monitor after a boot whose image verified (log 5). -/
def Monitor.reset : Monitor :=
  ⟨0, none, false, [], bootMeas, Config.tableDigest, [], [], false, false, false, false, none, 0, false⟩
/-- The hub after reset: trap queue empty (26 Table 26.7), ports up, no interrupt vectors set (log 1). -/
def Hub.reset : Hub where
  tqbase := 0
  tqtail := 0
  tqhead := 0
  deferred := []
  drops := 0
  errors := 0
  hostQ := []
  irqs := []
  retries := []
  out := []
  walks := []
  vectors := Vector.replicate 97 (Vector.replicate 64 ⟨0, 0, false, false⟩)
  resets := []
  presets := []
  ports := Vector.replicate 9 Port.reset
  peers := Vector.replicate 8 []
  cxl := Vector.replicate 2 true

/-- No bundle: core 0, context 0 (log 7). -/
def Env.reset : Env := ⟨0, 0, 0, 0, 0, [], [], [], none, Loop.clear, none, 0, 0, false, ⟨none, none⟩, false, false, false⟩

/-- The module right after reset. -/
def State.reset : State where
  cyc := 0
  turn := 0
  choices := 0
  inbox := []
  env := Env.reset
  cores := Vector.replicate 192 Core.reset
  heaths := Vector.replicate 24 Heath.reset
  dies := Vector.replicate 12 ⟨[], []⟩
  gmem := []
  gpoison := []
  hmem := []
  msc := Vector.replicate 12 []
  recMem := []
  recNext := 0
  pins := []
  retests := false
  roots := Vector.replicate 96 0
  spaces := []
  jobs := []
  nextJob := 0
  queues := (Vector.replicate 4096 Queue.reset).set 0 { Queue.reset with owner := some 96 }
  records := []
  nextRec := 0
  groups := []
  layout := Layout.reset
  commit := none
  probes := []
  probed := []
  hbmRetired := Vector.replicate 12 0
  mscRetired := Vector.replicate 12 0
  hub := Hub.reset
  mon := Monitor.reset

end Sys2Proof.Machine
end

