-- ==== Sys2Proof/Machine/Flags.lean ====
section
/-!
DEFINITION. Numeric formats and sticky flags (12): exact values, RoundToFormat, ConvertToInt, the sign and NaN rules of
exact sums, and the special functions (13 R190, R191). Exact finite values are naturals counted in a unit 2^-U.
-/
namespace Sys2Proof.Machine

/-! ### Sticky flags (12 Table 12.6) -/

/-- No flag. -/
def noFlags : BitVec 7 := 0
/-- A result differed from its exact value. -/
def fNX : BitVec 7 := 1
/-- An inexact result was tiny. -/
def fUF : BitVec 7 := 2
/-- A rounded result exceeded the largest finite value. -/
def fOF : BitVec 7 := 4
/-- Invalid. -/
def fNV : BitVec 7 := 8
/-- Division of a finite nonzero value by zero. -/
def fDZ : BitVec 7 := 16
/-- Saturated or clamped. -/
def fSAT : BitVec 7 := 32
/-- Outside a reduction range. -/
def fRANGE : BitVec 7 := 64

/-- `f` when `p`, else no flag. -/
def flagIf (p : Bool) (f : BitVec 7) : BitVec 7 := if p then f else noFlags

/-! ### Formats (12 Table 12.1) -/

/-- A floating-point format: width, fraction bits, bias, code of the largest finite value, codes of infinity and of the
default NaN where it has them. -/
structure Fmt where
  width : Nat
  frac  : Nat
  bias  : Nat
  maxc  : Nat
  inf   : Option Nat
  nan   : Option Nat
  deriving DecidableEq, Repr

/-- FP32. -/
def fp32 : Fmt := ⟨32, 23, 127, 0x7F7FFFFF, some 0x7F800000, some 0x7FC00000⟩
/-- FP16. -/
def fp16 : Fmt := ⟨16, 10, 15, 0x7BFF, some 0x7C00, some 0x7E00⟩
/-- BF16. -/
def bf16 : Fmt := ⟨16, 7, 127, 0x7F7F, some 0x7F80, some 0x7FC0⟩
/-- E4M3: no infinity; the codes 0x7F and 0xFF are NaN. -/
def e4m3 : Fmt := ⟨8, 3, 7, 0x7E, none, some 0x7F⟩
/-- E5M2. -/
def e5m2 : Fmt := ⟨8, 2, 15, 0x7B, some 0x7C, some 0x7E⟩
/-- E2M1: every code finite. -/
def e2m1 : Fmt := ⟨4, 1, 1, 0x7, none, none⟩
/-- E3M2: every code finite. -/
def e3m2 : Fmt := ⟨6, 2, 3, 0x1F, none, none⟩
/-- E2M3: every code finite. -/
def e2m3 : Fmt := ⟨6, 3, 1, 0x1F, none, none⟩
/-- FP64 (21 R325). -/
def fp64 : Fmt := ⟨64, 52, 1023, 0x7FEFFFFFFFFFFFFF, some 0x7FF0000000000000, some 0x7FF8000000000000⟩

/-- The format of a floating-point element type; FP32 for the others, which do not ask. -/
def tyFmt : VTy → Fmt
  | .f16 => fp16 | .bf16 => bf16 | .e4m3 => e4m3 | .e5m2 => e5m2 | .e2m1 => e2m1 | .e3m2 => e3m2 | .e2m3 => e2m3
  | _ => fp32

/-- An exact value: NaN, an infinity, or a sign and a magnitude counted in a unit the context gives. -/
inductive XVal where
  | nan
  | inf (neg : Bool)
  | fin (neg : Bool) (n : Nat)
  deriving DecidableEq, Repr

/-- The exact value of a code of format `f`, in units of 2^-u, where `u` is at least the exponent of its smallest
subnormal (12 R168). -/
def decodeFp (f : Fmt) (u : Nat) (code : Nat) : XVal :=
  let sgn := code / 2 ^ (f.width - 1) % 2 == 1
  let mag := code % 2 ^ (f.width - 1)
  let e := mag / 2 ^ f.frac
  let m := mag % 2 ^ f.frac
  if mag ≤ f.maxc then
    let base := u + 1 - f.bias - f.frac
    if e = 0 then .fin sgn (m * 2 ^ base) else .fin sgn ((2 ^ f.frac + m) * 2 ^ (base + e - 1))
  else if f.inf = some mag then .inf sgn
  else .nan

/-- Is a code NaN? -/
def isNanCode (f : Fmt) (code : Nat) : Bool := decodeFp f 1100 code == .nan

/-- The sign bit of a format. -/
def signBit (f : Fmt) (neg : Bool) : Nat := if neg then 2 ^ (f.width - 1) else 0

/-- The default NaN; 0 in a format without NaN. -/
def defaultNan (f : Fmt) : Nat := f.nan.getD 0

/-- One step of rounding: `q` and the remainder `r` of a division by `d` (12 Table 12.3). -/
def roundStep (rm : Rm) (neg : Bool) (q r d : Nat) : Nat :=
  match rm with
  | .rn => if 2 * r > d ∨ (2 * r = d ∧ q % 2 = 1) then q + 1 else q
  | .rz => q
  | .ru => if r ≠ 0 ∧ neg = false then q + 1 else q
  | .rd => if r ≠ 0 ∧ neg = true then q + 1 else q

/-- ⌊log2 (num / den)⌋ for positive num and den. -/
def ilog2 (num den : Nat) : Int :=
  let e : Int := (Nat.log2 num : Int) - (Nat.log2 den : Int)
  let ok := if 0 ≤ e then den * 2 ^ e.toNat ≤ num else den ≤ num * 2 ^ (-e).toNat
  if ok then e else e - 1

/-- RoundToFormat of a finite magnitude num/den (12 R174): the result code and the flags. -/
def roundFin (f : Fmt) (rm : Rm) (sat : Bool) (neg : Bool) (num den : Nat) : Nat × BitVec 7 :=
  if num = 0 then (signBit f neg, noFlags)
  else
    let emin : Int := 1 - (f.bias : Int)
    let e := max (ilog2 num den) emin
    let sh : Int := e - (f.frac : Int)
    let n2 := if 0 ≤ sh then num else num * 2 ^ (-sh).toNat
    let d2 := if 0 ≤ sh then den * 2 ^ sh.toNat else den
    let q := roundStep rm neg (n2 / d2) (n2 % d2) d2
    let inexact := n2 % d2 ≠ 0
    let code := (e - emin).toNat * 2 ^ f.frac + q
    let fl := flagIf inexact fNX ||| flagIf (inexact && decide (code < 2 ^ f.frac)) fUF
    if code ≤ f.maxc then (signBit f neg + code, fl)
    else
      let fl := fl ||| fOF
      if sat then (signBit f neg + f.maxc, fl ||| fSAT)
      else match f.inf with
        | some i =>
          let away := match rm with
            | .rn => true | .rz => false | .ru => !neg | .rd => neg
          (signBit f neg + (if away then i else f.maxc), fl)
        | none => match f.nan with
          | some _ => (signBit f neg + 0x7F, fl)
          | none => (signBit f neg + f.maxc, fl)

/-- RoundToFormat (12 R174) of an exact value in units of 2^-u. -/
def roundTo (f : Fmt) (rm : Rm) (sat : Bool) (u : Nat) (x : XVal) : Nat × BitVec 7 :=
  match x with
  | .nan => match f.nan with
    | some c => (c, noFlags)
    | none => (0, fNV)
  | .inf neg =>
    match f.inf, f.nan, sat with
    | some i, _, false => (signBit f neg + i, noFlags)
    | none, some _, false => (signBit f neg + 0x7F, noFlags)
    | _, _, _ => (signBit f neg + f.maxc, flagIf sat fSAT)
  | .fin neg n => roundFin f rm sat neg n (2 ^ u)

/-- The limits of an n-bit integer. -/
def intMin (n : Nat) (signed : Bool) : Int := if signed then -(2 ^ (n - 1) : Int) else 0
/-- The upper limit of an n-bit integer. -/
def intMax (n : Nat) (signed : Bool) : Int := if signed then 2 ^ (n - 1) - 1 else 2 ^ n - 1
/-- An integer as an n-bit pattern. -/
def wrapInt (n : Nat) (x : Int) : Nat := (x % (2 ^ n : Int)).toNat

/-- ConvertToInt (12 R175) of an exact value in units of 2^-u: the n-bit pattern and the flags. -/
def convertToInt (n : Nat) (signed : Bool) (rm : Rm) (sat : Bool) (u : Nat) (x : XVal) : Nat × BitVec 7 :=
  let lo := intMin n signed
  let hi := intMax n signed
  let indef := wrapInt n (if signed then lo else hi)
  match x with
  | .nan => (if sat then 0 else indef, fNV)
  | .inf neg => if sat then (wrapInt n (if neg then lo else hi), fSAT) else (indef, fNV)
  | .fin neg m =>
    let q := roundStep rm neg (m / 2 ^ u) (m % 2 ^ u) (2 ^ u)
    let y : Int := if neg then -(q : Int) else q
    if lo ≤ y ∧ y ≤ hi then (wrapInt n y, flagIf (m % 2 ^ u ≠ 0) fNX)
    else if sat then (wrapInt n (if y < lo then lo else hi), fSAT)
    else (indef, fNV)

/-- An integer narrowed to n bits (12 R175). -/
def narrowInt (n : Nat) (signed sat : Bool) (x : Int) : Nat × BitVec 7 :=
  let lo := intMin n signed
  let hi := intMax n signed
  if lo ≤ x ∧ x ≤ hi then (wrapInt n x, noFlags)
  else if sat then (wrapInt n (if x < lo then lo else hi), fSAT)
  else (wrapInt n x, noFlags)

/-- An n-bit pattern as an integer. -/
def patInt (n : Nat) (signed : Bool) (c : Nat) : Int :=
  if signed ∧ 2 ^ (n - 1) ≤ c then (c : Int) - 2 ^ n else c

/-! ### Exact products and sums (12 R169, R182) -/

/-- The unit of operands: every code of every vector and matrix format is a multiple of 2^-160. -/
def uOp : Nat := 160

/-- Sign and infinity. -/
def xNeg : XVal → XVal
  | .nan => .nan
  | .inf s => .inf (!s)
  | .fin s n => .fin (!s) n

/-- A product, in the product of the two units; true when it is 0 × ∞. -/
def xMul (x y : XVal) : XVal × Bool :=
  match x, y with
  | .nan, _ => (.nan, false)
  | _, .nan => (.nan, false)
  | .inf s, .inf t => (.inf (s != t), false)
  | .inf s, .fin t n => if n = 0 then (.nan, true) else (.inf (s != t), false)
  | .fin s n, .inf t => if n = 0 then (.nan, true) else (.inf (s != t), false)
  | .fin s n, .fin t m => (.fin (s != t) (n * m), false)

/-- A value taken to a finer unit. -/
def xScale (k : Nat) : XVal → XVal
  | .fin s n => .fin s (n * 2 ^ k)
  | x => x

/-- The signed magnitude. -/
def xInt : XVal → Int
  | .fin s n => if s then -(n : Int) else n
  | _ => 0

/-- The exact sum of a set of terms in one unit, with the zero signs of R169; true when +∞ and −∞ both occur. -/
def xSum (rm : Rm) (ts : List XVal) : XVal × Bool :=
  if ts.any (· == .nan) then (.nan, false)
  else
    let pos := ts.any (· == .inf false)
    let neg := ts.any (· == .inf true)
    if pos && neg then (.nan, true)
    else if pos then (.inf false, false)
    else if neg then (.inf true, false)
    else
      let t : Int := ts.foldl (fun acc x => acc + xInt x) 0
      if t = 0 then
        if ts.all (· == .fin false 0) then (.fin false 0, false)
        else if ts.all (· == .fin true 0) then (.fin true 0, false)
        else (.fin (rm == .rd) 0, false)
      else (.fin (decide (t < 0)) t.natAbs, false)

/-- RoundToFormat with the NaN and NV rules of 13 R188: an invalid case sets NV, a NaN operand sets nothing. -/
def roundInvalid (f : Fmt) (rm : Rm) (sat : Bool) (u : Nat) (x : XVal × Bool) : Nat × BitVec 7 :=
  if x.2 then (defaultNan f, fNV) else roundTo f rm sat u x.1

/-- RoundToFormat with the NaN rules of 12 R182: every NaN sets NV. -/
def roundAcc (rm : Rm) (sat : Bool) (u : Nat) (x : XVal × Bool) : Nat × BitVec 7 :=
  match x.1 with
  | .nan => (defaultNan fp32, fNV)
  | y => roundTo fp32 rm sat u y

/-- An exact integer in an INT32 accumulator (12 R182). -/
def accInt (sat : Bool) (x : Int) : Nat × BitVec 7 :=
  if intMin 32 true ≤ x ∧ x ≤ intMax 32 true then (wrapInt 32 x, noFlags)
  else if sat then (wrapInt 32 (if x < 0 then intMin 32 true else intMax 32 true), fSAT)
  else (wrapInt 32 x, fOF)

/-! ### Ordering (13 R189, R192) -/

/-- The order key of a code that is no NaN: its magnitude signed, −0 below +0 when `zeros`. -/
def fpKey (f : Fmt) (zeros : Bool) (code : Nat) : Int :=
  let mag : Int := ((code % 2 ^ (f.width - 1) : Nat) : Int)
  if code / 2 ^ (f.width - 1) % 2 = 1 then (if zeros then -mag - 1 else -mag) else mag

/-- VMIN and VMAX of two codes (13 R189). -/
def fpMinMax (f : Fmt) (isMax : Bool) (a b : Nat) : Nat :=
  if isNanCode f a && isNanCode f b then defaultNan f
  else if isNanCode f a then b
  else if isNanCode f b then a
  else
    let ka := fpKey f true a
    let kb := fpKey f true b
    if isMax then (if ka ≥ kb then a else b) else (if ka ≤ kb then a else b)

/-- A VCMP condition (13 R192). -/
def fpCmp (f : Fmt) (c : Fc) (a b : Nat) : Bool :=
  let un := isNanCode f a || isNanCode f b
  let ka := fpKey f false a
  let kb := fpKey f false b
  match c with
  | .eq => !un && ka == kb
  | .ne => un || ka != kb
  | .lt => !un && decide (ka < kb)
  | .le => !un && decide (ka ≤ kb)
  | .gt => !un && decide (ka > kb)
  | .ge => !un && decide (ka ≥ kb)
  | .un => un

/-! ### Conversion pairs (12 R176) -/

/-- One element converted from `st` to `dt` (12 Table 12.4). -/
def convertElem (dt st : VTy) (rm : Rm) (sat : Bool) (c : Nat) : Nat × BitVec 7 :=
  if st = dt then (c, noFlags)
  else if st.isFp then
    if dt.isFp then roundTo (tyFmt dt) rm sat uOp (decodeFp (tyFmt st) uOp c)
    else convertToInt dt.width dt.isSigned rm sat uOp (decodeFp (tyFmt st) uOp c)
  else
    let x := patInt st.width st.isSigned c
    if dt.isFp then roundTo (tyFmt dt) rm sat 0 (.fin (decide (x < 0)) x.natAbs)
    else narrowInt dt.width dt.isSigned sat x

/-! ### Special functions (13 R190, R191), computed in fixed point with 320 fraction bits -/

/-- Fraction bits of the fixed-point evaluation. -/
def fxBits : Nat := 320
/-- One. -/
def fxOne : Nat := 2 ^ fxBits

/-- The integer square root of `n`, bit by bit from bit `k` down. -/
def isqrtAux (n : Nat) : Nat → Nat → Nat
  | 0, r => r
  | k + 1, r => let t := r + 2 ^ k; isqrtAux n k (if t * t ≤ n then t else r)
/-- The integer square root. -/
def isqrt (n : Nat) : Nat := isqrtAux n (Nat.log2 n / 2 + 1) 0

/-- Σ ± x^(2k+1)/(2k+1) from term `t` = x^(2k+1): arctan (alternating) or artanh. -/
def atanSeries (alt : Bool) (x2 : Nat) : Nat → Nat → Nat → Int
  | 0, _, _ => 0
  | fuel + 1, k, t =>
    let term : Int := ((t / (2 * k + 1) : Nat) : Int)
    (if alt && k % 2 == 1 then -term else term) + atanSeries alt x2 fuel (k + 1) (t * x2 / fxOne)

/-- artanh of a fixed-point fraction below 1/2. -/
def fxArtanh (x : Nat) : Nat := (atanSeries false (x * x / fxOne) 180 0 x).toNat
/-- ln 2 = 2 artanh (1/3). -/
def fxLn2 : Nat := 2 * fxArtanh (fxOne / 3)
/-- π = 16 arctan (1/5) − 4 arctan (1/239). -/
def fxPi : Nat :=
  (16 * atanSeries true (fxOne / 25) 80 0 (fxOne / 5) - 4 * atanSeries true (fxOne / 57121) 30 0 (fxOne / 239)).toNat

/-- Σ x^k/k! from term `t`. -/
def expSeries (x : Nat) : Nat → Nat → Nat → Nat
  | 0, _, _ => 0
  | fuel + 1, k, t => t + expSeries x fuel (k + 1) (t * x / fxOne / (k + 1))
/-- e^x of a fixed-point fraction below 1. -/
def fxExp (x : Nat) : Nat := expSeries x 90 0 fxOne

/-- Σ ± x^(2k)/(2k)! or x^(2k+1)/(2k+1)! from term `t` of order `k`. -/
def sinSeries (x2 : Nat) : Nat → Nat → Bool → Nat → Int
  | 0, _, _, _ => 0
  | fuel + 1, k, neg, t =>
    (if neg then -(t : Int) else t) + sinSeries x2 fuel (k + 2) (!neg) (t * x2 / fxOne / ((k + 1) * (k + 2)))
/-- sin of a fixed-point value. -/
def fxSin (x : Nat) : Int := sinSeries (x * x / fxOne) 70 1 false x
/-- cos of a fixed-point value. -/
def fxCos (x : Nat) : Int := sinSeries (x * x / fxOne) 70 0 false fxOne

/-- 2^x of a fixed-point integer: the numerator and denominator. -/
def exp2Rat (x : Int) : Nat × Nat :=
  let i := x / (fxOne : Int)
  let fr := (x % (fxOne : Int)).toNat
  let m := fxExp (fr * fxLn2 / fxOne)
  if 0 ≤ i then (m * 2 ^ i.toNat, fxOne) else (m, fxOne * 2 ^ (-i).toNat)

/-- log2 of num/den, in fixed point. -/
def log2Fx (num den : Nat) : Int :=
  let e := ilog2 num den
  let n2 := if 0 ≤ e then num else num * 2 ^ (-e).toNat
  let d2 := if 0 ≤ e then den * 2 ^ e.toNat else den
  let z := (n2 - d2) * fxOne / (n2 + d2)
  e * (fxOne : Int) + (((2 * fxArtanh z) * fxOne / fxLn2 : Nat) : Int)

/-- Sine or cosine of a fixed-point magnitude, reduced by quarter turns. -/
def trigFx (cosine : Bool) (x : Nat) : Int :=
  let half := fxPi / 2
  let k := x / half + (if cosine then 1 else 0)
  let r := x % half
  match k % 4 with
  | 0 => fxSin r
  | 1 => fxCos r
  | 2 => -(fxSin r)
  | _ => -(fxCos r)

/-- A fixed-point result rounded to nearest FP32. -/
def fxRound (x : Int) : Nat := (roundFin fp32 .rn false (decide (x < 0)) x.natAbs fxOne).1

/-- The order of FP32 codes on the real line, for distances in ulp. -/
def ulpKey (c : Nat) : Int := fpKey fp32 false c

/-- The device's own result for special function `f` of the FP32 argument `c` where it lies within `k` ulp of the
correctly rounded result `r`, and else `r` (13 R190; log 8). -/
def withinUlp (f k : Nat) (c r : Nat) : Nat :=
  let cand := (Config.specialFn f (BitVec.ofNat 32 c)).toNat
  if isNanCode fp32 cand then r
  else if (ulpKey cand - ulpKey r).natAbs ≤ k then cand else r

/-- VLOG2: within 2 ulp, or within 2^-22 for x in [0.5, 2] (13 Table 13.5; log 8). -/
def withinLog (c r : Nat) (num den : Nat) : Nat :=
  let cand := (Config.specialFn 0x10 (BitVec.ofNat 32 c)).toNat
  match decodeFp fp32 uOp cand, decodeFp fp32 uOp r with
  | .fin s n, .fin t m =>
    let d := (xInt (.fin s n) - xInt (.fin t m)).natAbs
    if (ulpKey cand - ulpKey r).natAbs ≤ 2 ∨ (den ≤ 2 * num ∧ num ≤ 2 * den ∧ d ≤ 2 ^ (uOp - 22)) then cand else r
  | _, _ => r

/-- FP32 +∞. -/
def infCode : Nat := 0x7F800000
/-- FP32 1. -/
def oneCode : Nat := 0x3F800000
/-- The FP32 default NaN. -/
def nanCode : Nat := 0x7FC00000

/-- A special function (S5 opcode 0x0C to 0x13) of an FP32 code (13 R190, Table 13.6). DEDUCED (log 8): an `.f16` lane of ±∞ sets
RANGE in VSIN and VCOS as Table 13.6 has it, though the sentence under the table says that these never set it for `.f16` lanes. -/
def special (f : Nat) (c : Nat) : Nat × BitVec 7 :=
  let d := 2 ^ uOp
  match decodeFp fp32 uOp c with
  | .nan => (nanCode, noFlags)
  | .inf neg =>
    match f with
    | 0x0C => (signBit fp32 neg, noFlags)
    | 0x0D => if neg then (nanCode, fNV) else (0, noFlags)
    | 0x0E => if neg then (nanCode, fNV) else (infCode, noFlags)
    | 0x0F => if neg then (0, noFlags) else (infCode, noFlags)
    | 0x10 => if neg then (nanCode, fNV) else (infCode, noFlags)
    | 0x13 => (signBit fp32 neg + oneCode, noFlags)
    | _ => (nanCode, fRANGE)
  | .fin neg n =>
    if n = 0 then
      match f with
      | 0x0C => (signBit fp32 neg + infCode, fDZ)
      | 0x0D => (signBit fp32 neg + infCode, fDZ)
      | 0x0E => (signBit fp32 neg, noFlags)
      | 0x0F => (oneCode, noFlags)
      | 0x10 => (signBit fp32 true + infCode, fDZ)
      | 0x12 => (oneCode, noFlags)
      | _ => (signBit fp32 neg, noFlags)
    else
      match f with
      | 0x0C =>
        let r := roundFin fp32 .rn false neg d n
        if n * (2 ^ 128 - 2 ^ 104) < d then (signBit fp32 neg + infCode, fOF)
        else (withinUlp f 1 c r.1, noFlags)
      | 0x0D =>
        if neg then (nanCode, fNV)
        else
          let y := isqrt (d * 2 ^ 480 / n)
          (withinUlp f 2 c (roundFin fp32 .rn false false (2 * y + 1) (2 ^ 241)).1, noFlags)
      | 0x0E =>
        if neg then (nanCode, fNV)
        else
          let y := isqrt (n * 2 ^ uOp)
          let odd := if y * y = n * 2 ^ uOp then 0 else 1
          ((roundFin fp32 .rn false false (2 * y + odd) (2 * d)).1, noFlags)
      | 0x0F =>
        if !neg && decide (128 * d ≤ n) then (infCode, fOF)
        else if neg && decide (149 * d < n) then (0, noFlags)
        else
          let x : Int := (if neg then -(n : Int) else n) * 2 ^ (fxBits - uOp)
          let r := exp2Rat x
          let rc := (roundFin fp32 .rn false false r.1 r.2).1
          (if n % d = 0 then rc else withinUlp f 2 c rc, noFlags)
      | 0x10 =>
        if neg then (nanCode, fNV)
        else if n = d then (0, noFlags)
        else (withinLog c (fxRound (log2Fx n d)) n d, noFlags)
      | 0x13 =>
        if 16 * d ≤ n then (withinUlp f 2 c (signBit fp32 neg + oneCode), noFlags)
        else
          let e := exp2Rat (((2 * n * 2 ^ (fxBits - uOp) * fxOne / fxLn2 : Nat) : Int))
          (withinUlp f 2 c (roundFin fp32 .rn false neg (e.1 - e.2) (e.1 + e.2)).1, noFlags)
      | _ =>
        let x := n * 2 ^ (fxBits - uOp)
        if 65536 * fxPi < x then (nanCode, fRANGE)
        else
          let r := trigFx (f == 0x12) x
          (withinUlp f 2 c (fxRound (if neg && f == 0x11 then -r else r)), noFlags)

/-- A special function of a lane of type f32, f16 or bf16 (13 R190): widened, computed in FP32, rounded into the type,
which sets OF when it overflows and nothing else. -/
def specialLane (ty : VTy) (f : Nat) (c : Nat) : Nat × BitVec 7 :=
  match ty with
  | .f32 => special f c
  | _ =>
    let r := special f (roundTo fp32 .rn false uOp (decodeFp (tyFmt ty) uOp c)).1
    let y := roundTo (tyFmt ty) .rn false uOp (decodeFp fp32 uOp r.1)
    (y.1, r.2 ||| (y.2 &&& fOF))

end Sys2Proof.Machine
end

