-- ==== Sys2Proof/Machine/Link.lean ====
section
/-!
DEFINITION. The link layer's flit (26 Table 26.1) and its CRC, and SHA-512 and Ed25519 (26 R394, R396) as functions of bytes.
The spec names the two algorithms and gives neither. PRESUMED (log 5).
-/
namespace Sys2Proof.Machine

/-! ### Flits (26 R383) -/

/-- One byte of a CRC-64 with the ECMA-182 polynomial, most significant bit first. -/
def crc64Byte (c : BitVec 64) (b : Byte) : BitVec 64 :=
  (List.range 8).foldl (fun (c : BitVec 64) _ => if c.getLsbD 63 then (c <<< 1) ^^^ 0x42F0E1EBA9EA3693#64 else c <<< 1)
    (c ^^^ (b.setWidth 64 <<< 56))
/-- The CRC of a flit. DEDUCED (log 58). -/
def crc64 (l : List Byte) : BitVec 64 := l.foldl crc64Byte 0

/-- The bytes of a flit: FT, ACKSEQ, SEQ, 244 payload bytes and the CRC (Table 26.1). -/
def flitBytes (ft ack sq : Nat) (payload : List Byte) : List Byte :=
  let l := leBytes 4 (ft * 2 ^ 24 + ack % 4096 * 2 ^ 12 + sq % 4096) ++ payload
  l ++ leBytes 8 (crc64 l).toNat

/-! ### SHA-512 -/

/-- The greatest `r` below 2^n with `r ^ k ≤ x`, one bit at a time. -/
def intRoot (k x : Nat) : Nat → Nat → Nat
  | 0, r => r
  | n + 1, r => intRoot k x n (if (r + 2 ^ n) ^ k ≤ x then r + 2 ^ n else r)
/-- The first 64 bits of the fraction of a number's `k`-th root. -/
def rootBits (k p : Nat) : Nat := intRoot k (p * 2 ^ (64 * k)) 72 0 % 2 ^ 64
/-- The first 80 primes. -/
def shaPrimes : List Nat := (List.range 410).filter fun p => decide (2 ≤ p) && (List.range 19).all fun d => d + 2 = p || p % (d + 2) != 0
/-- The round constants: the fractions of the cube roots of the first 80 primes. -/
def shaK : List Nat := shaPrimes.map (rootBits 3)
/-- The initial hash value: the fractions of the square roots of the first eight. -/
def shaH : List Nat := (shaPrimes.take 8).map (rootBits 2)

/-- Rotation of a 64-bit number to the right. -/
def shaRot (x n : Nat) : Nat := x / 2 ^ n + x % 2 ^ n * 2 ^ (64 - n)
/-- Exclusive or of three numbers. -/
def xor3 (a b c : Nat) : Nat := Nat.xor (Nat.xor a b) c

/-- The message schedule: `n` more words after the sixteen of the block. -/
def shaSchedule : Nat → List Nat → List Nat
  | 0, w => w
  | n + 1, w =>
    let at1 (i : Nat) : Nat := w.getD (w.length - i) 0
    let s0 := xor3 (shaRot (at1 15) 1) (shaRot (at1 15) 8) (at1 15 / 2 ^ 7)
    let s1 := xor3 (shaRot (at1 2) 19) (shaRot (at1 2) 61) (at1 2 / 2 ^ 6)
    shaSchedule n (w ++ [(at1 16 + s0 + at1 7 + s1) % 2 ^ 64])

/-- One round, on the eight working variables. -/
def shaRound (v : List Nat) (kw : Nat × Nat) : List Nat :=
  match v with
  | [a, b, c, d, e, f, g, h] =>
    let s1 := xor3 (shaRot e 14) (shaRot e 18) (shaRot e 41)
    let ch := Nat.xor (e &&& f) (Nat.xor e (2 ^ 64 - 1) &&& g)
    let t1 := h + s1 + ch + kw.1 + kw.2
    let s0 := xor3 (shaRot a 28) (shaRot a 34) (shaRot a 39)
    let maj := xor3 (a &&& b) (a &&& c) (b &&& c)
    [(t1 + s0 + maj) % 2 ^ 64, a, b, c, (d + t1) % 2 ^ 64, e, f, g]
  | l => l

/-- One block of 128 bytes, its sixteen words big-endian. -/
def shaBlock (h : List Nat) (block : List Byte) : List Nat :=
  let w := shaSchedule 64 ((List.range 16).map fun i => leNat ((block.drop (8 * i)).take 8).reverse)
  (h.zip ((shaK.zip w).foldl shaRound h)).map fun p => (p.1 + p.2) % 2 ^ 64

/-- The blocks of a padded message. -/
def shaBlocks : Nat → List Nat → List Byte → List Nat
  | 0, h, _ => h
  | n + 1, h, l => shaBlocks n (shaBlock h (l.take 128)) (l.drop 128)

/-- SHA-512 of a byte string: the 64 bytes of its digest. -/
def sha512Bytes (l : List Byte) : List Byte :=
  let pad := l ++ [0x80#8] ++ List.replicate ((239 - l.length % 128) % 128) 0#8 ++ (leBytes 16 (8 * l.length)).reverse
  (shaBlocks (pad.length / 128) shaH pad).flatMap fun x => (leBytes 8 x).reverse
/-- The digest as a number whose low byte is the digest's first. -/
def sha512 (l : List Byte) : BitVec 512 := BitVec.ofNat 512 (leNat (sha512Bytes l))

/-! ### Ed25519 -/

/-- The field prime 2^255 − 19. -/
def edP : Nat := 2 ^ 255 - 19
/-- The order of the base point. -/
def edL : Nat := 2 ^ 252 + 27742317777372353535851937790883648493
/-- The power of a field element; the exponent has at most `n` bits. -/
def edPow : Nat → Nat → Nat → Nat
  | 0, _, _ => 1
  | n + 1, b, e =>
    let r := edPow n (b * b % edP) (e / 2)
    if e % 2 = 1 then r * b % edP else r
/-- The inverse of a field element. -/
def edInv (x : Nat) : Nat := edPow 256 x (edP - 2)
/-- The curve constant d = −121665 ÷ 121666. -/
def edD : Nat := (edP - 121665) * edInv 121666 % edP

/-- A point in extended coordinates. -/
structure EdPoint where
  x : Nat
  y : Nat
  z : Nat
  t : Nat
  deriving DecidableEq, Repr

/-- The neutral point. -/
def EdPoint.zero : EdPoint := ⟨0, 1, 1, 0⟩
/-- The sum of two points of the twisted Edwards curve with a = −1. -/
def EdPoint.add (p q : EdPoint) : EdPoint :=
  let a := (p.y + edP - p.x) * (q.y + edP - q.x) % edP
  let b := (p.y + p.x) * (q.y + q.x) % edP
  let c := 2 * p.t * q.t * edD % edP
  let d := 2 * p.z * q.z % edP
  let e := b + edP - a
  let f := d + edP - c
  let g := d + c
  let h := b + a
  ⟨e * f % edP, g * h % edP, f * g % edP, e * h % edP⟩
/-- A multiple of a point; the factor has at most `n` bits. -/
def EdPoint.mul : Nat → Nat → EdPoint → EdPoint
  | 0, _, _ => EdPoint.zero
  | n + 1, k, p =>
    let r := EdPoint.mul n (k / 2) (p.add p)
    if k % 2 = 1 then r.add p else r
/-- Are two points the same? -/
def EdPoint.same (p q : EdPoint) : Bool := p.x * q.z % edP == q.x * p.z % edP && p.y * q.z % edP == q.y * p.z % edP

/-- The point of a y coordinate and the sign of x, if there is one. -/
def edDecode (v : Nat) : Option EdPoint :=
  let sign := v / 2 ^ 255 % 2
  let y := v % 2 ^ 255
  let u := (y * y + edP - 1) % edP
  let w := (edD * (y * y) + 1) % edP
  let x2 := u * edInv w % edP
  let r := edPow 256 x2 ((edP + 3) / 8)
  let x := if r * r % edP = x2 then r else r * edPow 256 2 ((edP - 1) / 4) % edP
  if edP ≤ y ∨ x * x % edP ≠ x2 ∨ (x = 0 ∧ sign = 1) then none
  else
    let x := if x % 2 = sign then x else edP - x
    some ⟨x, y, 1, x * y % edP⟩
/-- The encoding of a point. -/
def EdPoint.encode (p : EdPoint) : Nat :=
  let i := edInv p.z
  p.y * i % edP + p.x * i % edP % 2 * 2 ^ 255
/-- The base point: y = 4 ÷ 5 with an even x. -/
def edBase : EdPoint := (edDecode (4 * edInv 5 % edP)).getD EdPoint.zero

/-- The scalar of a seed, and the prefix of its digest. -/
def edSecret (seed : Nat) : Nat × List Byte :=
  let h := sha512Bytes (leBytes 32 seed)
  let v := leNat (h.take 32)
  (v % 2 ^ 254 / 8 * 8 + 2 ^ 254, h.drop 32)
/-- The public key of a seed. -/
def edPublic (seed : Nat) : Nat := (EdPoint.mul 256 (edSecret seed).1 edBase).encode
/-- The signature of a byte string under a seed: R, then S. -/
def edSign (seed : Nat) (m : List Byte) : List Byte :=
  let s := edSecret seed
  let r := leNat (sha512Bytes (s.2 ++ m)) % edL
  let rb := leBytes 32 (EdPoint.mul 256 r edBase).encode
  let k := leNat (sha512Bytes (rb ++ leBytes 32 (edPublic seed) ++ m)) % edL
  rb ++ leBytes 32 ((r + k * s.1) % edL)
/-- Does a signature of a byte string verify under a public key? -/
def edVerify (key : Nat) (m sig : List Byte) : Bool :=
  let rb := sig.take 32
  let s := leNat (sig.drop 32)
  match edDecode key, edDecode (leNat rb) with
  | some a, some r =>
    let k := leNat (sha512Bytes (rb ++ leBytes 32 key ++ m)) % edL
    sig.length == 64 && decide (s < edL) && (EdPoint.mul 256 s edBase).same (r.add (EdPoint.mul 256 k a))
  | _, _ => false

/-- The seed of the identity key: the first 32 bytes of the digest of the fused entropy (26 R396). -/
def identitySeed : Nat := leNat ((sha512Bytes (leBytes 32 Config.entropy.toNat)).take 32)
/-- The identity public key. -/
def identityKey : Nat := edPublic identitySeed

end Sys2Proof.Machine
end

