-- ==== Sys2Proof/Machine/Image.lean ====
section
/-!
DEFINITION. What the module writes of a context: the frame image (24 Table 24.3) and the context record (24 Table 24.6). The
spec gives the record's areas by offset and size; the places inside an area are the model's. DESIGN CHOICE (log 48).
-/
namespace Sys2Proof.Machine

/-! ### The frame image (24 R366) -/

/-- Word 0 of a frame (24 Table 24.3). -/
def Frame.word0 (f : Frame) : Word :=
  BitVec.ofNat 64 ((bit1 f.valid) * 2 ^ 63 + (bit1 f.after) * 2 ^ 62 + (bit1 f.pt) * 2 ^ 61 + (bit1 f.py) * 2 ^ 60
    + (bit1 f.blk) * 2 ^ 59 + f.sr.val * 2 ^ 56 + f.addr.toNat)

/-- A snapshot record: its tag and its data, padded to 8 bytes. -/
def Snap.bytes (r : Snap) : List Byte :=
  let tag := r.len.toNat + r.index.toNat * 2 ^ 40 + bit1 r.taint * 2 ^ 52 + r.slot.val * 2 ^ 53 + r.file.toNat * 2 ^ 56
  leBytes 8 tag ++ leBytes ((r.len.toNat + 7) / 8 * 8) (r.data % 2 ^ (8 * r.len.toNat))

/-- BLK, BKIND, BADDR, BVAL, BMOD, B2KIND and B2ID of a frame (24 Table 24.3). -/
def Frame.withBlocks (f : Frame) (b : Blocks) : Frame :=
  let bar (i : Fin 4) : Addr := BitVec.ofNat 56 i.val
  match b.s0, b.bar with
  | none, none => { f with blk := false }
  | some (.wait a c dw v), q =>
    { f with
      blk := true
      bkind := 1
      baddr := a
      bval := v
      bmod := BitVec.ofNat 4 (bit1 dw * 8 + c.code)
      b2kind := if q.isSome then 3 else 0
      b2id := (q.map bar).getD 0 }
  | some (.sleep t), q =>
    { f with
      blk := true
      bkind := 2
      bval := t
      b2kind := if q.isSome then 3 else 0
      b2id := (q.map bar).getD 0 }
  | none, some i => { f with blk := true, bkind := 3, baddr := bar i }

/-- The snapshot area. -/
def Frame.area (f : Frame) : List Byte := f.snaps.flatMap Snap.bytes

/-- The image: a 256-byte header, then the snapshot records. -/
def Frame.bytes (f : Frame) : List Byte :=
  let a := f.area
  leBytes 8 f.word0.toNat
  ++ leBytes 8 (f.cause.toNat + a.length * 2 ^ 32)
  ++ leBytes 8 f.faddr.toNat ++ leBytes 8 f.info.toNat ++ leBytes 8 f.ptgt.toNat
  ++ leBytes 12 f.rwe.toNat ++ leBytes 4 0
  ++ leBytes 8 f.prev.toNat ++ leBytes 8 f.cur.toNat
  ++ leBytes 8 (f.baddr.toNat + f.bkind.toNat * 2 ^ 56) ++ leBytes 8 f.bval.toNat ++ leBytes 8 f.bmod.toNat
  ++ leBytes 8 f.tick.toNat
  ++ leBytes 8 (f.b2id.toNat + f.b2kind.toNat * 2 ^ 56)
  ++ leBytes 8 (f.origin.toNat + f.oslot.val * 2 ^ 56)
  ++ leBytes 8 (f.pn.toNat + f.pact.toNat * 2 ^ 56)
  ++ List.replicate 128 0
  ++ a

/-- RWE of a fired match (18 Table 18.6). -/
def rweOf (f : Option Fired) (flt : Bool) : BitVec 96 :=
  match f with
  | none => 0
  | some m =>
    BitVec.ofNat 96 ((List.range 7).foldl (fun acc i => acc + (m.vars.toList.getD i 0).toNat * 2 ^ (26 + 10 * i)) 0
      + 2 ^ 15 + bit1 flt * 2 ^ 14 + m.entry.val * 2 ^ 8 + m.next * 2 ^ 6)

/-! ### The context record (24 R375) -/

/-- cr.cctl (03 Table 3.5a): RDY, and the PRI last written, which takes effect at the next switch point (03 R32). DEDUCED (log 62). -/
def Core.crCctl (k : Core) (x : CtxId) : Word :=
  let rdy := (List.finRange 4).foldl (fun acc y =>
    let t := k.ctxs[y]
    acc + bit1 ((t.run == .ready || t.run == .running) && !t.hm) * 2 ^ y.val) 0
  let t := k.ctxs[x]
  BitVec.ofNat 64 (rdy * 16 + bit1 (t.priNext.getD t.pri))


/-- cr.nstat (Table 15.6); TOP is the length of the store. -/
def Ctx.crNstat (t : Ctx) : Word :=
  let n := t.nstat
  BitVec.ofNat 64 (n.used.toNat * 2 ^ 32 + t.store.length * 2 ^ 23 + n.entry.toNat * 2 ^ 15 + n.pass.toNat * 2 ^ 4
    + bit1 n.act * 8 + bit1 n.fail * 4 + bit1 n.bud * 2 + bit1 n.fp)
/-- cr.nctl (Table 15.7). -/
def Ctx.crNctl (t : Ctx) : Word := BitVec.ofNat 64 (t.levels.length * 2 ^ 8 + bit1 t.nbt * 2 + bit1 t.npe)
/-- The bytes of an access as a number, its elements in order. -/
def Access.value (a : Access) : Nat :=
  (a.elems.foldr (fun e acc => e.val.toNat % 2 ^ (8 * e.n) + acc * 2 ^ (8 * e.n)) 0)

/-- An area of a record: `l`, cut or filled with zeros to `n` bytes. -/
def area (n : Nat) (l : List Byte) : List Byte := l.take n ++ List.replicate (n - l.length) 0
/-- Numbers of `n` bytes each, in order. -/
def fields (n : Nat) (l : List Nat) : List Byte := l.flatMap (leBytes n)
/-- Bits as a number, the first lowest. -/
def bitsNat (l : List Bool) : Nat := l.foldr (fun b acc => bit1 b + 2 * acc) 0

/-- The state of a context as Table 3.3 orders them. -/
def Ctx.stateNo (t : Ctx) : Nat :=
  match t.run with
  | .unloaded => 0
  | .ready => if t.hm then 4 else 1
  | .running => if t.hm then 4 else 2
  | .blocked => if t.hm then 4 else 3
  | .held => 4
  | .halted => 5

/-- A d-register in 16 bytes: LO, HI, MASK (15 R210). -/
def DomReg.bytes (r : DomReg) : List Byte := leBytes 4 r.lo.toNat ++ leBytes 4 r.hi.toNat ++ leBytes 8 r.mask.toNat

/-- cr.fmt with its pending writes completed (12 R180). -/
def Core.fmtDone (k : Core) (x : CtxId) : BitVec 12 :=
  k.inflight.foldl (fun v f => if f.ctx = x then match f.wr with
    | .fmt w => w
    | _ => v else v) (k.ctxs[x]).fmt
/-- The loop sequencer and the drain re-entry copy. -/
def Loop.bytes (l : Loop) : List Byte :=
  let (i, a) := l.drained.getD (0, Vector.replicate 16 ⟨0, false, Vector.replicate 6 0⟩)
  area 176 (fields 4 (l.cnt.toList.map (·.toNat)) ++ fields 1 [l.stages, bit1 l.run, l.k, l.s] ++ fields 8 [l.body.toNat, l.endA.toNat]
      ++ fields 4 (l.n.toList.map (·.toNat)) ++ fields 8 (l.idx.toList.map (·.toNat)) ++ fields 4 [l.n0.toNat, i.toNat]
      ++ leBytes 1 (bit1 l.drained.isSome))
    ++ fields 7 (a.toList.map fun r => r.v.toNat) ++ fields 7 (a.toList.flatMap fun r => r.stride.toList.map (·.toNat))

/-- The tile-sequencer cursor. -/
def Cursor.bytes (u : Cursor) : List Byte :=
  leBytes 1 1 ++ fields 2 [u.opc, u.q.val, u.a.val, u.b.val, u.m, u.n, u.kk, u.ks, u.nbj, u.nk] ++ fields 4 [u.count, u.pos]

/-- An entry of the constraint store. -/
def Constraint.bytes (e : Constraint) : List Byte :=
  fields 1 [e.opc, e.d.val, e.a.val, e.b.val] ++ leBytes 4 e.kofs.toNat ++ leBytes 8 e.mask.toNat

/-- cr.nstat's fields but TOP. -/
def NStat.bytes (n : NStat) : List Byte :=
  leBytes 4 n.used.toNat ++ leBytes 1 n.entry.toNat ++ leBytes 2 n.pass.toNat
    ++ leBytes 1 (bit1 n.act * 8 + bit1 n.fail * 4 + bit1 n.bud * 2 + bit1 n.fp)

/-- A Bracken entry that was not accepted. -/
def DdEntry.bytes (d : DdEntry) : List Byte :=
  fields 1 [d.opc, d.fn] ++ leBytes 2 d.seq ++ leBytes 4 (d.rcd.getD 0xFFFFFFFF) ++ fields 8 [d.x.toNat, d.y.toNat, d.z.toNat]

/-- A subscription: ring cursor, tile counter and the engine's slot states (19 R291). -/
def Sub.recordBytes (u : Sub) : List Byte :=
  fields 1 [1, u.mode] ++ fields 4 [u.card, u.cursor, u.tile, u.acks, u.pulled, u.stored]
    ++ fields 1 (u.slots.map fun q => match q with
      | .empty => 0
      | .full => 1
      | .finished => 2)

/-- The block of a frame in 28 bytes. -/
def Frame.blockBytes (f : Frame) : List Byte :=
  leBytes 8 (f.baddr.toNat + f.bkind.toNat * 2 ^ 56) ++ leBytes 8 f.bval.toNat ++ leBytes 4 f.bmod.toNat
    ++ leBytes 8 (f.b2id.toNat + f.b2kind.toNat * 2 ^ 56)

/-- The record of context `x` of a core, whose unit id is `unit`, under a layout version, with its scale table as completed. The
levels of the save RAM stand from the oldest on (15 R237). The block of a Blocked context (23 R351) stands in its frame; that of a
handler, whose frame keeps another point, in the bytes of the first area that are left. DESIGN CHOICE (log 48). -/
def Core.ctxRecord (k : Core) (x : CtxId) (unit : Nat) (version : BitVec 32) (sct : BitVec 512) : List Byte :=
  let t := k.ctxs[x]
  let blocked := t.run == .blocked
  let frame := (if blocked && !t.frame.valid then t.frame.withBlocks t.blocks else t.frame).bytes
  let own := if blocked && t.frame.valid then (Frame.empty.withBlocks t.blocks).blockBytes else []
  let waits := (t.faults.filter fun f => f.cause == 0x15).map fun f => f.cause.toNat + f.info.toNat % 16 * 256
  let lv (j : Nat) : List Byte := (List.range 1024).map fun i =>
    (k.saveRam.find? fun (c : Host.Cell) => c.1 == (16 * x.val + j) * 1024 + i).elim 0 Prod.snd
  area 64 (fields 4 [0x58435443, 0xE400 + frame.length, unit, t.stateNo] ++ fields 8 [bit1 t.hm, t.pc.toNat] ++ leBytes 4 version.toNat ++ own)
  ++ fields 8 (t.g.toList.map fun r => r.v.toNat)
  ++ area 16 (leBytes 8 (bitsNat (t.g.toList.map (·.taint))) ++ leBytes 2 (bitsNat (t.a.toList.map (·.taint))) ++ leBytes 2 (bitsNat t.p.toList)
      ++ leBytes 1 t.sp.toNat)
  ++ fields 8 (t.a.toList.map fun r => r.v.toNat) ++ fields 8 (t.a.toList.flatMap fun r => r.stride.toList.map (·.toNat))
  ++ fields 8 (t.b.toList.map fun r => r.v.toNat % 2 ^ 62 + min 3 (k.step - r.step) * 2 ^ 62)
  ++ area 256 (fields 8 ([(k.crCctl x).toNat, t.span.toNat, t.vstat.toNat, (k.fmtDone x).toNat, t.rwp.toNat, t.egy.toNat, t.egyFrac.toNat,
        t.nbud.toNat, t.crNctl.toNat, t.crNstat.toNat, t.ftv.toNat, t.fpc.toNat] ++ t.tsv.toList.map (·.toNat)))
  ++ area 128 (leBytes 64 sct.toNat)
  ++ fields 8 (t.mshp.toList.map (·.toNat))
  ++ t.loop.bytes
  ++ area 32 ((t.cursor.map Cursor.bytes).getD []) ++ fields 4 (t.phase.toList.map (·.toNat))
  ++ fields 512 (t.w.toList.map (·.toNat))
  ++ t.d.toList.flatMap DomReg.bytes
  ++ area 4096 (t.store.flatMap Constraint.bytes)
  ++ area 16640 (((List.range 16).zip (t.levels.reverse.map some ++ List.replicate 16 none)).flatMap fun q => lv q.1 ++ match q.2 with
      | some l => leBytes 8 l.top ++ l.nstat.bytes
      | none => List.replicate 16 0)
  ++ area 512 (k.ddq.toList.flatMap (fun e => match e with
        | some d => if d.ctx = x ∧ d.accepted = false then d.bytes else []
        | none => []) ++ fields 2 waits)
  ++ area 256 (k.subs.toList.flatMap fun u => match u with
      | some d => if d.owner = x then area 64 d.recordBytes else List.replicate 64 0
      | none => List.replicate 64 0)
  ++ frame

end Sys2Proof.Machine
end

