-- ==== Sys2Proof/Machine/Ops.lean ====
section
/-!
DEFINITION. The named operations over registers, memory, translation, results in flight, energy, and traps: reading a
source from the operand snapshot (05 R69), sending a result towards its visibility step (03 R40), translating an
address (24 R376), the switch-on-wait selector (03 R34), and taking a system trap (24 R360 to R363), written once.
-/
namespace Sys2Proof.Machine

/-- The outcome of a meaning. -/
abbrev Out := Host.Outcome State Fault Refusal

/-! ### Places -/

/-- A core. -/
def State.core (s : State) (c : CoreId) : Core := s.cores[c]
/-- Replace a core. -/
def State.setCore (s : State) (c : CoreId) (k : Core) : State := { s with cores := s.cores.set c k }
/-- Change a core. -/
def State.modCore (s : State) (c : CoreId) (f : Core → Core) : State := s.setCore c (f (s.core c))
/-- A context. -/
def State.ctx (s : State) (c : CoreId) (x : CtxId) : Ctx := (s.core c).ctxs[x]
/-- Change a context of a core. -/
def Core.modCtx (k : Core) (x : CtxId) (f : Ctx → Ctx) : Core := { k with ctxs := k.ctxs.set x (f k.ctxs[x]) }
/-- Change a context. -/
def State.modCtx (s : State) (c : CoreId) (x : CtxId) (f : Ctx → Ctx) : State := s.modCore c (·.modCtx x f)
/-- The context whose bundle is being committed. -/
def State.cur (s : State) : Ctx := s.ctx s.env.core s.env.ctx
/-- Change the context whose bundle is being committed. -/
def State.modCur (s : State) (f : Ctx → Ctx) : State := s.modCtx s.env.core s.env.ctx f
/-- Change the bundle being committed. -/
def State.modEnv (s : State) (f : Env → Env) : State := { s with env := f s.env }

/-- The position of a core in its heath (01 R11). -/
def corePos (c : CoreId) : Nat := c.val % 8
/-- The global heath of a core. -/
def coreHeath (c : CoreId) : Fin 24 := ⟨c.val / 8, by omega⟩
/-- The die of a core. -/
def coreDie (c : CoreId) : Fin 12 := ⟨c.val / 16, by omega⟩
/-- The die of a heath. -/
def heathDie (h : Fin 24) : Fin 12 := ⟨h.val / 2, by omega⟩
/-- The core at a position of a heath. -/
def heathCore (h : Fin 24) (pos : Fin 8) : CoreId := ⟨8 * h.val + pos.val, by omega⟩
/-- The cores of a heath. -/
def heathCores (h : Fin 24) : List CoreId := (List.finRange 8).map (heathCore h)
/-- The unit id of a context (03 Table 3.8). -/
def ctxUnit (c : CoreId) (x : CtxId) : BitVec 20 := BitVec.ofNat 20 (0x10000 + 4 * c.val + x.val)

/-- Every context of the module. -/
def allCtx : List (CoreId × CtxId) := (List.finRange 192).flatMap fun c => (List.finRange 4).map fun x => (c, x)

/-- The `n`-th free choice; each is used once. -/
def State.draw (s : State) : Nat × State := (Config.choose s.choices, { s with choices := s.choices + 1 })
/-- A free 64-bit value, for a field to which the spec gives no value (log 12). -/
def State.freeWord (s : State) : Word × State := (BitVec.ofNat 64 s.draw.1, s.draw.2)

/-! ### Memory -/

/-- The canonical form: strictly rising addresses, no zero byte listed. -/
def memWf : Memory → Bool
  | [] => true
  | [(_, b)] => b != 0
  | (a, b) :: (a', b') :: m => b != 0 && decide (a < a') && memWf ((a', b') :: m)

/-- One byte; an unlisted address reads 0 (log 3). -/
def memRead : Memory → Nat → Byte
  | [], _ => 0
  | (a, b) :: m, x => if a = x then b else memRead m x

/-- Write one byte, keeping the canonical form. -/
def memWrite : Memory → Nat → Byte → Memory
  | [], x, v => if v = 0 then [] else [(x, v)]
  | (a, b) :: m, x, v =>
    if x < a then (if v = 0 then (a, b) :: m else (x, v) :: (a, b) :: m)
    else if x = a then (if v = 0 then m else (x, v) :: m)
    else (a, b) :: memWrite m x v

/-- `n` bytes from `a` as a number, little-endian (00 R5). -/
def memReadN (m : Memory) (a : Nat) : Nat → Nat
  | 0 => 0
  | n + 1 => (memRead m a).toNat + 256 * memReadN m (a + 1) n

/-- Write the `n` low bytes of `v` from `a` on. -/
def memWriteN (m : Memory) (a : Nat) : Nat → Nat → Memory
  | 0, _ => m
  | n + 1, v => memWriteN (memWrite m a (BitVec.ofNat 8 v)) (a + 1) n (v / 256)

/-- Write a list of bytes from `a` on. -/
def memWriteBytes (m : Memory) (a : Nat) : List Byte → Memory
  | [] => m
  | b :: bs => memWriteBytes (memWrite m a b) (a + 1) bs

/-- Read `n` bytes from `a` on as a list. -/
def memBytes (m : Memory) (a n : Nat) : List Byte := (List.range n).map fun i => memRead m (a + i)

/-- Write a list of bytes from `a` on, where nothing stands at or above `a`. -/
def memAppend (m : Memory) (a : Nat) (l : List Byte) : Memory :=
  m.filter (fun c => decide (c.1 < a)) ++ ((List.range l.length).zip l).filterMap fun q => if q.2 = 0 then none else some (a + q.1, q.2)

/-- A byte range set to 0: the cells in it are removed. -/
def memClear (m : Memory) (a n : Nat) : Memory := m.filter fun c => decide (c.1 < a) || decide (a + n ≤ c.1)

/-- Granules of `n` bytes at offset `o` that are written whole lose their poison (10 R165). -/
def clearPoison (l : List Nat) (o n : Nat) : List Nat :=
  l.filter fun g => !(decide (o ≤ 8 * g) && decide (8 * g + 8 ≤ o + n))
/-- The same of memory's granules, the 64-byte sectors of HBM and the MSC (10 Table 10.9). -/
def clearSectors (l : List Nat) (o n : Nat) : List Nat :=
  l.filter fun g => !(decide (o ≤ 64 * g) && decide (64 * g + 64 ≤ o + n))
/-- Do writes, of so many bytes at each of these addresses, cover the 64 bytes around an address in their 8-byte elements (10 R153)? -/
def wholeSector (ws : List (Nat × Nat)) (a : Nat) : Bool := (List.range 8).all fun i => ws.contains (a / 64 * 64 + 8 * i, 8)

/-- Is a scratch address in the window (10 R132)? -/
def isScratch (a : Addr) : Bool := decide (a.toNat < 2 ^ 25)
/-- The core whose vault a scratch-window address of core `c`'s heath names (10 R133). -/
def vaultCore (c : CoreId) (a : Addr) : CoreId :=
  heathCore (coreHeath c) ⟨a.toNat / 2 ^ 22 % 8, Nat.mod_lt _ (by decide)⟩
/-- The byte offset in the vault. -/
def vaultOfs (a : Addr) : Nat := a.toNat % 2 ^ 22

/-! ### Fetch (05 R56, R57, R75) -/

/-- The end of the bank an instruction address lies in. -/
def bankEnd (a : Nat) : Nat := (a / 2 ^ 17 + 1) * 2 ^ 17
/-- The first header among the first units of the last `n` lines before an address, or that address (05 R56, R57). -/
def Core.skipPads (k : Core) (bankEnd : Nat) : Nat → Nat
  | 0 => bankEnd
  | n + 1 => if memReadN k.ispad (bankEnd - 64 * (n + 1)) 2 = 0 then k.skipPads bankEnd n else bankEnd - 64 * (n + 1)
/-- Where fetch continues at `a` after something in the bank of `hdr`: past line pads, or the bank's end. -/
def Core.fetchFrom (k : Core) (hdr a : Nat) : Nat :=
  if bankEnd hdr ≤ a then bankEnd hdr
  else if memReadN k.ispad a 2 = 0 then k.skipPads (bankEnd hdr) (bankEnd hdr / 64 - (a / 64 + 1))
  else a

/-- Is an instruction address in one of the two banks (19 R305)? -/
def inBanks (a : Word) : Bool := decide (a.toNat < 0x40000)
/-- The start-mark check of 05 R75. -/
def Core.markOk (k : Core) (a : Word) : Bool := inBanks a && a.toNat % 2 == 0 && k.marks.contains a.toNat

/-- The header of the bundle due of a context: what stands at its program counter, past line pads; the program counter itself
where a bundle-boundary trap is due there. -/
def Core.dueAddr (k : Core) (t : Ctx) : Word :=
  let pc := t.pc.toNat
  let a := k.fetchFrom pc pc
  if (if t.transferred then !k.markOk t.pc else pc == 0x20000 || pc == 0x40000) || a == bankEnd pc then t.pc else BitVec.ofNat 64 a

/-! ### Reading sources from the snapshot (05 R69, R70) -/

/-- The snapshot record of a value, when the bundle is being replayed from a held frame (24 R368). -/
def State.snap (s : State) (file : Nat) (index : Nat) : Option Snap :=
  match s.cur.replay with
  | none => none
  | some l => l.find? fun r => r.file.toNat == file && r.slot == s.env.slot && r.index.toNat == index
/-- Does the slot in `env` issue again from a snapshot? -/
def State.replays (s : State) : Bool :=
  match s.cur.replay with
  | none => false
  | some l => l.any fun r => r.slot == s.env.slot
/-- The snapshot record of a tile's image; a record of its shape alone has no more than 4 bytes. -/
def State.snapTile (s : State) (m : R16) : Option Snap :=
  match s.cur.replay with
  | none => none
  | some l => l.find? fun r => r.file.toNat == 8 && r.slot == s.env.slot && r.index.toNat == m.val && decide (4 < r.len.toNat)

/-- A g-register with its taint; g0 reads 0 and untainted (09 R100). -/
def State.rdG (s : State) (d : R64) : GReg :=
  if d = 0 then ⟨0, false⟩
  else match s.snap 1 d.val with
    | some r => ⟨BitVec.ofNat 64 r.data, r.taint⟩
    | none => s.cur.g[d]
/-- The value of a g-register. -/
def State.g (s : State) (d : R64) : Word := (s.rdG d).v

/-- An a-register and its taint. -/
def State.rdA (s : State) (d : R16) : Addr × Bool :=
  match s.snap 2 d.val with
  | some r => (BitVec.ofNat 56 r.data, r.taint)
  | none => ((s.cur.a[d]).v, (s.cur.a[d]).taint)
/-- A stride register. -/
def State.rdStride (s : State) (d : R16) (j : Lvl) : Addr :=
  match s.snap 3 (6 * d.val + j.val) with
  | some r => BitVec.ofNat 56 r.data
  | none => (s.cur.a[d]).stride[j]
/-- A predicate; p0 reads true. -/
def State.rdP (s : State) (d : R16) : Bool :=
  if d = 0 then true
  else match s.snap 4 0 with
    | some r => r.data.testBit d.val
    | none => s.cur.p[d]
/-- A stage predicate. -/
def State.rdSp (s : State) (k : R8) : Bool :=
  match s.snap 4 0 with
  | some r => r.data.testBit (16 + k.val)
  | none => s.cur.sp.getLsbD k.val
/-- A branch-target register. -/
def State.rdB (s : State) (k : R8) : Word :=
  match s.snap 5 k.val with
  | some r => BitVec.ofNat 64 r.data
  | none => (s.cur.b[k]).v
/-- A domain register. -/
def State.rdD (s : State) (d : R64) : DomReg :=
  match s.snap 6 d.val with
  | some r => ⟨BitVec.ofNat 32 r.data, BitVec.ofNat 32 (r.data / 2 ^ 32), BitVec.ofNat 64 (r.data / 2 ^ 64)⟩
  | none => s.cur.d[d]
/-- A vector register. -/
def State.rdW (s : State) (d : R64) : BitVec 4096 :=
  match s.snap 7 d.val with
  | some r => BitVec.ofNat 4096 r.data
  | none => s.cur.w[d]
/-- A word of the constant bank. -/
def State.rdCb (s : State) (n : Cb) : BitVec 32 :=
  match s.snap 11 n.val with
  | some r => BitVec.ofNat 32 r.data
  | none => s.cur.bank[n]

/-- The allotment of the current core; a core without a launch allots nothing. -/
def Core.alloc (k : Core) : Allot := k.allot.getD ⟨0, 1, 0, 0, 0, 0, 0, 0, 0, 0, 0, 0, 0, 0⟩
/-- The allotment of the core whose bundle is being committed. -/
def State.alloc (s : State) : Allot := (s.core s.env.core).alloc

/-- The physical tile of a tile name (17 R242). -/
def physTile (al : Allot) (x : CtxId) (m : R16) : Fin 16 := Fin.ofNat 16 (x.val * al.tiles + m.val)
/-- The physical block of a block name (17 R246). -/
def physBlock (al : Allot) (x : CtxId) (q : Nat) : Fin 512 := Fin.ofNat 512 (x.val * al.acc + q)

/-- A tile's shape register. -/
def State.rdShape (s : State) (m : R16) : BitVec 20 :=
  match s.snap 8 m.val with
  | some r => BitVec.ofNat 20 r.data
  | none => s.cur.mshp[m]
/-- A tile's bytes. -/
def State.rdTile (s : State) (m : R16) : BitVec 262144 :=
  match s.snapTile m with
  | some r => BitVec.ofNat 262144 (r.data / 2 ^ 32)
  | none => (s.core s.env.core).tiles[physTile s.alloc s.env.ctx m]
/-- An accumulator block. -/
def State.rdBlock (s : State) (q : Q512) : BitVec 32768 :=
  match s.snap 9 q.val with
  | some r => BitVec.ofNat 32768 r.data
  | none => (s.core s.env.core).blocks[physBlock s.alloc s.env.ctx q.val]
/-- cr.fmt in effect for the slot (12 R180). -/
def State.rdFmt (s : State) : BitVec 12 :=
  match s.snap 13 0 with
  | some r => BitVec.ofNat 12 r.data
  | none => s.cur.fmt
/-- The scale table in effect for the slot (12 R180). -/
def State.rdSct (s : State) : BitVec 512 :=
  match s.snap 13 0 with
  | some r => BitVec.ofNat 512 (r.data / 2 ^ 64)
  | none => s.cur.sct

/-- The immediate value V (05 R61, Table 5.7). -/
def State.immV (s : State) (v : Imm) : BitVec 32 :=
  match v with
  | .int20 k => k.signExtend 32
  | .fp20 k => BitVec.ofNat 32 (k.toNat * 2 ^ 12)
  | .lit k => match s.snap 10 k.val with
    | some r => BitVec.ofNat 32 r.data
    | none => s.env.lits.getD k.val 0
  | .cb n => s.rdCb n
  | .high k => BitVec.ofNat 32 (k.toNat * 2 ^ 12)
/-- V sign-extended to 64 bits. -/
def State.imm64 (s : State) (v : Imm) : Word := (s.immV v).signExtend 64

/-- Does the guard hold (05 R59)? -/
def State.guard (s : State) (gd : Guard) : Bool := s.rdP gd.p != gd.neg

/-! ### Results (03 R40) -/

/-- Send a write towards its visibility step, `lat` steps after the issue. -/
def State.push (s : State) (lat : Nat) (wr : Wr) (fl : BitVec 7) : State :=
  s.modCore s.env.core fun k => { k with inflight := k.inflight ++ [⟨s.env.ctx, k.step + lat, wr, fl⟩] }
/-- Send a g-register result; g0 discards it. -/
def State.pushG (s : State) (lat : Nat) (d : R64) (v : Word) (t : Bool) : State :=
  if d = 0 then s else s.push lat (.g d v t) 0
/-- Send a predicate result; p0 discards it. -/
def State.pushP (s : State) (d : R16) (v : Bool) : State := if d = 0 then s else s.push 1 (.p d v) 0

/-! ### Energy (27 R408, R409) -/

/-- The classes of 27 Table 27.6. -/
inductive EClass where
  | scalar | vector | special | mx8 | mx4 | mx16 | mxf32 | s6 | own | neighbour | global | engine | node | static
  deriving DecidableEq, Repr

/-- The weight at point 7, in 0.1 pJ. -/
def EClass.top : EClass → Nat
  | .scalar => 120 | .vector => 1800 | .special => 2600
  | .mx8 => 21000 | .mx4 => 23000 | .mx16 => 22000 | .mxf32 => 20000 | .s6 => 4000
  | .own => 4 | .neighbour => 12 | .global => 60 | .engine => 40 | .node => 300 | .static => 7000
/-- A number for each class. -/
def EClass.code : EClass → Nat
  | .scalar => 0 | .vector => 1 | .special => 2 | .mx8 => 3 | .mx4 => 4 | .mx16 => 5 | .mxf32 => 6 | .s6 => 7
  | .own => 8 | .neighbour => 9 | .global => 10 | .engine => 11 | .node => 12 | .static => 13
/-- The weight at an operating point: at most that of point 7 (log 11). -/
def weightAt (c : EClass) (point : Nat) : Nat := if point = 7 then c.top else min (Config.weight c.code point) c.top

/-- Charge `w` parts in `den` of a 65,536th of a nJ to a context, rounded to one (log 11); cr.egy saturates. -/
def State.chargeExact (s : State) (c : CoreId) (x : CtxId) (w den : Nat) : State :=
  let up := if w % den = 0 then 0 else if Config.energyRound s.choices then 1 else 0
  { (s.modCtx c x fun t =>
      let tot := t.egy.toNat * 65536 + t.egyFrac.toNat + w / den + up
      { t with
        egy := if 2 ^ 64 ≤ tot then BitVec.allOnes 48 else BitVec.ofNat 48 (tot / 65536)
        egyFrac := if 2 ^ 64 ≤ tot then 0 else BitVec.ofNat 16 tot }) with
    choices := s.choices + 1 }

/-- Charge `n` units of a class to a context at the core's point in effect. -/
def State.charge (s : State) (c : CoreId) (x : CtxId) (cls : EClass) (n : Nat) : State :=
  s.chargeExact c x (weightAt cls (s.core c).opp.cur.val * n * 65536) 10000

/-- Charge a slot of the bundle being committed. -/
def State.chargeSlot (s : State) (cls : EClass) : State := s.charge s.env.core s.env.ctx cls 1

/-- Commit a slot: nothing when its guard is false; its effect, and its charge unless it trapped (05 R59, 27 R409). -/
def slotDo (gd : Guard) (cls : Option EClass) (f : State → State) (s : State) : Out :=
  .next (if s.guard gd then
    let t := f s
    match cls with
    | some k => if t.env.stopped then t else t.chargeSlot k
    | none => t
  else s)

/-! ### Translation (24 R376 to R378) -/

/-- What a walk finds. -/
inductive Xlat where
  | leaf (e : Word) (base size : Nat)
  | fault (replayable : Bool)
  deriving DecidableEq, Repr

/-- The size of a leaf by SZ. -/
def leafSize (sz : Nat) : Nat := if sz = 0 then 2 ^ 16 else if sz = 1 then 2 ^ 21 else 2 ^ 30
/-- Is a valid entry malformed at a level (24 Table 24.7)? -/
def malformed (e : Word) (lv : Nat) : Bool :=
  let v := e.toNat
  let sz := v / 4 % 4
  let t := e.getLsbD 1
  let addr := v / 2 ^ 13 % 2 ^ 47
  v / 2 ^ 9 % 8 != 0
  || (t && (lv == 0 || v / 2 ^ 60 != 0))
  || (!t && (decide (12 ≤ v / 2 ^ 60) || sz == 3 || (sz == 2) != (lv == 1) || (lv != 0 && lv != 1)
        || addr * 2 ^ 13 % leafSize sz != 0))

/-- The walk from level `lv - 1` down (24 R376). -/
def walkFrom (m : Memory) (va : Nat) : Nat → Nat → Xlat
  | 0, _ => .fault false
  | lv + 1, t =>
    let e := BitVec.ofNat 64 (memReadN m (t + 8 * (va / 2 ^ (10 * lv + 16) % 1024)) 8)
    if e.getLsbD 0 = false then .fault (e.getLsbD 1)
    else if malformed e lv then .fault false
    else if e.getLsbD 1 then walkFrom m va lv (e.toNat / 2 ^ 13 % 2 ^ 47 * 2 ^ 13)
    else
      let size := leafSize (e.toNat / 4 % 4)
      .leaf e (va / size * size) size

/-- A cached translation of an address. -/
def tlbFind (l : List TlbEntry) (asid : BitVec 7) (va : Nat) : Option TlbEntry :=
  l.find? fun e => e.asid == asid && decide (e.base ≤ va) && decide (va < e.base + e.size)

/-- The CXL port of a second-tier page. The spec names no bit that tells it: PA[42], half of the tier each. DESIGN CHOICE (log 71). -/
def cxlPort (e : Word) : Fin 2 := if e.toNat / 2 ^ 42 % 2 = 0 then 0 else 1
/-- Bytes of an HBM stack (01 R19). -/
def stackBytes : Nat := 2 ^ 36
/-- Bytes of the second tier (01 R24, 26 R390). -/
def secondBytes : Nat := 2 ^ 43
/-- Is there no memory under a leaf's page: it lies outside its home stack, past the second tier's capacity, or behind a CXL port whose
link is down (26 R390)? DESIGN CHOICE (log 69): stack `h` holds the physical addresses from `h` times 64 GiB on, and those of the second
tier count from 0. -/
def State.noMemory (s : State) (e : Word) : Bool :=
  let pa := e.toNat / 2 ^ 13 % 2 ^ 47 * 2 ^ 13
  if e.getLsbD 12 then decide (secondBytes ≤ pa) || !s.hub.cxl[cxlPort e] else pa / stackBytes != e.toNat / 2 ^ 60

/-- Translate for an agent of a die: its TLBs, then the tables. A page without memory is a non-replayable fault (26 R390). -/
def State.xlat (s : State) (l1 : List TlbEntry) (die : Fin 12) (asid : BitVec 7) (root : Word) (va : Nat) : Xlat :=
  let r := match tlbFind l1 asid va with
    | some e => Xlat.leaf e.leaf e.base e.size
    | none => match tlbFind (s.dies[die]).tlb asid va with
      | some e => Xlat.leaf e.leaf e.base e.size
      | none => walkFrom s.gmem va 4 root.toNat
  match r with
  | .leaf e _ _ => if s.noMemory e then .fault false else r
  | _ => r

/-- Where a tier's bytes stand among the places of memory: those of the second tier above every PA (24 Table 24.7: ST is no part of
PA), so that no byte of one tier is a byte of the other. -/
def tierBase (e : Word) : Nat := if e.getLsbD 12 then 2 ^ 60 else 0
/-- The place of an address under a leaf: its PA (24 R376), in its tier. -/
def physAddr (e : Word) (base size va : Nat) : Nat :=
  tierBase e + e.toNat / 2 ^ 13 % 2 ^ 47 * 2 ^ 13 / size * size + (va - base) % size

/-- The agents a leaf distinguishes. -/
inductive Agent where
  | core | engine | host
  deriving DecidableEq, Repr

/-- Permission of a leaf for an agent's load or store (24 R376). -/
def permitted (e : Word) (ag : Agent) (write : Bool) : Bool :=
  (match ag with
    | .core => e.getLsbD 6
    | .engine => e.getLsbD 7
    | .host => e.getLsbD 8)
  && e.getLsbD 4 && (!write || e.getLsbD 5)

/-- The result of translating and checking one address. -/
inductive Phys where
  | ok (pa : Nat)
  | page
  | perm
  | held
  deriving DecidableEq, Repr

/-- Translate and check for an agent. -/
def State.phys (s : State) (l1 : List TlbEntry) (die : Fin 12) (asid : BitVec 7) (root : Word) (ag : Agent)
    (write : Bool) (va : Nat) : Phys :=
  match s.xlat l1 die asid root va with
  | .leaf e b sz => if permitted e ag write then .ok (physAddr e b sz va) else .perm
  | .fault true => .held
  | .fault false => .page

/-- Translate an address for a context. -/
def State.xlatCtx (s : State) (c : CoreId) (x : CtxId) (va : Nat) : Xlat :=
  let t := s.ctx c x
  s.xlat (s.core c).tlb (coreDie c) t.asid t.ptroot va
/-- Translate an address for an engine that works for a context. -/
def State.xlatEng (s : State) (c : CoreId) (x : CtxId) (va : Nat) : Xlat :=
  let t := s.ctx c x
  s.xlat [] (coreDie c) t.asid t.ptroot va
/-- Translate for an access of a context. -/
def State.physCtx (s : State) (c : CoreId) (x : CtxId) (write : Bool) (va : Nat) : Phys :=
  let t := s.ctx c x
  s.phys (s.core c).tlb (coreDie c) t.asid t.ptroot .core write va
/-- Translate for an engine that works for a context. -/
def State.physEng (s : State) (c : CoreId) (x : CtxId) (write : Bool) (va : Nat) : Phys :=
  let t := s.ctx c x
  s.phys [] (coreDie c) t.asid t.ptroot .engine write va

/-! ### The MSC slices (01 R19, R20, 10 R137, R159) -/

/-- Does a line yield: no pin keeps it, and its partition holds more of the set than MSCMIN guarantees it (23 Table 23.7)? -/
def mscYields (same : List MscLine) (keep : Nat → Nat) (pinned : Nat → Bool) (q : MscLine) : Bool :=
  !pinned q.line && decide (keep q.part < (same.filter fun r => r.part == q.part).length)

/-- A line of a set of at most `ways` lines takes a sector: the newest stands last; the oldest of its set that yields leaves for it,
its dirty sectors written back, or where none yields the oldest of its own partition that no pin keeps. DESIGN CHOICE (log 72). -/
def mscPut (l : List MscLine) (ways : Nat) (keep : Nat → Nat) (pinned : Nat → Bool) (part line : Nat) (sector : Fin 4) (write : Bool) :
    List MscLine :=
  let old := (l.find? fun q => q.line == line).getD ⟨line, part, 0, 0⟩
  let bit : BitVec 4 := BitVec.ofNat 4 (2 ^ sector.val)
  let new : MscLine := ⟨line, old.part, old.valid ||| bit, if write then old.dirty ||| bit else old.dirty⟩
  let rest := l.filter fun q => q.line != line
  let same := rest.filter fun q => q.line % 393216 == line % 393216
  if same.length < ways then rest ++ [new]
  else match (same.find? (mscYields same keep pinned)).or (same.find? fun q => q.part == part && !pinned q.line) with
    | some v => rest.filter (fun q => q.line != v.line) ++ [new]
    | none => rest

/-- The ways of a slice that MSCMIN guarantees a partition. -/
def State.mscMin (s : State) (h : Fin 12) (p : Nat) : Nat := match s.layout.parts[p]? with
  | some q => (q.mscmin[h]).toNat
  | none => 0

/-- The sectors of `n` bytes from `va` on, under a translation, are read or written for a partition in the slice of their home stack:
filled on a miss, dirty once written; no other slice holds the line (01 R20). A slice has 16 ways, less those retired. -/
def State.mscTouch (s : State) (p : Nat) (f : Nat → Xlat) (va n : Nat) (write : Bool) : State :=
  (List.range ((va % 64 + n + 63) / 64)).foldl (fun s i =>
    let v := va / 64 * 64 + 64 * i
    match f v with
    | .leaf e b sz =>
      let h : Fin 12 := Fin.ofNat 12 (e.toNat / 2 ^ 60)
      let pa := physAddr e b sz v
      let put := mscPut s.msc[h] (16 - s.mscRetired[h]) (s.mscMin h) (fun q => s.pins.any fun x => x.line == q) p (pa / 256)
        (Fin.ofNat 4 (pa / 64)) write
      { s with msc := (s.msc.map fun l => l.filter fun q => q.line != pa / 256).set h put }
    | .fault _ => s) s
/-- A context's access in the MSC. -/
def State.mscCtx (s : State) (c : CoreId) (x : CtxId) (write : Bool) (a : Addr) (n : Nat) : State :=
  if isScratch a then s else s.mscTouch (s.core c).alloc.part (s.xlatCtx c x) a.toNat n write

/-! ### Ports, interrupts, host writes and the trap queue (24 R379, R380, 26 R383, R388, R392) -/

/-- Change the hub. -/
def State.modHub (s : State) (f : Hub → Hub) : State := { s with hub := f s.hub }
/-- Change a port. -/
def State.modPort (s : State) (p : Fin 9) (f : Port → Port) : State := s.modHub fun h => { h with ports := h.ports.set p (f h.ports[p]) }
/-- An error counted in the hub. -/
def State.hubError (s : State) : State := s.modHub fun h => { h with errors := h.errors + 1 }

/-- The bytes a transaction carries. -/
def Tx.data : Tx → List Byte
  | .mwr _ _ _ _ l => l
  | .mrd _ _ _ _ => []
  | .cpl _ _ _ _ l => l
/-- How many flits a transaction takes. The spec gives no coding of it in payload bytes. DESIGN CHOICE (log 58). -/
def Tx.flits (x : Tx) : Nat := x.data.length / 244 + 1
/-- Can a port send a transaction of `n` flits at once? The replay buffer holds 256 (26 R383). -/
def Port.room (q : Port) (n : Nat) : Bool := q.up && q.waiting.isEmpty && decide (q.buffer.length + n ≤ 256)

/-- A flit leaves: it takes the next sequence number and stays in the replay buffer until it is acknowledged. -/
def State.emitFlit (s : State) (p : Fin 9) : State :=
  let d := s.draw
  let q := s.hub.ports[p]
  let fl := flitBytes 1 (q.recvSeq - 1).toNat q.sendSeq.toNat ((List.range 244).map (Config.flitByte d.1))
  (d.2.modHub fun h => { h with out := h.out ++ [.flit p fl] }).modPort p fun q => { q with
    sendSeq := q.sendSeq + 1
    buffer := q.buffer ++ [(q.sendSeq, fl)] }
/-- A transaction leaves on a port, with its flits. -/
def State.emit (s : State) (p : Fin 9) (x : Tx) : State :=
  (List.range x.flits).foldl (fun s _ => s.emitFlit p) (s.modHub fun h => { h with out := h.out ++ [.tx p x] })
/-- A transaction is sent, or waits for room in the replay buffer; a port that is down drops it (26 R382). -/
def State.send (s : State) (p : Fin 9) (x : Tx) : State :=
  let q := s.hub.ports[p]
  if q.up = false then s
  else if q.room x.flits then s.emit p x
  else s.modPort p fun q => { q with waiting := q.waiting ++ [x] }

/-- The next bytes that one MRD reads of `n` bytes at `a`: at most 512, in one 4 KiB page, aligned below 8 bytes (26 Table 26.2). -/
def mrdSize (a n : Nat) : Nat :=
  let k := min (min n 512) (4096 - a % 4096)
  if 8 ≤ k then k else if 4 ≤ k ∧ a % 4 = 0 then 4 else if 2 ≤ k ∧ a % 2 = 0 then 2 else min k 1
/-- The module's MRDs of host memory for a function leave on the host port; what they read is host memory at this moment.
DESIGN CHOICE (log 77). -/
def State.hostAsk (f : BitVec 7) (tag : Nat) : Nat → Nat → Nat → State → State
  | 0, _, _, s => s
  | fuel + 1, a, n, s => if n = 0 then s else
      State.hostAsk f tag fuel (a + mrdSize a n) (n - mrdSize a n) (s.send 0 (.mrd f (BitVec.ofNat 10 tag) (BitVec.ofNat 64 a) (mrdSize a n)))

/-- A device write to host memory leaves and performs. -/
def State.hostSend (s : State) (w : HostWrite) : State :=
  let d := s.draw
  ({ d.2 with hmem := memWriteBytes s.hmem w.a w.data }).emit 0 (.mwr w.f 0 (BitVec.ofNat 10 d.1) (BitVec.ofNat 64 w.a) w.data)
/-- A device write to host memory for a function: performed while the host port can send it, else held in order
(26 R392). DEDUCED (log 61). -/
def State.hostWrite (s : State) (f : BitVec 7) (a : Nat) (data : List Byte) : State :=
  if (s.hub.ports[(0 : Fin 9)]).room 1 && s.hub.hostQ.isEmpty then s.hostSend ⟨f, a, data⟩
  else s.modHub fun h => { h with hostQ := h.hostQ ++ [⟨f, a, data⟩] }
/-- What waits on a port is sent in order, while there is room: transactions, and on the host port the held writes. -/
def State.pump (p : Fin 9) : Nat → State → State
  | 0, s => s
  | n + 1, s =>
    let q := s.hub.ports[p]
    match q.waiting with
    | x :: rest =>
      if q.up && decide (q.buffer.length + x.flits ≤ 256) then State.pump p n ((s.modPort p fun q => { q with waiting := rest }).emit p x) else s
    | [] =>
      if p = 0 ∧ q.room 1 then match s.hub.hostQ with
        | w :: rest => State.pump p n ((s.modHub fun h => { h with hostQ := rest }).hostSend w)
        | [] => s
      else s

/-- The number of a function on the link: 127 for the management function (26 R384). -/
def fnNo (f : Nat) : BitVec 7 := if f = 96 then 127 else BitVec.ofNat 7 f
/-- The partition of a function (23 Table 23.7). -/
def State.partOf (s : State) (f : Nat) : Option Nat :=
  if f < 96 then s.layout.parts.findIdx? fun p => p.vfmask.getLsbD f else none
/-- Does a virtual-function reset keep messages of a function from being formed? A reset of its partition, the wider event,
sends them (26 Table 26.4). -/
def State.muted (s : State) (f : Fin 97) : Bool :=
  s.hub.resets.any (fun r => r.val == f.val) && !((s.partOf f.val).any s.hub.presets.contains)
/-- Is there room in the hub for `n` more writes to host memory? It holds 4096 (26 R392). -/
def State.roomFor (s : State) (n : Nat) : Bool := decide (s.hub.hostQ.length + n ≤ 4096)
/-- An interrupt message on vector `v` of function `f` (26 R388), held like every device write while the host port is down; one that
finds no room waits (R392). DEDUCED (log 56). -/
def State.interrupt (s : State) (f : Fin 97) (v : R64) : State :=
  let iv := (s.hub.vectors[f])[v]
  if s.muted f then s
  else if iv.mask then s.modHub fun h => { h with vectors := h.vectors.set f ((h.vectors[f]).set v { iv with pend := true }) }
  else if iv.addr = 0 then s
  else if s.roomFor 1 then s.hostWrite (fnNo f.val) iv.addr.toNat (leBytes 4 iv.data.toNat)
  else s.modHub fun h => { h with irqs := h.irqs ++ [(f, v)] }
/-- The oldest interrupt message that waits for room is sent. -/
def State.sendIrq (s : State) : State := match s.hub.irqs with
  | [] => s
  | e :: rest => (s.modHub fun h => { h with irqs := rest }).interrupt e.1 e.2

/-- Entries of the trap queue that are free. -/
def State.tqFree (s : State) : Nat := 1024 - (s.hub.tqtail - s.hub.tqhead).toNat

/-- Write a record at SEQ mod 1024 and advance TQTAIL (24 Table 24.8). -/
def State.tqWrite (s : State) (r : TrapRec) : State :=
  let w0 := r.kind.toNat + r.cause.toNat * 2 ^ 8 + r.vf.toNat * 2 ^ 16 + r.part.toNat * 2 ^ 24 + r.unit.toNat * 2 ^ 32
  let w6 := s.layout.version.toNat + s.hub.tqtail.toNat * 2 ^ 32
  let bytes := leBytes 8 w0 ++ leBytes 8 r.tick.toNat ++ leBytes 8 r.faddr.toNat ++ leBytes 8 r.frame0.toNat
    ++ leBytes 8 r.info.toNat ++ leBytes 8 r.recAddr.toNat ++ leBytes 8 w6 ++ leBytes 8 0
  let s := s.hostWrite 127 (s.hub.tqbase.toNat + 64 * (s.hub.tqtail.toNat % 1024)) bytes
  { s with hub := { s.hub with tqtail := s.hub.tqtail + 1 } }

/-- Is there room in the trap queue for a record (24 R380)? Kind 1 takes any free entry, the others need more than eight. -/
def State.tqRoom (s : State) (r : TrapRec) : Bool := if r.kind = 1 then decide (0 < s.tqFree) else decide (8 < s.tqFree)
/-- A record of kind 3 or 4 that finds no room in the trap queue is dropped and counted. -/
def State.tqDrop (s : State) : State := { s with hub := { s.hub with drops := s.hub.drops + 1 } }
/-- Form a record (24 R380): one of kind 3 or 4 that finds no room in the trap queue is dropped; one of kind 1 or 2 that finds none
waits, as each does that finds no room among the held writes (26 R392). -/
def State.trapRecord (s : State) (r : TrapRec) : State :=
  if !s.tqRoom r && r.kind != 1 && r.kind != 2 then s.tqDrop
  else if s.tqRoom r && s.roomFor 1 && !(s.hub.deferred.any fun d => d.kind == r.kind) then s.tqWrite r
  else { s with hub := { s.hub with deferred := s.hub.deferred ++ [r] } }

/-- Does a record of kind 4 wait to be written? -/
def State.noticeDue (s : State) : Bool := s.hub.deferred.any fun d => d.kind == 4

/-! ### The selector (03 R34) -/

/-- Is a context able to be selected? -/
def Ctx.selectable (t : Ctx) : Bool := t.run == .ready && !t.stopping

/-- The next context after `last` among those ready with the highest priority, the rotation of R34. -/
def selectFrom (k : Core) (last : CtxId) : Option CtxId :=
  let ready := (List.finRange 4).filter fun x => (k.ctxs[x]).selectable
  let hi := ready.any fun x => (k.ctxs[x]).pri
  let order : List CtxId := [last + 1, last + 2, last + 3, last]
  order.find? fun x => ready.contains x && (k.ctxs[x]).pri == hi

/-- Pending priority writes take effect at a switch point (03 R32). DESIGN CHOICE (log 62): a MOVC that writes cr.cctl.PRI becomes
pending one step after its bundle, so the switch point of that very bundle still selects by the old PRI. -/
def Core.applyPri (k : Core) : Core :=
  { k with ctxs := k.ctxs.map fun t => match t.priNext with
      | some p => { t with pri := p, priNext := none }
      | none => t }

/-- Let the selector choose (03 R34): the context it continues with, or one switch step and then the chosen one, or
nobody. After a release no switch step is taken and the rotation starts at context 3. -/
def Core.select (k : Core) : Core :=
  match selectFrom k (if k.fresh then 3 else k.last) with
  | none => { k with current := none }
  | some x =>
    let k := { k with current := some x, switching := !k.fresh && x != k.last, last := x, fresh := false }
    k.modCtx x fun t => { t with run := .running }

/-- A switch point: the running context has stopped running (yielded, blocked, halted or trapped). -/
def Core.switchPoint (k : Core) : Core :=
  let k := k.applyPri
  let k := match k.current with
    | some x => k.modCtx x fun (t : Ctx) => if t.run = RunState.running then { t with run := .ready } else t
    | none => k
  { k with current := none, splitAt := none }.select

/-! ### Jobs and pins of contexts that stop (19 R291, 10 R159) -/

/-- Some pins end; the WAIT tests they refused are repeated before anything else happens (10 R159). -/
def State.endPins (s : State) (p : Pin → Bool) : State :=
  { s with
    pins := s.pins.filter fun x => !p x
    retests := s.retests || s.pins.any p }

/-- Is a core allotted to a launch group? -/
def State.inGroup (s : State) (g : Nat) (c : CoreId) : Bool := ((s.core c).allot.map (·.group)) == some g

/-- The pins of a launch group end once each of its allotted contexts has halted or is held by a fatal trap (10 R159). DEDUCED (log 67). -/
def State.endPinsHalted (s : State) (g : Nat) : State :=
  if allCtx.all fun u => !s.inGroup g u.1 || match (s.ctx u.1 u.2).run with
    | .unloaded | .halted | .held => true
    | _ => false
  then s.endPins fun p => s.inGroup g p.core else s

/-! ### Bracken operations of contexts that stop (21 R335 to R338) -/

/-- A fault met after commit, or a fault of a test, becomes pending (24 R361). -/
def State.pend (s : State) (c : CoreId) (x : CtxId) (cause : BitVec 8) (faddr info : Word) (origin : Addr) (oslot : R8) : State :=
  s.modCtx c x fun t => { t with faults := t.faults ++ [⟨cause, faddr, info, origin, oslot⟩] }

/-- A scratch-window address of a core's own vault. -/
def ownAddr (c : CoreId) (o : Nat) : Addr := BitVec.ofNat 56 (corePos c * 2 ^ 22 + o)

/-- The space of a core's launch group. -/
def State.spaceOf (s : State) (c : CoreId) : Option Space :=
  match (s.core c).allot with
  | none => none
  | some al => s.spaces.find? fun sp => sp.group == al.group
/-- Replace the space of a group. -/
def State.setSpace (s : State) (sp : Space) : State :=
  { s with spaces := s.spaces.map fun (q : Space) => if q.group = sp.group then sp else q }

/-- Operations of a group whose records are written count in OPS (21 R331). -/
def State.countOps (s : State) (c : CoreId) (n : Nat) : State :=
  match s.spaceOf c with
  | some sp => s.setSpace { sp with ops := sp.ops + n }
  | none => s

/-- The entries of a core. -/
def Core.entries (k : Core) : List (R16 × DdEntry) :=
  (List.finRange 16).filterMap fun e => (k.ddq[e]).map fun d => (e, d)
/-- Set an entry of a core's queue. -/
def State.setEntry (s : State) (c : CoreId) (e : R16) (d : Option DdEntry) : State :=
  s.modCore c fun k => { k with ddq := k.ddq.set e d }

/-- An operation of a context has completed: its node reads are charged (27 R409), and a later FENCE.e observes it, at package scope
(10 R157, R319). -/
def State.ddDone (s : State) (c : CoreId) (d : DdEntry) : State :=
  (s.modCtx c d.ctx fun t => { t with doneWide := true }).charge c d.ctx .node d.reads

/-- The record of an operation: AUX, then DONE with STATUS and RESULT (21 R321). -/
def Core.putRecord (k : Core) (o : Nat) (st : BitVec 8) (res aux : Word) : Core :=
  { k with
    vault := memWriteN (memWriteN k.vault (o + 8) 8 aux.toNat) o 8 (2 ^ 63 + st.toNat * 2 ^ 32 + res.toNat % 2 ^ 32)
    vpoison := clearPoison k.vpoison o 16 }

/-- The operation of an entry is complete: its record is written and its entry released. -/
def State.ddEnd (s : State) (c : CoreId) (e : R16) (d : DdEntry) (o : Nat) (st : BitVec 8) (res aux : Word) : State :=
  (s.modCore c fun k => { k.putRecord o st res aux with
    ddq := k.ddq.set e none
    doneDds := o :: k.doneDds.filter (· != o) }).ddDone c d

/-- The entry of an abandoned operation is kept, and DD_TABLE_FULL becomes pending (21 R335, R336). -/
def State.ddAbandoned (s : State) (c : CoreId) (e : R16) (d : DdEntry) : State :=
  (s.setEntry c e (some { d with accepted := false })).pend c d.ctx 0x15
    ((ownAddr c (d.rcd.getD 0)).setWidth 64) (BitVec.ofNat 64 e.val) 0 0

/-- An entry of a context that has halted is discarded: its record is written with STATUS 5 (21 R338). -/
def State.ddDrop (s : State) (c : CoreId) (e : R16) (d : DdEntry) : State :=
  (match d.rcd with
    | some o => (s.modCore c fun k => k.putRecord o 5 0 0).countOps c 1
    | none => s).setEntry c e none

/-- The accepted operations of a context complete, or are abandoned, before its record is complete, in the order of their acceptance;
the WAITs on what they write are tested again (21 R338). DEDUCED (log 38). -/
def State.ddSettle (s : State) (c : CoreId) (x : CtxId) : State :=
  (((s.core c).entries.filter fun e => e.2.ctx == x && e.2.accepted).mergeSort fun a b => decide (a.2.seq ≤ b.2.seq)).foldl (fun s e =>
    if e.2.abandoned then
      (if (s.ctx c x).run = .halted then { s.ddDrop c e.1 e.2 with retests := true } else s.ddAbandoned c e.1 e.2)
    else match e.2.result, e.2.rcd with
      | some (st, res, aux), some o => { s.ddEnd c e.1 e.2 o st res aux with retests := true }
      | _, _ => s) s

/-- A kill ends the context's jobs with STATUS 5 and its subscriptions too (19 R291, R299), writes STATUS 5 into the
records of Bracken entries that were not accepted (21 R338), whose blocked WAITs are tested again and which count in OPS (R331), and
discards its results in flight. -/
def State.killWork (s : State) (c : CoreId) (x : CtxId) : State :=
  let g := (s.core c).allot.map (·.group)
  let recs := (s.core c).ddq.toList.filterMap fun (e : Option DdEntry) => match e with
    | some d => if d.ctx = x ∧ d.accepted = false then d.rcd else none
    | none => none
  let s := { s with jobs := s.jobs.map fun (j : Job) => if j.core = c ∧ j.ctx = x ∧ j.status = none then { j with status := some 5 } else j }
  let s := { s with retests := s.retests || !recs.isEmpty }
  let s := s.modCore c fun k => { recs.foldl (fun (k : Core) a => k.putRecord a 5 0 0) k with
      ddq := k.ddq.map fun (e : Option DdEntry) => match e with
        | some d => if d.ctx = x ∧ d.accepted = false then none else some d
        | none => none
      subs := k.subs.map fun (e : Option Sub) => match e with
        | some d => if d.owner = x then some { d with
            ending := some (d.ending.getD 5)
            held := []
            loaded := []
            slots := d.slots.map fun _ => .empty } else some d
        | none => none
      inflight := k.inflight.filter fun f => f.ctx != x }
  let s := { s with spaces := s.spaces.map fun (sp : Space) => if some sp.group = g then { sp with ops := sp.ops + recs.length } else sp }
  s.endPins fun p => p.core == c && p.ctx == x

/-- CYC at issue: the first cycle of a step of a split window counts (27 R405). -/
def State.issueCyc (s : State) : Word := (((s.core s.env.core).splitAt).map (·.cyc)).getD s.cyc

/-- What a kill leaves of an access: a load and its result are discarded with the context's state; the effect of any other
committed access is performed. DEDUCED (log 19). -/
def Access.afterKill (a : Access) : Option Access := match a.kind with
  | .load _ => none
  | _ => some { a with dest := .none }

/-- A context is killed (24 R374): its work ends, its state is discarded, it becomes Halted. -/
def State.killCtx (s : State) (c : CoreId) (x : CtxId) : State :=
  let s := s.killWork c x
  let was := (s.core c).current == some x
  let s := s.modCtx c x fun t => { t with
    run := .halted
    hm := false
    accs := t.accs.filterMap Access.afterKill
    pendDom := []
    episode := none
    faults := []
    blocks := ⟨none, none⟩
    promiseT := none
    replay := none
    fired := none
    frame := Frame.empty }
  let s := if was then s.modCore c Core.switchPoint else s
  match (s.core c).allot with
  | some al => s.endPinsHalted al.group
  | none => s

/-- The dispatcher stops the rest of a launch group: every context that is not held by a fatal trap is killed. -/
def State.stopGroup (s : State) (g : Nat) : State :=
  ((List.finRange 192).foldl (fun s c =>
    if s.inGroup g c then
      (List.finRange 4).foldl (fun s x =>
        let r := (s.ctx c x).run
        if r = .unloaded ∨ r = .halted ∨ r = .held then s else s.killCtx c x) s
    else s) s).endPinsHalted g

/-- Note the first failure of a launch group (23 R349). -/
def State.failGroup (s : State) (g code : Nat) : State :=
  { s with groups := s.groups.map fun (r : Group) =>
      if r.id = g then { r with code := some (r.code.getD code), stop := some .kill } else r }

/-! ### Episodes that are interrupted (15 R233) -/

/-- A set of registers as a mask. -/
def regMask (rs : List R64) : Word := rs.foldl (fun m r => m ||| BitVec.ofNat 64 (2 ^ r.val)) 0

/-- The registers a recorded form watches (Table 15.3). -/
def Constraint.watch (e : Constraint) : Word :=
  if e.opc = 0x51 then regMask [e.d]
  else if e.opc = 0x52 then regMask ((List.range e.kofs.toNat).map fun j => Fin.ofNat 64 (e.d.val + j))
  else if 0x4B ≤ e.opc ∧ e.opc ≤ 0x4F then regMask [e.d, e.a, e.b]
  else regMask [e.d, e.a]

/-- The next entry to re-execute in a pass. -/
def nextEntry (store : List Constraint) (all : Bool) (prev : Word) (pass start : Nat) : Option Nat :=
  (List.range store.length).find? fun i => decide (start ≤ i) &&
    match store[i]? with
    | some e => (pass == 1 && all) || (e.watch &&& prev) != 0
    | none => false

/-- Where an episode goes on: at its next entry, in the next pass if this one has none left; an entry is missing at its end (R227). -/
def Episode.goOn (e : Episode) (store : List Constraint) : Episode × Option Nat :=
  match nextEntry store e.all e.prev e.pass e.entry with
  | some i => (e, some i)
  | none =>
    if e.cur = 0 then (e, none)
    else
      let n : Episode := { e with
        pass := e.pass + 1
        entry := 0
        prev := e.cur
        cur := 0 }
      (n, nextEntry store n.all n.prev n.pass 0)

/-- An episode that a checkpoint or a heartbeat halt meets is interrupted between two re-executions (R233, 03 R44): cr.nstat holds
ACT, the next entry, PASS and USED, and the frame image the two masks. -/
def Ctx.interrupt (t : Ctx) : Ctx :=
  match t.episode with
  | none => t
  | some e =>
    let n := e.goOn t.store
    { t with
      episode := some n.1
      nstat := { t.nstat with
        used := BitVec.ofNat 32 e.used
        entry := BitVec.ofNat 8 (n.2.getD 0)
        pass := BitVec.ofNat 11 (min n.1.pass 2047)
        act := true }
      frame := { t.frame with
        prev := n.1.prev
        cur := n.1.cur } }

/-! ### Traps (24 R359 to R363) -/

/-- Causes that are fatal in every case (24 Table 24.1). -/
def fatalCause (cause : BitVec 8) : Bool := cause = 0x1A || cause = 0x20 || cause = 0x21 || cause = 0x22

/-- The combination of an ATOM (10 R146); nothing is written by a failed compare. -/
def atomNew (op : AtOp) (sg : Sg) (n : Nat) (old x cmp : Nat) : Option Nat :=
  let lt (a b : Nat) : Bool := match sg with
    | .u => decide (a < b)
    | .s => decide (patInt (8 * n) true a < patInt (8 * n) true b)
  match op with
  | .add => some ((old + x) % 2 ^ (8 * n))
  | .min => some (if lt x old then x else old)
  | .max => some (if lt old x then x else old)
  | .and => some (old &&& x)
  | .or => some (old ||| x)
  | .xor => some (Nat.xor old x)
  | .swap => some x
  | .cas => if old = cmp then some x else none

/-- Is an element that has not performed in core `c`'s own vault? -/
def Elem.owns (c : CoreId) (e : Elem) : Bool := !e.done && e.n != 0 && isScratch e.a && vaultCore c e.a == c
/-- An own vault and its poison after the writes of an access that have not performed. -/
def ownWrites (c : CoreId) (m : Memory × List Nat) (a : Access) : Memory × List Nat :=
  let write (m : Memory × List Nat) (e : Elem) (v : Nat) : Memory × List Nat :=
    (memWriteN m.1 (vaultOfs e.a) e.n v, clearPoison m.2 (vaultOfs e.a) e.n)
  a.elems.foldl (fun m e => if e.owns c then (match a.kind with
    | .store => write m e e.data.toNat
    | .atom op sg v cmp =>
      match atomNew op sg e.n (memReadN m.1 (vaultOfs e.a) e.n) (v.toNat % 2 ^ (8 * e.n)) (cmp.toNat % 2 ^ (8 * e.n)) with
      | some w => write m e w
      | none => m
    | _ => m) else m) m
/-- The bytes of a load as the own vault `m` gives those that have not performed; none where it finds poison. -/
def ownReads (c : CoreId) (m : Memory × List Nat) (a : Access) : Option (BitVec 512) :=
  if a.poison.isSome ∨ a.elems.any (fun e => e.owns c && m.2.contains (vaultOfs e.a / 8)) then none
  else some (BitVec.ofNat 512 (a.elems.foldr (fun e acc =>
    (if e.owns c then memReadN m.1 (vaultOfs e.a) e.n else e.val.toNat) % 2 ^ (8 * e.n) + acc * 2 ^ (8 * e.n)) 0))

/-- The scale table of a context with its pending SETSCT completed (12 R180): each takes its 64 bytes of the own vault as they stand
after the context's earlier writes (17 R260); poison leaves the table unchanged. -/
def Core.sctDone (k : Core) (c : CoreId) (x : CtxId) : BitVec 512 :=
  ((k.ctxs[x]).accs.foldl (fun (r : (Memory × List Nat) × BitVec 512) a =>
    if a.dest = .sct then (r.1, (ownReads c r.1 a).getD r.2) else (ownWrites c r.1 a, r.2)) ((k.vault, k.vpoison), (k.ctxs[x]).sct)).2

/-- The record of a context is written into the MSC, at the next 64 bytes of the region that are free (24 R375): its address.
DESIGN CHOICE (log 48). -/
def State.saveRecord (s : State) (c : CoreId) (x : CtxId) : Word × State :=
  let l := (s.core c).ctxRecord x (ctxUnit c x).toNat s.layout.version ((s.core c).sctDone c x)
  (BitVec.ofNat 64 (64 * Config.recBase + s.recNext),
    { s with
      recMem := memAppend s.recMem s.recNext l
      recNext := s.recNext + (l.length + 63) / 64 * 64 })

/-- A context is held by a fatal trap, its context record saved and its kind-1 record formed (24 R362); a double trap reports
`faddr` and `info` of its own. -/
def State.fatalHold (s : State) (c : CoreId) (x : CtxId) (faddr info : Word) : State :=
  let was := (s.core c).current == some x
  let s := s.modCtx c x fun t => { t with run := .held }
  let (recAddr, s) := s.saveRecord c x
  let t := s.ctx c x
  let al := (s.core c).alloc
  let rec1 : TrapRec := ⟨1, t.frame.cause, (t.asid.setWidth 8), BitVec.ofNat 5 al.part, ctxUnit c x, s.cyc, faddr,
    t.frame.word0, info, recAddr⟩
  let s := if was then s.modCore c Core.switchPoint else s
  let s := s.trapRecord rec1
  { s with groups := s.groups.map fun (g : Group) => if g.id = al.group then { g with records := g.records ++ [(ctxUnit c x, recAddr)] } else g }

/-- A fatal trap saves a record of each other allotted context of the group too (24 R375): an episode is interrupted (15 R233), and the
accepted operations have completed (21 R338). DEDUCED (log 48). -/
def State.saveOthers (s : State) (g : Nat) : State :=
  allCtx.foldl (fun s u =>
    if s.inGroup g u.1 && (match (s.ctx u.1 u.2).run with
      | .unloaded | .held => false
      | _ => true) then
      let r := ((s.modCtx u.1 u.2 Ctx.interrupt).ddSettle u.1 u.2).saveRecord u.1 u.2
      { r.2 with groups := r.2.groups.map fun (y : Group) => if y.id = g then { y with records := y.records ++ [(ctxUnit u.1 u.2, r.1)] } else y }
    else s) s

/-- A fatal trap (24 R362): the context is held and reported, the group's records are saved, and the rest of the group stops; the
LAUNCH is HUNG for a heartbeat halt and FAULTED for any other cause. -/
def State.fatal (s : State) (c : CoreId) (x : CtxId) (faddr info : Word) : State :=
  let g := (s.core c).alloc.group
  let s := ((s.ddSettle c x).fatalHold c x faddr info).saveOthers g
  (s.failGroup g (if (s.ctx c x).frame.cause = 0x21 then 5 else 4)).stopGroup g

/-- Pending SETFMT and SETSCT values of a context are completed before anything more issues (12 R180): they become due
at once. -/
def Core.completeFmt (k : Core) (x : CtxId) : Core :=
  let sct (id : Nat) : Bool := (k.ctxs[x]).accs.any fun a => a.id == id && a.dest == .sct
  { k with inflight := k.inflight.map fun (f : Flight) =>
      if f.ctx == x && (match f.wr with
        | .fmt _ => true
        | .load id => sct id
        | _ => false)
      then { f with due := min f.due k.step } else f }

/-- The frame `f` becomes the held frame: it is valid, with the tick, the rewrite state and the episode's watch words, and
nothing of the context's own is left of what it keeps (24 R360, R366). -/
def State.holdFrame (s : State) (c : CoreId) (x : CtxId) (f : Frame) : State :=
  let t := s.ctx c x
  let f := { f with
    valid := true
    tick := s.cyc
    rwe := rweOf t.fired (f.rwe.getLsbD 14)
    p0 := t.fired.map (·.hdr0)
    prev := (t.episode.map (·.prev)).getD 0
    cur := (t.episode.map (·.cur)).getD 0 }
  s.modCtx c x fun t => { t with
    frame := f
    fired := none
    noRewrite := true
    replay := none
    kept := (t.waitHdr, t.promiseT)
    promiseT := none
    blocks := ⟨none, none⟩ }

/-! ### Stops at a switch point (23 R351) -/

/-- The launch group resident on a core. -/
def State.groupOf (s : State) (c : CoreId) : Option Group :=
  match (s.core c).allot with
  | none => none
  | some al => s.groups.find? fun g => g.id == al.group

/-- How the group of a core is being stopped. -/
def State.groupStop (s : State) (c : CoreId) : Option StopMode :=
  match s.groupOf c with
  | some g => if g.phase = .stopping then g.stop else none
  | none => none

/-- A context stops for the save of its group; the rewrite window is flushed, and the frame carries the RWE of a match in progress
(18 R276). -/
def Ctx.stop (t : Ctx) : Ctx :=
  { t with
    stopping := true
    noRewrite := true
    frame := if t.fired.isSome then { t.frame with rwe := rweOf t.fired false, p0 := t.fired.map (·.hdr0) } else t.frame }

/-- Has a context stopped, or nothing to stop? An episode that a late effect has begun since must end, or be interrupted (15 R233). -/
def Ctx.stopped (t : Ctx) : Bool :=
  (t.stopping || t.run == .unloaded || t.run == .halted || t.run == .held)
    && (t.episode.isNone || t.nstat.act || t.run == .held)
/-- The pins of a launch that is stopped for a save end when the last context of their holder has stopped (10 R159). -/
def State.endPinsStopped (s : State) : State :=
  s.endPins fun p => (s.groupStop p.core == some .drain || s.groupStop p.core == some .checkpoint)
    && (if p.heath then heathCores (coreHeath p.core) else [p.core]).all fun c => (s.core c).ctxs.toList.all Ctx.stopped

/-- A context of a group that is being saved stops at a switch point; under a drain, not while a nest of K = 1 runs. DEDUCED (log 26). -/
def State.stopHere (s : State) (c : CoreId) (x : CtxId) : State :=
  match s.groupStop c with
  | some .checkpoint => (s.modCtx c x Ctx.stop).endPinsStopped
  | some .drain => (s.modCtx c x fun t => if t.loop.run ∧ t.loop.k = 1 then t else t.stop).endPinsStopped
  | _ => s

/-- Taking a system trap (24 R360): the frame `f` is held, pending format writes are completed, the rewrite window is
flushed, the context becomes Trapped, and enters the handler at cr.thv with three fetch bubbles, or the trap is fatal.
In handler mode it is a double trap (R363), reported with the handler bundle's address and slot, but for the causes
that act at once; a cause that comes to a held context replaces its CAUSE (R359), and a lost retention leaves no frame to keep (27
R407). DEDUCED (log 31). -/
def State.takeTrap (s : State) (c : CoreId) (x : CtxId) (f : Frame) (hdr : Word) (slot : R8) : State :=
  let t := s.ctx c x
  let s := s.modEnv fun e => if e.core = c ∧ e.ctx = x then { e with stopped := true } else e
  let s := s.modCore c fun k => k.completeFmt x
  if t.run = .held then
    s.modCtx c x fun t => { t with frame := { t.frame with cause := f.cause } }
  else if t.hm && f.cause = 0x21 then
    (s.modCtx c x fun t => { t with frame := { t.frame with cause := f.cause } }).fatal c x f.faddr f.info
  else if t.hm && f.cause = 0x20 then (s.holdFrame c x f).fatal c x f.faddr f.info
  else if t.hm then
    let s := s.modCtx c x fun t => { t with frame := { t.frame with cause := 0x22 } }
    s.fatal c x hdr (BitVec.ofNat 64 (slot.val + f.cause.toNat * 2 ^ 8))
  else
    let s := s.holdFrame c x f
    if !fatalCause f.cause && t.thv != 0 then
      if (s.core c).markOk t.thv then
        let s := s.modCtx c x fun t => { t with
          hm := true
          pc := t.thv
          bubbles := 3
          transferred := true
          run := if t.run = .running then .running else .ready }
        if (s.core c).current == some x then (s.stopHere c x).modCore c Core.switchPoint else s
      else
        let s := s.modCtx c x fun t => { t with hm := true, frame := { t.frame with cause := 0x22 } }
        s.fatal c x hdr (BitVec.ofNat 64 (0x02 * 2 ^ 8))
    else s.fatal c x f.faddr f.info

end Sys2Proof.Machine
end

