-- ==== Sys2Proof/Machine/Operands.lean ====
section
/-!
DEFINITION. Operand forms and what a slot may raise: control-register reads (08 R97, 24 R364), the operand snapshot
(05 R69, 24 R366), the frame of a fault at a slot's commit (05 R70), memory operands and their checks (10 R139), and the
card addresses of S7 (19 R285).
-/
namespace Sys2Proof.Machine

/-! ### Awaited units (03 R52, 09 R125) -/

/-- The unit id of the copy engine that serves a core (19 R286). -/
def copyUnit (c : CoreId) : Nat := 0x20000 + 4 * (coreDie c).val + 2 * ((coreHeath c).val % 2) + corePos c % 2
/-- The unit id of a heath barrier. -/
def barrierUnit (h : Fin 24) (b : Fin 4) : Nat := 0x30000 + 4 * h.val + b.val

/-- The die whose Bracken engine works for a core's launch group: that of its relative heath 0 (21 Table 21.1, R313). -/
def State.ddDie (s : State) (c : CoreId) : Fin 12 := ((s.groupOf c).bind (·.heaths.head?)).elim (coreDie c) heathDie

/-- The unit a context blocked by WAIT awaits (09 R125). -/
def State.waitUnit (s : State) (c : CoreId) (x : CtxId) (a : Addr) : Nat :=
  let k := s.core c
  let own := isScratch a && vaultCore c a == c
  let o := vaultOfs a
  let job := s.jobs.any fun j => j.core == c && j.ctx == x && !j.ended && own && o / 8 == (j.card + 0x38) % 2 ^ 22 / 8
  let dd := k.ddq.toList.any fun e => match e with
    | some d => d.ctx == x && own && (d.rcd.map fun r => r % 2 ^ 22 / 16) == some (o / 16)
    | none => false
  let ring (store : Bool) := (List.finRange 4).any fun r => match k.rings[r], k.subs[r] with
    | some g, some u => own && u.ending.isNone && (u.mode == 1) == store && decide (g.o ≤ o) && decide (o < g.o + 8 * g.n)
    | _, _ => false
  let card := k.subs.toList.any fun e => match e with
    | some u => own && o / 8 == (u.card + 0x38) % 2 ^ 22 / 8
    | none => false
  if job then copyUnit c
  else if dd then 0x40000 + (s.ddDie c).val
  else if ring false || card then 0x50000 + (coreDie c).val
  else if ring true then 0x60000 + (coreDie c).val
  else 0x90000

/-- The unit a Blocked context publishes; 0 when it is not Blocked (Table 3.9). -/
def State.awaited (s : State) (c : CoreId) (x : CtxId) : Nat :=
  let t := s.ctx c x
  if t.run ≠ .blocked then 0
  else match t.blocks.s0, t.blocks.bar with
    | some (.wait a _ _ _), _ => s.waitUnit c x a
    | some (.sleep _), _ => 0xA0000
    | none, some b => barrierUnit (coreHeath c) b
    | none, none => 0

/-! ### Control registers (08 Table 8.11, 24 Table 24.2) -/

/-- cr.cid (Table 3.4). -/
def State.crCid (s : State) (c : CoreId) (x : CtxId) : Word :=
  let al := (s.core c).alloc
  BitVec.ofNat 64 (al.nheaths * 2 ^ 32 + al.rheath * 2 ^ 24 + c.val * 2 ^ 16 + corePos c * 4 + x.val)
/-- cr.opp (Table 27.2). -/
def Opp.word (o : Opp) : Word :=
  BitVec.ofNat 64 (o.rem.toNat * 2 ^ 16 + o.cap.val * 2 ^ 8 + o.tgt.val * 2 ^ 4 + bit1 o.set * 8 + o.cur.val)
/-- cr.tepc (Table 24.4). -/
def Frame.tepc (f : Frame) : Word :=
  BitVec.ofNat 64 (bit1 f.after * 2 ^ 48 + f.sr.val * 2 ^ 45 + f.addr.toNat % 2 ^ 45)

/-- A control register's value now; a number no table lists reads 0. -/
def State.crNow (s : State) (c : CoreId) (x : CtxId) (n : BitVec 10) : Word :=
  let t := s.ctx c x
  let k := n.toNat
  if k = 0x000 then s.crCid c x
  else if k = 0x001 then (s.core c).crCctl x
  else if k = 0x002 then t.span
  else if k = 0x003 then
    let u := s.awaited c x
    BitVec.ofNat 64 (u + bit1 (t.run == .blocked) * 2 ^ 31)
  else if k = 0x004 then t.egy.setWidth 64
  else if k = 0x010 then t.fmt.setWidth 64
  else if k = 0x011 then t.vstat.setWidth 64
  else if k = 0x012 then t.rwp.setWidth 64
  else if k = 0x013 then (s.core c).opp.word
  else if k = 0x020 then t.nbud.setWidth 64
  else if k = 0x021 then t.crNstat
  else if k = 0x022 then t.crNctl
  else if k = 0x023 then t.ftv
  else if k = 0x024 then t.fpc
  else if 0x030 ≤ k ∧ k ≤ 0x03F then (t.sct.extractLsb' (32 * (k - 0x030)) 32).setWidth 64
  else if 0x100 ≤ k ∧ k ≤ 0x10F then (t.mshp[Fin.ofNat 16 (k - 0x100)]).setWidth 64
  else if k = 0x200 then BitVec.ofNat 64 (bit1 t.hm)
  else if k = 0x201 then t.thv
  else if k = 0x202 then t.frame.cause.setWidth 64
  else if k = 0x203 then t.frame.faddr
  else if k = 0x204 then t.frame.info
  else if k = 0x205 then t.frame.tepc
  else if 0x208 ≤ k ∧ k ≤ 0x20F then t.tsv[Fin.ofNat 8 (k - 0x208)]
  else if k = 0x210 then t.ptroot
  else if k = 0x211 then t.asid.setWidth 64
  else 0

/-- A control register as a source: the held snapshot's record of it, else its value at the issue of the bundle (05 R69). -/
def State.rdCr (s : State) (n : BitVec 10) : Word :=
  match s.snap 12 n.toNat with
  | some r => BitVec.ofNat 64 r.data
  | none => match s.env.crs.find? fun e => e.1 == n with
    | some e => e.2
    | none => s.crNow s.env.core s.env.ctx n

/-! ### Tile shapes (17 R243, R244) -/

/-- TY of a shape register. -/
def shTy (sh : BitVec 20) : Nat := sh.toNat / 2 ^ 16
/-- Rows. -/
def shRows (sh : BitVec 20) : Nat := sh.toNat / 2 ^ 8 % 2 ^ 8 + 1
/-- Columns. -/
def shCols (sh : BitVec 20) : Nat := sh.toNat % 2 ^ 8 + 1
/-- Elements. -/
def shElems (sh : BitVec 20) : Nat := shRows sh * shCols sh
/-- ImageBytes (Table 17.2). -/
def imageBytes (sh : BitVec 20) : Nat :=
  let e := shElems sh
  match shTy sh with
  | 2 => e / 2 + (e + 63) / 64
  | 3 | 4 => 2 * e
  | 5 | 7 => 4 * e
  | _ => e
/-- Is a shape valid (R244)? -/
def shapeOk (sh : BitVec 20) : Bool :=
  decide (shTy sh ≤ 7) && decide (imageBytes sh ≤ 32768) && (shTy sh != 2 || shCols sh % 32 == 0)

/-! ### The loop sequencer (09 R114, R115, R117) -/

/-- Trips(j) (R114). -/
def Loop.trips (l : Loop) (j : Lvl) : Nat :=
  let n := (l.n[j]).toNat
  if j = 0 ∧ 1 ≤ n then n + l.s - 1 else n

/-- AdvancingLevel (R115): the lowest level of the nest with a trip left; none on the last trip. -/
def Loop.advancing (l : Loop) : Option Lvl :=
  (List.finRange 6).find? fun j => decide (j.val < l.k) && decide ((l.idx[j]).toNat + 1 < l.trips j)
/-- The sequencer of the context in `env` at the issue of its bundle. -/
def State.loop0 (s : State) : Loop := s.env.loop0

/-- The stride AUPD of an a-register adds (R117): of the advancing level, none on the last trip, of level 0 when no nest
runs. A replayed AUPD adds the one its snapshot holds. DEDUCED (log 41). -/
def State.aupdLevel (s : State) (d : R16) : Option Lvl :=
  if s.replays then (List.finRange 6).find? fun j => (s.snap 3 (6 * d.val + j.val)).isSome
  else if s.loop0.run then s.loop0.advancing else some 0

/-! ### The operand snapshot (05 R69, 24 R366) -/

/-- A source of a slot. -/
inductive Src where
  | g (d : R64) | a (d : R16) | stride (d : R16) (j : Lvl) | b (k : R8) | d (d : R64) | w (d : R64)
  | tile (m : R16) | shape (m : R16) | q (q : Q512) | lit (k : Fin 3) | cb (n : Cb) | cr (n : BitVec 10) | fmt
  deriving DecidableEq, Repr

/-- Sources of an immediate. -/
def immSrc : Imm → List Src
  | .lit k => [.lit k]
  | .cb n => [.cb n]
  | _ => []
/-- Sources of a memory operand. -/
def memSrc (m : Mem) : List Src :=
  match m.ofs with
  | .disp _ => [.a m.base]
  | .idx r => [.a m.base, .g r]

/-- The sources a form reads at issue, its guard and stage predicate apart. -/
def sources (i : Instr) : List Src :=
  match i with
  | .prep _ _ (.ind a) => [.g a]
  | .bra _ b | .call _ b => [.b b]
  | .ret _ => [.b 7]
  | .lset _ _ _ a | .spset _ a | .sleepu _ a => [.g a]
  | .wait _ a b c _ => .a a :: if c = .dd then [] else [.g b]
  | .sleepuI _ v | .setfmtI _ v => immSrc v
  | .add _ _ a b | .sub _ _ a b | .mul _ _ a b | .mulh _ _ _ a b | .divs _ _ a b | .divn _ _ a b => [.g a, .g b]
  | .rem _ _ _ a b | .and _ _ a b | .or _ _ a b | .xor _ _ a b | .andn _ _ a b | .shl _ _ a b => [.g a, .g b]
  | .shr _ _ a b | .sra _ _ a b | .rot _ _ a b | .min _ _ _ a b | .max _ _ _ a b => [.g a, .g b]
  | .sel _ _ a b _ | .cmp _ _ _ _ a b | .bfx _ _ _ a b => [.g a, .g b]
  | .bfi _ d a b => [.g d, .g a, .g b]
  | .addi _ _ a v | .muli _ _ a v | .andi _ _ a v | .ori _ _ a v | .xori _ _ a v => .g a :: immSrc v
  | .shli _ _ a v | .shri _ _ a v | .srai _ _ a v => .g a :: immSrc v
  | .clz _ _ a | .popc _ _ a | .ext _ _ _ _ a | .mov _ _ a => [.g a]
  | .movi _ _ v => immSrc v
  | .movc _ (.read _ cr) => [.cr cr]
  | .movc _ (.write _ a) => [.g a]
  | .dset _ _ a b _ => [.g a, .g b, .cr 0x023]
  | .dsetm _ d a => [.d d, .g a, .cr 0x023]
  | .dlo _ _ a | .dhi _ _ a | .dcnt _ _ a => [.d a]
  | .neq _ _ d a | .nne _ _ d a | .neqo _ _ d a _ | .nneo _ _ d a _ | .nlt _ _ d a | .nle _ _ d a | .nabs _ _ d a => [.d d, .d a, .cr 0x023]
  | .nadd _ _ d a b | .nsub _ _ d a b | .nmul _ _ d a b | .nmin _ _ d a b | .nmax _ _ d a b => [.d d, .d a, .d b, .cr 0x023]
  | .nin _ _ d a => [.d d, .g a, .cr 0x023]
  | .ndiff _ _ d n => ((List.range n.toNat).map fun j => .d (Fin.ofNat 64 (d.val + j))) ++ [.cr 0x023]
  | .aset _ _ v | .akset _ _ _ v => immSrc v
  | .aadd _ _ a b => [.a a, .g b]
  | .aupd _ d => [.a d]
  | .amov _ _ a => [.g a]
  | .aget _ _ a => [.a a]
  | .akmov _ _ _ b => [.g b]
  | .akget _ _ a j => [.stride a j]
  | .ld _ _ _ _ m | .ldc _ _ _ _ m | .lda _ _ _ _ m | .ldv _ _ _ m | .pref _ _ m => memSrc m
  | .st _ _ _ d m | .stl _ _ _ d m | .ldq _ _ d m => .g d :: memSrc m
  | .stv _ _ d m => .w d :: memSrc m
  | .gath _ _ _ _ a x => [.a a, .w x]
  | .scat _ _ _ d a x => [.w d, .a a, .w x]
  | .ldt _ _ d m => .shape d :: memSrc m
  | .ldtMx4 _ _ d m => .shape d :: .fmt :: memSrc m
  | .stt _ _ d m => .tile d :: memSrc m
  | .stq _ _ d m => .g d :: memSrc m
  | .atom _ op _ _ _ d a c => [.g d, .a a] ++ if op = .cas then [.g c] else []
  | .fence _ _ d | .fenceE _ _ d => [.g d]
  | .vadd _ _ _ _ a b | .vsub _ _ _ _ a b | .vmul _ _ _ _ a b => [.w a, .w b]
  | .vfma _ _ _ d a b | .vfms _ _ _ d a b => [.w d, .w a, .w b]
  | .vaddI _ _ a v => .w a :: immSrc v
  | .vfmaI _ d a v => .w d :: .w a :: immSrc v
  | .vmin _ _ _ a b | .vmax _ _ _ a b | .vcmp _ _ _ _ a b | .vmask _ _ _ a b => [.w a, .w b]
  | .vabs _ _ _ a | .vneg _ _ _ a | .vrcp _ _ _ a | .vrsq _ _ _ a | .vsqrt _ _ _ a | .vexp2 _ _ _ a => [.w a]
  | .vlog2 _ _ _ a | .vsin _ _ _ a | .vcos _ _ _ a | .vtanh _ _ _ a => [.w a]
  | .vsel _ _ a b c => [.w a, .w b, .w c]
  | .viadd _ _ _ _ a b | .visub _ _ _ _ a b | .vimul _ _ _ _ a b => [.w a, .w b]
  | .vimad _ _ _ d a b => [.w d, .w a, .w b]
  | .vand _ _ a b | .vor _ _ a b | .vxor _ _ a b | .vshl _ _ _ a b | .vshr _ _ _ a b | .vsra _ _ _ a b => [.w a, .w b]
  | .vcvt _ _ _ _ _ _ a | .vwiden _ _ _ _ a | .vunpk _ _ _ _ _ _ a => [.w a]
  | .vnarr _ dt st _ _ _ a => (List.range (widthRatio st dt)).map fun j => .w (Fin.ofNat 64 (a.val + j))
  | .vpack _ _ _ _ _ _ a b => [.w a, .w b]
  | .vredadd _ _ _ a | .vredmax _ _ _ a | .vargmax _ _ _ a | .vscan _ _ _ _ a => [.w a]
  | .vperm _ _ _ a b | .vshuf _ _ _ a b => [.w a, .w b]
  | .vbcast _ _ _ a => [.g a]
  | .vbcastI _ _ v => immSrc v
  | .vmovg _ _ _ a b => [.w a, .g b]
  | .mma _ _ _ a b | .mmaTa _ _ _ a b | .mmaTb _ _ _ a b => [.tile a, .tile b, .fmt]
  | .mscale _ _ _ n => [.cb n, .fmt]
  | .scaleByProduct _ _ _ n n2 => [.cb n, .cb n2, .fmt]
  | .mcvt _ _ _ _ _ d q => [.shape d, .q q]
  | .mcvtMx4 _ _ _ _ d q => [.shape d, .q q, .fmt]
  | .mtrn _ _ d a | .mcpy _ _ d a => if d = a then [.tile a] else [.shape d, .tile a]
  | .mbias _ _ _ a => [.tile a, .fmt]
  | .mred _ _ d q => [.shape d, .q q]
  | .qadd _ _ _ s => [.q s, .fmt]
  | .qcpy _ _ _ s => [.q s]
  | .mfill _ _ d n => [.shape d, .cb n]
  | .nckpt _ => (List.finRange 64).map .d ++ [.cr 0x021]
  | .opsel _ a | .setfmt _ a | .ddvar _ _ a | .tlbinv _ _ a | .ckill _ a => [.g a]
  | .setsct _ a | .cpy _ _ a | .cpyst _ _ a | .subscr _ _ a | .icopy _ _ a | .icinv _ _ a => [.a a]
  | .ddapply _ _ a b c | .ddrestr _ a b c | .ddexist _ a b c | .dduniv _ a b c | .ddcount _ a b c | .ddmask _ a b c => [.a a, .g b, .g c]
  | .ddite _ a d b c => [.a a, .g d, .g b, .g c]
  | .ddnot _ a b => [.a a, .g b]
  | .ddref _ b | .ddunref _ b | .ddswap _ b => [.g b]
  | .ddgc _ a | .ddord _ a | .ddstat _ a | .frmst _ a | .frmld _ a => [.a a]
  | .movcSysRead _ _ cr => [.cr cr]
  | .movcSysWrite _ _ a => [.g a]
  | _ => []

/-- The predicates of a snapshot: p0 to p15, then sp0 to sp7. -/
def State.predWord (s : State) : Nat :=
  (List.finRange 16).foldl (fun acc k => acc + bit1 (s.rdP k) * 2 ^ k.val) 0
    + (List.finRange 8).foldl (fun acc k => acc + bit1 (s.rdSp k) * 2 ^ (16 + k.val)) 0

/-- The snapshot record of a source of the slot in `env` (24 R366). A tile name at or above TILES, whose slot takes an access
violation, has the image of the physical tile that its wrapped index names. DESIGN CHOICE (log 41). -/
def State.srcRecord (s : State) : Src → Snap
  | .g d => ⟨1, s.env.slot, (s.rdG d).taint, BitVec.ofNat 12 d.val, 8, (s.g d).toNat⟩
  | .a d => ⟨2, s.env.slot, (s.rdA d).2, BitVec.ofNat 12 d.val, 8, (s.rdA d).1.toNat⟩
  | .stride d j => ⟨3, s.env.slot, false, BitVec.ofNat 12 (6 * d.val + j.val), 8, (s.rdStride d j).toNat⟩
  | .b k => ⟨5, s.env.slot, false, BitVec.ofNat 12 k.val, 8, (s.rdB k).toNat⟩
  | .d d =>
    let r := s.rdD d
    ⟨6, s.env.slot, false, BitVec.ofNat 12 d.val, 16, r.lo.toNat + r.hi.toNat * 2 ^ 32 + r.mask.toNat * 2 ^ 64⟩
  | .w d => ⟨7, s.env.slot, false, BitVec.ofNat 12 d.val, 512, (s.rdW d).toNat⟩
  | .tile m =>
    let n := min (imageBytes (s.rdShape m)) 32768
    ⟨8, s.env.slot, false, BitVec.ofNat 12 m.val, BitVec.ofNat 32 (4 + n),
      (s.rdShape m).toNat + (s.rdTile m).toNat % 2 ^ (8 * n) * 2 ^ 32⟩
  | .shape m => ⟨8, s.env.slot, false, BitVec.ofNat 12 m.val, 4, (s.rdShape m).toNat⟩
  | .q q => ⟨9, s.env.slot, false, BitVec.ofNat 12 q.val, 4096, (s.rdBlock q).toNat⟩
  | .lit k => ⟨10, s.env.slot, false, BitVec.ofNat 12 k.val, 4, (s.immV (.lit k)).toNat⟩
  | .cb n => ⟨11, s.env.slot, false, BitVec.ofNat 12 n.val, 4, (s.rdCb n).toNat⟩
  | .cr n => ⟨12, s.env.slot, false, BitVec.ofNat 12 n.toNat, 8, (s.rdCr n).toNat⟩
  | .fmt => ⟨13, s.env.slot, false, 0, 72, s.rdFmt.toNat + s.rdSct.toNat * 2 ^ 64⟩

/-- The sources that values name: the block of a STQ, its index in gD (10 R145), and the stride of an AUPD (09 R117).
DEDUCED (log 40, log 41). -/
def dynamicSources (s : State) : Instr → List Src
  | .stq _ _ d _ => [.q (Fin.ofNat 512 (s.g d).toNat)]
  | .aupd _ d => ((s.aupdLevel d).map fun j => .stride d j).toList
  | _ => []

/-- The control registers that slots read at issue, with their values (05 R69). -/
def State.crsOf (s : State) (c : CoreId) (x : CtxId) (slots : List (Fin 8 × Instr)) : List (BitVec 10 × Word) :=
  (slots.flatMap fun y => (sources y.2).filterMap fun q => match q with
    | .cr n => some n
    | _ => none).dedup.map fun n => (n, s.crNow c x n)

/-- The key of a matrix form: opcode, base block and tiles. -/
def mmaKey (i : Instr) : Option (Nat × Q512 × R16 × R16) :=
  match i with
  | .mma _ _ q a b => some (1, q, a, b)
  | .mmaTa _ _ q a b => some (2, q, a, b)
  | .mmaTb _ _ q a b => some (3, q, a, b)
  | _ => none

/-- The shapes that a replacement MMA takes its sequence from: those of the original's tiles (18 R271), where it reads no image
of the same name. -/
def keySources (orig op : Instr) : List Src :=
  match mmaKey orig, mmaKey op with
  | some (_, _, a, b), some (_, _, c, d) => ([a, b].filter fun m => m != c && m != d).map .shape
  | _, _ => []

/-- The snapshot of the slots numbered `sr` or higher, one record for each value read; a position of a fired match reads what its
replacement reads (18 R271). DEDUCED (log 41). -/
def State.snapshot (s : State) (sr : Nat) : List Snap :=
  (s.env.slots.filter fun x => decide (sr ≤ x.1.val)).flatMap fun x =>
    let s := s.modEnv fun e => { e with slot := x.1 }
    let i := if x.1 = 6 then s.env.repl.getD x.2 else x.2
    ⟨4, x.1, false, 0, 4, s.predWord⟩ :: ((sources i ++ dynamicSources s i ++ keySources x.2 i).dedup.map s.srcRecord)

/-! ### Faults of a slot (05 R70) -/

/-- The blocks BKIND and B2KIND name. -/
def Frame.kinds (f : Frame) : Blocks :=
  let bar (a : Addr) : Option (Fin 4) := some (Fin.ofNat 4 a.toNat)
  let second := if f.b2kind = 3 then bar f.b2id else none
  if f.bkind = 1 then ⟨(Wc.ofCode (f.bmod.toNat % 8)).map fun c => .wait f.baddr c (f.bmod.getLsbD 3) f.bval, second⟩
  else if f.bkind = 2 then ⟨some (.sleep f.bval), second⟩
  else if f.bkind = 3 then ⟨none, bar f.baddr⟩
  else ⟨none, second⟩

/-- The kept blocks of a frame whose context was Blocked. -/
def Frame.blocks (f : Frame) : Blocks := if f.blk then f.kinds else ⟨none, none⟩

/-- The blocks of a bundle that a trap split: the context was not Blocked, and blocks once the rest has committed
(09 R130). It is the block of S0, so a frame whose SR is 0, as a write of cr.tepc leaves it (24 Table 24.4), has none. DEDUCED
(log 29). -/
def Frame.pendingBlocks (f : Frame) : Blocks := if f.blk || f.sr == 0 then ⟨none, none⟩ else f.kinds

/-- A frame with an address, a slot-resume, a cause, a fault address and INFO, and nothing pending. -/
def Frame.make (addr : Word) (sr : R8) (cause : BitVec 8) (faddr info : Word) : Frame :=
  { Frame.empty with
    valid := true
    addr := addr.setWidth 56
    sr := sr
    cause := cause
    faddr := faddr
    info := info }

/-- The frame that names the point at which a context would next issue (24 R361, 21 R336): the header of the bundle due with
slot-resume 0, or what is left of a bundle that a TRET resumes; a block is kept. -/
def State.dueFrame (s : State) (c : CoreId) (x : CtxId) (cause : BitVec 8) (faddr info : Word) : Frame :=
  let t := s.ctx c x
  let f := match t.replay with
    | some l => { t.frame with
        valid := true
        after := false
        addr := ((s.core c).dueAddr t).setWidth 56
        cause := cause
        faddr := faddr
        info := info
        origin := 0
        oslot := 0
        rwe := 0
        blk := false
        bkind := if t.frame.blk then 0 else t.frame.bkind
        baddr := if t.frame.blk then 0 else t.frame.baddr
        bval := if t.frame.blk then 0 else t.frame.bval
        bmod := if t.frame.blk then 0 else t.frame.bmod
        b2kind := if t.frame.blk then 0 else t.frame.b2kind
        b2id := if t.frame.blk then 0 else t.frame.b2id
        snaps := l }
    | none => Frame.make ((s.core c).dueAddr t) 0 cause faddr info
  if t.run = .blocked then f.withBlocks t.blocks else f

/-- The cursor at the first issue of a slot (17 R258); a frame that came from memory names none, and the context's own stands for it.
DESIGN CHOICE (log 73). -/
def State.issueCursor (s : State) : Option Cursor := if s.replays then s.cur.frame.cursor.getD s.cur.cursor else s.cur.cursor

/-- The frame of a fault at the commit of slot `sr` of the bundle in `env` (05 R70, R72, R73): the context is not Blocked,
and a block of S0 stays pending (09 R130). -/
def State.slotFrame (s : State) (sr : R8) (cause : BitVec 8) (faddr info : Word) : Frame :=
  { (Frame.make s.env.hdr sr cause faddr info).withBlocks s.env.block with
    blk := false
    pt := s.env.transfer.isSome
    ptgt := (s.env.transfer.map (·.target)).getD 0
    py := s.env.yield
    pact := s.env.pact
    pn := s.env.pn
    snaps := s.snapshot sr.val
    cursor := some s.issueCursor }

/-- A precise fault of the slot being committed, with a fault address. -/
def State.slotFault (s : State) (cause : BitVec 8) (faddr info : Word) : State :=
  s.takeTrap s.env.core s.env.ctx (s.slotFrame s.env.slot cause faddr info) s.env.hdr s.env.slot
/-- A precise fault of the slot being committed for which the spec names no fault address: a free value (log 12). -/
def State.slotFaultFree (s : State) (cause : BitVec 8) : State :=
  s.freeWord.2.slotFault cause s.freeWord.1 0

/-- A form that handler mode forbids: there it is a double trap (24 R363). DEDUCED (log 30). -/
def State.outsideHandler (s : State) (f : State → State) : State :=
  if s.cur.hm then s.slotFaultFree 0x22 else f s
/-- A privileged form: outside handler mode it raises cause 0x04 (24 R363). -/
def State.privileged (s : State) (f : State → State) : State :=
  if s.cur.hm then f s else s.slotFaultFree 0x04

/-! ### Memory operands (10 R139) -/

/-- The effective address of a memory operand with its access unit, and its taint (10 R152). -/
def State.ea (s : State) (m : Mem) (unit : Nat) : Addr × Bool :=
  let b := s.rdA m.base
  match m.ofs with
  | .disp d => (b.1 + d.signExtend 56 * BitVec.ofNat 56 unit, b.2)
  | .idx r => (b.1 + (s.g r).setWidth 56, b.2 || (s.rdG r).taint)

/-- The fault of one page at an address: an unreached range, an unmapped page, a refused permission. -/
def State.pageFault (s : State) (write : Bool) (a : Addr) : Option (BitVec 8) :=
  match s.physCtx s.env.core s.env.ctx write a.toNat with
  | .ok _ => none
  | .held => none
  | .page => some 0x18
  | .perm => some 0x19

/-- AccessCheck of `n` bytes at `ea`: the cause and the fault address, or nothing. An access that would pass 2^56 is an
access violation (log 13). -/
def State.accessCheck (s : State) (ea : Addr) (n : Nat) (write scratchOnly : Bool) : Option (BitVec 8 × Addr) :=
  let e := ea.toNat
  if e % min n 64 ≠ 0 then some (0x19, ea)
  else if isScratch ea then (if e % 2 ^ 22 + n ≤ 2 ^ 22 then none else some (0x19, ea))
  else if scratchOnly then some (0x19, ea)
  else if 2 ^ 56 < e + n then some (0x19, ea)
  else
    let last : Nat := (e + n - 1) / 65536 * 65536
    match s.pageFault write ea with
    | some c => some (c, ea)
    | none =>
      if last ≤ e then none
      else match s.pageFault write (BitVec.ofNat 56 last) with
        | some c => some (c, BitVec.ofNat 56 last)
        | none => none

/-- The check of a card, record or frame address: 64-byte (or `al`-byte) aligned, in the own vault, below SCRATCH
(19 R285). -/
def State.cardOk (s : State) (a : Addr) (al n : Nat) : Bool :=
  a.toNat % al == 0 && isScratch a && vaultCore s.env.core a == s.env.core && decide (vaultOfs a + n ≤ s.alloc.scratch)

/-- The own vault of the core in `env`. -/
def State.vault (s : State) : Memory := (s.core s.env.core).vault

end Sys2Proof.Machine
end

