-- ==== Sys2Proof/Machine/Access.lean ====
section
/-!
DEFINITION. Accesses of a context: issuing them in program order, when one may perform (10 R150 to R160, 24 R378), and
performing one at its point of coherence (10 R135), with the L1 (R136), pins (R159), poison (R165), the repeated tests
of blocked WAITs (09 R125), barrier arrivals (19 R302), TLBINV (24 R372) and EVSIG (R371).
-/
namespace Sys2Proof.Machine

/-! ### Issuing -/

/-- `n` bytes from `a` cut at multiples of 8: addresses and lengths. -/
def chunks : Nat → Nat → Nat → List (Nat × Nat)
  | 0, _, _ => []
  | fuel + 1, a, n => if n = 0 then [] else
      let k := min n (8 - a % 8)
      (a, k) :: chunks fuel (a + k) (n - k)

/-- The elements of an access of `n` bytes at `ea` that stores `data` (0 for a load), single-copy atomic each (R153). -/
def mkElems (ea : Addr) (n data : Nat) : List Elem :=
  (chunks n ea.toNat n).map fun x =>
    ⟨BitVec.ofNat 56 x.1, x.2, BitVec.ofNat 64 (data / 2 ^ (8 * (x.1 - ea.toNat)) % 2 ^ (8 * x.2)), false, 0⟩

/-- The class mask of one class. -/
def clsMask (c : R16) : BitVec 16 := BitVec.ofNat 16 (2 ^ c.val)

/-- An access with its elements, ordered by a class mask; the rest at its default. -/
def Access.make (kind : AccKind) (mask : BitVec 16) (scope : Scope) (elems : List Elem) : Access :=
  ⟨0, kind, mask, scope, elems, .none, 0, false, false, false, false, false, false, 0, 0, none, none⟩

/-- Nominal latency of a path (Table 10.2): `own` steps, 16 more to a neighbour vault, 20 globally. -/
def pathLat (c : CoreId) (own : Nat) (a : Addr) : Nat :=
  if isScratch a then (if vaultCore c a = c then own else own + 16) else 20

/-- The energy class of a byte of a path (27 Table 27.6). -/
def pathClass (c : CoreId) (a : Addr) : EClass :=
  if isScratch a then (if vaultCore c a = c then .own else .neighbour) else .global

/-- Charge the bytes of an access to its context. -/
def State.chargeBytes (s : State) (a : Addr) (n : Nat) : State := s.charge s.env.core s.env.ctx (pathClass s.env.core a) n

/-- A requester of a die misses its TLB at an address: a walk starts, or the miss joins the one under way (R377). DEDUCED (log 34). -/
def State.walkFor (s : State) (die : Fin 12) (asid : BitVec 7) (unit : BitVec 20) (a : Addr) : State :=
  let page := a.toNat / 65536
  if (tlbFind (s.dies[die]).tlb asid a.toNat).isSome
    || s.hub.walks.any (fun w => w.die == die && w.asid == asid && w.page == page) then s
  else { s with hub := { s.hub with walks := s.hub.walks ++ [⟨die, asid, page, unit, false, false⟩] } }

/-- A context's access to an address: its core's TLB is filled from the die's, or a walk starts. -/
def State.walkCtx (s : State) (c : CoreId) (x : CtxId) (a : Addr) : State :=
  let t := s.ctx c x
  if isScratch a || (tlbFind (s.core c).tlb t.asid a.toNat).isSome then s
  else match tlbFind (s.dies[coreDie c]).tlb t.asid a.toNat with
    | some e => s.modCore c fun k => { k with tlb := (k.tlb ++ [e]).drop ((k.tlb.length + 1) - 64) }
    | none => s.walkFor (coreDie c) t.asid (ctxUnit c x) a

/-- The first address of every page the elements touch. -/
def elemPages (es : List Elem) : List Addr :=
  (es.map fun e => BitVec.ofNat 56 (e.a.toNat / 65536 * 65536)).dedup

/-- Issue an access: it takes its place in program order. -/
def State.newAcc (s : State) (a : Access) : State :=
  let s := s.modCur fun t => { t with
    accs := t.accs ++ [{ a with id := t.nextId, hdr := s.env.hdr, slot := s.env.slot }]
    nextId := t.nextId + 1 }
  (elemPages a.elems).foldl (fun s p => s.walkCtx s.env.core s.env.ctx p) s

/-- Issue a load whose value is due `lat` steps after its issue. -/
def State.newLoad (s : State) (a : Access) (lat : Nat) : State :=
  let id := s.cur.nextId
  let due := (s.core s.env.core).step + lat
  (s.newAcc { a with due := due }).push lat (.load id) 0

/-! ### Places of bytes -/

/-- Where a byte is held. -/
inductive Loc where
  | vault (c : CoreId) (o : Nat)
  | mem (pa : Nat)
  deriving DecidableEq, Repr

/-- The place of an address for an access of a context. -/
def State.loc (s : State) (c : CoreId) (x : CtxId) (write : Bool) (a : Addr) : Option Loc :=
  if isScratch a then some (.vault (vaultCore c a) (vaultOfs a))
  else match s.physCtx c x write a.toNat with
    | .ok pa => some (.mem pa)
    | _ => none

/-- The place `k` bytes on. -/
def Loc.add : Loc → Nat → Loc
  | .vault c o, k => .vault c (o + k)
  | .mem p, k => .mem (p + k)

/-- Do `n` bytes at one place and `m` at another overlap? -/
def Loc.overlap : Loc → Nat → Loc → Nat → Bool
  | .vault c o, n, .vault d p, m => c == d && decide (o < p + m) && decide (p < o + n)
  | .mem o, n, .mem p, m => decide (o < p + m) && decide (p < o + n)
  | _, _, _, _ => false

/-- Read `n` bytes at a place. -/
def State.readLoc (s : State) (l : Loc) (n : Nat) : Nat :=
  match l with
  | .vault c o => memReadN (s.core c).vault o n
  | .mem p => memReadN s.gmem p n

/-- Is a granule among `n` bytes at a place poisoned? -/
def State.poisonedLoc (s : State) (l : Loc) (n : Nat) : Bool :=
  match l with
  | .vault c o => (s.core c).vpoison.any fun g => decide (8 * g < o + n) && decide (o < 8 * g + 8)
  | .mem p => s.gpoison.any fun g => decide (64 * g < p + n) && decide (p < 64 * g + 64)

/-- Write `n` bytes at a place. -/
def State.writeLoc (s : State) (l : Loc) (n v : Nat) : State :=
  match l with
  | .vault c o => s.modCore c fun k => { k with vault := memWriteN k.vault o n v, vpoison := clearPoison k.vpoison o n }
  | .mem p => { s with gmem := memWriteN s.gmem p n v, gpoison := clearSectors s.gpoison p n }

/-- The granule of a place and its bytes: 8 of a vault, a sector of memory (Table 10.9). -/
def Loc.granule : Loc → Loc × Nat
  | .vault c o => (.vault c (o / 8 * 8), 8)
  | .mem p => (.mem (p / 64 * 64), 64)
/-- Mark the granule of a place poisoned (R165). -/
def State.poisonLoc (s : State) (l : Loc) : State :=
  match l with
  | .vault c o => s.modCore c fun k => { k with vpoison := (o / 8) :: k.vpoison.filter (· != o / 8) }
  | .mem p => { s with gpoison := (p / 64) :: s.gpoison.filter (· != p / 64) }
/-- A sector of memory of which one writer has written every byte loses its poison (R165); `ws` are that writer's writes, by the
addresses it names, `a` among them. DEDUCED (log 70). -/
def State.healSector (s : State) (l : Loc) (ws : List (Nat × Nat)) (a : Nat) : State :=
  match l with
  | .vault _ _ => s
  | .mem p => if s.gpoison.contains (p / 64) && wholeSector ws a then { s with gpoison := s.gpoison.filter (· != p / 64) } else s
/-- The address of the granule of an address (R166, Table 10.9). -/
def granuleAddr (a : Addr) : Addr := if isScratch a then BitVec.ofNat 56 (a.toNat / 8 * 8) else BitVec.ofNat 56 (a.toNat / 64 * 64)

/-- Does a pin keep an access of a core away from a place (R159)? DEDUCED (log 67). -/
def State.pinnedLoc (s : State) (c : Option CoreId) : Loc → Bool
  | .vault _ _ => false
  | .mem p => s.pins.any fun q => q.line == p / 256 &&
      !(match c with
        | some c => if q.heath then coreHeath q.core == coreHeath c else q.core == c
        | none => false)

/-! ### The L1 (R136) -/

/-- Drop every line. -/
def State.l1Drop (s : State) (c : CoreId) : State := s.modCore c fun k => { k with l1 := [] }
/-- Die scope or wider. -/
def wideScope (sc : Scope) : Bool := decide (3 ≤ sc.code)

/-- A write of `n` bytes at physical `p` updates an L1 copy; granules written whole lose their poison (R165). -/
def l1Write (l : List L1Line) (p n v : Nat) : List L1Line :=
  l.map fun e => if e.line = p / 64 then
    let o := p % 64
    { e with
      poison := clearPoison e.poison p n
      data := BitVec.ofNat 512 (e.data.toNat - e.data.toNat / 2 ^ (8 * o) % 2 ^ (8 * n) * 2 ^ (8 * o) + v % 2 ^ (8 * n) * 2 ^ (8 * o)) }
  else e

/-- A line as memory holds it, its poison included (R165). -/
def State.lineNow (s : State) (line : Nat) : L1Line :=
  ⟨line, BitVec.ofNat 512 (memReadN s.gmem (64 * line) 64), if s.gpoison.contains line then (List.range 8).map (8 * line + ·) else []⟩

/-- Fill a line from memory; the oldest line leaves when 2048 are held (log 14). -/
def State.l1Fill (s : State) (c : CoreId) (line : Nat) : State :=
  let d := s.lineNow line
  s.modCore c fun k =>
    let l := (k.l1.filter fun e => e.line != line) ++ [d]
    { k with l1 := l.drop (l.length - 2048) }

/-- The line of a physical address, unless poison drops it (R166). -/
def State.l1Find (s : State) (c : CoreId) (p : Nat) : Option L1Line :=
  (s.core c).l1.find? fun e => e.line == p / 64 && e.poison.isEmpty

/-- The line of a context's address `a` at physical `p` is filled from the MSC. -/
def State.fillCtx (s : State) (c : CoreId) (x : CtxId) (a : Addr) (p : Nat) : State :=
  (s.mscCtx c x false a 1).l1Fill c (p / 64)

/-- A global load through the L1: a hit reads the line, unless the line has left (a free choice); else it is filled, and the
load consumes the poison it meets in the MSC (R166). -/
def State.l1Read (s : State) (c : CoreId) (x : CtxId) (a : Addr) (p n : Nat) : Option Nat × State :=
  let miss (s : State) : Option Nat × State :=
    (if s.poisonedLoc (.mem p) n then none else some (memReadN s.gmem p n), s.fillCtx c x a p)
  match s.l1Find c p with
  | none => miss s
  | some e =>
    let d := s.draw
    if d.1 % 2 = 0 then (some (e.data.toNat / 2 ^ (8 * (p % 64)) % 2 ^ (8 * n)), d.2) else miss d.2

/-! ### WAIT tests (09 R124, R125, 10 R413) -/

/-- What a test finds. -/
inductive Test where
  | met | unmet | held
  | poison (a : Addr)
  | fault (cause : BitVec 8)
  deriving DecidableEq, Repr

/-- A condition of Table 9.12. -/
def wcHolds (c : Wc) (word v : Nat) : Bool :=
  match c with
  | .eq => word == v
  | .ne => word != v
  | .geu => decide (v ≤ word)
  | .ltu => decide (word < v)
  | .any => word &&& v != 0
  | .dd => word / 2 ^ 63 % 2 == 1

/-- Is a page's walk pending or its fault held? -/
def State.walkHeld (s : State) (c : CoreId) (x : CtxId) (a : Addr) : Bool :=
  !isScratch a && s.hub.walks.any fun w =>
    w.die == coreDie c && w.asid == (s.ctx c x).asid && w.page == a.toNat / 65536

/-- Is a replayable fault of a page held (24 R378)? -/
def State.faultHeld (s : State) (c : CoreId) (x : CtxId) (a : Addr) : Bool :=
  !isScratch a && s.hub.walks.any fun w =>
    w.faulted && w.die == coreDie c && w.asid == (s.ctx c x).asid && w.page == a.toNat / 65536

/-- Do two elements of a context name common bytes? -/
def State.sameBytes (s : State) (c : CoreId) (x : CtxId) (e f : Elem) : Bool :=
  match s.loc c x false e.a, s.loc c x false f.a with
  | some l, some m => l.overlap e.n m f.n
  | _, _ => decide (e.a.toNat < f.a.toNat + f.n) && decide (f.a.toNat < e.a.toNat + e.n)

/-- The word of a WAIT as an element. -/
def waitElem (a : Addr) (cc : Wc) (dw : Bool) : Elem := ⟨a, if cc = .dd then 16 else if dw then 8 else 4, 0, false, 0⟩

/-- One test of a WAIT, at the word's point of coherence, after the context's earlier accesses to its bytes (10 R151).
DEDUCED (log 33). -/
def State.waitTest (s : State) (c : CoreId) (x : CtxId) (a : Addr) (cc : Wc) (dw : Bool) (v : Word) : Test :=
  let n := if dw then 8 else 4
  let g := if cc = .dd then 16 else n
  if (s.ctx c x).accs.any fun b => b.elems.any fun f => !f.done && f.n != 0 && s.sameBytes c x (waitElem a cc dw) f then .held
  else if !isScratch a && (s.ctx c x).waitFail == some (a.toNat / 65536) then .fault 0x18
  else if s.walkHeld c x a then .held
  else if isScratch a then
    let l := Loc.vault (vaultCore c a) (vaultOfs a)
    if s.poisonedLoc l g then .poison (granuleAddr a)
    else if wcHolds cc (s.readLoc l n) (v.toNat % 2 ^ (8 * n)) then .met else .unmet
  else match s.physCtx c x false a.toNat with
    | .held => .held
    | .page => .fault 0x18
    | .perm => .fault 0x19
    | .ok pa =>
      let l := Loc.mem pa
      if s.pinnedLoc (some c) l then .held
      else if s.poisonedLoc l g then .poison (granuleAddr a)
      else if wcHolds cc (s.readLoc l n) (v.toNat % 2 ^ (8 * n)) then .met else .unmet

/-- The scope of a job (Table 19.1); ICOPY and ICINV name none and act at package scope (log 15). -/
def Job.scope (j : Job) : Scope :=
  match j.kind, j.image with
  | .copy, some im => (Scope.ofCode (im.toNat / 2 ^ 60 % 8)).getD .package
  | _, _ => .package

/-- A WAIT that ends observes the completion its word announces, whoever started the job: an acquire at the job's scope
(10 R162). -/
def State.observeWord (s : State) (c : CoreId) (a : Addr) (cc : Wc) : State :=
  let o := vaultOfs a
  let k := s.core (vaultCore c a)
  let wide := cc == .dd || isScratch a &&
    ((s.jobs.any fun j => j.core == vaultCore c a && j.ended && !j.past && o / 8 == (j.card + 0x38) % 2 ^ 22 / 8 && wideScope j.scope)
    || (k.doneSubs.any fun d => o / 8 == (d + 0x38) % 2 ^ 22 / 8)
    || (k.doneDds.any fun r => o / 16 == r / 16)
    || ((List.finRange 4).any fun r => match k.rings[r] with
        | some g => decide (g.o ≤ o) && decide (o < g.o + 8 * g.n)
        | none => false))
  if wide then s.l1Drop c else s

/-- A context that has no block left becomes ready at its core's next step (03 R35). -/
def State.settleBlocks (s : State) (c : CoreId) (x : CtxId) : State :=
  s.modCtx c x fun t => { t with awake := t.blocks.s0.isNone && t.blocks.bar.isNone }

/-- A context becomes Blocked: what it awaits is awaited from now on (03 R53). -/
def State.blockCtx (s : State) (c : CoreId) (x : CtxId) (b : Blocks) : State :=
  { (s.modCtx c x fun t => { t with run := .blocked, blocks := b, awake := false }) with
    probed := s.probed.filter fun e => e.1 != ctxUnit c x }

/-- Repeat the test of a blocked WAIT. -/
def State.wakeTest (s : State) (c : CoreId) (x : CtxId) : State :=
  let t := s.ctx c x
  if t.run ≠ .blocked ∨ t.stopping then s
  else match t.blocks.s0 with
    | some (.wait a cc dw v) =>
      match s.waitTest c x a cc dw v with
      | .met =>
        let s := s.observeWord c a cc
        let s := s.modCtx c x fun t => { t with blocks := ⟨none, t.blocks.bar⟩ }
        s.settleBlocks c x
      | .poison g => s.pend c x 0x1A (g.setWidth 64) 0 (t.waitHdr.setWidth 56) 0
      | .fault e => s.pend c x e (a.setWidth 64) 0 (t.waitHdr.setWidth 56) 0
      | .held => s.walkCtx c x a
      | .unmet => s
    | _ => s

/-- A write of `n` bytes at a place performed: blocked WAITs on its granules are tested again. -/
def State.retest (s : State) (l : Loc) (n : Nat) : State :=
  allCtx.foldl (fun s p =>
    let t := s.ctx p.1 p.2
    if t.run ≠ .blocked then s
    else match t.blocks.s0 with
      | some (.wait a cc _ _) =>
        let g := if cc = .dd then 16 else 8
        let a0 : Addr := BitVec.ofNat 56 (a.toNat / g * g)
        match s.loc p.1 p.2 false a0 with
        | some m => if m.overlap g l n then s.wakeTest p.1 p.2 else s
        | none => s
      | _ => s) s

/-- Mark the granules of bytes at places poisoned: a write of each, which repeats the WAIT tests on it (R165, 09 R125). -/
def State.poisonLocs (s : State) (ls : List Loc) : State := ls.foldl (fun s l => (s.poisonLoc l).retest l.granule.1 l.granule.2) s

/-- Every blocked WAIT is tested again (a pin ended, the host answered). -/
def State.retestAll (s : State) : State := allCtx.foldl (fun s p => s.wakeTest p.1 p.2) s

/-! ### When an element may perform -/

/-- Has an access performed? -/
def Access.performed (a : Access) : Bool := a.elems.all (·.done)
/-- Is it a store or an atomic? -/
def Access.writes (a : Access) : Bool :=
  match a.kind with
  | .store => true
  | .atom _ _ _ _ => true
  | _ => false

/-- Must access `a` wait for the earlier access `b`, apart from common bytes (R150, R152, R155 to R158, R161)? -/
def Access.after (a b : Access) : Bool :=
  !b.performed && ((a.mask &&& b.mask) != 0 || a.allRel || b.acqAll || (a.taint && b.ldc) || (a.rel && b.writes))

/-- The accesses of a context before number `id`. -/
def Ctx.before (t : Ctx) (id : Nat) : List Access := t.accs.filter fun b => decide (b.id < id)

/-- May element `k` of access `a` perform now? -/
def State.canPerform (s : State) (c : CoreId) (x : CtxId) (a : Access) (k : Nat) : Bool :=
  match a.elems[k]? with
  | none => false
  | some e =>
    let t := s.ctx c x
    let earlier := t.before a.id
    !e.done
    && !(earlier.any fun b => a.after b)
    && !(e.n != 0 && earlier.any fun b => b.elems.any fun f => !f.done && f.n != 0 && s.sameBytes c x e f)
    && !(a.writes && (a.elems.take k).any fun f => !f.done && s.sameBytes c x e f)
    && (match a.kind with
        | .evsig _ => s.roomFor 1
        | _ => true)
    && (e.n == 0 || isScratch e.a || (!s.walkHeld c x e.a && match s.physCtx c x a.writes e.a.toNat with
        | .ok pa => !s.pinnedLoc (some c) (.mem pa)
        | .held => false
        | _ => true))

/-! ### Performing -/

/-- Change an access of a context. -/
def State.updAcc (s : State) (c : CoreId) (x : CtxId) (id : Nat) (f : Access → Access) : State :=
  s.modCtx c x fun t => { t with accs := t.accs.map fun a => if a.id = id then f a else a }

/-- Element `k` is done with a value. -/
def Access.setDone (a : Access) (k : Nat) (v : Word) : Access :=
  { a with elems := a.elems.modify k fun e => { e with done := true, val := v } }

/-- What an access has written once element `k` performs: address and length of each element. -/
def Access.written (a : Access) (k : Nat) : List (Nat × Nat) :=
  ((a.setDone k 0).elems.filter (·.done)).map fun e => (e.a.toNat, e.n)

/-- Drop the accesses of a context that have performed and return nothing. -/
def State.sweep (s : State) (c : CoreId) (x : CtxId) : State :=
  s.modCtx c x fun t => { t with accs := t.accs.filter fun a => !(a.performed && match a.kind with
    | .load _ => false
    | .atom _ _ _ _ => false
    | _ => true) }

/-- Pins of a core's holder that a release of a wider scope ends (R159). -/
def State.endPinsScope (s : State) (c : CoreId) (sc : Scope) : State :=
  let t := s.endPins fun (p : Pin) => (if p.heath then coreHeath p.core == coreHeath c else p.core == c) && decide (p.scope.code < sc.code)
  if t.pins.length = s.pins.length then t else { t with retests := s.retests }.retestAll

/-- A pin made by an ATOM; a holder keeps at most 64, its oldest ends first (R159). DEDUCED (log 67). -/
def State.makePin (s : State) (c : CoreId) (x : CtxId) (line : Nat) (sc : Scope) : State :=
  let heath := sc == .heath
  let mine (p : Pin) : Bool := p.heath == heath && (if heath then coreHeath p.core == coreHeath c else p.core == c)
  if s.pins.any fun p => mine p && p.line == line then s
  else
    let n := (s.pins.filter mine).length
    let old := if 64 ≤ n then (s.pins.find? mine).map (·.line) else none
    let kept := s.pins.filter fun p => !(mine p && some p.line == old)
    { s with
      pins := kept ++ [⟨line, heath, c, sc, x⟩]
      retests := s.retests || old.isSome }

/-- The pin of an ATOM that has performed on a line (R159). One that a kill has left makes none, since a kill ends the context's pins, and
one made after its launch has halted, or has stopped for a save, ends at once. DEDUCED (log 67). -/
def State.pinAtom (s : State) (c : CoreId) (x : CtxId) (a : Access) (line : Nat) : State :=
  if 2 < a.scope.code ∨ a.dest = .none then s
  else
    let s := s.makePin c x line a.scope
    if (s.ctx c x).run = .halted ∨ (s.ctx c x).run = .held ∨ (s.ctx c x).stopping then
      match (s.core c).allot with
      | some al => (s.endPinsHalted al.group).endPinsStopped
      | none => s.endPins fun p => p.core == c
    else s

/-- A write by a context at a place: memory, its core's L1 copy, and the WAITs that watch it. -/
def State.coreWrite (s : State) (c : CoreId) (l : Loc) (n v : Nat) : State :=
  let s := s.writeLoc l n v
  let s := match l with
    | .mem p => s.modCore c fun k => { k with l1 := l1Write k.l1 p n v }
    | _ => s
  s.retest l n

/-- The participants of a barrier (19 R301). -/
def State.participants (s : State) (h : Fin 24) : Nat :=
  let al := (s.core (heathCore h 0)).alloc
  al.nctx * ((List.range 8).filter fun i => al.cmask.getLsbD i).length

/-- An arrival at barrier `b` performs (19 R302). DEDUCED (log 39). -/
def State.arrive (s : State) (c : CoreId) (b : Fin 4) : State :=
  let h := coreHeath c
  let bar := (s.heaths[h]).bars[b]
  let bar' : Barrier := if bar.count + 1 < s.participants h then { bar with count := bar.count + 1 }
    else ⟨bar.phase + 1, 0, s.cyc.toNat⟩
  { s with heaths := s.heaths.set h { s.heaths[h] with bars := (s.heaths[h]).bars.set b bar' } }

/-- TLB entries that a TLBINV removes (24 R372). -/
def tlbKeep (asid : BitVec 7) (a : Option Word) (e : TlbEntry) : Bool :=
  !(e.asid == asid && (match a with
    | none => true
    | some w => decide (e.base ≤ w.toNat) && decide (w.toNat < e.base + e.size)))

/-- Remove translations in a scope. -/
def State.tlbRemove (s : State) (c : CoreId) (sc : Scope) (asid : BitVec 7) (a : Option Word) : State :=
  let inScope (d : CoreId) : Bool := match sc with
    | .core => d == c
    | .die => coreDie d == coreDie c
    | _ => true
  let s := (List.finRange 192).foldl (fun s d =>
    if inScope d then s.modCore d fun k => { k with tlb := k.tlb.filter (tlbKeep asid a) } else s) s
  if sc == .core then s
  else { s with dies := (List.finRange 12).foldl (fun ds d =>
      if sc == .die && d != coreDie c then ds else ds.set d { ds[d] with tlb := (ds[d]).tlb.filter (tlbKeep asid a) }) s.dies }

/-- Element `k` of access `a` performs. DEDUCED (log 32). -/
def State.performElem (s : State) (c : CoreId) (x : CtxId) (a : Access) (k : Nat) : State :=
  match a.elems[k]? with
  | none => s
  | some e =>
    let granule := granuleAddr e.a
    let cause : BitVec 8 := if s.physCtx c x a.writes e.a.toNat = .perm then 0x19 else 0x18
    let failed (s : State) : State := s.updAcc c x a.id fun b => { b.setDone k 0 with fail := some (e.a, cause) }
    match a.kind with
    | .load poc =>
      match s.loc c x false e.a with
      | none => failed s
      | some l =>
        let r : Option Nat × State := match l, poc with
          | .mem p, false => s.l1Read c x e.a p e.n
          | _, _ => (if s.poisonedLoc l e.n then none else some (s.readLoc l e.n), s.mscCtx c x false e.a e.n)
        match r.1 with
        | none => r.2.updAcc c x a.id fun b => { b.setDone k 0 with poison := some granule }
        | some v =>
          let s := r.2.updAcc c x a.id fun b => b.setDone k (BitVec.ofNat 64 v)
          match a.dest with
          | .cpyst _ => if v = 0 then s else s.observeWord c e.a .ne
          | _ => if a.acq && wideScope a.scope then s.l1Drop c else s
    | .store =>
      match s.loc c x true e.a with
      | none =>
        let s := if a.fail.isSome then s else s.pend c x cause (e.a.setWidth 64) 0 (a.hdr.setWidth 56) a.slot
        (failed s).sweep c x
      | some l =>
        let s := (s.mscCtx c x true e.a e.n).updAcc c x a.id fun b => b.setDone k 0
        let s := (s.coreWrite c l e.n e.data.toNat).healSector l (a.written k) e.a.toNat
        (if a.acq then s.endPinsScope c a.scope else s).sweep c x
    | .atom op sg v cmp =>
      match s.loc c x true e.a with
      | none => failed s
      | some l =>
        if s.poisonedLoc l e.n then s.updAcc c x a.id fun b => { b.setDone k 0 with poison := some granule }
        else
          let old := s.readLoc l e.n
          let s := (s.mscCtx c x true e.a e.n).updAcc c x a.id fun b => b.setDone k (BitVec.ofNat 64 old)
          let s := match atomNew op sg e.n old (v.toNat % 2 ^ (8 * e.n)) (cmp.toNat % 2 ^ (8 * e.n)) with
            | some w => s.coreWrite c l e.n w
            | none => s
          match l with
          | .mem p => s.pinAtom c x a (p / 256)
          | _ => s
    | .fence obs =>
      let s := s.updAcc c x a.id fun b => b.setDone k 0
      let s := if wideScope a.scope || (obs && (s.ctx c x).doneWide) then s.l1Drop c else s
      (s.endPinsScope c a.scope).sweep c x
    | .release => (s.updAcc c x a.id fun b => b.setDone k 0).sweep c x
    | .bara b => ((s.updAcc c x a.id fun b => b.setDone k 0).arrive c b).sweep c x
    | .evsig v =>
      let s := s.updAcc c x a.id fun b => b.setDone k 0
      (s.interrupt (Fin.ofNat 97 ((s.ctx c x).asid.toNat)) v).sweep c x
    | .tlbinv sc w =>
      let s := s.updAcc c x a.id fun b => b.setDone k 0
      let s := s.tlbRemove c sc (s.ctx c x).asid w
      (s.modCore c fun k => { k with tlbAck := true }).sweep c x

/-- The access of a context with a number. -/
def State.findAcc (s : State) (c : CoreId) (x : CtxId) (id : Nat) : Option Access := (s.ctx c x).accs.find? fun a => a.id == id

/-- Element `k` of access `id` performs if it may, and a WAIT of its context that came after it is tested again; else nothing
happens. -/
def State.performIf (s : State) (c : CoreId) (x : CtxId) (id k : Nat) : State :=
  match s.findAcc c x id with
  | none => s
  | some a => if s.canPerform c x a k then (s.performElem c x a k).wakeTest c x else s

/-- One element with no bytes, for a fence, a release, an arrival, a message or an invalidation. -/
def unitElem : List Elem := [⟨0, 0, 0, false, 0⟩]

end Sys2Proof.Machine
end

