-- ==== Sys2Proof/Machine/Hub.lean ====
section
/-!
DEFINITION. The fields of command records (23 R340), translation for the agents of the hub (24 R376), and the bytes a COPY
record moves (23 R341).
-/
namespace Sys2Proof.Machine

/-! ### Fields (Tables 23.1 and 23.3) -/

/-- `n` bytes of a record from an offset. -/
def recN (b : BitVec 512) (o n : Nat) : Nat := b.toNat / 2 ^ (8 * o) % 2 ^ (8 * n)
/-- KIND. -/
def recKind (b : BitVec 512) : Nat := recN b 0 1
/-- BARRIER. -/
def recBarrier (b : BitVec 512) : Bool := b.getLsbD 8
/-- INTR. -/
def recIntr (b : BitVec 512) : Bool := b.getLsbD 9
/-- CLEAN. -/
def recClean (b : BitVec 512) : Bool := b.getLsbD 10
/-- VECTOR. -/
def recVector (b : BitVec 512) : R64 := Fin.ofNat 64 (recN b 2 2)
/-- JCB, unless it is 0xFFFF_FFFF. -/
def recJcb (b : BitVec 512) : Option Nat := if recN b 4 4 < 4096 then some (recN b 4 4) else none
/-- COMP. -/
def recComp (b : BitVec 512) : Nat := recN b 8 8

/-- The common header breaks no limit (Table 23.1). -/
def recHeadOk (b : BitVec 512) : Bool :=
  recN b 1 1 / 8 == 0 && recN b 2 2 / 64 == 0 && (decide (recN b 4 4 < 4096) || recN b 4 4 == 0xFFFFFFFF)

/-- The body breaks no limit (Table 23.3). A LAYOUT record stands in a queue of the management function (26 R387). -/
def recBodyOk (mgmt : Bool) (b : BitVec 512) : Bool :=
  let zero (o : Nat) : Bool := b.toNat / 2 ^ (8 * o) == 0
  match recKind b with
  | 1 =>
    let pool := recN b 0x18 8
    let cap := recN b 0x22 1
    recN b 0x10 8 % 4096 == 0 && decide (2 ^ 25 ≤ recN b 0x10 8) && decide (recN b 0x10 8 < 2 ^ 56 - 2 ^ 30) && recN b 0x23 1 / 4 == 0 && zero 0x34
    && (if pool = 0 then recN b 0x20 2 == 0 && cap == 0 && recN b 0x24 4 == 0
        else pool % 4096 == 0 && decide (2 ^ 25 ≤ pool) && decide (pool + 20 * 2 ^ cap ≤ 2 ^ 56 - 2 ^ 30) && decide (1 ≤ recN b 0x20 2) && decide (recN b 0x20 2 ≤ 4096)
          && decide (16 ≤ cap) && decide (cap ≤ 28) && decide (1 ≤ recN b 0x24 4) && decide (recN b 0x24 4 + 4098 ≤ 2 ^ cap))
  | 2 => recN b 0x10 8 % 64 == 0 && recN b 0x18 8 % 64 == 0 && recN b 0x20 8 % 64 == 0 && decide (64 ≤ recN b 0x20 8) && zero 0x28
  | 3 => recN b 0x10 8 % 8 == 0 && zero 0x20
  | 4 =>
    let mode := recN b 0x24 1
    zero 0x25 && ((mode == 0 && recN b 0x20 4 == 0)
      || (mode == 1 && recN b 0x10 8 == 0 && recN b 0x18 8 == 0 && decide (recN b 0x20 4 < 4096)))
  | 5 => decide (recN b 0x10 4 < 4096) && decide (1 ≤ recN b 0x14 4) && zero 0x18
  | 6 => decide (recN b 0x10 4 < 4096) && decide (1 ≤ recN b 0x14 4) && zero 0x18
  | 7 => mgmt && zero 0x18
  | _ => false

/-- Does a record break a limit (R340)? -/
def recBad (mgmt : Bool) (b : BitVec 512) : Bool := !(recHeadOk b && recBodyOk mgmt b)

/-! ### Records the dispatcher knows -/

/-- A record by its number. -/
def State.record (s : State) (r : Nat) : Option Record := s.records.find? fun x => x.id == r
/-- Change a record. -/
def State.modRec (s : State) (r : Nat) (f : Record → Record) : State :=
  { s with records := s.records.map fun (x : Record) => if x.id = r then f x else x }
/-- The writes to host memory that a record's agent forms as it completes: a SIGNAL's word, the completion word, the
interrupt message. -/
def recWrites (b : BitVec 512) : Nat := bit1 (recKind b == 3) + bit1 (recComp b != 0) + bit1 (recIntr b)
/-- A record of a kind that is under way; while the hub can hold no further host write, its agent waits (26 R392). -/
def State.running (s : State) (r kind : Nat) : Option Record :=
  (s.record r).bind fun x => if recKind x.body = kind ∧ !x.ended ∧ !x.flushed ∧ s.roomFor (max (bit1 (kind == 2)) (recWrites x.body)) then some x else none

/-! ### Translation in the hub, and COPY records -/

/-- The root table of an address space: the one its contexts hold, else the root monitor's record of it (R364). -/
def State.rootOf (s : State) (asid : BitVec 7) : Word :=
  if h : asid.toNat < 96 then s.roots[(⟨asid.toNat, h⟩ : Fin 96)] else 0

/-- The function for which a record works. -/
def State.recFn (s : State) (x : Record) : Nat := ((s.queues[x.queue]).owner.map (·.val)).getD 96
/-- Is an address one that engines reach as a global one (10 R132)? -/
def engineReach (va : Nat) : Bool := decide (2 ^ 25 ≤ va) && decide (va < 2 ^ 56 - 2 ^ 30)
/-- Translation for an agent of the hub, which holds no TLB, in the address space of a function. The host reaches every page; an engine
of the hub those of `engineReach`. -/
def State.hubPhys (s : State) (f : Nat) (ag : Agent) (write : Bool) (va : Nat) : Phys :=
  if ag = .engine ∧ engineReach va = false then .perm
  else match walkFrom s.gmem va 4 (s.rootOf (BitVec.ofNat 7 f)).toNat with
  | .fault true => .held
  | .fault false => .page
  | .leaf e b sz =>
    if s.noMemory e then .page
    else if permitted e ag write then .ok (physAddr e b sz va) else .perm
/-- An access of the hub's agents to the MSC. -/
def State.mscHub (s : State) (f : Nat) (write : Bool) (va n : Nat) : State :=
  s.mscTouch ((s.partOf f).getD 24) (fun v => walkFrom s.gmem v 4 (s.rootOf (BitVec.ofNat 7 f)).toNat) va n write
/-- Is SRC or DST of a COPY record a host address? The spec gives no bit that tells one from a global address (log 17); a number that
is no global address of an engine is a host address. Its first byte decides for all of it. -/
def isHostAddr (a : Nat) : Bool := !engineReach a || Config.copyHost (BitVec.ofNat 64 a)

/-- Piece `k` of 64 bytes of a COPY record is moved. -/
def State.hubMove (s : State) (r k : Nat) : State :=
  match s.running r 2 with
  | none => s
  | some x =>
    let src := recN x.body 0x10 8 + 64 * k
    let dst := recN x.body 0x18 8 + 64 * k
    let fromHost := isHostAddr (recN x.body 0x10 8)
    let toHost := isHostAddr (recN x.body 0x18 8)
    let fail (s : State) : State := s.modRec r fun y => { y with code := some 4 }
    let hold (s : State) (a : Nat) : State := s.walkFor 0 (BitVec.ofNat 7 (s.recFn x)) 0 (BitVec.ofNat 56 a)
    if !x.begun || x.code.isSome || x.moved.contains k || decide (recN x.body 0x20 8 ≤ 64 * k) then s
    else
      let f := s.recFn x
      let walks (a : Nat) : Bool := s.hub.walks.any fun w => w.die == 0 && w.asid.toNat == f && w.page == a / 65536
      let from' : Phys := if fromHost then .ok src else if walks src then .held else s.hubPhys f .engine false src
      let into : Phys := if toHost then .ok dst else if walks dst then .held else s.hubPhys f .engine true dst
      match from', into with
      | .held, _ => hold s src
      | _, .held => hold s dst
      | .ok a, .ok b =>
        if fromHost && !(s.hub.ports[(0 : Fin 9)]).up then fail s
        else if !fromHost && s.pinnedLoc none (.mem a) || !toHost && s.pinnedLoc none (.mem b) then s
        else if !fromHost && s.poisonedLoc (.mem a) 64 then fail (if toHost then s else s.poisonLocs [.mem b])
        else
          let v := if fromHost then memReadN s.hmem a 64 else memReadN s.gmem a 64
          let s := if fromHost then State.hostAsk (fnNo f) r 64 a 64 s else s
          let s := s.modRec r fun y => { y with moved := k :: y.moved }
          let s := if fromHost then s else s.mscHub f false src 64
          if toHost then s.hostWrite (fnNo f) b (leBytes 64 v)
          else ((s.mscHub f true dst 64).writeLoc (.mem b) 64 v).retest (.mem b) 64
      | _, _ => fail s

end Sys2Proof.Machine
end

