-- ==== Sys2Proof/Machine/Jobs.lean ====
section
/-!
DEFINITION. Job cards, the addresses engines see, footprints, promises, the elements a copy job moves, and the steps in
which a copy job, a code load and an instruction-cache invalidation end (19 R279 to R291, R305 to R307, 10 R163, R165).
-/
namespace Sys2Proof.Machine

/-! ### Addresses seen by engines (R279) -/

/-- A heath of the issuing launch group by its relative number. -/
def State.relHeath (s : State) (c : CoreId) (rel : Nat) : Option (Fin 24) :=
  if rel = (s.core c).alloc.rheath then some (coreHeath c) else (s.groupOf c).bind fun g => g.heaths[rel]?

/-- The heath a vault-window address names, if it is one; its low 25 bits are then read in that heath. -/
def isVaultWindow (a : Addr) : Bool := decide (a.toNat / 2 ^ 30 = 2 ^ 26 - 1)

/-- Does an engine address lie in global memory? -/
def isGlobal (a : Addr) : Bool := !isScratch a && !isVaultWindow a

/-- What an engine finds at an address. -/
inductive EngLoc where
  | ok (l : Loc)
  | viol
  | xlat
  | held
  deriving DecidableEq, Repr

/-- Does a walk end at an invalid entry that is not replayable? DEDUCED (log 21). -/
def walkMissing (m : Memory) (va : Nat) : Nat → Nat → Bool
  | 0, _ => false
  | lv + 1, t =>
    let e := BitVec.ofNat 64 (memReadN m (t + 8 * (va / 2 ^ (10 * lv + 16) % 1024)) 8)
    if e.getLsbD 0 = false then !e.getLsbD 1
    else if malformed e lv then false
    else e.getLsbD 1 && walkMissing m va lv (e.toNat / 2 ^ 13 % 2 ^ 47 * 2 ^ 13)

/-- One byte's place for an engine that works for a context (R279, R283); a page whose replayable fault is held is held (24 R378). An
ordinary walk under way delays no promise (R288): the engine's miss joins it, and ends in the tables' leaf at once. DEDUCED (log 36). -/
def State.engLoc (s : State) (c : CoreId) (x : CtxId) (write : Bool) (a : Addr) : EngLoc :=
  let al := (s.core c).alloc
  let inVault (h : Fin 24) : EngLoc :=
    if vaultOfs a < al.scratch then .ok (.vault (heathCore h ⟨a.toNat / 2 ^ 22 % 8, Nat.mod_lt _ (by decide)⟩) (vaultOfs a)) else .viol
  if isScratch a then inVault (coreHeath c)
  else if isVaultWindow a then
    let rel := a.toNat / 2 ^ 25 % 32
    if al.nheaths ≤ rel then .viol
    else match s.relHeath c rel with
      | some h => inVault h
      | none => .viol
  else if s.faultHeld c x a then .held
  else match s.physEng c x write a.toNat with
    | .ok pa => if s.pinnedLoc none (.mem pa) then .held else .ok (.mem pa)
    | .perm => .viol
    | .held => .held
    | .page => if walkMissing s.gmem a.toNat 4 (s.ctx c x).ptroot.toNat then .viol else .xlat

/-- The places of `n` bytes, or the first that is no place. -/
def State.engLocs (s : State) (c : CoreId) (x : CtxId) (write : Bool) (a : Addr) (n : Nat) : Except EngLoc (List Loc) :=
  (List.range n).foldl (fun acc i => match acc with
    | .error e => .error e
    | .ok l => match s.engLoc c x write (a + BitVec.ofNat 56 i) with
      | .ok p => .ok (l ++ [p])
      | e => .error e) (.ok [])

/-- Read bytes at places, little-endian. -/
def State.engRead (s : State) : List Loc → Nat
  | [] => 0
  | l :: ls => s.readLoc l 1 + 256 * s.engRead ls

/-- Write bytes at places one by one; blocked WAITs are tested again. -/
def State.engWrite (s : State) : List Loc → List Nat → State
  | l :: ls, v :: vs => ((s.writeLoc l 1 v).retest l 1).engWrite ls vs
  | _, _ => s

/-- Write the bytes of one element: a poisoned granule written whole loses its poison (10 R165). -/
def State.engWriteN (s : State) (ls : List Loc) (v : Nat) : State :=
  match ls with
  | [] => s
  | l :: _ =>
    let n := ls.length
    if ls == (List.range n).map l.add then (s.writeLoc l n v).retest l n
    else s.engWrite ls ((List.range n).map fun i => v / 256 ^ i % 256)

/-- An engine's access of `n` bytes in the MSC, where it is global. -/
def State.mscEng (s : State) (c : CoreId) (x : CtxId) (write : Bool) (a : Addr) (n : Nat) : State :=
  if isGlobal a then s.mscTouch (s.core c).alloc.part (s.xlatEng c x) a.toNat n write else s

/-! ### Cards (R280 to R282) -/

/-- 64-bit word `i` of a card. -/
def cardW (im i : Nat) : Nat := im / 2 ^ (64 * i) % 2 ^ 64
/-- LEN0. -/
def cardLen0 (im : Nat) : Nat := cardW im 2 % 2 ^ 24
/-- Extent of dimension `k`, 1 to 5. -/
def cardExt (im k : Nat) : Nat := cardW im 2 / 2 ^ (16 + 8 * k) % 256 + 1
/-- Stride of dimension `k` in bytes. -/
def cardStr (im k : Nat) : Int :=
  patInt 24 true (im / 2 ^ (192 + 24 * (k - 1)) % 2 ^ 24) * (if im / 2 ^ (311 + k) % 2 = 1 then 4096 else 1)
/-- Runs of dimensions 1 to `d`. -/
def cardRuns (im d : Nat) : Nat := (List.range d).foldl (fun p k => p * cardExt im (k + 1)) 1
/-- The walk offset of run `r` (R281). -/
def cardWalk (im r : Nat) : Int :=
  (List.range 5).foldl (fun (acc : Int) (k : Nat) => acc + ((r / cardRuns im k % cardExt im (k + 1) : Nat) : Int) * cardStr im (k + 1)) 0
/-- FAR. -/
def cardFar (im : Nat) : Bool := cardW im 0 / 2 ^ 63 % 2 == 1
/-- PORT. -/
def cardPort (im : Nat) : R8 := Fin.ofNat 8 (cardW im 1 / 2 ^ 56)
/-- Source address of run `r`. -/
def runSrc (im r : Nat) : Addr :=
  BitVec.ofInt 56 ((cardW im 0 % 2 ^ 56 : Nat) + (if cardW im 1 / 2 ^ 59 % 2 = 0 then cardWalk im r else ((r * cardLen0 im : Nat) : Int)))
/-- Destination address of run `r`. -/
def runDst (im r : Nat) : Addr :=
  BitVec.ofInt 56 ((cardW im 1 % 2 ^ 56 : Nat) + (if cardW im 1 / 2 ^ 59 % 2 = 0 then ((r * cardLen0 im : Nat) : Int) else cardWalk im r))
/-- B: the bytes of a job. -/
def cardBytes (im : Nat) : Nat := cardLen0 im * cardRuns im 5
/-- Region word `i`. -/
def cardReg (im i : Nat) : Nat := im / 2 ^ (320 + 32 * i) % 2 ^ 32

/-- The walk fields of a job or subscription card are valid: LEN0, and the reserved bits of 0x18. -/
def walkOk (im : Nat) : Bool := cardLen0 im != 0 && im / 2 ^ 317 % 8 == 0

/-- Is a job card valid (R280, R282, R290)? -/
def cardValid (im : Nat) : Bool :=
  walkOk im
  && decide (cardW im 0 / 2 ^ 60 % 8 ≤ 5)
  && cardW im 1 / 2 ^ 60 == 0
  && (cardFar im || cardPort im == 0)
  && (!cardFar im || (cardW im 0 / 2 ^ 60 % 8 == 5 && cardW im 1 / 2 ^ 59 % 2 == 0))
  && (List.range 4).all fun i => cardReg im i / 2 ^ 31 == 1 || cardReg im i == 0

/-- A declared region: its first byte, its length, and its mark (R282). -/
structure Region where
  lo  : Addr
  len : Nat
  w   : Bool
  dst : Bool
  deriving DecidableEq, Repr

/-- The declared regions of a card; those of the far side take no part (R290). -/
def cardRegions (im : Nat) : List Region :=
  (List.range 4).filterMap fun i =>
    let g := cardReg im i
    let b := g / 2 ^ 29 % 2 = 1
    if g / 2 ^ 31 = 0 ∨ (cardFar im ∧ b) then none
    else
      let u := (if b then cardW im 1 else cardW im 0) % 2 ^ 56 / 64 * 64
      let len := 64 * (g % 2 ^ 28)
      some ⟨if g / 2 ^ 28 % 2 = 0 then BitVec.ofNat 56 u else BitVec.ofNat 56 (u + 64) - BitVec.ofNat 56 len, len, g / 2 ^ 30 % 2 == 1, b⟩

/-- Do `n` bytes at an address lie in a region? -/
def Region.covers (r : Region) (a : Addr) (n : Nat) : Bool := decide ((a - r.lo).toNat + n ≤ r.len)
/-- Do two byte ranges of one space meet? -/
def rangesMeet (a : Addr) (n : Nat) (b : Addr) (m : Nat) : Bool :=
  decide (0 < n) && decide (0 < m) && (decide ((a - b).toNat < m) || decide ((b - a).toNat < n))

/-- The space an engine address lies in, and the address in it: vaults by global heath, global memory by address space. DEDUCED (log 35). -/
def State.engSpace (s : State) (c : CoreId) (x : CtxId) (a : Addr) : Nat × Addr :=
  if isScratch a then (0, BitVec.ofNat 56 ((coreHeath c).val * 2 ^ 25 + a.toNat))
  else if isVaultWindow a then
    match s.relHeath c (a.toNat / 2 ^ 25 % 32) with
    | some h => (0, BitVec.ofNat 56 (h.val * 2 ^ 25 + a.toNat % 2 ^ 25))
    | none => (1, a)
  else (2 + (s.ctx c x).asid.toNat, a)

/-- Do two ranges of two jobs meet? DEDUCED (log 35). -/
def State.jobsMeet (s : State) (j : Job) (a : Addr) (n : Nat) (k : Job) (b : Addr) (m : Nat) : Bool :=
  let p := s.engSpace j.core j.ctx a
  let q := s.engSpace k.core k.ctx b
  p.1 == q.1 && rangesMeet p.2 n q.2 m

/-- A partition's record, without what the dispatcher keeps beside it. -/
def Partition.plain (p : Partition) : Partition := { p with suspended := false, image := [], jcbs := [] }
/-- The slot-table entries a partition reserves (23 R353). -/
def Layout.reserved (l : Layout) (p : Nat) : List Nat :=
  (l.slots.zipIdx.filter fun e => e.1.getLsbD 7 && e.1.toNat % 32 == p).map (·.2)
/-- Is a partition affected by the commit in progress (23 R355)? DEDUCED (log 49). -/
def State.affected (s : State) (p : Nat) : Bool :=
  match s.commit with
  | none => false
  | some c => (s.layout.parts[p]?).map Partition.plain != (c.next.parts[p]?).map Partition.plain
      || s.layout.reserved p != c.next.reserved p
/-- New work of an affected partition is held until the tick. -/
def State.holdsNew (s : State) (j : Job) : Bool :=
  match s.commit with
  | none => false
  | some c => decide (c.jobs ≤ j.id) && s.affected (s.core j.core).alloc.part

/-- The card of a job as a number. -/
def Job.im (j : Job) : Nat := (j.image.getD 0).toNat

/-- Copy jobs of the same die that started before a job (R163). -/
def State.priorJobs (s : State) (j : Job) : List Job :=
  s.jobs.filter fun k => k.kind == .copy && decide (k.id < j.id) && coreDie k.core == coreDie j.core
/-- Those that have not ended. -/
def State.earlierJobs (s : State) (j : Job) : List Job := (s.priorJobs j).filter fun k => !k.ended

/-- Must an access of `n` bytes at `a` of job `j` wait for an earlier job (R163)? -/
def State.jobWaits (s : State) (j : Job) (a : Addr) (n : Nat) : Bool :=
  (s.earlierJobs j).any fun k => k.image.isNone ||
    (cardRegions k.im).any fun q => s.jobsMeet j a n k q.lo q.len &&
      (cardRegions j.im).any fun r => r.covers a n && (r.w || q.w)
/-- Does R163 order job `j` after job `k`? -/
def State.jobAfter (s : State) (j k : Job) : Bool :=
  (cardRegions k.im).any fun q => (cardRegions j.im).any fun r => (r.w || q.w) && s.jobsMeet j r.lo r.len k q.lo q.len

/-! ### Elements of a copy job (R281, 10 R153) -/

/-- Numbers of an element: its run and the 8-byte piece of the destination. -/
def elemStride (im : Nat) : Nat := cardLen0 im / 8 + 2
/-- Element `k` of runs of LEN0 bytes of which run `r` is written from `dst r` on: its run, its first byte in the run and its
length; none for a number that names none. -/
def runElem (im runs : Nat) (dst : Nat → Nat) (k : Nat) : Option (Nat × Nat × Nat) :=
  let r := k / elemStride im
  let i := k % elemStride im
  let d := dst r
  let lo := if i = 0 then 0 else 8 * i - d % 8
  let hi := min (8 * (i + 1) - d % 8) (cardLen0 im)
  if r < runs ∧ lo < hi then some (r, lo, hi - lo) else none
/-- Element `k` of a copy job. -/
def jobElem (im k : Nat) : Option (Nat × Nat × Nat) := runElem im (cardRuns im 5) (fun r => (runDst im r).toNat) k

/-- What the moved elements of a job have written: address and length of each. -/
def Job.written (j : Job) : List (Nat × Nat) :=
  j.moved.filterMap fun k => (jobElem j.im k).map fun e => ((runDst j.im e.1 + BitVec.ofNat 56 e.2.1).toNat, e.2.2)

/-- Has every element moved? -/
def Job.allMoved (j : Job) : Bool :=
  (List.range (cardRuns j.im 5 * elemStride j.im)).all fun k => (jobElem j.im k).isNone || j.moved.contains k

/-- Do the source and destination bytes of a job overlap (R281)? -/
def State.selfOverlap (s : State) (j : Job) : Bool :=
  let n := cardLen0 j.im
  !cardFar j.im && (List.range (cardRuns j.im 5)).any fun r => (List.range (cardRuns j.im 5)).any fun q =>
    s.jobsMeet j (runSrc j.im r) n j (runDst j.im q) n

/-- Change a job. -/
def State.modJob (s : State) (id : Nat) (f : Job → Job) : State :=
  { s with jobs := s.jobs.map fun (j : Job) => if j.id = id then f j else j }
/-- A job by its number. -/
def State.job (s : State) (id : Nat) : Option Job := s.jobs.find? fun j => j.id == id
/-- A job stops with a code. -/
def State.jobStop (s : State) (id code : Nat) : State :=
  s.modJob id fun j => { j with status := some (j.status.getD code) }

/-- A free 8-bit value for each of `n` bytes (R281). -/
def State.freeBytes (s : State) (n : Nat) : Nat × State :=
  (leNat ((List.range n).map fun i => Config.freeByte (s.choices + i)), { s with choices := s.choices + n })

/-- An engine's misses among `n` bytes: pages that wait for a replayable fault start their walks (24 R377, R378). -/
def State.engWalk (s : State) (c : CoreId) (x : CtxId) (unit : BitVec 20) (a : Addr) (n : Nat) : State :=
  (List.range (n / 65536 + 2)).foldl (fun s i =>
    let v := min (a.toNat / 65536 * 65536 + 65536 * i) (a.toNat + n - 1)
    if isGlobal (BitVec.ofNat 56 v) && s.physEng c x false v == .held then
      s.walkFor (coreDie c) (s.ctx c x).asid unit (BitVec.ofNat 56 v) else s) s

/-- The unit that works for a job: a copy engine, or the code-load path of a context (03 Table 3.8). -/
def Job.unit (j : Job) : BitVec 20 := if j.kind = .copy then BitVec.ofNat 20 (copyUnit j.core) else ctxUnit j.core j.ctx

/-- The code a failed place gives (R283); a held access holds the job. -/
def State.jobFail (s : State) (j : Job) (a : Addr) (n : Nat) : EngLoc → State
  | .viol => s.jobStop j.id 2
  | .xlat => s.jobStop j.id 4
  | _ => (s.modJob j.id fun j => { j with held := true }).engWalk j.core j.ctx j.unit a n

/-- The element `k` of a copy job is moved: read at its source and written at its destination (R281, 10 R163, R165,
R166). Nothing happens where it may not move now. DESIGN CHOICE (log 35): one region must cover the element whole (R282), so an
element whose bytes straddle two regions that meet is outside the footprint. -/
def State.jobMove (s : State) (id k : Nat) : State :=
  match s.job id with
  | none => s
  | some j =>
    if j.kind ≠ .copy ∨ j.image = none ∨ j.status ≠ none ∨ j.ended ∨ j.moved.contains k ∨ cardFar j.im ∨ s.holdsNew j then s
    else match jobElem j.im k with
      | none => s
      | some (r, lo, n) =>
        let sa := runSrc j.im r + BitVec.ofNat 56 lo
        let da := runDst j.im r + BitVec.ofNat 56 lo
        let rg := cardRegions j.im
        if !(rg.any fun q => q.covers sa n) || !(rg.any fun q => q.w && q.covers da n) then s.jobStop id 2
        else if s.jobWaits j sa n || s.jobWaits j da n then s
        else match s.engLocs j.core j.ctx false sa n, s.engLocs j.core j.ctx true da n with
          | .error e, _ => s.jobFail j sa n e
          | _, .error e => s.jobFail j da n e
          | .ok src, .ok dst =>
            let s := (s.modJob id fun j => { j with moved := k :: j.moved }).mscEng j.core j.ctx false sa n
            let s := s.mscEng j.core j.ctx true da n
            if src.any fun l => s.poisonedLoc l 1 then (s.poisonLocs dst).jobStop id 3
            else
              let s := if s.selfOverlap j then (s.freeBytes n).2.engWriteN dst (s.freeBytes n).1 else s.engWriteN dst (s.engRead src)
              s.healSector (dst.headD (.vault 0 0)) (Job.written { j with moved := k :: j.moved }) da.toNat

/-! ### Promises (R287) -/

/-- Is any page of a range of `n` bytes second-tier memory? -/
def State.secondTier (s : State) (c : CoreId) (x : CtxId) (a : Addr) (n : Nat) : Bool :=
  let t := s.ctx c x
  decide (0 < n) && (List.range (n / 65536 + 2)).any fun i =>
    let v := min (a.toNat / 65536 * 65536 + 65536 * i) (a.toNat + n - 1)
    match s.xlat [] (coreDie c) t.asid t.ptroot v with
    | .leaf e _ _ => e.getLsbD 12
    | _ => false

/-- The path of a copy job, a row of Table 19.5. DESIGN CHOICE (log 36): a copy from global to global memory, both in HBM, which no
row names, takes the row of HBM and scratch. -/
def State.copyPath (s : State) (j : Job) : Fin 4 :=
  let n := cardLen0 j.im
  let as := (List.range (cardRuns j.im 5)).flatMap fun r => [runSrc j.im r, runDst j.im r]
  if cardFar j.im then 3
  else if as.any fun a => isGlobal a && s.secondTier j.core j.ctx a n then 2
  else if as.any isGlobal then 1 else 0

/-- L of a path. -/
def pathTicks (p : Fin 4) : Nat := if p = 0 then 96 else if p = 1 then 1200 else if p = 2 then 3600 else 9000
/-- W of a path for a core's partition. -/
def State.pathRate (s : State) (c : CoreId) (p : Fin 4) : Nat :=
  match s.layout.parts[(s.core c).alloc.part]? with
  | some q => (q.wpath[p]).toNat
  | none => 0

/-- The length of the range of a code-load card. -/
def Job.rangeLen (j : Job) : Nat := if j.kind = .icopy then cardW j.im 2 % 2 ^ 32 else cardW j.im 1
/-- The path of a job. -/
def State.jobPath (s : State) (j : Job) : Fin 4 :=
  if j.kind = .copy then s.copyPath j
  else if s.secondTier j.core j.ctx (BitVec.ofNat 56 (cardW j.im 0)) j.rangeLen then 2 else 1
/-- L + ⌈B ÷ W⌉ of a job whose card is read; none without a guaranteed rate. -/
def State.jobTime (s : State) (j : Job) : Option Nat :=
  let p := s.jobPath j
  let b := if j.kind = .copy then cardBytes j.im else if j.kind = .icopy then j.rangeLen else 0
  let w := s.pathRate j.core p
  if w = 0 then none else some (pathTicks p + (b + w - 1) / w)

/-- The promise of a job that takes `d` and starts after `s0` and after the jobs `prev`. -/
def promiseOf (s0 : Nat) (d : Option Nat) (prev : List Job) : Option Nat :=
  if prev.any (fun k => k.promise.isNone) then none
  else d.map fun t => prev.foldl (fun m k => max m (k.promise.getD 0)) s0 + t

/-- Is a code-load card valid (R306, R307)? The bank must not hold the context's program counter, and a resident handler
is not overwritten (24 R365). -/
def icopyValid (im : Nat) (pc thv : Word) : Bool :=
  let dst := cardW im 1
  let len := cardW im 2 % 2 ^ 32
  cardW im 0 / 2 ^ 56 == 0 && cardW im 0 % 64 == 0 && isGlobal (BitVec.ofNat 56 (cardW im 0))
  && decide (dst < 2 ^ 18) && dst % 64 == 0 && len % 64 == 0 && decide (64 ≤ len)
  && decide (dst % 2 ^ 17 + len ≤ 2 ^ 17) && dst / 2 ^ 17 != pc.toNat / 2 ^ 17
  && im / 2 ^ 192 % 2 ^ 256 == 0
  && (thv == 0 || !(decide (dst < 0x20000) && decide (0x1E000 < dst + len)))
/-- Is an ICINV card valid? -/
def icinvValid (im : Nat) : Bool :=
  cardW im 0 % 64 == 0 && cardW im 1 % 64 == 0 && im / 2 ^ 128 % 2 ^ 320 == 0

/-- Code-load jobs of the same core that started before a job. -/
def State.priorLoads (s : State) (j : Job) : List Job :=
  s.jobs.filter fun k => k.kind != .copy && decide (k.id < j.id) && k.core == j.core
/-- Those that have not ended: one runs at a time (R306). -/
def State.earlierLoads (s : State) (j : Job) : List Job := (s.priorLoads j).filter fun k => !k.ended

/-- Clear the marks of a code load's range when its turn comes (R306). -/
def State.clearRange (s : State) (j : Job) : State :=
  if j.kind = .icopy ∧ j.status = none ∧ !j.ended ∧ j.image ≠ none then
    let d := cardW j.im 1
    s.modCore j.core fun k => { k with marks := k.marks.filter fun m => !(decide (d ≤ m) && decide (m < d + cardW j.im 2 % 2 ^ 32)) }
  else s

/-- Is the card of a job that has it valid (R280, R306, R307)? The bank of the bundle that started an ICOPY holds the program counter. -/
def State.cardOkNow (s : State) (j : Job) : Bool := match j.kind with
  | .copy => cardValid j.im
  | .icopy => icopyValid j.im j.hdr (s.ctx j.core j.ctx).thv
  | .icinv => icinvValid j.im

/-- P of a job that has its card, after the jobs `l` that started before it (R287). A card that is refused gives its start. -/
def State.promiseAfter (s : State) (l : List Job) (j : Job) : Option Nat :=
  if s.cardOkNow j then
    promiseOf (j.start + 16) (s.jobTime j) (if j.kind = .copy
      then l.filter fun k => k.kind == .copy && coreDie k.core == coreDie j.core && k.image.isSome && s.jobAfter j k
      else (l.filter fun k => k.kind != .copy && k.core == j.core && k.image.isSome).reverse.take 1)
  else some j.start

/-- A job whose card a release still holds, with the card as its context's earlier writes to the own vault leave it. -/
def State.cardAhead (s : State) (j : Job) : Job :=
  let k := s.core j.core
  let accs := (k.ctxs[j.ctx]).accs
  match accs.find? fun a => match a.dest with
    | .card _ id => id == j.id
    | _ => false with
  | some a => { j with image := ownReads j.core ((accs.filter fun b => decide (b.id < a.id)).foldl (ownWrites j.core) (k.vault, k.vpoison)) a }
  | none => j

/-- The jobs that started before number `id`, each with its promise: a promise is formed of the cards of earlier jobs (R287), also of one
whose own read is still held by the release of R161. DEDUCED (log 36). -/
def State.jobsAhead (s : State) (id : Nat) : List Job :=
  (s.jobs.filter fun k => decide (k.id < id)).foldl (fun l k =>
    if k.image.isSome ∨ k.status.isSome then l ++ [k]
    else
      let k := s.cardAhead k
      l ++ [{ k with promise := s.promiseAfter l k }]) []

/-- A job's card has been read: its validity and its promise (R280, R287). -/
def State.cardRead (s : State) (id : Nat) (im : BitVec 512) : State :=
  match s.job id with
  | none => s
  | some j0 =>
    let s := s.modJob id fun j => { j with image := some im }
    let j := { j0 with image := some im }
    let pr := s.promiseAfter (s.jobsAhead id) j
    let s := s.modJob id fun q => { q with promise := pr, dead := pr }
    if !s.cardOkNow j then s.jobStop id 6
    else if j.kind ≠ .copy ∧ s.earlierLoads j = [] then s.clearRange j else s

/-- An access has performed: where it reads a job's card, the engine has the card; poison in it ends the job with code 3
(R283, 10 R166). -/
def State.cardArrives (s : State) (c : CoreId) (x : CtxId) (id : Nat) : State :=
  match s.findAcc c x id with
  | none => s
  | some a => match a.dest with
    | .card _ j =>
      if !a.performed || ((s.job j).any fun q => q.image.isSome || q.status.isSome) then s
      else if a.poison.isSome then (s.modJob j fun q => { q with promise := some q.start, dead := some q.start }).jobStop j 3
      else s.cardRead j (BitVec.ofNat 512 a.value)
    | _ => s
/-- Element `k` of access `id` performs if it may. -/
def State.performAcc (s : State) (c : CoreId) (x : CtxId) (id k : Nat) : State := (s.performIf c x id k).cardArrives c x id

/-- The value of gD: the promise, or all ones without one. -/
def State.promiseWord (s : State) (id : Nat) : Word :=
  match (s.job id).bind (·.promise) with
  | some p => BitVec.ofNat 64 p
  | none => BitVec.allOnes 64

/-! ### The end of a job (R283) -/

/-- The STATUS word of an end at this tick. -/
def State.statusWord (s : State) (code : Nat) : Nat := s.cyc.toNat % 2 ^ 56 * 256 + code

/-- STATUS is written, and WAITs on it are tested again (R283, 09 R125). -/
def State.writeStatus (s : State) (c : CoreId) (card code : Nat) : State :=
  let l := Loc.vault c (card % 2 ^ 22 + 0x38)
  (s.writeLoc l 8 (s.statusWord code)).retest l 8

/-- A job that ends late moves the ends of those that follow it (R288). -/
def State.followers (s : State) (j : Job) : State :=
  { s with jobs := s.jobs.map fun (k : Job) =>
      let after := if j.kind = .copy then k.kind == .copy && coreDie k.core == coreDie j.core && k.image.isSome && s.jobAfter k j
        else k.kind != .copy && k.core == j.core
      if decide (j.id < k.id) && !k.ended && k.image.isSome && after then
        { k with dead := match k.dead, s.jobTime k with
          | some d, some t => some (max d (s.cyc.toNat + t))
          | d, _ => d }
      else k }

/-- A job ends with a code; its bytes are charged (27 R409), and the next code load of the core takes its turn. -/
def State.jobEnd (s : State) (j : Job) (code bytes : Nat) : State :=
  let s := (s.modJob j.id fun q => { q with status := some code, ended := true }).followers j
  let s := s.modCtx j.core j.ctx fun t => { t with doneWide := t.doneWide || wideScope j.scope }
  let s := s.writeStatus j.core j.card code
  let s := s.charge j.core j.ctx .engine bytes
  match s.jobs.find? fun k => k.kind != .copy && !k.ended && k.core == j.core with
  | some k => if j.kind ≠ .copy then s.clearRange k else s
  | none => s

/-- Bytes of the elements that moved. -/
def Job.bytesMoved (j : Job) : Nat := j.moved.foldl (fun n k => n + (match jobElem j.im k with
  | some e => e.2.2
  | none => 0)) 0

/-- Has every write of a job been acknowledged: at once on this module, by the peer's completions for a far copy (R283)?
DEDUCED (log 57). -/
def Job.acknowledged (j : Job) : Bool := !cardFar j.im || decide (j.moved.length ≤ j.acked)
/-- Can a copy job end now? -/
def Job.canEnd (j : Job) : Bool :=
  j.kind == .copy && !j.ended && j.acknowledged && (j.status.isSome || (j.image.isSome && j.allMoved))

/-- COPY_JOB_COMPLETE (R283): a job that has stopped, or whose every element has moved, writes its STATUS. -/
def execCopyJobComplete (id : Nat) (s : State) : Out :=
  .next (match s.job id with
    | some j => if j.canEnd then s.jobEnd j (j.status.getD 1) j.bytesMoved else s
    | none => s)

/-! ### Code loads (R305 to R307, 05 R74) -/

/-- One byte of a CRC-32 with the reflected Castagnoli polynomial. -/
def crc32Byte (crc : BitVec 32) (b : Byte) : BitVec 32 :=
  (List.range 8).foldl (fun (c : BitVec 32) _ => if c.getLsbD 0 then (c >>> 1) ^^^ 0x82F63B78#32 else c >>> 1) (crc ^^^ b.setWidth 32)
/-- CRC-32C: initial value all ones, final inversion (R306). -/
def crc32c (l : List Byte) : Nat := (~~~(l.foldl crc32Byte 0xFFFFFFFF#32)).toNat

/-- The parse of a loaded range from a header on: the units that hold headers, or none when a bundle crosses its line or
leaves the range. -/
def parseMarks (m : Memory) (hi : Nat) : Nat → Nat → Option (List Nat)
  | 0, _ => some []
  | fuel + 1, a =>
    if hi ≤ a then some []
    else
      let h := memReadN m a 2
      if h = 0 then (parseMarks m hi fuel (a / 64 * 64 + 64)).map (a :: ·)
      else
        let len := 2 + 6 * (presentSlots (h / 256)).length + 4 * (h / 64 % 4)
        if a / 64 * 64 + 64 < a + len ∨ hi < a + len then none
        else (parseMarks m hi fuel (a + len)).map (a :: ·)

/-- A line read through a die's instruction cache of 2 MiB: a line it holds, else memory, whose line it then holds in place
of its oldest; the poisoned granules where the line has any (R307, 01 R13, 10 R166). DESIGN CHOICE (log 14): the line that leaves. -/
def State.icRead (s : State) (die : Fin 12) (pa : Nat) : Except (List Nat) (Nat × State) :=
  let l := (s.dies[die]).icache
  match l.find? fun e => e.line == pa / 64 with
  | some e => if e.poison ≠ [] then .error e.poison else .ok (e.data.toNat, s)
  | none =>
    let e := s.lineNow (pa / 64)
    if e.poison ≠ [] then .error e.poison
    else .ok (e.data.toNat, { s with dies := s.dies.set die { s.dies[die] with icache := (l ++ [e]).drop (l.length + 1 - 32768) } })

/-- The lines of a code load, copied to the instruction scratchpad until one fails: the bytes moved, and the failure, if
any; one that is poisoned poisons its destination granules (10 R166). -/
def State.icCopy (s : State) (j : Job) : Nat → Nat → Nat → Nat → Nat × Option EngLoc × State
  | 0, _, _, moved => (moved, none, s)
  | n + 1, a, d, moved =>
    match s.engLoc j.core j.ctx false (BitVec.ofNat 56 a) with
    | .ok (.mem pa) => match s.icRead (coreDie j.core) pa with
      | .error gs => (moved, some (.ok (.mem pa)), s.modCore j.core fun k => { k with
          ipoison := gs.foldl (fun l g => (d / 8 + g % 8) :: l.filter (· != d / 8 + g % 8)) k.ipoison })
      | .ok r =>
        let t := if (s.dies[coreDie j.core]).icache.any fun e => e.line == pa / 64 then r.2 else r.2.mscEng j.core j.ctx false (BitVec.ofNat 56 a) 64
        (t.modCore j.core fun k => { k with
          ispad := memWriteN k.ispad d 64 r.1
          ipoison := clearPoison k.ipoison d 64 }).icCopy j n (a + 64) (d + 64) (moved + 64)
    | .ok _ => (moved, some .viol, s)
    | e => (moved, some e, s)

/-- Can a code-load job end now: it has stopped, or its card is read and its turn has come? -/
def State.loadTurn (s : State) (j : Job) : Bool :=
  !j.ended && (j.status.isSome || (!s.holdsNew j && j.image.isSome && s.earlierLoads j == []))

/-- CODE_LOAD_COMPLETE (R306): the range is copied, checked against its CRC-32C and parsed. -/
def execCodeLoadComplete (id : Nat) (s : State) : Out :=
  .next (match s.job id with
    | none => s
    | some j =>
      if j.kind ≠ .icopy ∨ s.loadTurn j = false then s
      else match j.status with
        | some code => s.jobEnd j code 0
        | none =>
          let s := s.clearRange j
          let d := cardW j.im 1
          let len := cardW j.im 2 % 2 ^ 32
          match s.icCopy j (len / 64) (cardW j.im 0) d 0 with
          | (_, some .held, _) => s.jobFail j (BitVec.ofNat 56 (cardW j.im 0)) len .held
          | (n, some .xlat, s) => s.jobEnd j 4 n
          | (n, some .viol, s) => s.jobEnd j 2 n
          | (n, some (.ok _), s) => s.jobEnd j 3 n
          | (_, none, s) =>
            let m := (s.core j.core).ispad
            if crc32c (memBytes m d len) ≠ cardW j.im 2 / 2 ^ 32 then s.jobEnd j 7 len
            else match parseMarks m (d + len) (len / 2 + 1) d with
              | none => s.jobEnd j 8 len
              | some ms => (s.modCore j.core fun k => { k with marks := k.marks ++ ms }).jobEnd j 1 len)

/-- The lines of an ICINV, by physical line; a failure stops with its code. -/
def State.icLines (s : State) (j : Job) : Nat → Nat → Except EngLoc (List Nat)
  | 0, _ => .ok []
  | n + 1, a =>
    match s.engLoc j.core j.ctx false (BitVec.ofNat 56 a) with
    | .ok (.mem pa) => (s.icLines j n (a + 64)).map ((pa / 64) :: ·)
    | .ok _ => .error .viol
    | e => .error e

/-- ICINV_COMPLETE (R307): every line of the range leaves the instruction caches of the twelve dies. -/
def execIcinvComplete (id : Nat) (s : State) : Out :=
  .next (match s.job id with
    | none => s
    | some j =>
      if j.kind ≠ .icinv ∨ s.loadTurn j = false then s
      else match j.status with
        | some code => s.jobEnd j code 0
        | none => match s.icLines j (cardW j.im 1 / 64) (cardW j.im 0) with
          | .error .held => s.jobFail j (BitVec.ofNat 56 (cardW j.im 0)) (cardW j.im 1) .held
          | .error .xlat => s.jobEnd j 4 0
          | .error _ => s.jobEnd j 2 0
          | .ok ls => { s with dies := s.dies.map fun (d : Die) => { d with icache := d.icache.filter fun e => !ls.contains e.line } }.jobEnd j 1 0)

end Sys2Proof.Machine
end

