-- ==== Sys2Proof/Machine/Header.lean ====
section
/-!
DEFINITION. The kernel header (06 R89, Table 6.4) and its checks (23 R348, 17 R261, 19 R300), and the dispatcher's reads of a kernel
image (23 R348, 24 R378).
-/
namespace Sys2Proof.Machine

/-! ### The kernel header (06 Table 6.4) -/

/-- `n` bytes of a header from an offset. -/
def hdN (h : BitVec 2048) (o n : Nat) : Nat := h.toNat / 2 ^ (8 * o) % 2 ^ (8 * n)
/-- NHEATHS. -/
def hdHeaths (h : BitVec 2048) : Nat := hdN h 0x28 1
/-- CMASK. -/
def hdCmask (h : BitVec 2048) : Nat := hdN h 0x29 1
/-- NCTX. -/
def hdNctx (h : BitVec 2048) : Nat := hdN h 0x2A 1
/-- Cores in CMASK of a parity of position, or all. -/
def maskCount (m : Nat) (p : Nat → Bool) : Nat := ((List.range 8).filter fun i => m.testBit i && p i).length
/-- The sum of the QUEUE entries of a kind. DESIGN CHOICE (log 45): entries of one kind add up. -/
def hdQueue (h : BitVec 2048) (kind : Nat) : Nat :=
  (List.range 8).foldl (fun n i => let q := hdN h (0x40 + 4 * i) 4; if q / 2 ^ 24 = kind then n + q % 2 ^ 24 else n) 0
/-- Declared ring slots of a core. -/
def hdSlots (h : BitVec 2048) : Nat := (List.range 4).foldl (fun n i => n + hdN h (0x60 + 8 * i) 8 / 2 ^ 32 % 1024) 0
/-- Slot entries a heath of the launch takes of its die's loader and storer (19 R300). -/
def hdRings (h : BitVec 2048) : Nat := hdSlots h * maskCount (hdCmask h) fun _ => true
/-- Priority tokens (PREEMPT[7:4]). -/
def hdTokens (h : BitVec 2048) : Nat := hdN h 0x85 1 / 16
/-- Is a mode of PREEMPT allowed: 0 kill, 1 checkpoint, 2 drain? -/
def hdAllows (h : BitVec 2048) (bit : Nat) : Bool := (hdN h 0x85 1).testBit bit

/-- Check 2 of R348: the header's constants, its CRC, its reserved bytes, its offsets, and no zero count (R89). DESIGN CHOICE
(log 45): the reserved bits CPRI[7:4] and PREEMPT[3], which stand in no reserved byte, are ignored; a constant bank, whose
length the header does not hold, needs only its offset within IMGSIZE. -/
def headerOk (h : BitVec 2048) : Bool :=
  let n := hdN h 8 8
  let inside (o len : Nat) : Bool := decide (o + len ≤ n)
  hdN h 0 4 == 0x3639504B && hdN h 4 2 == 1 && hdN h 6 2 == 256
  && hdN h 0xF8 4 == crc32c (leBytes 0xF8 (hdN h 0 0xF8))
  && hdN h 0x36 2 == 0 && hdN h 0x86 2 == 0 && hdN h 0x8C 4 == 0 && hdN h 0xAC 76 == 0 && hdN h 0xFC 4 == 0
  && inside (hdN h 0x10 4) (hdN h 0x14 4) && inside (hdN h 0xA0 4) (hdN h 0xA4 4) && inside (hdN h 0x80 4) (32 * hdN h 0x84 1)
  && ((List.range 4).all fun i => inside (hdN h (0x90 + 4 * i) 4) 0)
  && hdHeaths h != 0 && hdCmask h != 0 && hdNctx h != 0

/-- Check 3: the limits of 17 Table 17.6, and that of TEXTLEN (R89). -/
def headerFits (h : BitVec 2048) : Bool :=
  let x := hdNctx h
  decide (x ≤ 4) && decide (hdN h 0x32 1 * x ≤ 16) && decide (hdN h 0x30 2 * x ≤ 512) && decide (hdN h 0x33 1 ≤ 64)
  && decide (hdN h 0x34 2 ≤ 256) && decide (hdN h 0x2C 4 ≤ 4194304) && decide (hdN h 0x84 1 ≤ 64)
  && decide (hdN h 0x14 4 ≤ 0x20000)

/-- Check 6: the pools of 19 R300 and 21 R320, of the launch alone. -/
def poolsOk (h : BitVec 2048) : Bool :=
  let x := hdNctx h
  ((List.range 8).all fun i => decide (hdN h (0x40 + 4 * i) 4 / 2 ^ 24 < 4))
  && decide (hdQueue h 1 ≤ 64) && decide (hdQueue h 2 ≤ 16) && decide (hdQueue h 3 ≤ 8)
  && ((List.range 2).all fun p => decide (maskCount (hdCmask h) (fun i => i % 2 == p) * x * hdQueue h 1 ≤ 128))
  && decide (x * hdQueue h 2 ≤ 16) && decide (x * hdQueue h 3 ≤ 16)
  && decide (hdRings h * min (hdHeaths h) 2 ≤ 8192)

/-! ### Reading the image -/

/-- A range cut at 64 KiB pages. -/
def pagePieces : Nat → Nat → Nat → List (Nat × Nat)
  | 0, _, _ => []
  | fuel + 1, a, n => if n = 0 then [] else
      let k := min n (65536 - a % 65536)
      (a, k) :: pagePieces fuel (a + k) (n - k)

/-- Bytes of a function's address space; none when a page is not readable. -/
def State.fnRead (s : State) (f a n : Nat) : Option (List Byte) :=
  (pagePieces (n / 65536 + 2) a n).foldl (fun acc p => acc.bind fun l => match s.hubPhys f .engine false p.1 with
    | .ok pa => some (l ++ memBytes s.gmem pa p.2)
    | _ => none) (some [])

/-- The first page of `n` bytes of a function's address space at which a read of the hub is held: by a walk, or by a replayable fault
(24 R376, R378). -/
def State.fnHeld (s : State) (f a n : Nat) : Option Nat :=
  ((pagePieces (n / 65536 + 2) a n).map (·.1)).find? fun v =>
    s.hubPhys f .engine false v == .held || s.hub.walks.any fun w => w.die == 0 && w.asid.toNat == f && w.page == v / 65536
/-- The first page of the image of a LAUNCH record at which the dispatcher's read is held: its header's 256 bytes, then the rest. -/
def State.imageHeld (s : State) (x : Record) : Option Nat :=
  let f := s.recFn x
  let image := recN x.body 0x10 8
  match s.groups.find? fun g => g.record == x.id with
  | some g => s.fnHeld f image (hdN g.header 8 8)
  | none => match s.fnHeld f image 256, s.fnRead f image 256 with
    | some v, _ => some v
    | none, none => none
    | none, some l => if headerOk (BitVec.ofNat 2048 (leNat l)) then s.fnHeld f image (hdN (BitVec.ofNat 2048 (leNat l)) 8 8) else none
/-- A held read of the image waits for its page: the miss is the hub's (24 R377). -/
def State.imageWalk (s : State) (x : Record) (v : Nat) : State := s.walkFor 0 (BitVec.ofNat 7 (s.recFn x)) 0 (BitVec.ofNat 56 v)

/-- Bytes of the image of a group; an unreadable range gives none of them. DESIGN CHOICE (log 45): the text load reads memory itself and
fills no die instruction cache. -/
def State.imageBytesAt (s : State) (g : Group) (o n : Nat) : List Byte :=
  (s.fnRead g.asid.toNat (g.image.toNat + o) n).getD []

end Sys2Proof.Machine
end

