-- ==== Sys2Proof/Machine/Control.lean ====
section
/-!
DEFINITION. The control forms of S0 and the branch forms of S0 and S7 (09 R112 to R131), and the loop sequencer.
-/
namespace Sys2Proof.Machine

/-! ### The loop sequencer (09 R112 to R118) -/

/-- The stage predicates of a trip (R116). -/
def Loop.stagePreds (l : Loop) : BitVec 8 :=
  let t := (l.idx[(0 : Lvl)]).toNat
  BitVec.ofNat 8 ((List.range 8).foldl (fun acc k =>
    acc + bit1 (decide (k < l.s) && decide (k ≤ t) && decide (t + 1 ≤ (l.n[(0 : Lvl)]).toNat + k)) * 2 ^ k) 0)

/-- A write of the stage predicates by the sequencer: at once, over any SPSET of the trip (R116). -/
def State.seqPreds (s : State) (c : CoreId) (x : CtxId) (v : BitVec 8) : State :=
  s.modCore c fun k =>
    { k.modCtx x (fun t => { t with sp := v }) with
      inflight := k.inflight.filter fun f => !(f.ctx == x && match f.wr with
        | .sp _ => true
        | _ => false) }

/-- Change the sequencer of the context in `env`. -/
def State.modLoop (s : State) (f : Loop → Loop) : State := s.modCur fun t => { t with loop := f t.loop }

/-! ### Transfers (09 R121 to R123) -/

/-- A taken transfer of the bundle, unless a lower slot holds one (05 R72). -/
def State.take (s : State) (t : Transfer) : State :=
  if s.env.transfer.isSome then s else s.modEnv fun e => { e with transfer := some t }

/-- Fetch-bubble steps of a transfer through bT (R123). DEDUCED (log 22). -/
def State.bubblesOf (s : State) (b : R8) : Nat := 3 - ((s.core s.env.core).step - (s.cur.b[b]).step)

/-- The value PREP writes. -/
def State.prepTarget (s : State) : Target → Word
  | .rel o => s.env.hdr + o.signExtend 64 * 2
  | .ind a => s.g a

/-- Write a branch-target register, dated by the step of its bundle. -/
def State.pushB (s : State) (b : R8) (v : Word) : State := s.push 1 (.b b v (s.core s.env.core).step) 0

/-- NOP: nothing (08 R94). -/
def execNop (gd : Guard) (s : State) : Out := slotDo gd (some .scalar) id s
/-- PREP (R121). -/
def execPrep (gd : Guard) (b : R8) (t : Target) (s : State) : Out :=
  slotDo gd (some .scalar) (fun s => s.pushB b (s.prepTarget t)) s
/-- BRA (R122). -/
def execBra (gd : Guard) (b : R8) (s : State) : Out :=
  slotDo gd (some .scalar) (fun s => s.take ⟨s.rdB b, s.bubblesOf b, true⟩) s
/-- CALL (R122): b7 receives the first unit after this bundle. -/
def execCall (gd : Guard) (b : R8) (s : State) : Out :=
  slotDo gd (some .scalar) (fun s =>
    if s.env.transfer.isSome then s else (s.take ⟨s.rdB b, s.bubblesOf b, true⟩).pushB 7 s.env.next) s
/-- RET (R122). -/
def execRet (gd : Guard) (s : State) : Out :=
  slotDo gd (some .scalar) (fun s => s.take ⟨s.rdB 7, s.bubblesOf 7, true⟩) s

/-- LSET (R113). -/
def execLset (gd : Guard) (l : Lvl) (st : R8) (a : R64) (s : State) : Out :=
  slotDo gd (some .scalar) (fun s => s.outsideHandler fun s => s.modLoop fun q =>
    { q with
      cnt := q.cnt.set l ((s.g a).setWidth 32)
      stages := if l = 0 then st.val + 1 else q.stages }) s

/-- The sequencer after LRUN (R114): latched counts, indices 0, running unless a level has no trip. -/
def Loop.start (q : Loop) (k : Lvl) (body endA : Word) : Loop :=
  let q := { q with
    n := Vector.ofFn fun j : Lvl => if j.val ≤ k.val then q.cnt[j] else q.n[j]
    idx := Vector.ofFn fun j : Lvl => if j.val ≤ k.val then 0 else q.idx[j]
    s := q.stages
    k := k.val + 1
    n0 := q.cnt[(0 : Lvl)]
    drained := none }
  if (List.finRange 6).any fun j => decide (j.val ≤ k.val) && q.trips j == 0 then { q with run := false }
  else { q with run := true, body := body, endA := endA }

/-- LRUN (R114, R116). -/
def execLrun (gd : Guard) (k : Lvl) (ofs : BitVec 23) (s : State) : Out :=
  slotDo gd (some .scalar) (fun s => s.outsideHandler fun s =>
    let endA := s.env.hdr + ofs.signExtend 64 * 2
    let s := s.modLoop fun q => q.start k s.env.next endA
    if s.cur.loop.run then s.take ⟨s.env.next, 0, false⟩ else s.take ⟨endA, 0, true⟩) s

/-- LBRK's clamp of a level (R118). -/
def Loop.clamp (q : Loop) (l : Lvl) : Loop :=
  if q.run ∧ l.val < q.k then
    { q with n := q.n.set l (if (q.n[l]).toNat ≤ (q.idx[l]).toNat + 1 then q.n[l] else (q.idx[l] + 1).setWidth 32) }
  else q
/-- LBRK (R118). -/
def execLbrk (gd : Guard) (l : Lvl) (s : State) : Out :=
  slotDo gd (some .scalar) (fun s => s.outsideHandler fun s => s.modLoop (·.clamp l)) s

/-- The value LIDX reads (Table 9.8). -/
def Loop.lidx (q : Loop) (l : Lvl) : Word :=
  if q.run ∧ l.val < q.k then
    let i := (q.idx[l]).toNat
    BitVec.ofNat 64 (i + bit1 (i == 0) * 2 ^ 62 + bit1 (i + 1 == q.trips l) * 2 ^ 63)
  else 0
/-- LIDX (R119). -/
def execLidx (gd : Guard) (d : R64) (l : Lvl) (s : State) : Out :=
  slotDo gd (some .scalar) (fun s => s.pushG 1 d (s.loop0.lidx l) false) s

/-- LCLR (R120). -/
def execLclr (gd : Guard) (s : State) : Out :=
  slotDo gd (some .scalar) (fun s => s.outsideHandler fun s =>
    (s.modLoop fun q => { q with run := false, cnt := Vector.replicate 6 0, stages := 1 }).push 1 (.sp 0) 0) s
/-- SPSET (R120). -/
def execSpset (gd : Guard) (a : R64) (s : State) : Out :=
  slotDo gd (some .scalar) (fun s => s.outsideHandler fun s => s.push 1 (.sp ((s.g a).setWidth 8)) 0) s

/-! ### Waiting and stopping (09 R124 to R130) -/

/-- WAIT (R124, R125): a condition that does not hold blocks the context once its bundle has committed. A test that is
held counts as not met; the core freezes before a bundle whose first test would be held (10 R159, R413). -/
def execWait (gd : Guard) (a : R16) (b : R64) (c : Wc) (dword : Bool) (s : State) : Out :=
  slotDo gd (some .scalar) (fun s =>
    let ea := (s.rdA a).1
    let al := if c = .dd then 16 else if dword then 8 else 4
    if ea.toNat % al ≠ 0 then s.slotFault 0x19 (ea.setWidth 64) 0
    else match s.waitTest s.env.core s.env.ctx ea c dword (s.g b) with
      | .met => s.observeWord s.env.core ea c
      | .poison g => s.slotFault 0x1A (g.setWidth 64) 0
      | .fault e => s.slotFault e (ea.setWidth 64) 0
      | _ => s.modEnv fun e => { e with block := ⟨some (.wait ea c dword (s.g b)), e.block.bar⟩ }) s

/-- SLEEPU to a target tick (R126, R127). -/
def State.sleepTo (s : State) (t : Word) : State :=
  let s := s.modCur fun q => { q with promiseT := some t }
  if s.cyc.toNat < t.toNat then s.modEnv fun e => { e with block := ⟨some (.sleep t), e.block.bar⟩ } else s
/-- SLEEPU gA. -/
def execSleepu (gd : Guard) (a : R64) (s : State) : Out := slotDo gd (some .scalar) (fun s => s.sleepTo (s.g a)) s
/-- SLEEPU #v: CYC at issue plus V, read unsigned. -/
def execSleepuI (gd : Guard) (v : Imm) (s : State) : Out :=
  slotDo gd (some .scalar) (fun s => s.sleepTo (s.issueCyc + (s.immV v).setWidth 64)) s

/-- YIELD (R128). -/
def execYield (gd : Guard) (s : State) : Out :=
  slotDo gd (some .scalar) (fun s => s.modEnv fun e => { e with yield := true }) s
/-- HALT (R128): it acts after every slot of its bundle (05 R73). -/
def execHalt (gd : Guard) (s : State) : Out :=
  slotDo gd (some .scalar) (fun s => s.modEnv fun e => { e with pact := 1 }) s
/-- TRAP #n (R128): raised after every slot. -/
def execTrap (gd : Guard) (n : BitVec 8) (s : State) : Out :=
  slotDo gd (some .scalar) (fun s => s.modEnv fun e => { e with pact := 3, pn := n }) s

/-- A beat with the span count of context `x` (03 R50). -/
def Beat.beat (b : Beat) (x : CtxId) (span : Word) : Beat :=
  if b.last[x] = some span then b else { b with last := b.last.set x (some span), seen := true }
/-- HBEAT (R128). -/
def execHbeat (gd : Guard) (s : State) : Out :=
  slotDo gd (some .scalar) (fun s => s.modCore s.env.core fun k => { k with beat := k.beat.beat s.env.ctx s.cur.span }) s

end Sys2Proof.Machine
end

