-- ==== Sys2Proof/Machine/Address.lean ====
section
/-!
DEFINITION. The address forms of S3 (09 R111, R117).
-/
namespace Sys2Proof.Machine

/-- An a result of latency 1. -/
def State.pushA (s : State) (d : R16) (v : Addr) (t : Bool) : State := s.push 1 (.a d v t) 0

/-- ASET. -/
def execAset (gd : Guard) (d : R16) (v : Imm) (s : State) : Out :=
  slotDo gd (some .scalar) (fun s => s.pushA d ((s.immV v).signExtend 56) false) s
/-- AADD. -/
def execAadd (gd : Guard) (d a : R16) (b : R64) (s : State) : Out :=
  slotDo gd (some .scalar) (fun s =>
    s.pushA d ((s.rdA a).1 + (s.g b).setWidth 56) ((s.rdA a).2 || (s.rdG b).taint)) s
/-- The stride AUPD adds (R117); nothing on the last trip. -/
def State.aupdStride (s : State) (d : R16) : Addr := ((s.aupdLevel d).map fun j => s.rdStride d j).getD 0
/-- AUPD. -/
def execAupd (gd : Guard) (d : R16) (s : State) : Out :=
  slotDo gd (some .scalar) (fun s => s.outsideHandler fun s =>
    s.pushA d ((s.rdA d).1 + s.aupdStride d) (s.rdA d).2) s
/-- AMOV. -/
def execAmov (gd : Guard) (d : R16) (a : R64) (s : State) : Out :=
  slotDo gd (some .scalar) (fun s => s.pushA d ((s.g a).setWidth 56) (s.rdG a).taint) s
/-- AGET. -/
def execAget (gd : Guard) (d : R64) (a : R16) (s : State) : Out :=
  slotDo gd (some .scalar) (fun s => s.pushG 1 d ((s.rdA a).1.setWidth 64) (s.rdA a).2) s
/-- AKSET. -/
def execAkset (gd : Guard) (d : R16) (j : Lvl) (v : Imm) (s : State) : Out :=
  slotDo gd (some .scalar) (fun s => s.push 1 (.stride d j ((s.immV v).signExtend 56)) 0) s
/-- AKMOV. -/
def execAkmov (gd : Guard) (d : R16) (j : Lvl) (b : R64) (s : State) : Out :=
  slotDo gd (some .scalar) (fun s => s.push 1 (.stride d j ((s.g b).setWidth 56)) 0) s
/-- AKGET. -/
def execAkget (gd : Guard) (d : R64) (a : R16) (j : Lvl) (s : State) : Out :=
  slotDo gd (some .scalar) (fun s => s.pushG 1 d ((s.rdStride a j).signExtend 64) false) s

end Sys2Proof.Machine
end

