-- ==== Sys2Proof/Machine/Vector.lean ====
section
/-!
DEFINITION. The vector forms of S5 (13 R185 to R209).
-/
namespace Sys2Proof.Machine

/-! ### Lanes (13 R185) -/

/-- The first `cnt` elements of `n` bits of a register, the least significant first. -/
def lanes (n cnt : Nat) (w : BitVec 4096) : List Nat :=
  let v := w.toNat
  (List.range cnt).map fun i => v / 2 ^ (n * i) % 2 ^ n
/-- A register from elements of `n` bits; bits beyond them are 0. -/
def packLanes (n : Nat) (l : List Nat) : BitVec 4096 := BitVec.ofNat 4096 (l.foldr (fun x acc => acc * 2 ^ n + x) 0)
/-- Lanes of a lane width. -/
def laneCount (lw : LaneW) : Nat := 4096 / lw.width
/-- Elements of a register of a type. -/
def tyLanes (ty : VTy) (w : BitVec 4096) : List Nat := lanes ty.width ty.elems w

/-- The flags of a list of results. -/
def orFlags (l : List (Nat × BitVec 7)) : BitVec 7 := l.foldl (fun acc x => acc ||| x.2) 0

/-- A w result of latency `lat`. -/
def State.pushW (s : State) (lat : Nat) (d : R64) (v : BitVec 4096) (fl : BitVec 7) : State := s.push lat (.w d v) fl
/-- A w result from lane results of `n` bits with their flags. -/
def State.pushLanes (s : State) (lat : Nat) (d : R64) (n : Nat) (l : List (Nat × BitVec 7)) : State :=
  s.pushW lat d (packLanes n (l.map (·.1))) (orFlags l)

/-- A vector form. -/
def vecDo (gd : Guard) (f : State → State) (s : State) : Out := slotDo gd (some .vector) f s

/-- A lane-wise form of one register. -/
def vec1 (gd : Guard) (ty : VTy) (d a : R64) (f : Nat → Nat × BitVec 7) (s : State) : Out :=
  vecDo gd (fun s => s.pushLanes 4 d ty.width ((tyLanes ty (s.rdW a)).map f)) s
/-- A lane-wise form of two registers. -/
def vec2 (gd : Guard) (ty : VTy) (d a b : R64) (f : Nat → Nat → Nat × BitVec 7) (s : State) : Out :=
  vecDo gd (fun s => s.pushLanes 4 d ty.width (List.zipWith f (tyLanes ty (s.rdW a)) (tyLanes ty (s.rdW b)))) s
/-- A lane-wise form of two registers and its destination. -/
def vec3 (gd : Guard) (ty : VTy) (d a b : R64) (f : Nat → Nat → Nat → Nat × BitVec 7) (s : State) : Out :=
  vecDo gd (fun s => s.pushLanes 4 d ty.width
    (List.zipWith (fun x y => f x.1 x.2 y) (List.zip (tyLanes ty (s.rdW a)) (tyLanes ty (s.rdW b))) (tyLanes ty (s.rdW d)))) s
/-- A bitwise form. -/
def vecBits (gd : Guard) (d a b : R64) (f : BitVec 4096 → BitVec 4096 → BitVec 4096) (s : State) : Out :=
  vecDo gd (fun s => s.pushW 4 d (f (s.rdW a) (s.rdW b)) 0) s

/-! ### Floating-point lanes (13 R188, R189) -/

/-- a + b, rounded once. -/
def fpAdd (f : Fmt) (rm : Rm) (a b : Nat) : Nat × BitVec 7 :=
  if isNanCode f a || isNanCode f b then (defaultNan f, noFlags)
  else roundInvalid f rm false uOp (xSum rm [decodeFp f uOp a, decodeFp f uOp b])
/-- a − b. -/
def fpSub (f : Fmt) (rm : Rm) (a b : Nat) : Nat × BitVec 7 :=
  if isNanCode f a || isNanCode f b then (defaultNan f, noFlags)
  else roundInvalid f rm false uOp (xSum rm [decodeFp f uOp a, xNeg (decodeFp f uOp b)])
/-- a × b. -/
def fpMul (f : Fmt) (rm : Rm) (a b : Nat) : Nat × BitVec 7 :=
  if isNanCode f a || isNanCode f b then (defaultNan f, noFlags)
  else roundInvalid f rm false (2 * uOp) (xMul (decodeFp f uOp a) (decodeFp f uOp b))
/-- a × b + d, or a × b − d, rounded once. -/
def fpFma (f : Fmt) (rm : Rm) (minus : Bool) (a b d : Nat) : Nat × BitVec 7 :=
  if isNanCode f a || isNanCode f b || isNanCode f d then (defaultNan f, noFlags)
  else
    let p := xMul (decodeFp f uOp a) (decodeFp f uOp b)
    if p.2 then (defaultNan f, fNV)
    else
      let x := decodeFp f uOp d
      roundInvalid f rm false (2 * uOp) (xSum rm [p.1, xScale uOp (if minus then xNeg x else x)])

/-- VADD. -/
def execVadd (gd : Guard) (ty : VTy) (rm : Rm) (d a b : R64) (s : State) : Out := vec2 gd ty d a b (fpAdd (tyFmt ty) rm) s
/-- VADD, immediate: FP32 lanes. -/
def execVaddI (gd : Guard) (d a : R64) (v : Imm) (s : State) : Out :=
  vec1 gd .f32 d a (fun x => fpAdd fp32 .rn x (s.immV v).toNat) s
/-- VSUB. -/
def execVsub (gd : Guard) (ty : VTy) (rm : Rm) (d a b : R64) (s : State) : Out := vec2 gd ty d a b (fpSub (tyFmt ty) rm) s
/-- VMUL. -/
def execVmul (gd : Guard) (ty : VTy) (rm : Rm) (d a b : R64) (s : State) : Out := vec2 gd ty d a b (fpMul (tyFmt ty) rm) s
/-- VFMA. -/
def execVfma (gd : Guard) (ty : VTy) (rm : Rm) (d a b : R64) (s : State) : Out := vec3 gd ty d a b (fpFma (tyFmt ty) rm false) s
/-- VFMA, immediate: wD × wA + V. -/
def execVfmaI (gd : Guard) (d a : R64) (v : Imm) (s : State) : Out :=
  vec2 gd .f32 d d a (fun x y => fpFma fp32 .rn false x y (s.immV v).toNat) s
/-- VFMS. -/
def execVfms (gd : Guard) (ty : VTy) (rm : Rm) (d a b : R64) (s : State) : Out := vec3 gd ty d a b (fpFma (tyFmt ty) rm true) s
/-- VMIN. -/
def execVmin (gd : Guard) (ty : VTy) (d a b : R64) (s : State) : Out :=
  vec2 gd ty d a b (fun x y => (fpMinMax (tyFmt ty) false x y, noFlags)) s
/-- VMAX. -/
def execVmax (gd : Guard) (ty : VTy) (d a b : R64) (s : State) : Out :=
  vec2 gd ty d a b (fun x y => (fpMinMax (tyFmt ty) true x y, noFlags)) s
/-- VABS of a code. -/
def fpAbs (f : Fmt) (x : Nat) : Nat := if isNanCode f x then defaultNan f else x % 2 ^ (f.width - 1)
/-- VNEG of a code. -/
def fpNeg (f : Fmt) (x : Nat) : Nat := if isNanCode f x then defaultNan f else (x + 2 ^ (f.width - 1)) % 2 ^ f.width
/-- VABS. -/
def execVabs (gd : Guard) (ty : VTy) (d a : R64) (s : State) : Out := vec1 gd ty d a (fun x => (fpAbs (tyFmt ty) x, noFlags)) s
/-- VNEG. -/
def execVneg (gd : Guard) (ty : VTy) (d a : R64) (s : State) : Out := vec1 gd ty d a (fun x => (fpNeg (tyFmt ty) x, noFlags)) s

/-! ### Special functions (13 R190, R191), latency 8 -/

/-- A special-function form of S5 opcode `f`. -/
def vecSpecial (gd : Guard) (f : Nat) (ty : VTy) (d a : R64) (s : State) : Out :=
  slotDo gd (some .special) (fun s => s.pushLanes 8 d ty.width ((tyLanes ty (s.rdW a)).map (specialLane ty f))) s
/-- VRCP. -/
def execVrcp (gd : Guard) (ty : VTy) (d a : R64) (s : State) : Out := vecSpecial gd 0x0C ty d a s
/-- VRSQ. -/
def execVrsq (gd : Guard) (ty : VTy) (d a : R64) (s : State) : Out := vecSpecial gd 0x0D ty d a s
/-- VSQRT. -/
def execVsqrt (gd : Guard) (ty : VTy) (d a : R64) (s : State) : Out := vecSpecial gd 0x0E ty d a s
/-- VEXP2. -/
def execVexp2 (gd : Guard) (ty : VTy) (d a : R64) (s : State) : Out := vecSpecial gd 0x0F ty d a s
/-- VLOG2. -/
def execVlog2 (gd : Guard) (ty : VTy) (d a : R64) (s : State) : Out := vecSpecial gd 0x10 ty d a s
/-- VSIN. -/
def execVsin (gd : Guard) (ty : VTy) (d a : R64) (s : State) : Out := vecSpecial gd 0x11 ty d a s
/-- VCOS. -/
def execVcos (gd : Guard) (ty : VTy) (d a : R64) (s : State) : Out := vecSpecial gd 0x12 ty d a s
/-- VTANH. -/
def execVtanh (gd : Guard) (ty : VTy) (d a : R64) (s : State) : Out := vecSpecial gd 0x13 ty d a s

/-! ### Compare, select, mask (13 R192 to R194) -/

/-- VCMP. -/
def execVcmp (gd : Guard) (fc : Fc) (ty : VTy) (d a b : R64) (s : State) : Out :=
  vec2 gd ty d a b (fun x y => (if fpCmp (tyFmt ty) fc x y then 2 ^ ty.width - 1 else 0, noFlags)) s
/-- VSEL. -/
def execVsel (gd : Guard) (d a b c : R64) (s : State) : Out :=
  vecDo gd (fun s => s.pushW 4 d ((s.rdW a &&& s.rdW c) ||| (s.rdW b &&& ~~~(s.rdW c))) 0) s
/-- The code of −∞. -/
def negInf (f : Fmt) : Nat := signBit f true + f.inf.getD f.maxc
/-- VMASK. -/
def execVmask (gd : Guard) (ty : VTy) (d a b : R64) (s : State) : Out :=
  vecDo gd (fun s =>
    let m := s.rdW b
    s.pushW 4 d (packLanes ty.width ((tyLanes ty (s.rdW a)).zipIdx.map fun x =>
      if m.getLsbD x.2 then x.1 else negInf (tyFmt ty))) 0) s

/-! ### Integer and bitwise forms (13 R195 to R197) -/

/-- An exact integer result in a type: kept, clamped with SAT, or wrapped. -/
def viRes (ty : VTy) (sat : Bool) (x : Int) : Nat × BitVec 7 := narrowInt ty.width ty.isSigned sat x
/-- A lane as an integer. -/
def viInt (ty : VTy) (x : Nat) : Int := patInt ty.width ty.isSigned x
/-- VIADD. -/
def execViadd (gd : Guard) (ty : VTy) (sat : Bool) (d a b : R64) (s : State) : Out :=
  vec2 gd ty d a b (fun x y => viRes ty sat (viInt ty x + viInt ty y)) s
/-- VISUB. -/
def execVisub (gd : Guard) (ty : VTy) (sat : Bool) (d a b : R64) (s : State) : Out :=
  vec2 gd ty d a b (fun x y => viRes ty sat (viInt ty x - viInt ty y)) s
/-- VIMUL. -/
def execVimul (gd : Guard) (ty : VTy) (sat : Bool) (d a b : R64) (s : State) : Out :=
  vec2 gd ty d a b (fun x y => viRes ty sat (viInt ty x * viInt ty y)) s
/-- VIMAD. -/
def execVimad (gd : Guard) (ty : VTy) (sat : Bool) (d a b : R64) (s : State) : Out :=
  vec3 gd ty d a b (fun x y z => viRes ty sat (viInt ty x * viInt ty y + viInt ty z)) s
/-- VAND. -/
def execVand (gd : Guard) (d a b : R64) (s : State) : Out := vecBits gd d a b (· &&& ·) s
/-- VOR. -/
def execVor (gd : Guard) (d a b : R64) (s : State) : Out := vecBits gd d a b (· ||| ·) s
/-- VXOR. -/
def execVxor (gd : Guard) (d a b : R64) (s : State) : Out := vecBits gd d a b (· ^^^ ·) s
/-- VSHL of a lane of `n` bits. -/
def laneShl (n x c : Nat) : Nat := if c < n then x * 2 ^ c % 2 ^ n else 0
/-- VSHR of a lane. -/
def laneShr (n x c : Nat) : Nat := if c < n then x / 2 ^ c else 0
/-- VSRA of a lane. -/
def laneSra (n x c : Nat) : Nat :=
  let y := patInt n true x
  wrapInt n (if c < n then y / 2 ^ c else if y < 0 then -1 else 0)
/-- VSHL. -/
def execVshl (gd : Guard) (ty : VTy) (d a b : R64) (s : State) : Out := vec2 gd ty d a b (fun x c => (laneShl ty.width x c, noFlags)) s
/-- VSHR. -/
def execVshr (gd : Guard) (ty : VTy) (d a b : R64) (s : State) : Out := vec2 gd ty d a b (fun x c => (laneShr ty.width x c, noFlags)) s
/-- VSRA. -/
def execVsra (gd : Guard) (ty : VTy) (d a b : R64) (s : State) : Out := vec2 gd ty d a b (fun x c => (laneSra ty.width x c, noFlags)) s

/-! ### Conversions (13 R198 to R201) -/

/-- VCVT. -/
def execVcvt (gd : Guard) (dt st : VTy) (rm : Rm) (sat : Bool) (d a : R64) (s : State) : Out :=
  vecDo gd (fun s => s.pushLanes 4 d dt.width ((tyLanes st (s.rdW a)).map (convertElem dt st rm sat))) s

/-- Spread elements over `cnt` registers from wD on: element j to lane j div cnt of w(D + j mod cnt). -/
def State.pushSpread (s : State) (d : R64) (n cnt : Nat) (l : List (Nat × BitVec 7)) : State :=
  (List.range cnt).foldl (fun s r =>
    s.pushW 4 (Fin.ofNat 64 (d.val + r)) (packLanes n ((l.zipIdx.filter fun x => x.2 % cnt == r).map (·.1.1)))
      (if r = 0 then orFlags l else 0)) s

/-- VWIDEN. -/
def execVwiden (gd : Guard) (dt st : VTy) (d a : R64) (s : State) : Out :=
  vecDo gd (fun s => s.pushSpread d dt.width (widthRatio dt st)
    ((tyLanes st (s.rdW a)).map fun x => ((convertElem dt st .rn false x).1, noFlags))) s
/-- VNARR. -/
def execVnarr (gd : Guard) (dt st : VTy) (rm : Rm) (sat : Bool) (d a : R64) (s : State) : Out :=
  vecDo gd (fun s =>
    let r := widthRatio st dt
    let src := (List.range r).map fun j => tyLanes st (s.rdW (Fin.ofNat 64 (a.val + j)))
    s.pushLanes 4 d dt.width ((List.range dt.elems).map fun j =>
      convertElem dt st rm sat ((src.getD (j % r) []).getD (j / r) 0))) s
/-- VPACK. -/
def execVpack (gd : Guard) (dt st : VTy) (rm : Rm) (sat : Bool) (d a b : R64) (s : State) : Out :=
  vecDo gd (fun s => s.pushLanes 4 d dt.width
    ((List.zip (tyLanes st (s.rdW a)) (tyLanes st (s.rdW b))).flatMap fun x =>
      [convertElem dt st rm sat x.1, convertElem dt st rm sat x.2])) s
/-- VUNPK. -/
def execVunpk (gd : Guard) (dt st : VTy) (rm : Rm) (sat : Bool) (d a : R64) (s : State) : Out :=
  vecDo gd (fun s => s.pushSpread d dt.width (vunpkCnt dt st)
    ((tyLanes st (s.rdW a)).map (convertElem dt st rm sat))) s

/-! ### Reductions, scans, argmax (13 R202 to R204) -/

/-- What the tree combines. -/
inductive Comb where
  | add | max | min
  deriving DecidableEq, Repr

/-- A lane as the tree holds it: FP sums in FP32, everything else as it stands. DEDUCED (log 65). -/
def treeLeaf (ty : VTy) (c : Comb) (x : Nat) : Nat :=
  if ty.isFp ∧ c = .add then (roundTo fp32 .rn false uOp (decodeFp (tyFmt ty) uOp x)).1 else x
/-- Combine. -/
def treeComb (ty : VTy) (c : Comb) (a b : Nat) : Nat × BitVec 7 :=
  match c with
  | .add => if ty.isFp then fpAdd fp32 .rn a b else ((a + b) % 2 ^ ty.width, noFlags)
  | .max => if ty.isFp then (fpMinMax (tyFmt ty) true a b, noFlags) else (if viInt ty a < viInt ty b then b else a, noFlags)
  | .min => if ty.isFp then (fpMinMax (tyFmt ty) false a b, noFlags) else (if viInt ty b < viInt ty a then b else a, noFlags)
/-- A tree value rounded into the type; a NaN becomes the type's default NaN (12 R169). -/
def treeOut (ty : VTy) (c : Comb) (x : Nat) : Nat × BitVec 7 :=
  if ty.isFp ∧ c = .add ∧ ty ≠ .f32 then roundTo (tyFmt ty) .rn false uOp (decodeFp fp32 uOp x)
  else if ty.isFp ∧ isNanCode (tyFmt ty) x then (defaultNan (tyFmt ty), noFlags)
  else (x, noFlags)

/-- One level up: values and flags. -/
def treeUp (ty : VTy) (c : Comb) : List Nat → List (Nat × BitVec 7)
  | a :: b :: rest => treeComb ty c a b :: treeUp ty c rest
  | _ => []
/-- The levels of the tree from the leaves up, and the flags of its nodes. -/
def treeLevels (ty : VTy) (c : Comb) : Nat → List Nat → List (List Nat) × BitVec 7
  | 0, l => ([l], 0)
  | n + 1, l =>
    let up := treeUp ty c l
    let r := treeLevels ty c n (up.map (·.1))
    (l :: r.1, orFlags up ||| r.2)

/-- The tree of a register. -/
def treeOf (ty : VTy) (c : Comb) (w : BitVec 4096) : List (List Nat) × BitVec 7 :=
  treeLevels ty c (Nat.log2 ty.elems) ((tyLanes ty w).map (treeLeaf ty c))
/-- Node(l, k). -/
def treeNode (t : List (List Nat)) (l k : Nat) : Nat := (t.getD l []).getD k 0

/-- A reduction: the root in lane 0, rounded, and the flags. -/
def reduce (ty : VTy) (c : Comb) (w : BitVec 4096) : Nat × BitVec 7 :=
  let t := treeOf ty c w
  let r := treeOut ty c (treeNode t.1 (Nat.log2 ty.elems) 0)
  (r.1, t.2 ||| r.2)
/-- VREDADD. -/
def execVredadd (gd : Guard) (ty : VTy) (d a : R64) (s : State) : Out :=
  vecDo gd (fun s => s.pushLanes 4 d ty.width [reduce ty .add (s.rdW a)]) s
/-- VREDMAX. -/
def execVredmax (gd : Guard) (ty : VTy) (d a : R64) (s : State) : Out :=
  vecDo gd (fun s => s.pushLanes 4 d ty.width [reduce ty .max (s.rdW a)]) s

/-- One lane of a scan: the nodes of the prefix of m lanes, the largest first (R203). -/
def scanLane (ty : VTy) (c : Comb) (t : List (List Nat)) (m : Nat) : Nat → Nat → Option Nat → BitVec 7 → Nat × BitVec 7
  | 0, pos, acc, fl =>
    let r : Nat × BitVec 7 := if m % 2 = 1 then match acc with
        | none => (treeNode t 0 0, fl)
        | some a =>
          let q := treeComb ty c a (treeNode t 0 pos)
          (q.1, fl ||| q.2)
      else (acc.getD 0, fl)
    let o := treeOut ty c r.1
    (o.1, r.2 ||| o.2)
  | l + 1, pos, acc, fl =>
    if m / 2 ^ (l + 1) % 2 = 1 then
      match acc with
      | none => scanLane ty c t m l (2 ^ (l + 1)) (some (treeNode t (l + 1) 0)) fl
      | some a =>
        let q := treeComb ty c a (treeNode t (l + 1) (pos / 2 ^ (l + 1)))
        scanLane ty c t m l (pos + 2 ^ (l + 1)) (some q.1) (fl ||| q.2)
    else scanLane ty c t m l pos acc fl

/-- The tree operation of a scan. -/
def scanComb : ScanOp → Comb
  | .add => .add
  | .max => .max
  | .min => .min
/-- VSCAN. -/
def execVscan (gd : Guard) (op : ScanOp) (ty : VTy) (d a : R64) (s : State) : Out :=
  vecDo gd (fun s =>
    let c := scanComb op
    let t := treeOf ty c (s.rdW a)
    let l := (List.range ty.elems).map fun i => scanLane ty c t.1 (i + 1) (Nat.log2 ty.elems) 0 none 0
    s.pushW 4 d (packLanes ty.width (l.map (·.1))) (t.2 ||| orFlags l)) s

/-- The order key of a lane for VARGMAX; none for NaN. -/
def argKey (ty : VTy) (x : Nat) : Option Int :=
  if ty.isFp then (if isNanCode (tyFmt ty) x then none else some (fpKey (tyFmt ty) true x)) else some (viInt ty x)
/-- The lowest lane with the greatest key. -/
def argmax (ty : VTy) (l : List Nat) : Option Nat :=
  let best := l.foldl (fun (b : Option Int) x => match b, argKey ty x with
    | none, k => k
    | some m, some k => some (max m k)
    | some m, none => some m) none
  match best with
  | none => none
  | some m => l.findIdx? fun x => argKey ty x == some m
/-- VARGMAX. -/
def execVargmax (gd : Guard) (ty : VTy) (d a : R64) (s : State) : Out :=
  vecDo gd (fun s => s.pushG 4 d (match argmax ty (tyLanes ty (s.rdW a)) with
    | some i => BitVec.ofNat 64 i
    | none => BitVec.allOnes 64) false) s

/-! ### Permutation and movement (13 R205 to R208) -/

/-- VPERM. -/
def execVperm (gd : Guard) (lw : LaneW) (d a b : R64) (s : State) : Out :=
  vecDo gd (fun s =>
    let n := lw.width
    let cnt := laneCount lw
    let v := (s.rdW a).toNat
    s.pushW 4 d (packLanes n ((lanes n cnt (s.rdW b)).zipIdx.map fun x =>
      let idx := if lw = .b then 256 * (x.2 / 256) + x.1 else x.1 % cnt
      v / 2 ^ (n * idx) % 2 ^ n)) 0) s
/-- VBCAST. -/
def execVbcast (gd : Guard) (lw : LaneW) (d a : R64) (s : State) : Out :=
  vecDo gd (fun s => s.pushW 4 d (packLanes lw.width (List.replicate (laneCount lw) ((s.g a).toNat % 2 ^ lw.width))) 0) s
/-- VBCAST, immediate. -/
def execVbcastI (gd : Guard) (d : R64) (v : Imm) (s : State) : Out :=
  vecDo gd (fun s => s.pushW 4 d (packLanes 32 (List.replicate 128 (s.immV v).toNat)) 0) s
/-- VSHUF. -/
def execVshuf (gd : Guard) (lw : LaneW) (d a b : R64) (s : State) : Out :=
  vecDo gd (fun s =>
    let n := lw.width
    let cnt := laneCount lw
    let m := (List.zip (lanes n cnt (s.rdW a)) (lanes n cnt (s.rdW b))).flatMap fun x => [x.1, x.2]
    (s.pushW 4 d (packLanes n (m.take cnt)) 0).pushW 4 (d + 1) (packLanes n (m.drop cnt)) 0) s
/-- VMOVG. -/
def execVmovg (gd : Guard) (lw : LaneW) (d a b : R64) (s : State) : Out :=
  vecDo gd (fun s =>
    let n := lw.width
    let i := (s.g b).toNat % laneCount lw
    s.pushG 4 d (BitVec.ofNat 64 ((s.rdW a).toNat / 2 ^ (n * i) % 2 ^ n)) false) s

end Sys2Proof.Machine
end

