-- ==== Sys2Proof/Machine/Memory.lean ====
section
/-!
DEFINITION. The memory, atomic and fence forms of S4 (10 R138 to R149): each checks its address at commit (R139) and
issues its access, which performs later (Machine/Access.lean); the bytes it names are charged by path (27 R409).
-/
namespace Sys2Proof.Machine

/-- Check an access, then go on. -/
def State.checked (s : State) (ea : Addr) (n : Nat) (write scratchOnly : Bool) (f : State → State) : State :=
  match s.accessCheck ea n write scratchOnly with
  | some e => s.slotFault e.1 (e.2.setWidth 64) 0
  | none => f s

/-- A load of `n` bytes into `dest` (R141, R142, R144, R145). -/
def State.loadBytes (s : State) (os : Os) (m : Mem) (unit n own : Nat) (scratchOnly : Bool) (dest : Bool → LoadDest)
    (f : Access → Access) : State :=
  let ea := s.ea m unit
  s.checked ea.1 n false scratchOnly fun s =>
    let a := { Access.make (.load false) (clsMask os.cls) os.scope (mkElems ea.1 n 0) with dest := dest ea.2, taint := ea.2 }
    (s.newLoad (f a) (pathLat s.env.core own ea.1)).chargeBytes ea.1 n

/-- A store of `n` bytes `data`. -/
def State.storeBytes (s : State) (os : Os) (m : Mem) (unit n data : Nat) (scratchOnly : Bool) (f : Access → Access) : State :=
  let ea := s.ea m unit
  s.checked ea.1 n true scratchOnly fun s =>
    let a := { Access.make .store (clsMask os.cls) os.scope (mkElems ea.1 n data) with taint := ea.2 }
    (s.newAcc (f a)).chargeBytes ea.1 n

/-- Signed SIZE codes. -/
def signedSize : MSize → Bool
  | .sb | .sh | .sw => true
  | _ => false

/-- LD (R141). -/
def execLd (gd : Guard) (sz : MSize) (os : Os) (d : R64) (m : Mem) (s : State) : Out :=
  slotDo gd none (fun s => s.loadBytes os m sz.bytes sz.bytes 12 false (fun t => .g d sz.bytes (signedSize sz) t) id) s
/-- ST (R141). -/
def execSt (gd : Guard) (sz : MSize) (os : Os) (d : R64) (m : Mem) (s : State) : Out :=
  slotDo gd none (fun s => s.storeBytes os m sz.bytes sz.bytes ((s.g d).toNat % 2 ^ (8 * sz.bytes)) false id) s
/-- LDC (R141, R152): the value is tainted. -/
def execLdc (gd : Guard) (sz : MSize) (os : Os) (d : R64) (m : Mem) (s : State) : Out :=
  slotDo gd none (fun s => s.loadBytes os m sz.bytes sz.bytes 12 false (fun _ => .g d sz.bytes (signedSize sz) true)
    fun a => { a with ldc := true }) s
/-- LDA (R141, R156): an acquire that reads the point of coherence. -/
def execLda (gd : Guard) (sz : MSize) (os : Os) (d : R64) (m : Mem) (s : State) : Out :=
  slotDo gd none (fun s => s.loadBytes os m sz.bytes sz.bytes 12 false (fun t => .g d sz.bytes (signedSize sz) t)
    fun a => { a with kind := .load true, acq := true }) s
/-- STL (R141, R155): a release. -/
def execStl (gd : Guard) (sz : MSize) (os : Os) (d : R64) (m : Mem) (s : State) : Out :=
  slotDo gd none (fun s => s.storeBytes os m sz.bytes sz.bytes ((s.g d).toNat % 2 ^ (8 * sz.bytes)) false
    fun a => { a with acq := true }) s
/-- LDV (R142). -/
def execLdv (gd : Guard) (os : Os) (d : R64) (m : Mem) (s : State) : Out :=
  slotDo gd none (fun s => s.loadBytes os m 64 512 12 false (fun _ => .w d) id) s
/-- STV (R142). -/
def execStv (gd : Guard) (os : Os) (d : R64) (m : Mem) (s : State) : Out :=
  slotDo gd none (fun s => s.storeBytes os m 64 512 (s.rdW d).toNat false id) s

/-- Lane addresses of GATH and SCAT (R143). -/
def State.laneAddrs (s : State) (sz : MSize) (a : R16) (x : R64) : List Addr :=
  let n := 8 * sz.bytes
  let v := (s.rdW x).toNat
  (List.range (4096 / n)).map fun i => (s.rdA a).1 + BitVec.ofNat 56 (v / 2 ^ (n * i) % 2 ^ n)
/-- The fault of several failing lanes (R143): that of the lowest lane. DESIGN CHOICE (log 68). -/
def State.laneFault (s : State) (n : Nat) (write : Bool) (as : List Addr) : Option (BitVec 8 × Addr) :=
  as.findSome? fun a => s.accessCheck a n write false

/-- GATH (R143): no lane is written when any fails; its latency is the largest of its lanes' paths. -/
def execGath (gd : Guard) (sz : MSize) (os : Os) (d : R64) (a : R16) (x : R64) (s : State) : Out :=
  slotDo gd none (fun s =>
    let as := s.laneAddrs sz a x
    match s.laneFault sz.bytes false as with
    | some e => s.slotFault e.1 (e.2.setWidth 64) 0
    | none =>
      let es : List Elem := as.map fun l => ⟨l, sz.bytes, 0, false, 0⟩
      let lat := as.foldl (fun m l => max m (pathLat s.env.core 12 l)) 0
      let s := s.newLoad { Access.make (.load false) (clsMask os.cls) os.scope es with dest := .gath d, taint := (s.rdA a).2 } lat
      as.foldl (fun s l => s.chargeBytes l sz.bytes) s) s
/-- SCAT (R143): the highest lane's data remains. -/
def execScat (gd : Guard) (sz : MSize) (os : Os) (d : R64) (a : R16) (x : R64) (s : State) : Out :=
  slotDo gd none (fun s =>
    let as := s.laneAddrs sz a x
    match s.laneFault sz.bytes true as with
    | some e => s.slotFault e.1 (e.2.setWidth 64) 0
    | none =>
      let n := 8 * sz.bytes
      let v := (s.rdW d).toNat
      let es : List Elem := as.zipIdx.map fun l => ⟨l.1, sz.bytes, BitVec.ofNat 64 (v / 2 ^ (n * l.2) % 2 ^ n), false, 0⟩
      let s := s.newAcc { Access.make .store (clsMask os.cls) os.scope es with taint := (s.rdA a).2 }
      as.foldl (fun s l => s.chargeBytes l sz.bytes) s) s

/-- A tile name of the context with a valid shape, or an access violation (17 R263). -/
def State.tileNamed (s : State) (m : R16) (f : State → State) : State :=
  if s.alloc.tiles ≤ m.val ∨ shapeOk (s.rdShape m) = false then s.slotFaultFree 0x19 else f s

/-- LDT (R144). -/
def execLdt (gd : Guard) (os : Os) (d : R16) (m : Mem) (s : State) : Out :=
  slotDo gd none (fun s => s.tileNamed d fun s =>
    s.loadBytes os m 64 (imageBytes (s.rdShape d)) 16 true (fun _ => .tile d (s.rdShape d)) id) s
/-- LDT.mx4 (R144): the OCP image of an MX4 shape, with the scale table in effect at issue. -/
def execLdtMx4 (gd : Guard) (os : Os) (d : R16) (m : Mem) (s : State) : Out :=
  slotDo gd none (fun s => s.tileNamed d fun s =>
    if shTy (s.rdShape d) ≠ 2 then s.slotFaultFree 0x19
    else
      let e := shElems (s.rdShape d)
      s.loadBytes os m 64 (e / 2 + e / 32) 16 true (fun _ => .tileMx4 d (s.rdShape d) s.rdSct) id) s
/-- STT (R144). -/
def execStt (gd : Guard) (os : Os) (d : R16) (m : Mem) (s : State) : Out :=
  slotDo gd none (fun s => s.tileNamed d fun s =>
    s.storeBytes os m 64 (imageBytes (s.rdShape d)) (s.rdTile d).toNat true id) s

/-- The block LDQ and STQ name, or an access violation (R145). -/
def State.blockNamed (s : State) (d : R64) (f : Q512 → State → State) : State :=
  let q : Q512 := Fin.ofNat 512 (s.g d).toNat
  if s.alloc.acc ≤ q.val then s.slotFaultFree 0x19 else f q s
/-- LDQ (R145). -/
def execLdq (gd : Guard) (os : Os) (d : R64) (m : Mem) (s : State) : Out :=
  slotDo gd none (fun s => s.blockNamed d fun q s => s.loadBytes os m 64 4096 16 true (fun _ => .block q) id) s
/-- STQ (R145). -/
def execStq (gd : Guard) (os : Os) (d : R64) (m : Mem) (s : State) : Out :=
  slotDo gd none (fun s => s.blockNamed d fun q s => s.storeBytes os m 64 4096 (s.rdBlock q).toNat true id) s

/-- ATOM (R146). -/
def execAtom (gd : Guard) (op : AtOp) (sg : Sg) (sz : MSize) (os : Os) (d : R64) (a : R16) (c : R64) (s : State) : Out :=
  slotDo gd none (fun s =>
    let ea := s.rdA a
    let n := sz.bytes
    s.checked ea.1 n true false fun s =>
      let acc := { Access.make (.atom op sg (s.g d) (s.g c)) (clsMask os.cls) os.scope (mkElems ea.1 n 0) with
        dest := .g d n (n == 4 && sg == .s) ea.2
        taint := ea.2 }
      (s.newLoad acc (pathLat s.env.core 12 ea.1)).chargeBytes ea.1 n) s

/-- Has a context an engine job, a subscription or a Bracken operation that has not ended, or one that has completed
(10 R157, R162)? -/
def State.hasJobs (s : State) (c : CoreId) (x : CtxId) : Bool :=
  let k := s.core c
  (s.ctx c x).doneWide
    || (s.jobs.any fun j => j.core == c && j.ctx == x)
    || (k.subs.toList.any fun e => (e.map (·.owner)) == some x)
    || (k.ddq.toList.any fun e => (e.map (·.ctx)) == some x)

/-- FENCE and FENCE.e (R147, R157): an access of every class of its mask. -/
def State.fenceForm (s : State) (e : Bool) (sc : Scope) (d : R64) : State :=
  s.newAcc { Access.make (.fence e) ((s.g d).setWidth 16) sc unitElem with acqAll := e && s.hasJobs s.env.core s.env.ctx }
/-- FENCE. -/
def execFence (gd : Guard) (sc : Scope) (d : R64) (s : State) : Out := slotDo gd none (fun s => s.fenceForm false sc d) s
/-- FENCE.e. -/
def execFenceE (gd : Guard) (sc : Scope) (d : R64) (s : State) : Out := slotDo gd none (fun s => s.fenceForm true sc d) s

/-- PREF (R148): fill the line, or nothing where it cannot; the bytes it fetches are charged (27 R409). DESIGN CHOICE (log 76): a
line that another holder has pinned, which R148 does not name, is not filled. -/
def execPref (gd : Guard) (_os : Os) (m : Mem) (s : State) : Out :=
  slotDo gd none (fun s =>
    let ea := (s.ea m 1).1
    if isScratch ea then s
    else match s.physCtx s.env.core s.env.ctx false ea.toNat with
      | .ok pa => if s.pinnedLoc (some s.env.core) (.mem pa) then s else (s.fillCtx s.env.core s.env.ctx ea pa).chargeBytes ea 64
      | _ => s) s

end Sys2Proof.Machine
end

