-- ==== Sys2Proof/Machine/Matrix.lean ====
section
/-!
DEFINITION. The matrix and tile forms of S6 (17 R242 to R258, 12 R179 to R182), the tile sequencer, and the private
operation 0x80 of the rewrite stage (18 R272).
-/
namespace Sys2Proof.Machine

/-! ### cr.fmt (12 Table 12.7, Table 12.8) -/

/-- ATYPE. -/
def fmtA (f : BitVec 12) : Nat := f.toNat % 16
/-- BTYPE. -/
def fmtB (f : BitVec 12) : Nat := f.toNat / 16 % 16
/-- CTYPE = 1: INT32. -/
def fmtInt (f : BitVec 12) : Bool := f.getLsbD 8
/-- ORND. -/
def fmtRm (f : BitVec 12) : Rm := (Rm.ofCode (f.toNat / 2 ^ 9 % 4)).getD .rn
/-- OSAT. -/
def fmtSat (f : BitVec 12) : Bool := f.getLsbD 11
/-- Step K of an implemented combination; none for any other (R181). -/
def stepK (f : BitVec 12) : Option Nat :=
  let a := fmtA f
  let b := fmtB f
  if fmtInt f then (if a = 6 ∧ b = 6 then some 16 else none)
  else if a ≤ 1 ∧ b ≤ 1 then some 16
  else if a = 2 ∧ b = 2 then some 32
  else if a = 3 ∧ b = 3 then some 8
  else if a = 4 ∧ b = 4 then some 8
  else if a = 5 ∧ b = 5 then some 2
  else none
/-- The energy class of a matrix step (27 Table 27.6). -/
def mmaClass (f : BitVec 12) : EClass :=
  match fmtA f with
  | 2 => .mx4
  | 3 | 4 => .mx16
  | 5 => .mxf32
  | _ => .mx8

/-! ### Tile and block elements (17 R244, R246, 12 R171) -/

/-- The format of a floating-point tile type. -/
def tileFmt (ty : Nat) : Fmt :=
  match ty with
  | 0 => e4m3
  | 1 => e5m2
  | 2 => e2m1
  | 3 => bf16
  | 4 => fp16
  | _ => fp32
/-- Bits of an element of a tile type. -/
def tileBits (ty : Nat) : Nat :=
  match ty with
  | 2 => 4
  | 3 | 4 => 16
  | 5 | 7 => 32
  | _ => 8
/-- The code of element (r, c) of a tile image. -/
def tileCode (sh : BitVec 20) (img : Nat) (r c : Nat) : Nat :=
  let b := tileBits (shTy sh)
  img / 2 ^ (b * (r * shCols sh + c)) % 2 ^ b
/-- The scale index of an element of an MX4 image. -/
def tileIndex (sh : BitVec 20) (img : Nat) (r c : Nat) : Nat :=
  img / 2 ^ (4 * shElems sh + 4 * ((r * shCols sh + c) / 32)) % 16
/-- A scale. -/
def sctEntry (sct : BitVec 512) (j : Nat) : Nat := sct.toNat / 2 ^ (32 * j) % 2 ^ 32
/-- The exact value of an element, in units of 2^-uOp. -/
def tileVal (sct : BitVec 512) (sh : BitVec 20) (img : Nat) (r c : Nat) : XVal :=
  let x := tileCode sh img r c
  match shTy sh with
  | 2 => (xMul (decodeFp e2m1 11 x) (decodeFp fp32 149 (sctEntry sct (tileIndex sh img r c)))).1
  | 6 => let y := patInt 8 true x; .fin (decide (y < 0)) (y.natAbs * 2 ^ uOp)
  | 7 => let y := patInt 32 true x; .fin (decide (y < 0)) (y.natAbs * 2 ^ uOp)
  | t => decodeFp (tileFmt t) uOp x
/-- An integer element. -/
def tileInt (sh : BitVec 20) (img : Nat) (r c : Nat) : Int := patInt (tileBits (shTy sh)) true (tileCode sh img r c)

/-- Element (i, j) of a block. -/
def blkElem (q : BitVec 32768) (i j : Nat) : Nat := q.toNat / 2 ^ (32 * (32 * i + j)) % 2 ^ 32
/-- A block from its elements, with flags. -/
def mkBlock (f : Nat → Nat → Nat × BitVec 7) : BitVec 32768 × BitVec 7 :=
  let l := (List.range 1024).map fun e => f (e / 32) (e % 32)
  (BitVec.ofNat 32768 (l.foldr (fun x acc => acc * 2 ^ 32 + x.1) 0), l.foldl (fun acc x => acc ||| x.2) 0)

/-! ### Accumulating updates (17 R247, R250, R252), applied to the block as it stands -/

/-- The result of an element: rounded FP32, or an INT32. -/
def accRes (f : BitVec 12) (terms : List XVal) (ints : List Int) : Nat × BitVec 7 :=
  if fmtInt f then accInt (fmtSat f) (ints.foldl (· + ·) 0)
  else roundAcc (fmtRm f) (fmtSat f) (2 * uOp) (xSum (fmtRm f) terms)

/-- An element of a block as an exact value in units of 2^-2uOp. -/
def blkVal (q : BitVec 32768) (i j : Nat) : XVal := decodeFp fp32 (2 * uOp) (blkElem q i j)
/-- An element of a block as an integer. -/
def blkInt (q : BitVec 32768) (i j : Nat) : Int := patInt 32 true (blkElem q i j)

/-- Apply an accumulating update. -/
def AccOp.apply (op : AccOp) (q : BitVec 32768) : BitVec 32768 × BitVec 7 :=
  match op with
  | .mma f sct ta tb ash bsh aimg bimg m n k ks bi bj bk =>
    let ai := aimg.toNat
    let bimgN := bimg.toNat
    let kset := (List.range ks).filter fun kk => decide (ks * bk + kk < k)
    mkBlock fun i j =>
      let r := 32 * bi + i
      let c := 32 * bj + j
      if r < m ∧ c < n then
        accRes f
          (blkVal q i j :: kset.map fun kk =>
            let z := ks * bk + kk
            (xMul (if ta then tileVal sct ash ai z r else tileVal sct ash ai r z)
              (if tb then tileVal sct bsh bimgN c z else tileVal sct bsh bimgN z c)).1)
          (blkInt q i j :: kset.map fun kk =>
            let z := ks * bk + kk
            (if ta then tileInt ash ai z r else tileInt ash ai r z) * (if tb then tileInt bsh bimgN c z else tileInt bsh bimgN z c))
      else (blkElem q i j, 0)
  | .scale f w =>
    mkBlock fun i j =>
      accRes f [(xMul (decodeFp fp32 uOp (blkElem q i j)) (decodeFp fp32 uOp w.toNat)).1] [blkInt q i j * w.toInt]
  | .add f v => mkBlock fun i j => accRes f [blkVal q i j, blkVal v i j] [blkInt q i j, blkInt v i j]
  | .bias f sh img =>
    let n := img.toNat
    mkBlock fun i j =>
      if j < shCols sh then accRes f [blkVal q i j, xScale uOp (tileVal 0 sh n 0 j)] [blkInt q i j, tileInt sh n 0 j]
      else accRes f [blkVal q i j] [blkInt q i j]

/-! ### Forms -/

/-- An S6 form: guard and stage predicate (R248), handler mode (24 R363), and its charge. -/
def matDo (gd : Guard) (sp : Option R8) (cls : State → EClass) (f : State → State) (s : State) : Out :=
  slotDo gd none (fun s =>
    if (match sp with
      | some k => s.rdSp k
      | none => true)
    then s.outsideHandler fun s =>
      let t := f s
      if t.env.stopped then t else t.chargeSlot (cls s)
    else s) s

/-- The class of an S6 form that is no matrix step. -/
def s6 (_ : State) : EClass := .s6

/-- Check R181, then the accumulator window of `q`, then go on. -/
def State.accForm (s : State) (q : Q512) (f : State → State) : State :=
  match stepK s.rdFmt with
  | none => s.slotFaultFree 0x10
  | some _ => if s.alloc.acc ≤ q.val then s.slotFaultFree 0x19 else f s

/-- The shared check of blocks below ACC. -/
def State.blocksOk (s : State) (qs : List Q512) (f : State → State) : State :=
  if qs.any fun q => decide (s.alloc.acc ≤ q.val) then s.slotFaultFree 0x19 else f s
/-- The shared check of tile names and shapes. -/
def State.tilesOk (s : State) (ms : List R16) : Bool :=
  ms.all fun m => decide (m.val < s.alloc.tiles) && shapeOk (s.rdShape m)

/-- The cursor a new sequence of MMA would have, or none where R250 raises an access violation. -/
def State.newCursor (s : State) (opc : Nat) (q : Q512) (a b : R16) (ks : Nat) : Option Cursor :=
  let ash := s.rdShape a
  let bsh := s.rdShape b
  let m := if opc = 2 then shCols ash else shRows ash
  let k := if opc = 2 then shRows ash else shCols ash
  let k2 := if opc = 3 then shCols bsh else shRows bsh
  let n := if opc = 3 then shRows bsh else shCols bsh
  let nbj := (n + 31) / 32
  let nk := (k + ks - 1) / ks
  if s.tilesOk [a, b] ∧ k = k2 ∧ shTy ash = fmtA s.rdFmt ∧ shTy bsh = fmtB s.rdFmt then
    some ⟨opc, q, a, b, m, n, k, ks, nbj, nk, (m + 31) / 32 * nbj * nk, 0⟩
  else none

/-- Does a cursor stand within the sequence of a key (R250)? -/
def Cursor.goesOn (c : Cursor) (opc : Nat) (q : Q512) (a b : R16) : Bool :=
  c.opc == opc && c.q == q && c.a == a && c.b == b && c.pos != c.count
/-- The output block, counted from the base, at which a cursor stands. -/
def Cursor.blk (c : Cursor) : Nat := c.pos / c.nk

/-- The cursor of the next step of a key's sequence, or the cause that R250 raises; a replayed MMA performs the step of its first issue
(R258). -/
def State.stepCursor (s : State) (opc : Nat) (q : Q512) (a b : R16) : Except (BitVec 8) Cursor :=
  match s.issueCursor.filter (Cursor.goesOn · opc q a b) with
  | some c => .ok c
  | none => match stepK s.rdFmt with
    | none => .error 0x10
    | some ks => match s.newCursor opc q a b ks with
      | none => .error 0x19
      | some c => .ok c

/-- The cursor after a step: one that R249 has emptied since the first issue of a replayed MMA stays empty. DEDUCED (log 73). -/
def State.nextCursor (s : State) (c : Cursor) : Option Cursor :=
  if s.issueCursor.isSome && s.cur.cursor.isNone then none else some { c with pos := c.pos + 1 }

/-- One native step (R250): the key of the original form, the operands of the form that issues (18 R271). -/
def State.mmaStep (s : State) (ko : Nat) (kq : Q512) (ka kb : R16) (ro : Nat) (rq : Q512) (ra rb : R16) : State :=
  match s.stepCursor ko kq ka kb with
  | .error e => s.slotFaultFree e
  | .ok c =>
    if s.alloc.acc ≤ rq.val + c.blk then s.slotFaultFree 0x19
    else
      let n := s.nextCursor c
      let s := s.modCur fun t => { t with cursor := n }
      s.push 8 (.acc (Fin.ofNat 512 (rq.val + c.blk)) (.mma s.rdFmt s.rdSct (ro == 2) (ro == 3) (s.rdShape ra) (s.rdShape rb)
        (s.rdTile ra) (s.rdTile rb) c.m c.n c.kk c.ks (c.blk / c.nbj) (c.blk % c.nbj) (c.pos % c.nk))) 0

/-- The block that an MMA which issues in the place of `orig` updates in its next step (R250), if it passes its checks. -/
def State.mmaBlock (s : State) (orig op : Instr) : Option Q512 :=
  match mmaKey op with
  | none => none
  | some r =>
    let k := (mmaKey orig).getD r
    match s.stepCursor k.1 k.2.1 k.2.2.1 k.2.2.2 with
    | .error _ => none
    | .ok c => if s.alloc.acc ≤ r.2.1.val + c.blk then none else some (Fin.ofNat 512 (r.2.1.val + c.blk))

/-- MMA. -/
def execMma (gd : Guard) (sp : Option R8) (q : Q512) (a b : R16) (s : State) : Out :=
  matDo gd sp (fun s => mmaClass s.rdFmt) (fun s => s.mmaStep 1 q a b 1 q a b) s
/-- MMA.ta. -/
def execMmaTa (gd : Guard) (sp : Option R8) (q : Q512) (a b : R16) (s : State) : Out :=
  matDo gd sp (fun s => mmaClass s.rdFmt) (fun s => s.mmaStep 2 q a b 2 q a b) s
/-- MMA.tb. -/
def execMmaTb (gd : Guard) (sp : Option R8) (q : Q512) (a b : R16) (s : State) : Out :=
  matDo gd sp (fun s => mmaClass s.rdFmt) (fun s => s.mmaStep 3 q a b 3 q a b) s
/-- MZERO (R251). -/
def execMzero (gd : Guard) (sp : Option R8) (q : Q512) (s : State) : Out :=
  matDo gd sp s6 (fun s => s.blocksOk [q] fun s => s.push 8 (.q q 0) 0) s
/-- MSCALE (R252). -/
def execMscale (gd : Guard) (sp : Option R8) (q : Q512) (n : Cb) (s : State) : Out :=
  matDo gd sp s6 (fun s => s.accForm q fun s => s.push 8 (.acc q (.scale s.rdFmt (s.rdCb n))) 0) s
/-- SCALE_BY_PRODUCT (18 R272): MSCALE with CTYPE 0 by the rounded product of two words. -/
def execScaleByProduct (gd : Guard) (sp : Option R8) (q : Q512) (n n2 : Cb) (s : State) : Out :=
  matDo gd sp s6 (fun s => s.accForm q fun s =>
    let p := roundTo fp32 .rn false (2 * uOp)
      (xMul (decodeFp fp32 uOp (s.rdCb n).toNat) (decodeFp fp32 uOp (s.rdCb n2).toNat)).1
    s.push 8 (.acc q (.scale (s.rdFmt &&& 0xEFF) (BitVec.ofNat 32 p.1))) p.2) s
/-- QADD (R252). -/
def execQadd (gd : Guard) (sp : Option R8) (q t : Q512) (s : State) : Out :=
  matDo gd sp s6 (fun s => s.accForm q fun s => s.blocksOk [t] fun s => s.push 8 (.acc q (.add s.rdFmt (s.rdBlock t))) 0) s
/-- QCPY (R251). -/
def execQcpy (gd : Guard) (sp : Option R8) (q t : Q512) (s : State) : Out :=
  matDo gd sp s6 (fun s => s.blocksOk [q, t] fun s => s.push 8 (.q q (s.rdBlock t)) 0) s
/-- MBIAS (R252). -/
def execMbias (gd : Guard) (sp : Option R8) (q : Q512) (a : R16) (s : State) : Out :=
  matDo gd sp s6 (fun s => s.accForm q fun s =>
    let ty := shTy (s.rdShape a)
    let tyOk := if fmtInt s.rdFmt then ty == 6 || ty == 7 else ty == 0 || ty == 1 || ty == 3 || ty == 4 || ty == 5
    if s.tilesOk [a] && tyOk then s.push 8 (.acc q (.bias s.rdFmt (s.rdShape a) (s.rdTile a))) 0
    else s.slotFaultFree 0x19) s

/-! ### Tile results -/

/-- A tile result from element codes: a list of (element bit offset, width, code). -/
def tileWrite (l : List (Nat × Nat × Nat)) : BitVec 262144 × BitVec 262144 :=
  let r := l.foldl (fun (acc : Nat × Nat) x => (acc.1 + (2 ^ x.2.1 - 1) * 2 ^ x.1, acc.2 + x.2.2 * 2 ^ x.1)) (0, 0)
  (BitVec.ofNat 262144 r.1, BitVec.ofNat 262144 r.2)
/-- Send a tile result. -/
def State.pushTile (s : State) (d : R16) (l : List (Nat × Nat × Nat)) (fl : BitVec 7) : State :=
  let w := tileWrite l
  s.push 8 (.tile d w.1 w.2) fl
/-- The elements (r, c) of rows × cols, in order. -/
def cells (rows cols : Nat) : List (Nat × Nat) := (List.range (rows * cols)).map fun e => (e / cols, e % cols)
/-- Write elements (r, c) of a tile of shape `sh`, with codes and flags. -/
def State.pushCells (s : State) (d : R16) (sh : BitVec 20) (cs : List (Nat × Nat)) (f : Nat → Nat → Nat × BitVec 7) : State :=
  let b := tileBits (shTy sh)
  let l := cs.map fun x => (x, f x.1 x.2)
  s.pushTile d (l.map fun x => (b * (x.1.1 * shCols sh + x.1.2), b, x.2.1)) (l.foldl (fun acc x => acc ||| x.2.2) 0)

/-- MCVT of one element. DEDUCED (log 65): a conversion to .f32 with SAT = 1 rounds and saturates as any other, since R253 exempts it only
with SAT = 0, though 12 R176 calls a conversion between equal formats a copy without flags. -/
def mcvtElem (dt : Dt) (rm : Rm) (sat : Bool) (x : Nat) : Nat × BitVec 7 :=
  match dt with
  | .i8 => narrowInt 8 true sat (patInt 32 true x)
  | .f32 => if sat then roundTo fp32 rm true uOp (decodeFp fp32 uOp x) else (x, 0)
  | _ => roundTo (tileFmt dt.code) rm sat uOp (decodeFp fp32 uOp x)
/-- MCVT (R253). -/
def execMcvt (gd : Guard) (sp : Option R8) (dt : Dt) (rm : Rm) (sat : Bool) (d : R16) (q : Q512) (s : State) : Out :=
  matDo gd sp s6 (fun s =>
    let sh := s.rdShape d
    if s.tilesOk [d] ∧ q.val < s.alloc.acc ∧ shTy sh = dt.code ∧ shRows sh ≤ 32 ∧ shCols sh ≤ 32 then
      let b := s.rdBlock q
      s.pushCells d sh (cells (shRows sh) (shCols sh)) fun i j => mcvtElem dt rm sat (blkElem b i j)
    else s.slotFaultFree 0x19) s

/-- The scale index of a row, by the magnitudes of its elements in units of 2^-uOp (R254). -/
def mx4Index (sct : BitVec 512) (row : List XVal) : Option Nat :=
  let big := row.any fun x => match x with
    | .inf _ => true
    | _ => false
  let m := row.foldl (fun (acc : Nat) x => match x with
    | .fin _ n => max acc n
    | _ => acc) 0
  let val (j : Nat) : Option Nat := match decodeFp fp32 uOp (sctEntry sct j) with
    | .fin false n => if n = 0 then none else some n
    | _ => none
  let p := (List.range 16).filterMap fun j => (val j).map fun n => (j, n)
  let c := p.filter fun x => !big && decide (m ≤ 6 * x.2)
  let best (lt : Nat → Nat → Bool) (l : List (Nat × Nat)) : Option Nat :=
    (l.foldl (fun (b : Option (Nat × Nat)) x => match b with
      | none => some x
      | some y => if lt x.2 y.2 then some x else b) none).map (·.1)
  if c = [] then best (fun x y => decide (y < x)) p else best (fun x y => decide (x < y)) c
/-- An element divided by its scale, as E2M1. -/
def mx4Elem (rm : Rm) (sct : BitVec 512) (idx : Nat) (x : XVal) : Nat × BitVec 7 :=
  match x, decodeFp fp32 uOp (sctEntry sct idx) with
  | .fin neg n, .fin _ d => roundFin e2m1 rm true neg n d
  | y, _ => roundTo e2m1 rm true 0 y
/-- MCVT.mx4 (R254). DESIGN CHOICE (log 74): with an odd number of blocks the last index byte's upper nibble is written 0. -/
def execMcvtMx4 (gd : Guard) (sp : Option R8) (rm : Rm) (_sat : Bool) (d : R16) (q : Q512) (s : State) : Out :=
  matDo gd sp s6 (fun s =>
    let sh := s.rdShape d
    if s.tilesOk [d] ∧ q.val < s.alloc.acc ∧ shTy sh = 2 ∧ shCols sh = 32 ∧ shRows sh ≤ 32 then
      let b := s.rdBlock q
      let sct := s.rdSct
      let row (i : Nat) : List XVal := (List.range 32).map fun j => decodeFp fp32 uOp (blkElem b i j)
      match mx4Index sct [] with
      | none => s.slotFault 0x11 0 0
      | some _ =>
        let rows := (List.range (shRows sh)).map fun i =>
          let idx := (mx4Index sct (row i)).getD 0
          (idx, (row i).map (mx4Elem rm sct idx))
        let es := rows.zipIdx.flatMap fun r => r.1.2.zipIdx.map fun x => (4 * (32 * r.2 + x.2), 4, x.1.1)
        let ids := (List.range ((shElems sh + 63) / 64 * 2)).map fun i => (4 * (shElems sh + i), 4, (rows.getD i (0, [])).1)
        s.pushTile d (es ++ ids) (rows.foldl (fun acc r => acc ||| orF r.2) 0)
    else s.slotFaultFree 0x19) s
where
  /-- The flags of a row. -/
  orF (l : List (Nat × BitVec 7)) : BitVec 7 := l.foldl (fun acc x => acc ||| x.2) 0

/-- MTRN (R255). -/
def execMtrn (gd : Guard) (sp : Option R8) (d a : R16) (s : State) : Out :=
  matDo gd sp s6 (fun s =>
    let dh := s.rdShape d
    let ah := s.rdShape a
    if s.tilesOk [d, a] ∧ shTy dh = shTy ah ∧ shTy dh ≠ 2 ∧ shRows dh = shCols ah ∧ shCols dh = shRows ah then
      let img := (s.rdTile a).toNat
      s.pushCells d dh (cells (shRows dh) (shCols dh)) fun r c => (tileCode ah img c r, 0)
    else s.slotFaultFree 0x19) s
/-- MCPY (R255). -/
def execMcpy (gd : Guard) (sp : Option R8) (d a : R16) (s : State) : Out :=
  matDo gd sp s6 (fun s =>
    if s.tilesOk [d, a] ∧ s.rdShape d = s.rdShape a then
      let n := 8 * imageBytes (s.rdShape a)
      s.push 8 (.tile d (BitVec.ofNat 262144 (2 ^ n - 1)) (BitVec.ofNat 262144 ((s.rdTile a).toNat % 2 ^ n))) 0
    else s.slotFaultFree 0x19) s
/-- MRED (R256). -/
def execMred (gd : Guard) (sp : Option R8) (d : R16) (q : Q512) (s : State) : Out :=
  matDo gd sp s6 (fun s =>
    let sh := s.rdShape d
    if s.tilesOk [d] ∧ q.val < s.alloc.acc ∧ (shTy sh = 5 ∨ shTy sh = 7) then
      let b := s.rdBlock q
      s.pushCells d sh ((List.range (min (shCols sh) 32)).map fun j => (0, j)) fun _ j =>
        if shTy sh = 5 then roundAcc .rn false (2 * uOp) (xSum .rn ((List.range 32).map fun i => blkVal b i j))
        else (wrapInt 32 ((List.range 32).foldl (fun acc i => acc + blkInt b i j) 0), 0)
    else s.slotFaultFree 0x19) s
/-- MFILL of one element. -/
def mfillElem (ty : Nat) (w : BitVec 32) : Nat × BitVec 7 :=
  match ty with
  | 5 | 7 => (w.toNat, 0)
  | 6 => narrowInt 8 true true w.toInt
  | 2 => roundTo e2m1 .rn true uOp (decodeFp fp32 uOp w.toNat)
  | t => roundTo (tileFmt t) .rn false uOp (decodeFp fp32 uOp w.toNat)
/-- MFILL (R257); every index of an MX4 tile becomes 0, the unused nibble of an odd number of blocks too. DESIGN CHOICE (log 74). -/
def execMfill (gd : Guard) (sp : Option R8) (d : R16) (n : Cb) (s : State) : Out :=
  matDo gd sp s6 (fun s =>
    let sh := s.rdShape d
    if s.tilesOk [d] then
      let x := mfillElem (shTy sh) (s.rdCb n)
      let b := tileBits (shTy sh)
      let ids := if shTy sh = 2 then (List.range ((shElems sh + 63) / 64 * 2)).map fun i => (4 * (shElems sh + i), 4, 0) else []
      s.pushTile d ((List.range (shElems sh)).map (fun e => (b * e, b, x.1)) ++ ids) x.2
    else s.slotFaultFree 0x19) s

end Sys2Proof.Machine
end

