-- ==== Sys2Proof/Machine/Engine.lean ====
section
/-!
DEFINITION. The engine and configuration forms of S7 (08 Table 8.10): OPSEL (27 R400), SETFMT and SETSCT (12 R180,
17 R259, R260), the copy-engine, subscription, ring, barrier and code-load forms of 19, and RWFLUSH (18 R277).
-/
namespace Sys2Proof.Machine

/-! ### Operating points (27 R398 to R402) -/

/-- SETTLE of a point (27 Table 27.1). -/
def settleOf (p : R8) : Nat := if p = 7 then 64 else if p = 6 then 56 else if p = 5 then 48 else if p = 4 then 40 else 32
/-- The selection of a point, capped (R400). -/
def Opp.select (o : Opp) (n : R8) : Opp :=
  let p := min n o.cap
  if p = o.tgt then o else { o with tgt := p, set := true, rem := BitVec.ofNat 8 (settleOf p) }
/-- OPSEL of a point by the current context. -/
def State.opsel (s : State) (n : R8) : State := s.modCore s.env.core fun k => { k with opp := k.opp.select n }

/-- OPSEL gA. -/
def execOpsel (gd : Guard) (a : R64) (s : State) : Out :=
  slotDo gd (some .scalar) (fun s => s.opsel (Fin.ofNat 8 (min (s.g a).toNat 7))) s
/-- OPSEL #n. -/
def execOpselI (gd : Guard) (n : R8) (s : State) : Out := slotDo gd (some .scalar) (fun s => s.opsel n) s

/-! ### Matrix formats -/

/-- SETFMT gA: the value is in effect four steps later. -/
def execSetfmt (gd : Guard) (a : R64) (s : State) : Out :=
  slotDo gd none (fun s => s.push 4 (.fmt ((s.g a).setWidth 12)) 0) s
/-- SETFMT #v. -/
def execSetfmtI (gd : Guard) (v : Imm) (s : State) : Out :=
  slotDo gd none (fun s => s.push 4 (.fmt ((s.immV v).setWidth 12)) 0) s
/-- SETSCT (17 R260): the table is read after every earlier store of the context. -/
def execSetsct (gd : Guard) (a : R16) (s : State) : Out :=
  slotDo gd none (fun s =>
    let ea := (s.rdA a).1
    if ea.toNat % 64 ≠ 0 ∨ isScratch ea = false ∨ vaultCore s.env.core ea ≠ s.env.core then s.slotFault 0x19 (ea.setWidth 64) 0
    else s.newLoad { Access.make (.load false) 0 .ctx (mkElems ea 64 0) with dest := .sct, allRel := true } 4) s

/-! ### Jobs -/

/-- The card checks of R285 at commit; then `f`. -/
def State.card (s : State) (a : R16) (f : Addr → State → State) : State :=
  let ea := (s.rdA a).1
  if s.cardOk ea 64 64 then f ea s else s.slotFault 0x19 (ea.setWidth 64) 0

/-- The outstanding job of the current core with a card, if there is one. -/
def State.cardJob (s : State) (ea : Addr) : Option Job :=
  s.jobs.find? fun j => j.core == s.env.core && !j.ended && j.card == ea.toNat
/-- Is a card of the current core in use: by an outstanding job, by an active subscription, or by a SUBSCR whose card is not read yet?
SUBSCR starts a job (10 R161). DEDUCED (log 37). -/
def State.cardBusy (s : State) (ea : Addr) : Bool :=
  let k := s.core s.env.core
  (s.cardJob ea).isSome || (k.subs.toList.any fun u => u.any fun u => u.card == ea.toNat)
    || k.ctxs.toList.any fun t => t.accs.any fun a => match a.dest with
      | .subCard _ card => card == ea.toNat
      | _ => false
/-- Outstanding jobs of the current context. -/
def State.myJobs (s : State) (copy : Bool) : Nat :=
  (s.jobs.filter fun j => j.core == s.env.core && j.ctx == s.env.ctx && !j.ended && (j.kind == .copy) == copy).length

/-- The jobs listed when a card of the current core starts a job: an ended job of the card stays while its promise bears on
later ones (R287) or has not reached its register. -/
def State.jobsKept (s : State) (ea : Addr) : List Job :=
  (s.jobs.map fun (q : Job) => if q.ended ∧ q.core = s.env.core ∧ q.card = ea.toNat then { q with past := true } else q).filter
    fun q => !q.past || q.promise.all (fun p => decide (s.cyc.toNat + 16 < p))
      || (s.ctx q.core q.ctx).accs.any fun a => match a.dest with
        | .card _ id => id == q.id
        | _ => false

/-- The start of a job (R285): STATUS is written 0 by a class-0 store, and the card is read as a release of every class. -/
def State.startJob (s : State) (kind : JobKind) (d : R64) (ea : Addr) : State :=
  let id := s.nextJob
  let j : Job := ⟨id, kind, s.env.core, s.env.ctx, ea.toNat, none, none, none, s.cyc.toNat, s.env.hdr, [], 0, none, false, false, false⟩
  let s := { s with
    nextJob := id + 1
    jobs := s.jobsKept ea ++ [j] }
  let s := s.modCore s.env.core fun k => { k with doneSubs := k.doneSubs.filter (· != ea.toNat) }
  let s := s.newAcc (Access.make .store (clsMask 0) .ctx (mkElems (ea + 0x38) 8 0))
  s.newLoad { Access.make (.load false) 0 .package (mkElems ea 64 0) with dest := .card d id, allRel := true } 16

/-- CPY (R285, R286). -/
def execCpy (gd : Guard) (d : R64) (a : R16) (s : State) : Out :=
  slotDo gd none (fun s => s.card a fun ea s =>
    if s.cardBusy ea then s.slotFault 0x19 (ea.setWidth 64) 0
    else if s.alloc.queue1 ≤ s.myJobs true then s.slotFaultFree 0x1C
    else s.startJob .copy d ea) s
/-- A code-load form (R306, R307). -/
def State.startLoad (s : State) (kind : JobKind) (d : R64) (a : R16) : State :=
  s.card a fun ea s =>
    if s.cardBusy ea then s.slotFault 0x19 (ea.setWidth 64) 0
    else if s.alloc.queue3 ≤ s.myJobs false then s.slotFaultFree 0x1C
    else s.startJob kind d ea
/-- ICOPY. -/
def execIcopy (gd : Guard) (d : R64) (a : R16) (s : State) : Out := slotDo gd none (fun s => s.startLoad .icopy d a) s
/-- ICINV. -/
def execIcinv (gd : Guard) (d : R64) (a : R16) (s : State) : Out := slotDo gd none (fun s => s.startLoad .icinv d a) s

/-- CPYST (R289): 0 while the job or the subscription of the card is outstanding for the context, else the STATUS word, whose read is
an acquire where one of the card may have ended (10 R162). -/
def execCpyst (gd : Guard) (d : R64) (a : R16) (s : State) : Out :=
  slotDo gd none (fun s => s.card a fun ea s =>
    let k := s.core s.env.core
    let sub := k.subs.toList.any fun u => u.any fun u => u.owner == s.env.ctx && u.card == ea.toNat
    if sub || (s.cardJob ea).any fun j => j.ctx == s.env.ctx then s.pushG 12 d 0 false
    else
      let seen := k.doneSubs.contains ea.toNat || s.jobs.any fun j => j.core == s.env.core && !j.past && j.card == ea.toNat
      s.newLoad { Access.make (.load false) 0 .ctx (mkElems (ea + 0x38) 8 0) with dest := .cpyst d, acqAll := seen } 12) s

/-! ### Subscriptions and rings (R292 to R299) -/

/-- SUBSCR (R295): its status is formed when its card is read. -/
def execSubscr (gd : Guard) (d : R64) (a : R16) (s : State) : Out :=
  slotDo gd none (fun s => s.outsideHandler fun s => s.card a fun ea s =>
    s.newLoad { Access.make (.load false) 0 .package (mkElems ea 64 0) with dest := .subCard d ea.toNat, allRel := true } 16) s

/-- Change the subscription of a ring. -/
def State.modSub (s : State) (c : CoreId) (r : Fin 4) (f : Sub → Sub) : State :=
  s.modCore c fun k => { k with subs := k.subs.set r ((k.subs[r]).map f) }

/-- The walk fields of a subscription, at the offsets of its card. -/
def Sub.im (u : Sub) : Nat := (List.range 5).foldl (fun acc i => acc + (u.words.toList.getD i 0).toNat * 2 ^ (64 * i)) 0
/-- Runs in a tile (R294). -/
def Sub.tileRuns (u : Sub) : Nat := cardRuns u.im (u.td - 1)
/-- Bytes of a tile. -/
def Sub.tileBytes (u : Sub) : Nat := cardLen0 u.im * u.tileRuns
/-- Tiles of a subscription. -/
def Sub.tiles (u : Sub) : Nat := cardRuns u.im 5 / u.tileRuns
/-- The code with which a subscription has ended: its last tile is released, a failure, or UNSUB with every finished slot that holds a
tile stored (R299). A slot finished past the last tile is not pulled. DEDUCED (log 37). -/
def Sub.endCode (u : Sub) : Option Nat :=
  match u.ending with
  | none => if (if u.mode = 0 then u.acks else u.stored) = u.tiles then some 1 else none
  | some code => if code = 5 ∧ (u.pulled < u.tiles ∧ u.slots.contains .finished ∨ u.held ≠ []) then none else some code

/-- UNSUB (R299): the loader stops, and the slots already FINISHED are still pulled; every other becomes EMPTY. A subscription that has
ended is active no more. -/
def execUnsub (gd : Guard) (r : Fin 4) (s : State) : Out :=
  slotDo gd none (fun s => s.outsideHandler fun s =>
    match (s.core s.env.core).subs[r] with
    | none => s
    | some u =>
      if u.endCode.isSome then s
      else if u.owner ≠ s.env.ctx then s.slotFaultFree 0x19
      else if u.ending.isSome then s
      else s.modSub s.env.core r fun u => { u with
        ending := some 5
        loaded := []
        slots := u.slots.map fun (q : SlotState) => if q = .finished then .finished else .empty }) s

/-- The state from which a mode allows RINGACK, and the state it goes to (Table 19.6). -/
def ackMove (mode : Nat) : SlotState × SlotState :=
  if mode = 0 then (.full, .empty) else if mode = 1 then (.empty, .finished) else (.full, .finished)
/-- STATE in a flag word. -/
def SlotState.code : SlotState → Nat
  | .empty => 0
  | .full => 1
  | .finished => 2
/-- Byte offset in the vault of the flag word of a slot. -/
def RingDecl.flag (g : RingDecl) (i : Nat) : Nat := g.o + 8 * i
/-- Byte offset of the data of a slot. -/
def RingDecl.slotData (g : RingDecl) (i : Nat) : Nat := (g.o + 8 * g.n + 63) / 64 * 64 + i * g.z
/-- RINGACK (R298): the flag is written after every earlier store of the context, and after no earlier load; the write has no
class. DESIGN CHOICE (log 37). -/
def execRingack (gd : Guard) (r : Fin 4) (s : State) : Out :=
  slotDo gd none (fun s => s.outsideHandler fun s =>
    match (s.core s.env.core).subs[r], (s.core s.env.core).rings[r] with
    | some u, some g =>
      let mv := ackMove u.mode
      if u.owner ≠ s.env.ctx ∨ u.ending.isSome ∨ u.endCode.isSome ∨ u.slots.getD u.cursor .empty ≠ mv.1 then s.slotFaultFree 0x19
      else
        let ea := ownAddr s.env.core (g.flag u.cursor)
        let es := if u.mode = 1 then mkElems ea 8 (mv.2.code + u.acks % 2 ^ 32 * 2 ^ 32) else mkElems ea 4 mv.2.code
        let s := s.newAcc { Access.make .store 0 .package es with rel := true }
        s.modSub s.env.core r fun u => { u with
          slots := u.slots.set u.cursor mv.2
          cursor := (u.cursor + 1) % g.n
          acks := u.acks + 1 }
    | _, _ => s.slotFaultFree 0x19) s

/-! ### Heath barriers (R301 to R304) -/

/-- A barrier of the current heath. -/
def State.bar (s : State) (b : Fin 4) : Barrier := (s.heaths[coreHeath s.env.core]).bars[b]

/-- BARA (R302): a release of every class; a second arrival in a phase does nothing. -/
def execBara (gd : Guard) (b : Fin 4) (s : State) : Out :=
  slotDo gd none (fun s => s.outsideHandler fun s =>
    let ph := (s.bar b).phase
    if s.cur.phase[b] = ph then s
    else (s.modCur fun t => { t with phase := t.phase.set b ph }).newAcc
      { Access.make (.bara b) 0 .heath unitElem with allRel := true }) s
/-- BARW (R303). -/
def execBarw (gd : Guard) (b : Fin 4) (s : State) : Out :=
  slotDo gd none (fun s => s.outsideHandler fun s =>
    if s.cur.phase[b] = (s.bar b).phase then s.modEnv fun e => { e with block := ⟨e.block.s0, some b⟩ } else s) s
/-- BARQ (R304). -/
def execBarq (gd : Guard) (d : R64) (b : Fin 4) (s : State) : Out :=
  slotDo gd none (fun s =>
    s.pushG 1 d (BitVec.ofNat 64 ((s.bar b).phase.toNat * 2 ^ 32 + (s.bar b).count % 64)) false) s

/-! ### Code fences and the rewrite flush -/

/-- IFENCE (R308): every fetch that the core started is discarded, so the b-registers of all its contexts count as written now. -/
def execIfence (gd : Guard) (s : State) : Out :=
  slotDo gd none (fun s =>
    if 0 < s.myJobs false then s.slotFaultFree 0x14
    else
      let now := (s.core s.env.core).step
      s.modCore s.env.core fun k => { k with ctxs := k.ctxs.map fun (t : Ctx) => { t with b := t.b.map fun (r : BReg) => { r with step := now } } }) s
/-- RWFLUSH (18 R277): as a slot it does nothing. -/
def execRwflush (gd : Guard) (s : State) : Out := slotDo gd none id s

end Sys2Proof.Machine
end

