-- ==== Sys2Proof/Machine/Rings.lean ====
section
/-!
DEFINITION. The base-die loader and storer: the tiles they move between rings and global memory, and the end of a
subscription (19 R293 to R299, R291).
-/
namespace Sys2Proof.Machine

/-! ### Tiles of a subscription (R294) -/

/-- The global address of run `i` of tile `t` from a base. -/
def Sub.runAddr (u : Sub) (base : Addr) (t i : Nat) : Addr := base + BitVec.ofInt 56 (cardWalk u.im (t * u.tileRuns + i))

/-- The places of a tile in global memory, or the failure with the run that meets it. -/
def State.tileLocs (s : State) (c : CoreId) (u : Sub) (write : Bool) (base : Addr) (t : Nat) : Except (Addr × EngLoc) (List Loc) :=
  (List.range u.tileRuns).foldl (fun acc i => match acc with
    | .error e => .error e
    | .ok l =>
      let a := u.runAddr base t i
      match s.engLocs c u.owner write a (cardLen0 u.im) with
      | .ok p => .ok (l ++ p)
      | .error e => .error (a, e)) (.ok [])

/-- Has every flag write of the owner to a slot performed (R297)? -/
def State.flagDone (s : State) (c : CoreId) (u : Sub) (g : RingDecl) (i : Nat) : Bool :=
  (s.ctx c u.owner).accs.all fun a => !a.writes || a.elems.all fun e => e.done || e.n == 0 || !isScratch e.a
    || vaultCore c e.a != c || !(decide (vaultOfs e.a < g.flag i + 8) && decide (g.flag i < vaultOfs e.a + e.n))

/-- Has the owner of a subscription halted, or is it stopped for a save (R291)? -/
def State.subStopped (s : State) (c : CoreId) (u : Sub) : Bool := (s.ctx c u.owner).run == .halted || (s.ctx c u.owner).stopping

/-- Does the loader start no tile now: its subscription pauses at a slot boundary (R291), or a layout commit affects its
partition (23 R355)? A tile it has begun it finishes. -/
def State.loadPaused (s : State) (c : CoreId) (u : Sub) : Bool :=
  u.loaded.isEmpty && (s.subStopped c u || s.affected (s.core c).alloc.part)

/-- A subscription stops with a code: every slot becomes EMPTY. -/
def State.subStop (s : State) (c : CoreId) (r : Fin 4) (code : Nat) : State :=
  s.modSub c r fun u => { u with
    ending := some code
    held := []
    loaded := []
    slots := u.slots.map fun _ => .empty }

/-- The end of a subscription that meets a failure (R299). A hold ends nothing. -/
def State.subFail (s : State) (c : CoreId) (r : Fin 4) (u : Sub) (unit : BitVec 20) (a : Addr) (e : EngLoc) : State :=
  match e with
  | .xlat => s.subStop c r 4
  | .held => s.engWalk c u.owner unit a (cardLen0 u.im)
  | _ => s.subStop c r 2

/-- The places of bytes whose source is poisoned, in their destination (10 R166). -/
def State.poisonCopy (s : State) (src dst : List Loc) : State :=
  s.poisonLocs (((src.zip dst).filter fun p => s.poisonedLoc p.1 1).map (·.2))
/-- `n` vault bytes from an offset, as places. -/
def vaultLocs (c : CoreId) (o n : Nat) : List Loc := (List.range n).map fun i => .vault c (o + i)

/-- A base-die loader and storer by their die (03 Table 3.8). -/
def loaderUnit (c : CoreId) : BitVec 20 := BitVec.ofNat 20 (0x50000 + (coreDie c).val)
/-- The storer. -/
def storerUnit (c : CoreId) : BitVec 20 := BitVec.ofNat 20 (0x60000 + (coreDie c).val)

/-- The pieces of a tile of which those in `done` are written, with run `i` written from `dst i` on: elements of at most 8
bytes, in no stated order (10 R153). -/
def Sub.pieces (u : Sub) (dst : Nat → Nat) (done : List Nat) : List (Nat × Nat × Nat × Nat) :=
  ((List.range (u.tileRuns * elemStride u.im)).filter fun k => !done.contains k).filterMap fun k =>
    (runElem u.im u.tileRuns dst k).map (k, ·)

/-- LOADER_TILE_WRITE (R296): a piece of the next tile is written to its EMPTY slot, or, once every piece is, the flag word with
STATE 1 and its SEQ. Which piece comes next is a free choice (log 37). -/
def execLoaderTileWrite (c : CoreId) (r : Fin 4) (s : State) : Out :=
  .next (match (s.core c).subs[r], (s.core c).rings[r] with
    | some u, some g =>
      let i := u.tile % g.n
      let len := cardLen0 u.im
      let slot (run : Nat) : Nat := g.slotData i + run * len
      if u.mode = 1 ∨ u.ending.isSome ∨ s.loadPaused c u ∨ u.tiles ≤ u.tile ∨ u.slots.getD i .full ≠ .empty
          ∨ s.flagDone c u g i = false then s
      else
        let ps := u.pieces slot u.loaded
        let d := s.draw
        match ps[d.1 % ps.length]? with
        | none =>
          let s := (s.writeLoc (.vault c (g.flag i)) 8 (1 + u.tile % 2 ^ 32 * 2 ^ 32)).retest (.vault c (g.flag i)) 8
          s.modSub c r fun u => { u with
            tile := u.tile + 1
            slots := u.slots.set i .full
            loaded := []
            bytes := u.bytes + u.tileBytes }
        | some (k, run, lo, n) =>
          let s := d.2
          let a := u.runAddr u.src u.tile run + BitVec.ofNat 56 lo
          match s.engLocs c u.owner false a n with
          | .error e => s.subFail c r u (loaderUnit c) a e
          | .ok src =>
            let dst := vaultLocs c (slot run + lo) n
            let s := s.mscEng c u.owner false a n
            if src.any fun l => s.poisonedLoc l 1 then (s.poisonCopy src dst).subStop c r 3
            else (s.engWriteN dst (s.engRead src)).modSub c r fun u => { u with loaded := k :: u.loaded }
    | _, _ => s)

/-- STORER_SLOT_PULL (R297): the Z bytes of the next FINISHED slot are read, then its flag is written EMPTY. A slot finished
before its owner stopped is still pulled (25 Table 25.3). DESIGN CHOICE (log 37): the flag write is of STATE alone, 4 bytes, so SEQ
keeps what it holds. -/
def execStorerSlotPull (c : CoreId) (r : Fin 4) (s : State) : Out :=
  .next (match (s.core c).subs[r], (s.core c).rings[r] with
    | some u, some g =>
      let i := u.pulled % g.n
      if u.mode = 0 ∨ !(u.ending.isNone || u.ending == some 5) ∨ s.affected (s.core c).alloc.part ∨ u.tiles ≤ u.pulled
          ∨ u.slots.getD i .empty ≠ .finished ∨ s.flagDone c u g i = false then s
      else
        let src := vaultLocs c (g.slotData i) g.z
        if src.any fun l => s.poisonedLoc l 1 then
          let s := match s.tileLocs c u true u.dst u.pulled with
            | .ok dst => s.poisonCopy src dst
            | .error _ => s
          s.subStop c r 3
        else
          let data := memBytes (s.core c).vault (g.slotData i) g.z
          let s := (s.writeLoc (.vault c (g.flag i)) 4 0).retest (.vault c (g.flag i)) 4
          s.modSub c r fun u => { u with
            held := u.held ++ [(u.pulled, data)]
            pulled := u.pulled + 1
            slots := u.slots.set i .empty }
    | _, _ => s)

/-- What the storer has written of a tile once the pieces `done` are: address and length of each. -/
def Sub.written (u : Sub) (t : Nat) (done : List Nat) : List (Nat × Nat) :=
  done.filterMap fun k => (runElem u.im u.tileRuns (fun run => (u.runAddr u.dst t run).toNat) k).map fun e =>
    ((u.runAddr u.dst t e.1 + BitVec.ofNat 56 e.2.1).toNat, e.2.2)

/-- STORER_TILE_WRITE (R297): a piece of the oldest tile pulled is written to DST, or, once every piece is, the tile is done.
Which piece comes next is a free choice (log 37). -/
def execStorerTileWrite (c : CoreId) (r : Fin 4) (s : State) : Out :=
  .next (match (s.core c).subs[r] with
    | some u => match u.held with
      | [] => s
      | (t, data) :: rest =>
        let ps := u.pieces (fun run => (u.runAddr u.dst t run).toNat) u.put
        let d := s.draw
        match ps[d.1 % ps.length]? with
        | none => s.modSub c r fun u => { u with
            held := rest
            put := []
            stored := u.stored + 1
            bytes := u.bytes + u.tileBytes }
        | some (k, run, lo, n) =>
          let s := d.2
          let a := u.runAddr u.dst t run + BitVec.ofNat 56 lo
          match s.engLocs c u.owner true a n with
          | .error e => s.subFail c r u (storerUnit c) a e
          | .ok dst =>
            let s := (s.mscEng c u.owner true a n).engWriteN dst (leNat ((data.drop (run * cardLen0 u.im + lo)).take n))
            let s := s.healSector (dst.headD (.vault 0 0)) (u.written t (k :: u.put)) a.toNat
            s.modSub c r fun u => { u with put := k :: u.put }
    | none => s)

/-- Every flag word of a ring is written EMPTY; SEQ keeps what it holds. DESIGN CHOICE (log 37). -/
def clearFlags (g : RingDecl) (m : Memory) : Memory := (List.range g.n).foldl (fun m i => memWriteN m (g.flag i) 4 0) m

/-- A subscription that has ended leaves its ring (R299), once every flag write of its owner has performed: every slot is EMPTY, STATUS is
written, and the bytes moved are charged (27 R409). An end by a failure wakes no context blocked on a flag; any other repeats the
tests (09 R125). DEDUCED (log 37). -/
def State.subEnd (s : State) (c : CoreId) (r : Fin 4) : State :=
  match (s.core c).subs[r], (s.core c).rings[r] with
  | some u, some g => match u.endCode with
    | none => s
    | some code =>
      if (List.range g.n).all fun i => s.flagDone c u g i then
        let s := s.modCore c fun k => { k with
          vault := clearFlags g k.vault
          subs := k.subs.set r none
          doneSubs := u.card :: k.doneSubs.filter (· != u.card) }
        let s := (s.modCtx c u.owner fun t => { t with doneWide := true }).charge c u.owner .engine u.bytes
        let s := if code = 1 ∨ code = 5 then s.retest (.vault c (g.flag 0)) (8 * g.n) else s
        s.writeStatus c u.card code
      else s
  | _, _ => s

/-- SUBSCRIPTION_END (R299). -/
def execSubscriptionEnd (c : CoreId) (r : Fin 4) (s : State) : Out := .next (s.subEnd c r)

end Sys2Proof.Machine
end

