-- ==== Sys2Proof/Machine/Bracken.lean ====
section
/-!
DEFINITION. The Bracken engine (21): decision diagrams over a space's nodes, the queue of a core, the DD forms of S7, and
the steps in which the engine accepts, completes and abandons operations.
-/
namespace Sys2Proof.Machine

/-! ### Decision diagrams -/

/-- The diagram of a function, read from a space: tests by level, children for 0 and 1. -/
inductive Bdd where
  | leaf (b : Bool)
  | node (level : Nat) (lo hi : Bdd)
  deriving DecidableEq, Repr

/-- The level of the root; terminals count as 0xFFFF (R315). -/
def Bdd.level : Bdd → Nat
  | .leaf _ => 0xFFFF
  | .node l _ _ => l
/-- The longest path. -/
def Bdd.depth : Bdd → Nat
  | .leaf _ => 0
  | .node _ lo hi => 1 + max lo.depth hi.depth
/-- A test, left out when its children are equal. -/
def Bdd.mk (l : Nat) (lo hi : Bdd) : Bdd := if lo = hi then lo else .node l lo hi
/-- The restriction of the root's variable at a level. -/
def Bdd.cof (f : Bdd) (l : Nat) (v : Bool) : Bdd :=
  match f with
  | .leaf b => .leaf b
  | .node k lo hi => if k = l then (if v then hi else lo) else f
/-- Combine two diagrams; the fuel bounds the depths together. -/
def Bdd.applyN (op : Bool → Bool → Bool) : Nat → Bdd → Bdd → Bdd
  | 0, _, _ => .leaf false
  | n + 1, f, g =>
    match f, g with
    | .leaf a, .leaf b => .leaf (op a b)
    | f, g =>
      let l := min f.level g.level
      Bdd.mk l (Bdd.applyN op n (f.cof l false) (g.cof l false)) (Bdd.applyN op n (f.cof l true) (g.cof l true))
/-- Combine two diagrams. -/
def Bdd.apply (op : Bool → Bool → Bool) (f g : Bdd) : Bdd := Bdd.applyN op (f.depth + g.depth + 1) f g
/-- Negation. -/
def Bdd.not : Bdd → Bdd
  | .leaf b => .leaf (!b)
  | .node l lo hi => .node l lo.not hi.not
/-- (f ∧ g) ∨ (¬f ∧ h). -/
def Bdd.ite (f g h : Bdd) : Bdd := Bdd.apply (· || ·) (Bdd.apply (· && ·) f g) (Bdd.apply (· && ·) f.not h)
/-- Substitute a literal. -/
def Bdd.subst (l : Nat) (v : Bool) : Bdd → Bdd
  | .leaf b => .leaf b
  | .node k lo hi => if k = l then (if v then hi else lo) else Bdd.mk k (lo.subst l v) (hi.subst l v)
/-- The value under an assignment of levels. -/
def Bdd.eval (a : Nat → Bool) : Bdd → Bool
  | .leaf b => b
  | .node l lo hi => if a l then hi.eval a else lo.eval a
/-- The literals of a cube (R324); none for what is no cube. -/
def Bdd.cube : Bdd → Option (List (Nat × Bool))
  | .leaf true => some []
  | .leaf false => none
  | .node l lo hi =>
    if lo = .leaf false then (hi.cube).map ((l, true) :: ·)
    else if hi = .leaf false then (lo.cube).map ((l, false) :: ·)
    else none
/-- The levels tested. -/
def Bdd.levels : Bdd → List Nat
  | .leaf _ => []
  | .node l lo hi => l :: (lo.levels ++ hi.levels)

/-- The Boolean operator of a DDAPPLY (Table 21.4). -/
def boolFn (fn : Nat) (f g : Bool) : Bool :=
  match fn with
  | 0 => f && g
  | 1 => f || g
  | 2 => f != g
  | 3 => f && !g
  | 4 => !(f && g)
  | 5 => !(f || g)
  | 6 => f == g
  | _ => !f || g

/-! ### Spaces -/

/-- A node that is not free and no terminal. -/
def Space.node (sp : Space) (id : Nat) : Option Node := sp.nodes.find? fun n => n.id == id
/-- The diagram of an id; none when it is out of range or free. -/
def Space.tree (sp : Space) : Nat → Nat → Option Bdd
  | 0, _ => none
  | fuel + 1, id =>
    if id = 0 then some (.leaf false)
    else if id = 1 then some (.leaf true)
    else match sp.node id with
      | none => none
      | some n => match sp.tree fuel n.lo, sp.tree fuel n.hi with
        | some lo, some hi => some (.node n.level lo hi)
        | _, _ => none
/-- The function a g operand names: bits [63:32] must be 0 (R318). -/
def Space.fn (sp : Space) (w : Word) : Option Bdd := sp.tree 4098 w.toNat
/-- Allocated general nodes. -/
def Space.alloc (sp : Space) : Nat := (sp.nodes.filter fun n => decide (4098 ≤ n.id)).length
/-- Live general nodes. -/
def Space.live (sp : Space) : Nat := (sp.nodes.filter fun n => decide (4098 ≤ n.id) && decide (0 < n.ref)).length
/-- Change a node. -/
def Space.modNode (sp : Space) (id : Nat) (f : Node → Node) : Space :=
  { sp with nodes := sp.nodes.map fun (n : Node) => if n.id = id then f n else n }
/-- Add a reference; the count saturates (R316). -/
def Space.addRef (sp : Space) (id : Nat) : Space := sp.modNode id fun n => { n with ref := min (n.ref + 1) 0xFFFF }
/-- Drop a reference; a saturated count stays. -/
def Space.dropRef (sp : Space) (id : Nat) : Space :=
  sp.modNode id fun n => if n.ref = 0xFFFF then n else { n with ref := n.ref - 1 }

/-- The first free general id from a candidate on. -/
def Space.freeFrom (sp : Space) : Nat → Nat → Nat
  | 0, i => i
  | fuel + 1, i => if sp.nodes.any fun n => n.id == i then sp.freeFrom fuel (4098 + (i + 1 - 4098) % (sp.cap - 4098)) else i

/-- A space being worked on: the space, the free choices drawn so far, and the nodes allocated. -/
abbrev Work := Space × Nat × Nat

/-- The node of a triple: the one that exists, or a new one with its children's references; none when the space is full
(R323, R335). -/
def mkNode (l lo hi : Nat) (w : Work) : Option Nat × Work :=
  match w.1.nodes.find? fun n => n.level == l && n.lo == lo && n.hi == hi with
  | some n => (some n.id, w)
  | none =>
    if w.1.hwm ≤ w.1.alloc then (none, w)
    else
      let id := w.1.freeFrom (w.1.nodes.length + 1) (4098 + Config.freeNode w.2.1 % (w.1.cap - 4098))
      let sp := (w.1.addRef lo).addRef hi
      (some id, ({ sp with nodes := sp.nodes ++ [⟨id, l, lo, hi, 0⟩] }, w.2.1 + 1, w.2.2 + 1))

/-- The id of a diagram, built from the leaves up, either child first (R323). -/
def internT : Bdd → Work → Option Nat × Work
  | .leaf b, w => (some (bit1 b), w)
  | .node l lo hi, w =>
    let loFirst := decide (Config.choose w.2.1 % 2 = 0)
    let w : Work := (w.1, w.2.1 + 1, w.2.2)
    let r := if loFirst then internT lo w else internT hi w
    match r.1 with
    | none => r
    | some a =>
      let q := if loFirst then internT hi r.2 else internT lo r.2
      match q.1 with
      | none => q
      | some b => if loFirst then mkNode l a b q.2 else mkNode l b a q.2

/-- Sweep dead general nodes until none is left (R328). -/
def Space.sweepDead : Nat → Space → Space
  | 0, sp => sp
  | fuel + 1, sp =>
    match sp.nodes.find? fun n => decide (4098 ≤ n.id) && n.ref == 0 with
    | none => sp
    | some n => (({ sp with nodes := sp.nodes.filter fun m => m.id != n.id }.dropRef n.lo).dropRef n.hi).sweepDead fuel

/-- DDSWAP of levels `l` and `l + 1` (R330): the nodes that test the upper variable and have a child that tests the lower
are rewritten; the others of both levels change level only. DEDUCED (log 38). -/
def swapLevels (l : Nat) (w : Work) : Work :=
  let sp := w.1
  let lower (id : Nat) : Option Node := (sp.node id).filter fun n => n.level == l + 1
  let up := sp.nodes.filter fun n => n.level == l
  let cross := up.filter fun n => (lower n.lo).isSome || (lower n.hi).isSome
  let sp1 := { sp with
    ord := sp.ord.map fun v => if v = l then l + 1 else if v = l + 1 then l else v
    nodes := sp.nodes.map fun (n : Node) =>
      if n.level = l + 1 then { n with level := l }
      else if n.level = l ∧ (lower n.lo).isNone ∧ (lower n.hi).isNone then { n with level := l + 1 }
      else n }
  cross.foldl (fun (w : Work) n =>
    let q (id : Nat) : Nat × Nat := match lower id with
      | some m => (m.lo, m.hi)
      | none => (id, id)
    let f := q n.lo
    let g := q n.hi
    let mk (a b : Nat) (w : Work) : Option Nat × Work := if a = b then (some a, w) else mkNode (l + 1) a b w
    let x := mk f.1 g.1 w
    let y := mk f.2 g.2 x.2
    let lo := x.1.getD 0
    let hi := y.1.getD 0
    let sp := ((((y.2.1.addRef lo).addRef hi).dropRef n.lo).dropRef n.hi).modNode n.id fun m => { m with lo := lo, hi := hi }
    (sp, y.2.2.1, y.2.2.2)) (sp1, w.2.1, w.2.2)

/-! ### FP64 (R325) -/

/-- Rounded product. -/
def f64Mul (a b : Nat) : Nat := (roundTo fp64 .rn false 2148 (xMul (decodeFp fp64 1074 a) (decodeFp fp64 1074 b)).1).1
/-- Rounded sum. -/
def f64Add (a b : Nat) : Nat := (roundTo fp64 .rn false 1074 (xSum .rn [decodeFp fp64 1074 a, decodeFp fp64 1074 b]).1).1
/-- The code of 1. -/
def f64One : Nat := 0x3FF0000000000000
/-- Skip(a, b). -/
def countSkip (t : List Nat) (a b : Nat) : Nat := ((t.take b).drop a).foldl f64Mul f64One
/-- pos(n). -/
def countPos (u : List Nat) (f : Bdd) : Nat := match f with
  | .leaf _ => u.length
  | .node l _ _ => u.findIdx (· == l)
/-- Val(n), over the range's levels `u` in ascending order with their weights. -/
def countVal (u : List Nat) (w : List (Nat × Nat)) (t : List Nat) : Bdd → Nat
  | .leaf b => if b then f64One else 0
  | .node l lo hi =>
    let k := u.findIdx (· == l)
    let w01 := w.getD k (0, 0)
    f64Add (f64Mul w01.1 (f64Mul (countSkip t (k + 1) (countPos u lo)) (countVal u w t lo)))
      (f64Mul w01.2 (f64Mul (countSkip t (k + 1) (countPos u hi)) (countVal u w t hi)))

/-- Levels in ascending order, each with its variable's index in the range. -/
def Space.rangeLevels (sp : Space) (first n : Nat) : List (Nat × Nat) :=
  ((List.range n).map fun i => (sp.ord.getD (first + i) 0, i)).mergeSort fun a b => decide (a.1 ≤ b.1)

/-! ### The queue (R319, R320) -/

/-- The lowest entry that is not held. -/
def Core.freeEntry (k : Core) : Option R16 := (List.finRange 16).find? fun e => (k.ddq[e]).isNone

/-- The commit of a DD form other than DDVAR (R319). -/
def State.ddStart (s : State) (opc fn : Nat) (x y z : Word) (rcd : Option Addr) (area : Space → Nat) : State :=
  let c := s.env.core
  let k := s.core c
  match s.spaceOf c with
  | none => s.slotFaultFree 0x19
  | some sp =>
    let bad := match rcd with
      | none => none
      | some ea =>
        let out := k.ddq.toList.any fun e => match e with
          | some d => d.ctx == s.env.ctx && d.rcd == some (vaultOfs ea)
          | none => false
        if s.cardOk ea 16 (16 + area sp) && !out then none else some ea
    match bad with
    | some ea => s.slotFault 0x19 (ea.setWidth 64) 0
    | none =>
      let mine := (k.ddq.toList.filter fun e => match e with
        | some d => d.ctx == s.env.ctx
        | none => false).length
      match (if mine < s.alloc.queue2 then k.freeEntry else none) with
      | none => s.slotFaultFree 0x1C
      | some e =>
        let s := match rcd with
          | some ea => s.newAcc (Access.make .store (clsMask 0) .ctx (mkElems ea 8 0))
          | none => s
        let wid := s.cur.nextId
        let s := s.newAcc { Access.make .release 0 .package unitElem with allRel := true }
        s.modCore c fun k => { k with
          ddq := k.ddq.set e (some ⟨s.env.ctx, opc, fn, x, y, z, rcd.map vaultOfs, k.ddSeq, wid, false, false, none, 0⟩)
          ddSeq := k.ddSeq + 1
          doneDds := k.doneDds.filter fun o => some o != rcd.map vaultOfs }

/-- A DD form whose record has no data area. -/
def State.ddRecord (s : State) (opc fn : Nat) (a : R16) (x y z : Word) : State :=
  s.ddStart opc fn x y z (some (s.rdA a).1) fun _ => 0

/-- DDVAR (R322). -/
def execDdvar (gd : Guard) (d a : R64) (s : State) : Out :=
  slotDo gd none (fun s => match s.spaceOf s.env.core with
    | none => s.slotFaultFree 0x19
    | some sp => if sp.nvars ≤ (s.g a).toNat then s.slotFaultFree 0x19 else s.pushG 1 d (s.g a + 2) false) s
/-- DDAPPLY. -/
def execDdapply (gd : Guard) (bo : BoolOp) (a : R16) (b c : R64) (s : State) : Out :=
  slotDo gd none (fun s => s.ddRecord 0x21 bo.code a 0 (s.g b) (s.g c)) s
/-- DDITE. -/
def execDdite (gd : Guard) (a : R16) (d b c : R64) (s : State) : Out :=
  slotDo gd none (fun s => s.ddRecord 0x22 0 a (s.g d) (s.g b) (s.g c)) s
/-- DDRESTR. -/
def execDdrestr (gd : Guard) (a : R16) (b c : R64) (s : State) : Out :=
  slotDo gd none (fun s => s.ddRecord 0x23 0 a 0 (s.g b) (s.g c)) s
/-- DDEXIST. -/
def execDdexist (gd : Guard) (a : R16) (b c : R64) (s : State) : Out :=
  slotDo gd none (fun s => s.ddRecord 0x24 0 a 0 (s.g b) (s.g c)) s
/-- DDUNIV. -/
def execDduniv (gd : Guard) (a : R16) (b c : R64) (s : State) : Out :=
  slotDo gd none (fun s => s.ddRecord 0x25 0 a 0 (s.g b) (s.g c)) s
/-- DDNOT. -/
def execDdnot (gd : Guard) (a : R16) (b : R64) (s : State) : Out :=
  slotDo gd none (fun s => s.ddRecord 0x26 0 a 0 (s.g b) 0) s
/-- DDCOUNT. -/
def execDdcount (gd : Guard) (a : R16) (b c : R64) (s : State) : Out :=
  slotDo gd none (fun s => s.ddRecord 0x27 0 a 0 (s.g b) (s.g c)) s
/-- DDMASK. -/
def execDdmask (gd : Guard) (a : R16) (b c : R64) (s : State) : Out :=
  slotDo gd none (fun s => s.ddRecord 0x28 0 a 0 (s.g b) (s.g c)) s
/-- DDREF. -/
def execDdref (gd : Guard) (b : R64) (s : State) : Out :=
  slotDo gd none (fun s => s.ddStart 0x29 0 0 (s.g b) 0 none fun _ => 0) s
/-- DDUNREF. -/
def execDdunref (gd : Guard) (b : R64) (s : State) : Out :=
  slotDo gd none (fun s => s.ddStart 0x2A 0 0 (s.g b) 0 none fun _ => 0) s
/-- DDGC. -/
def execDdgc (gd : Guard) (a : R16) (s : State) : Out := slotDo gd none (fun s => s.ddRecord 0x2B 0 a 0 0 0) s
/-- DDORD: an order table of 2 × NVARS bytes follows the record. -/
def execDdord (gd : Guard) (a : R16) (s : State) : Out :=
  slotDo gd none (fun s => s.ddStart 0x2C 0 0 0 0 (some (s.rdA a).1) fun sp => 2 * sp.nvars) s
/-- DDSWAP. -/
def execDdswap (gd : Guard) (b : R64) (s : State) : Out :=
  slotDo gd none (fun s => s.ddStart 0x2D 0 0 (s.g b) 0 none fun _ => 0) s
/-- DDSTAT: a block of 64 bytes follows the record. -/
def execDdstat (gd : Guard) (a : R16) (s : State) : Out :=
  slotDo gd none (fun s => s.ddStart 0x2E 0 0 0 0 (some (s.rdA a).1) fun _ => 64) s

/-! ### Acceptance (R332, R333) -/

/-- A place of the pool for the engine, under the translations of its die. -/
def State.poolLoc (s : State) (c : CoreId) (x : CtxId) (a : Addr) : EngLoc :=
  let t := s.ctx c x
  let die := s.ddDie c
  if s.hub.walks.any fun w => w.die == die && w.asid == t.asid && w.page == a.toNat / 65536 then .held
  else match s.phys [] die t.asid t.ptroot .engine true a.toNat with
    | .ok pa => if s.pinnedLoc none (.mem pa) then .held else .ok (.mem pa)
    | .perm => .viol
    | .held => .held
    | .page => .xlat
/-- The address of a node. -/
def Space.nodeAt (sp : Space) (id : Nat) : Addr := BitVec.ofNat 56 (sp.pool + 16 * id)

/-- The nodes from which an operation starts, its operands (R318). -/
def DdEntry.roots (d : DdEntry) : List Nat :=
  match d.opc with
  | 0x21 | 0x23 | 0x24 | 0x25 => [d.y.toNat, d.z.toNat]
  | 0x22 => [d.x.toNat, d.y.toNat, d.z.toNat]
  | 0x26 | 0x27 | 0x28 | 0x29 | 0x2A => [d.y.toNat]
  | _ => []
/-- Nodes and those under them. -/
def Space.under (sp : Space) : Nat → List Nat → List Nat
  | 0, l => l
  | n + 1, l =>
    let more := (l.flatMap fun id => match sp.node id with
      | some m => [m.lo, m.hi]
      | none => []).filter fun i => !l.contains i
    if more = [] then l else sp.under n (l ++ more.dedup)
/-- The nodes of the pool that an operation reads or writes: those under its operands, and those it changes; DDREF and DDUNREF read
their node, DDGC, DDORD and DDSWAP every node, DDSTAT none. An operand out of range names none. DEDUCED (log 38). -/
def DdEntry.touched (d : DdEntry) (old new : Space) : List Nat :=
  let ids : List Nat := match d.opc with
    | 0x29 | 0x2A => d.roots
    | 0x2B | 0x2C | 0x2D => (old.nodes ++ new.nodes).map (·.id)
    | 0x2E => []
    | _ => ((old.under (old.nodes.length + 1) d.roots) ++ (new.nodes.filter fun n => !old.nodes.contains n).map (·.id)).dedup
  ids.filter fun i => decide (i < old.cap)

/-- The pool pages of nodes: usable, untranslated or poisoned, with the STATUS that gives (Table 21.8), and whether one is held. -/
def State.poolCheck (s : State) (c : CoreId) (x : CtxId) (sp : Space) (ids : List Nat) : Option (BitVec 8) × Bool :=
  let ps := ids.map fun i => s.poolLoc c x (sp.nodeAt i)
  let held := ps.any fun p => p == .held
  let bad := ps.any fun p => p == .viol || p == .xlat
  let poison := ps.any fun p => match p with
    | .ok l => s.poisonedLoc l 16
    | _ => false
  (if bad then some 6 else if poison then some 4 else none, held)

/-- The pool pages that hold an operation start their walks (24 R378). -/
def State.poolWalk (s : State) (c : CoreId) (x : CtxId) (sp : Space) (ids : List Nat) : State :=
  ids.foldl (fun s i =>
    let t := s.ctx c x
    if s.phys [] (s.ddDie c) t.asid t.ptroot .engine true (sp.nodeAt i).toNat = .held then
      s.walkFor (s.ddDie c) t.asid (BitVec.ofNat 20 (0x40000 + (s.ddDie c).val)) (sp.nodeAt i)
    else s) s

/-- A node's 16 bytes (Table 21.2). -/
def nodeImage (level ref lo hi chain : Nat) : Nat := level + ref * 2 ^ 16 + lo * 2 ^ 32 + hi * 2 ^ 64 + chain * 2 ^ 96

/-- `n` bytes of the pool are written, under the translations of the engine's die. -/
def State.poolPut (s : State) (c : CoreId) (x : CtxId) (a : Addr) (n v : Nat) : State :=
  match s.poolLoc c x a with
  | .ok l =>
    let t := s.ctx c x
    (s.mscTouch (s.core c).alloc.part (s.xlat [] (s.ddDie c) t.asid t.ptroot) a.toNat n true).writeLoc l n v
  | _ => s
/-- A node enters or leaves a list: its image is written, CHAIN free; the link of another node, in its bucket or in the free
list, and a unique-table head may change with it, at places and to values the spec leaves to the engine (R314). DESIGN CHOICE
(log 9). -/
def State.relink (s : State) (c : CoreId) (x : CtxId) (sp : Space) (id img : Nat) : State :=
  let n := s.choices
  let free (i : Nat) : Nat := (Config.nodeChain (n + i)).toNat
  let s := s.poolPut c x (sp.nodeAt id) 16 (img + free 0 * 2 ^ 96)
  let s := s.poolPut c x (sp.nodeAt (Config.freeNode n % sp.cap) + 12) 4 (free 1)
  let s := s.poolPut c x (BitVec.ofNat 56 (sp.pool + 16 * sp.cap + 4 * (Config.freeNode (n + 1) % sp.cap))) 4 (free 2)
  { s with choices := n + 3 }
/-- The pool's bytes of the nodes that changed, and of those freed, are written (R314): only REF where a node stays in its list. -/
def State.poolWrite (s : State) (c : CoreId) (x : CtxId) (old new : Space) : State :=
  let s := new.nodes.foldl (fun s n => match old.node n.id with
    | some m =>
      if m.level = n.level ∧ m.lo = n.lo ∧ m.hi = n.hi then
        (if m.ref = n.ref then s else s.poolPut c x (new.nodeAt n.id + 2) 2 n.ref)
      else s.relink c x new n.id (nodeImage n.level n.ref n.lo n.hi 0)
    | none => s.relink c x new n.id (nodeImage n.level n.ref n.lo n.hi 0)) s
  old.nodes.foldl (fun s n => if (new.node n.id).isSome then s else s.relink c x new n.id (nodeImage 0xFFFE 0 0 0 0)) s

/-- What an operation does at its place in the serial order: STATUS, RESULT and AUX, bytes it writes to the own vault, the
space afterwards; or it finds the space full. -/
structure DdOut where
  status : BitVec 8
  result : Nat
  aux    : Nat
  data   : List (Nat × List Byte)
  work   : Work
  full   : Bool

/-- An operation that ends with a status and changes nothing. -/
def ddErr (st : BitVec 8) (w : Work) : DdOut := ⟨st, 0, 0, [], w, false⟩
/-- An operation without a result node. -/
def ddVal (aux : Nat) (data : List (Nat × List Byte)) (w : Work) : DdOut := ⟨0, 0, aux, data, w, false⟩
/-- A function-building form: RESULT carries one new reference. -/
def ddBuild (f : Bdd) (w : Work) : DdOut :=
  let r := internT f (w.1, w.2.1, 0)
  match r.1 with
  | none => ⟨0, 0, 0, [], r.2, true⟩
  | some id => ⟨0, id, r.2.2.2, [], (r.2.1.addRef id, r.2.2.1, r.2.2.2), false⟩

/-- An address of the core's own vault with `n` bytes below SCRATCH: its offset. -/
def ownRange (c : CoreId) (scratch a al n : Nat) : Option Nat :=
  if a % al = 0 ∧ a < 2 ^ 25 ∧ a / 2 ^ 22 = corePos c ∧ a % 2 ^ 22 + n ≤ scratch then some (a % 2 ^ 22) else none

/-- Does a function test only variables of a range (R325)? -/
def supportIn (u : List (Nat × Nat)) (f : Bdd) : Bool := f.levels.all fun l => u.any fun p => p.1 == l

/-- DDCOUNT and DDMASK (R325, R326). -/
def ddRange (k : Core) (c : CoreId) (mask : Bool) (f : Bdd) (desc : Nat) (w : Work) : DdOut :=
  let sp := w.1
  let sc := k.alloc.scratch
  let poison (o n : Nat) : Bool := k.vpoison.any fun g => decide (8 * g < o + n) && decide (o < 8 * g + 8)
  match ownRange c sc desc 16 16 with
  | none => ddErr 2 w
  | some o =>
    if poison o 16 then ddErr 4 w
    else
      let d0 := memReadN k.vault o 8
      let d1 := memReadN k.vault (o + 8) 8
      let first := d1 % 2 ^ 12
      let nf := d1 / 2 ^ 16 % 2 ^ 12
      let n := if mask then nf % 32 else if nf = 0 then 4096 else nf
      let bad := d0 / 2 ^ 56 ≠ 0 ∨ d1 / 2 ^ 28 ≠ 0 ∨ d1 / 2 ^ 12 % 16 ≠ 0 ∨ sp.nvars < first + n
        ∨ (mask ∧ (n = 0 ∨ 20 < n ∨ nf / 32 ≠ 0))
      let bytes := if mask then max 1 (2 ^ n / 8) else 16 * n
      match (if bad then none else ownRange c sc (d0 % 2 ^ 56) (if mask then 64 else 16) bytes) with
      | none => ddErr 2 w
      | some t =>
        let u := sp.rangeLevels first n
        if !supportIn u f then ddErr 1 w
        else if mask then
          let bit (j : Nat) : Bool := f.eval fun l => match u.find? fun p => p.1 == l with
            | some p => j.testBit p.2
            | none => false
          let bits := (List.range (2 ^ n)).map bit
          let byte (b : Nat) : Byte := BitVec.ofNat 8 ((List.range 8).foldl (fun acc i => acc + bit1 (bits.getD (8 * b + i) false) * 2 ^ i) 0)
          ddVal (bits.filter id).length [(t, (List.range bytes).map byte)] w
        else if poison t bytes then ddErr 4 w
        else
          let ws := u.map fun p => (memReadN k.vault (t + 16 * p.2) 8, memReadN k.vault (t + 16 * p.2 + 8) 8)
          let ts := ws.map fun p => f64Add p.1 p.2
          let ls := u.map (·.1)
          ddVal (f64Mul (countSkip ts 0 (countPos ls f)) (countVal ls ws ts f)) [] w

/-- The statistics block (Table 21.10). -/
def Space.block (sp : Space) : List Byte :=
  leBytes 8 (sp.alloc + sp.live * 2 ^ 32) ++ leBytes 8 (sp.cap + sp.hwm * 2 ^ 32) ++ leBytes 8 sp.nvars ++ leBytes 8 sp.ops
    ++ leBytes 8 sp.hits ++ leBytes 8 (sp.badref + sp.badop * 2 ^ 32) ++ leBytes 8 (sp.gcs + sp.abandon * 2 ^ 32) ++ leBytes 8 0

/-- DDORD (R329). -/
def ddOrder (k : Core) (o : Nat) (w : Work) : DdOut :=
  let sp := w.1
  let ls := (List.range sp.nvars).map fun v => memReadN k.vault (o + 16 + 2 * v) 2
  if k.vpoison.any (fun g => decide (8 * g < o + 16 + 2 * sp.nvars) && decide (o + 16 < 8 * g + 8)) then ddErr 4 w
  else if sp.alloc ≠ 0 ∨ !((List.range sp.nvars).all fun l => ls.contains l) then ddErr 3 w
  else ddVal 0 [] ({ sp with
      ord := ls ++ sp.ord.drop sp.nvars
      nodes := sp.nodes.map fun (n : Node) => { n with level := ls.getD (n.id - 2) n.level } }, w.2)

/-- The effect of an operation on its space. -/
def ddDo (k : Core) (c : CoreId) (d : DdEntry) (w : Work) : DdOut :=
  let sp := w.1
  let f := sp.fn d.y
  let two (g : Bdd → Bdd → DdOut) : DdOut := match f, sp.fn d.z with
    | some a, some b => g a b
    | _, _ => ddErr 1 w
  let cube (g : Bdd → List (Nat × Bool) → Bdd) : DdOut := two fun a b => match b.cube with
    | some ls => ddBuild (g a ls) w
    | none => ddErr 1 w
  match d.opc with
  | 0x21 => two fun a b => ddBuild (Bdd.apply (boolFn d.fn) a b) w
  | 0x22 => match sp.fn d.x with
    | some h => two fun a b => ddBuild (Bdd.ite h a b) w
    | none => ddErr 1 w
  | 0x23 => cube fun a ls => ls.foldl (fun f l => f.subst l.1 l.2) a
  | 0x24 => cube fun a ls => ls.foldl (fun f l => Bdd.apply (· || ·) (f.subst l.1 false) (f.subst l.1 true)) a
  | 0x25 => cube fun a ls => ls.foldl (fun f l => Bdd.apply (· && ·) (f.subst l.1 false) (f.subst l.1 true)) a
  | 0x26 => match f with
    | some a => ddBuild a.not w
    | none => ddErr 1 w
  | 0x27 => match f with
    | some a => ddRange k c false a d.z.toNat w
    | none => ddErr 1 w
  | 0x28 => match f with
    | some a => ddRange k c true a d.z.toNat w
    | none => ddErr 1 w
  | 0x29 => match f with
    | some _ => ddVal 0 [] (sp.addRef d.y.toNat, w.2)
    | none => ddVal 0 [] ({ sp with badref := sp.badref + 1 }, w.2)
  | 0x2A => match f with
    | some _ =>
      if ((sp.node d.y.toNat).map (·.ref)) = some 0 then ddVal 0 [] ({ sp with badref := sp.badref + 1 }, w.2)
      else ddVal 0 [] (sp.dropRef d.y.toNat, w.2)
    | none => ddVal 0 [] ({ sp with badref := sp.badref + 1 }, w.2)
  | 0x2B =>
    let t := sp.sweepDead (sp.nodes.length)
    ddVal ((sp.alloc - t.alloc) + t.alloc * 2 ^ 32) [] ({ t with gcs := t.gcs + 1 }, w.2)
  | 0x2C => ddOrder k (d.rcd.getD 0) w
  | 0x2D =>
    let l := d.y.toNat
    if l + 1 < sp.nvars ∧ sp.alloc + 2 * (sp.nodes.filter fun n => n.level == l).length ≤ sp.hwm then ddVal 0 [] (swapLevels l w)
    else ddVal 0 [] ({ sp with badop := sp.badop + 1 }, w.2)
  | _ => ddVal 0 [(d.rcd.getD 0 + 16, sp.block)] w

/-- Is an operation a barrier whose completion the space waits for (R333)? -/
def DdEntry.barrier (d : DdEntry) : Bool := d.opc == 0x2B || d.opc == 0x2C || d.opc == 0x2D
/-- The accepted operations of a group that have not completed. -/
def State.inEngine (s : State) (group : Nat) : List DdEntry :=
  (List.finRange 192).flatMap fun c =>
    if ((s.core c).allot.map (·.group)) = some group then ((s.core c).entries.map (·.2)).filter (·.accepted) else []

/-- The entry a core's queue offers next: the first in issue order that waits, once its release has performed. -/
def State.offered (s : State) (c : CoreId) : Option (R16 × DdEntry) :=
  let q := (s.core c).entries.filter fun e => !e.2.accepted && !e.2.abandoned
  match q.find? fun e => q.all fun f => decide (e.2.seq ≤ f.2.seq) with
  | none => none
  | some e => if (s.ctx c e.2.ctx).accs.any fun a => a.id == e.2.waitId then none else some e

/-- Write bytes to a vault; blocked WAITs are tested again. -/
def State.vaultPut (s : State) (c : CoreId) (o : Nat) (l : List Byte) : State :=
  (s.writeLoc (.vault c o) l.length (leNat l)).retest (.vault c o) l.length

/-- BRACKEN_ACCEPT (R320, R332, R333): the next operation of a core's queue takes its place in the serial order, with its
abandonment if the space is full (R335). DEDUCED (log 38). -/
def execBrackenAccept (c : CoreId) (s : State) : Out :=
  .next (match s.offered c, s.spaceOf c with
    | some (e, d), some sp =>
      let run := s.inEngine sp.group
      let w := ddDo (s.core c) c d (sp, s.choices, 0)
      let ids := d.touched sp w.work.1
      let pc := s.poolCheck c d.ctx sp ids
      if (run.any fun q => q.barrier) || (d.barrier && run ≠ []) then s
      else if pc.2 then s.poolWalk c d.ctx sp ids
      else
        let r := match pc.1 with
          | some st => ddErr st (sp, s.choices, 0)
          | none => w
        let sp' := if r.full then { r.work.1 with abandon := r.work.1.abandon + 1 } else { r.work.1 with
          ops := r.work.1.ops + 1
          hits := r.work.1.hits + Config.cacheHits r.work.2.1 }
        let s := { s.setSpace sp' with choices := r.work.2.1 + 1 }
        let s := s.poolWrite c d.ctx sp sp'
        let s := r.data.foldl (fun s p => s.vaultPut c p.1 p.2) s
        let dr := s.draw
        let d := { d with reads := dr.1 }
        let s := dr.2
        if r.full then s.setEntry c e (some { d with accepted := true, abandoned := true })
        else if d.rcd = none then (s.setEntry c e none).ddDone c d
        else s.setEntry c e (some { d with accepted := true, result := some (r.status, BitVec.ofNat 64 r.result, BitVec.ofNat 64 r.aux) })
    | _, _ => s)

/-- An operation whose result is there completes: the record is written and the entry released. -/
def State.ddComplete (s : State) (c : CoreId) (e : R16) : State :=
  match (s.core c).ddq[e] with
  | none => s
  | some d => match d.result, d.rcd with
    | some (st, res, aux), some o => (s.ddEnd c e d o st res aux).retest (.vault c o) 16
    | _, _ => s
/-- DD_OPERATION_COMPLETE (R321): the record is written and the entry released; its node reads are charged. -/
def execDdOperationComplete (c : CoreId) (e : R16) (s : State) : Out := .next (s.ddComplete c e)

/-- The same, and the WAITs on the record are tested again. -/
def State.ddDiscard (s : State) (c : CoreId) (e : R16) (d : DdEntry) : State :=
  match d.rcd with
  | some o => (s.ddDrop c e d).retest (.vault c o) 16
  | none => s.ddDrop c e d

/-- Is an abandoned operation the earliest of its context whose trap is not pending yet (R336)? The operations of a core are
accepted, and abandoned, in the order of their numbers. -/
def Core.nextAbandoned (k : Core) (d : DdEntry) : Bool :=
  d.abandoned && d.accepted && k.entries.all fun q => q.2.ctx != d.ctx || !q.2.abandoned || !q.2.accepted || decide (d.seq ≤ q.2.seq)

/-- DD_ABANDON (R335, R336): the entry of an abandoned operation is kept, and DD_TABLE_FULL becomes pending, in the order of
abandonment. -/
def execDdAbandon (c : CoreId) (e : R16) (s : State) : Out :=
  .next (match (s.core c).ddq[e] with
    | some d =>
      if (s.core c).nextAbandoned d then
        if (s.ctx c d.ctx).run = .halted then s.ddDiscard c e d
        else s.ddAbandoned c e d
      else s
    | none => s)

/-- TRET from a DD_TABLE_FULL frame resubmits the kept entry (R337). -/
def State.ddResubmit (s : State) (c : CoreId) (x : CtxId) (e : R16) : State :=
  s.modCore c fun k => match k.ddq[e] with
    | some d => if d.ctx = x ∧ d.abandoned then { k with
        ddq := k.ddq.set e (some { d with abandoned := false, seq := k.ddSeq })
        ddSeq := k.ddSeq + 1 } else k
    | none => k

/-- The abandoned operations of a context that halts are discarded, with their pending traps (R338). -/
def State.ddHalt (s : State) (c : CoreId) (x : CtxId) : State :=
  ((s.core c).entries.foldl (fun s e => if e.2.ctx = x ∧ e.2.abandoned ∧ !e.2.accepted then s.ddDiscard c e.1 e.2 else s) s).modCtx c x
    fun t => { t with faults := t.faults.filter fun f => f.cause != 0x15 }
/-- A heartbeat halt: the context's accepted operations complete, or are discarded, before its record is complete (R338). DEDUCED
(log 38). -/
def State.ddFinish (s : State) (c : CoreId) (x : CtxId) : State :=
  ((s.core c).entries.foldl (fun s e => if e.2.ctx = x ∧ e.2.accepted then
      (if e.2.abandoned then s.ddDiscard c e.1 e.2 else s.ddComplete c e.1) else s) s).ddHalt c x

end Sys2Proof.Machine
end

