-- ==== Sys2Proof/Machine/Domain.lean ====
section
/-!
DEFINITION. Domain registers and narrowing (15): the set helpers, the narrowing table, the constraint store, episodes,
failure and checkpoints, and the S2 forms.
-/
namespace Sys2Proof.Machine

/-! ### Sets (15 R210 to R212) -/

/-- Contains. -/
def DomReg.has (x : DomReg) (v : Int) : Bool :=
  decide (x.lo.toInt ≤ v) && decide (v ≤ x.hi.toInt) &&
    (decide (64 ≤ v - x.lo.toInt) || x.mask.getLsbD (v - x.lo.toInt).toNat)

/-- Clamp32. -/
def clamp32 (x : Int) : Int := max (-2147483648) (min x 2147483647)

/-- The least member from `v` up, at most `h`. -/
def findUp (m : Int → Bool) (h : Int) : Nat → Int → Option Int
  | 0, _ => none
  | n + 1, v => if h < v then none else if m v then some v else findUp m h n (v + 1)
/-- The greatest member from `v` down, at least `l`. -/
def findDown (m : Int → Bool) (l : Int) : Nat → Int → Option Int
  | 0, _ => none
  | n + 1, v => if v < l then none else if m v then some v else findDown m l n (v - 1)

/-- Canon. The membership tests used here leave out values of at most two 64-value windows and one value, so 132
candidates from either end find the bound or show the set empty. -/
def canon (l h : Int) (m : Int → Bool) : Option DomReg :=
  match findUp m h 132 l with
  | none => none
  | some lo => match findDown m lo 132 h with
    | none => none
    | some hi => some ⟨BitVec.ofInt 32 lo, BitVec.ofInt 32 hi, BitVec.ofNat 64 ((List.range 64).foldl (fun (acc i : Nat) =>
        acc + bit1 (decide (lo + (i : Int) ≤ hi) && m (lo + (i : Int))) * 2 ^ i) 0)⟩

/-- Restrict. -/
def DomReg.restrict (x : DomReg) (l h : Int) : Option DomReg :=
  canon (max x.lo.toInt (clamp32 l)) (min x.hi.toInt (clamp32 h)) x.has
/-- Remove. -/
def DomReg.remove (x : DomReg) (v : Int) : Option DomReg :=
  if x.lo.toInt + 64 ≤ v ∧ v < x.hi.toInt then some x
  else canon x.lo.toInt x.hi.toInt fun u => x.has u && u != v
/-- Intersect with a set shifted by `k`. -/
def DomReg.meetShift (x y : DomReg) (k : Int) : Option DomReg :=
  canon (max x.lo.toInt (clamp32 (y.lo.toInt + k))) (min x.hi.toInt (clamp32 (y.hi.toInt + k)))
    fun v => x.has v && y.has (v - k)
/-- Intersect. -/
def DomReg.meet (x y : DomReg) : Option DomReg := x.meetShift y 0
/-- Is the set a singleton? -/
def DomReg.single (x : DomReg) : Bool := x.lo == x.hi

/-- Beyond every bound. -/
def inf : Int := 2 ^ 40

/-- QuotNarrow. -/
def quotNarrow (x z y : DomReg) : Option DomReg :=
  let fl (a b : Int) : Int := a.fdiv b
  let ce (a b : Int) : Int := -((-a).fdiv b)
  let x1 := if 0 < y.lo.toInt ∨ y.hi.toInt < 0 then
      x.restrict
        (min (min (ce z.lo.toInt y.lo.toInt) (ce z.lo.toInt y.hi.toInt)) (min (ce z.hi.toInt y.lo.toInt) (ce z.hi.toInt y.hi.toInt)))
        (max (max (fl z.lo.toInt y.lo.toInt) (fl z.lo.toInt y.hi.toInt)) (max (fl z.hi.toInt y.lo.toInt) (fl z.hi.toInt y.hi.toInt)))
    else some x
  match x1 with
  | none => none
  | some q => if z.has 0 then some q else q.remove 0

/-- The values a narrowing form computes for its registers, or the register found empty. -/
abbrev Narrowed := Except R64 (List (R64 × DomReg))

/-- D′ then A′ (Table 15.5). -/
def seq2 (d a : R64) (d' : Option DomReg) (fa : DomReg → Option DomReg) : Narrowed :=
  match d' with
  | none => .error d
  | some x => match fa x with
    | none => .error a
    | some y => .ok [(d, x), (a, y)]
/-- D′, A′ then B′ (Table 15.5). -/
def seq3 (d a b : R64) (d' : Option DomReg) (fa : DomReg → Option DomReg) (fb : DomReg → DomReg → Option DomReg) : Narrowed :=
  match d' with
  | none => .error d
  | some x => match fa x with
    | none => .error a
    | some y => match fb x y with
      | none => .error b
      | some z => .ok [(d, x), (a, y), (b, z)]

/-- The sweep of NDIFF (R221): the values so far, and the registers still to be visited. -/
def ndiffSweep (d : Nat) (n : Nat) : List Nat → List DomReg → Narrowed
  | [], xs => .ok ((List.range n).map fun j => (Fin.ofNat 64 (d + j), xs.getD j DomReg.zero))
  | i :: is, xs =>
    let x := xs.getD i DomReg.zero
    if x.single then
      let ys := (List.range n).map fun j => if j = i then some (xs.getD j DomReg.zero) else (xs.getD j DomReg.zero).remove x.lo.toInt
      match (List.range n).find? fun j => (ys.getD j none).isNone with
      | some j => .error (Fin.ofNat 64 (d + j))
      | none => ndiffSweep d n is (ys.map fun y => y.getD DomReg.zero)
    else ndiffSweep d n is xs

/-- The computed values of a narrowing form (R220, R221), before values of one register are intersected. -/
def narrowRaw (e : Constraint) (get : R64 → DomReg) : Narrowed :=
  let d := get e.d
  let a := get e.a
  let b := get e.b
  let dl := d.lo.toInt
  let al := a.lo.toInt
  let ah := a.hi.toInt
  let bl := b.lo.toInt
  let bh := b.hi.toInt
  let k : Int := if e.opc = 0x47 ∨ e.opc = 0x48 then e.kofs.toInt else 0
  match e.opc with
  | 0x45 | 0x47 => seq2 e.d e.a (d.meetShift a k) fun x => a.meetShift x (-k)
  | 0x46 | 0x48 => seq2 e.d e.a (if a.single then d.remove (al + k) else some d) fun x =>
      if x.single then a.remove (x.lo.toInt - k) else some a
  | 0x49 => seq2 e.d e.a (d.restrict (-inf) (ah - 1)) fun x => a.restrict (x.lo.toInt + 1) inf
  | 0x4A => seq2 e.d e.a (d.restrict (-inf) ah) fun x => a.restrict x.lo.toInt inf
  | 0x4B => seq3 e.d e.a e.b (d.restrict (al + bl) (ah + bh))
      (fun x => a.restrict (x.lo.toInt - bh) (x.hi.toInt - bl))
      (fun x y => b.restrict (x.lo.toInt - y.hi.toInt) (x.hi.toInt - y.lo.toInt))
  | 0x4C => seq3 e.d e.a e.b (d.restrict (al - bh) (ah - bl))
      (fun x => a.restrict (x.lo.toInt + bl) (x.hi.toInt + bh))
      (fun x y => b.restrict (y.lo.toInt - x.hi.toInt) (y.hi.toInt - x.lo.toInt))
  | 0x4D => seq3 e.d e.a e.b
      (d.restrict (min (min (al * bl) (al * bh)) (min (ah * bl) (ah * bh))) (max (max (al * bl) (al * bh)) (max (ah * bl) (ah * bh))))
      (fun x => quotNarrow a x b)
      (fun x y => quotNarrow b x y)
  | 0x4E => seq3 e.d e.a e.b (d.restrict (min al bl) (min ah bh))
      (fun x => a.restrict x.lo.toInt inf) (fun x _ => b.restrict x.lo.toInt inf)
  | 0x4F => seq3 e.d e.a e.b (d.restrict (max al bl) (max ah bh))
      (fun x => a.restrict (-inf) x.hi.toInt) (fun x _ => b.restrict (-inf) x.hi.toInt)
  | 0x50 => seq2 e.d e.a
      (d.restrict (if 0 ≤ al then al else if ah ≤ 0 then -ah else 0) (max al.natAbs ah.natAbs))
      fun x => a.restrict (-x.hi.toInt) x.hi.toInt
  | 0x51 => match canon (max dl 0) (min d.hi.toInt 63) fun v => d.has v && e.mask.getLsbD v.toNat with
    | none => .error e.d
    | some x => .ok [(e.d, x)]
  | _ =>
    let n := e.kofs.toNat
    ndiffSweep e.d.val n (List.range n) ((List.range n).map fun j => get (Fin.ofNat 64 (e.d.val + j)))

/-- One register in several fields receives the intersection of its values (R220). -/
def mergeWrites : List (R64 × DomReg) → List (R64 × DomReg) → Narrowed
  | acc, [] => .ok acc
  | acc, (r, v) :: rest =>
    match acc.find? fun p => p.1 == r with
    | none => mergeWrites (acc ++ [(r, v)]) rest
    | some p => match p.2.meet v with
      | none => .error r
      | some w => mergeWrites (acc.map fun q => if q.1 = r then (r, w) else q) rest

/-- The computed values of a narrowing form. -/
def narrowVals (e : Constraint) (get : R64 → DomReg) : Narrowed :=
  match narrowRaw e get with
  | .error r => .error r
  | .ok ws => mergeWrites [] ws

/-- The registers a form names. -/
def Constraint.regs (e : Constraint) : List R64 :=
  if e.opc = 0x51 then [e.d]
  else if e.opc = 0x52 then (List.range e.kofs.toNat).map fun j => Fin.ofNat 64 (e.d.val + j)
  else if 0x4B ≤ e.opc ∧ e.opc ≤ 0x4F then [e.d, e.a, e.b]
  else [e.d, e.a]

/-! ### Failure (15 R234 to R236) -/

/-- cr.fpc (Table 15.10). -/
def fpcWord (cause dreg entry : Nat) (hdr : Word) : Word :=
  BitVec.ofNat 64 (cause * 2 ^ 62 + dreg * 2 ^ 56 + entry * 2 ^ 47 + 2 * 2 ^ 44 + hdr.toNat % 2 ^ 44)

/-- cr.fpc and cr.nstat of a failure; every pending domain effect is discarded and no episode continues (R234). DESIGN CHOICE (log 27):
where a form's own write fails while no episode runs, USED, PASS and ENTRY, of which R234 says nothing, keep their values. -/
def Ctx.fail (t : Ctx) (cause dreg entry : Nat) (hdr : Word) : Ctx :=
  let u := match t.episode with
    | some e => (BitVec.ofNat 32 e.used, BitVec.ofNat 11 (min e.pass 2047), (0 : BitVec 8))
    | none => (t.nstat.used, t.nstat.pass, t.nstat.entry)
  { t with
    fpc := fpcWord cause dreg entry hdr
    nstat := ⟨u.1, u.2.2, u.2.1, false, true, false, false⟩
    pendDom := []
    episode := none }

/-- The pending g results of DLO, DHI and DCNT of a context are discarded (R234). -/
def State.dropDom (s : State) (c : CoreId) (x : CtxId) : State :=
  s.modCore c fun k => { k with inflight := k.inflight.filter fun f => !(f.ctx == x && match f.wr with
    | .dom _ _ => true
    | _ => false) }

/-- A failure at commit (R235, 05 R71); cr.ftv is read at issue (05 R69). -/
def State.failCommit (s : State) (dreg : R64) : State :=
  let ftv := s.rdCr 0x023
  let s := s.modCur fun t => t.fail 1 dreg.val 0x100 s.env.hdr
  let s := s.dropDom s.env.core s.env.ctx
  if ftv = 0 then s.slotFaultFree 0x08
  else s.modEnv fun e => { e with transfer := some ⟨ftv, 3, true⟩, yield := false, discard := true }

/-- A user transfer that takes the place of the bundle due (R234): its start mark is checked, three bubbles follow. DESIGN CHOICE
(log 27): where the mark is missing, the transferring bundle that 05 R75's frame names, with AFTER, is the last one issued; a
context that is not Running (R234 speaks of one that is) keeps its state, its blocks and its mode, and only the point at which it
issues next changes. -/
def State.userTransfer (s : State) (c : CoreId) (x : CtxId) (target : Word) : State :=
  let t := s.ctx c x
  if (s.core c).markOk target then
    s.modCtx c x fun t => { t with
      pc := target
      bubbles := 3
      transferred := true
      replay := none
      fired := none
      noRewrite := false }
  else
    s.takeTrap c x { Frame.make t.lastHdr 0 0x02 target 0 with after := true } t.lastHdr 0

/-- A trap whose frame names the bundle due, with slot-resume 0. -/
def State.dueTrap (s : State) (c : CoreId) (x : CtxId) (cause : BitVec 8) : State :=
  let f := s.freeWord
  f.2.takeTrap c x (f.2.dueFrame c x cause f.1 0) ((s.core c).dueAddr (s.ctx c x)) 0

/-- A failure found while an effect is applied (R236). DESIGN CHOICE (log 27): that of a Halted context, which issues nothing more and
leaves that state only with its launch (03 Table 3.3), writes cr.fpc and cr.nstat, and neither transfers nor traps. -/
def State.failApply (s : State) (c : CoreId) (x : CtxId) (dreg : R64) (entry : Nat) (hdr : Word) : State :=
  let s := (s.modCtx c x fun t => t.fail 2 dreg.val entry hdr).dropDom c x
  let t := s.ctx c x
  if t.run = .halted then s
  else if t.ftv = 0 then s.dueTrap c x 0x08 else s.userTransfer c x t.ftv

/-! ### Applying effects and episodes (15 R215, R222 to R228) -/

/-- Writes of one form: each register meets its value at this moment; all are written, or none (R215). DEDUCED (log 27). -/
def applyWrites (d : Vector DomReg 64) : List (R64 × DomReg) → Except R64 (Vector DomReg 64 × List R64)
  | [] => .ok (d, [])
  | (r, v) :: rest =>
    match (d[r]).meet v with
    | none => .error r
    | some w => match applyWrites d rest with
      | .error q => .error q
      | .ok (d', ch) => .ok (d'.set r w, if w = d[r] then ch else r :: ch)

/-- Episode end (R227, R229). -/
def Ctx.endEpisode (t : Ctx) (e : Episode) (bud fp : Bool) : Ctx :=
  { t with
    nstat := ⟨BitVec.ofNat 32 e.used, 0, BitVec.ofNat 11 (min e.pass 2047), false, false, bud, fp⟩
    episode := none }

/-- d-registers of a context are written: their words lose their poison (10 R165). -/
def Core.freshD (k : Core) (x : CtxId) (ds : List R64) : Core :=
  { k with rpoison := k.rpoison.filter fun r => match r with
      | .d y d _ => y != x || !ds.contains d
      | _ => true }

/-- One re-execution of an active episode, or its end (R227); a re-execution freezes the core for two cycles. DESIGN CHOICE (log 27): the
budget trap of a Halted context writes cr.fpc alone. -/
def State.episodeStep (s : State) (c : CoreId) (x : CtxId) (e : Episode) : State :=
  let t := s.ctx c x
  match e.goOn t.store with
  | (e, none) => s.modCtx c x fun t => t.endEpisode e false true
  | (e, some i) =>
    if e.used = t.nbud.toNat then
      let s := s.modCtx c x fun t => t.endEpisode e true false
      if t.nbt then
        let s := s.modCtx c x fun t => { t with fpc := fpcWord 3 0 0x100 ((s.core c).dueAddr t), pendDom := [] }
        if t.run = .halted then s.dropDom c x else (s.dropDom c x).dueTrap c x 0x09
      else s
    else
      let e := { e with used := e.used + 1 }
      let s := s.modCore c fun k => { k with freezeLeft := k.freezeLeft + 2, freezeWhy := .domain }
      match t.store[i]? with
      | none => s
      | some w =>
        let r : Except R64 (Vector DomReg 64 × List R64) := match narrowVals w fun q => t.d[q] with
          | .error q => .error q
          | .ok ws => applyWrites t.d ws
        match r with
        | .error q => (s.modCtx c x fun t => { t with episode := some e }).failApply c x q i e.hdr
        | .ok (d', ch) => (s.modCore c fun k => k.freshD x ch).modCtx c x fun t => { t with
            d := d'
            episode := some { e with entry := i + 1, cur := e.cur ||| regMask ch } }

/-- Start an episode (R226). -/
def Ctx.startEpisode (t : Ctx) (all : Bool) (prev hdr : Word) : Ctx :=
  { t with episode := some ⟨all, 0, 1, 0, prev, 0, hdr⟩ }

/-- A d-register as 16 bytes: LO, HI, MASK from the lowest (Table 15.1). -/
def DomReg.num (r : DomReg) : Nat := r.lo.toNat + r.hi.toNat * 2 ^ 32 + r.mask.toNat * 2 ^ 64
/-- A d-register of its 16 bytes. -/
def DomReg.ofNum (n : Nat) : DomReg := ⟨BitVec.ofNat 32 n, BitVec.ofNat 32 (n / 2 ^ 32), BitVec.ofNat 64 (n / 2 ^ 64)⟩

/-- The first save-RAM byte of level `j` of a context (R237). -/
def levelAt (x : CtxId) (j : Nat) : Nat := (16 * x.val + j) * 1024

/-- The d-registers of a level are written to the save RAM. -/
def Core.saveLevel (k : Core) (x : CtxId) (j : Nat) (d : Vector DomReg 64) : Core :=
  { k with
    spoison := clearPoison k.spoison (levelAt x j) 1024
    saveRam := (List.finRange 64).foldl (fun m (r : R64) => memWriteN m (levelAt x j + 16 * r.val) 16 (d[r]).num) k.saveRam }

/-- The d-registers that a level holds in the save RAM. -/
def Core.savedLevel (k : Core) (x : CtxId) (j : Nat) : Vector DomReg 64 :=
  Vector.ofFn fun r : R64 => DomReg.ofNum (memReadN k.saveRam (levelAt x j + 16 * r.val) 16)

/-- Does an episode go on at the core's step? One that is interrupted waits until its context runs again, a Halted one until its core is
resumed (R228, R233). -/
def Ctx.propagates (t : Ctx) : Bool :=
  t.episode.isSome && (if t.nstat.act then t.run == .running && !t.hm || t.run == .halted && !t.stopping
    else t.run == .ready || t.run == .running || t.run == .blocked || t.run == .halted)

/-- The d-registers of a context take the poison of a level's words in the save RAM (10 R165). -/
def Core.restorePoison (k : Core) (x : CtxId) (j : Nat) : Core :=
  let g := levelAt x j / 8
  { k.freshD x (List.finRange 64) with
    rpoison := (k.freshD x (List.finRange 64)).rpoison ++ ((k.spoison.filter fun p => decide (g ≤ p) && decide (p < g + 128)).map fun p =>
      .d x (Fin.ofNat 64 ((p - g) / 2)) ((p - g) % 2)) }

/-- Apply one pending effect at its visibility step (R215, R222, R225, R226, R238). -/
def State.applyDom (s : State) (c : CoreId) (x : CtxId) (p : PendDom) : State :=
  match p.eff with
  | .narrow ws rec1 =>
    let t := s.ctx c x
    match applyWrites t.d ws with
    | .error q => s.failApply c x q 0x100 p.hdr
    | .ok (d', ch) =>
      (s.modCore c fun k => k.freshD x (ws.map (·.1))).modCtx c x fun t =>
        let t := { t with d := d', store := t.store ++ rec1.toList }
        if ch ≠ [] ∧ t.npe ∧ t.store ≠ [] then t.startEpisode false (regMask ch) p.hdr else t
  | .set d r => (s.modCore c fun k => k.freshD x [d]).modCtx c x fun t => { t with d := t.d.set d r }
  | .nprop => s.modCtx c x fun t =>
      if t.store = [] then { t with nstat := { t.nstat with used := 0, pass := 0, entry := 0, act := false, fail := false, bud := false, fp := true } }
      else t.startEpisode true 0 p.hdr
  | .nclr => s.modCtx c x fun t => { t with store := match t.levels with
      | [] => []
      | l :: _ => t.store.take l.top }
  | .nckpt d l => (s.modCore c fun k => k.saveLevel x (s.ctx c x).levels.length d).modCtx c x fun t => { t with levels := l :: t.levels }
  | .nrest =>
    let k := s.core c
    let s := match (s.ctx c x).levels with
      | [] => s
      | _ :: rest => s.modCore c fun k => k.restorePoison x rest.length
    s.modCtx c x fun t => match t.levels with
      | [] => t
      | l :: rest => { t with d := k.savedLevel x rest.length, store := t.store.take l.top, nstat := l.nstat }
  | .npop => s.modCtx c x fun t => { t with levels := t.levels.tail }

/-- DOMAIN_EFFECT_APPLY: the active episode takes its next re-execution (one that was interrupted goes on), or the earliest
effect due is applied. -/
def execDomainEffectApply (c : CoreId) (x : CtxId) (s : State) : Out :=
  let t := s.ctx c x
  .next (match t.episode with
    | some e => (s.modCtx c x fun t => { t with nstat := { t.nstat with act := false, entry := 0 } }).episodeStep c x e
    | none => match t.pendDom.find? fun p => decide (p.due ≤ (s.core c).step) with
      | none => s
      | some p => (s.modCtx c x fun t => { t with pendDom := t.pendDom.erase p }).applyDom c x p)

/-! ### Forms -/

/-- A domain form: handler mode forbids it (24 R363), and its d-registers must lie below DOMAINS (R216). -/
def domDo (gd : Guard) (regs : List R64) (f : State → State) (s : State) : Out :=
  slotDo gd (some .scalar) (fun s => s.outsideHandler fun s =>
    if regs.any fun r => decide (s.alloc.domains ≤ r.val) then s.slotFaultFree 0x19 else f s) s

/-- A domain effect, due `lat` steps after the issue. -/
def State.pushDom (s : State) (lat : Nat) (eff : DomEff) : State :=
  let due := (s.core s.env.core).step + lat
  s.modCur fun t => { t with pendDom := t.pendDom ++ [⟨due, s.env.hdr, eff⟩] }

/-- DSET (R217). -/
def execDset (gd : Guard) (d a b : R64) (k : BitVec 10) (s : State) : Out :=
  domDo gd [d] (fun s =>
    match canon (clamp32 ((s.g a).toInt + k.toInt)) (clamp32 ((s.g b).toInt + k.toInt)) fun _ => true with
    | none => s.failCommit d
    | some r => s.pushDom 2 (.set d r)) s
/-- DSETM (R218). -/
def execDsetm (gd : Guard) (d a : R64) (s : State) : Out :=
  domDo gd [d] (fun s =>
    let x := s.rdD d
    let m := s.g a
    match canon x.lo.toInt x.hi.toInt fun v => decide (64 ≤ v - x.lo.toInt) || m.getLsbD (v - x.lo.toInt).toNat with
    | none => s.failCommit d
    | some r => s.pushDom 2 (.set d r)) s
/-- A g result of DLO, DHI or DCNT, which a failure discards (R234). -/
def State.pushRead (s : State) (d : R64) (v : Word) : State := if d = 0 then s else s.push 2 (.dom d v) 0
/-- The values of the representation (R219). -/
def DomReg.count (x : DomReg) : Nat :=
  let pop := ((List.range 64).filter fun i => x.mask.getLsbD i).length
  let w := (x.hi.toInt - x.lo.toInt).toNat
  if w < 64 then pop else pop + w - 63
/-- DLO. -/
def execDlo (gd : Guard) (d a : R64) (s : State) : Out :=
  domDo gd [a] (fun s => s.pushRead d ((s.rdD a).lo.signExtend 64)) s
/-- DHI. -/
def execDhi (gd : Guard) (d a : R64) (s : State) : Out :=
  domDo gd [a] (fun s => s.pushRead d ((s.rdD a).hi.signExtend 64)) s
/-- DCNT. -/
def execDcnt (gd : Guard) (d a : R64) (s : State) : Out :=
  domDo gd [a] (fun s => s.pushRead d (BitVec.ofNat 64 (s.rdD a).count)) s

/-- Records pending from earlier forms (R223). -/
def Ctx.pendingRecords (t : Ctx) : Nat := (t.pendDom.filter fun p => match p.eff with
  | .narrow _ (some _) => true
  | _ => false).length

/-- A narrowing form (R220 to R223): its values are computed from the snapshot at commit. DEDUCED (log 28). -/
def narrowForm (gd : Guard) (k : Bool) (e : Constraint) (s : State) : Out :=
  domDo gd e.regs (fun s =>
    if k && s.cur.store.length + s.cur.pendingRecords == min s.alloc.store 256 then s.slotFaultFree 0x0B
    else match narrowVals e s.rdD with
      | .error r => s.failCommit r
      | .ok ws => s.pushDom 2 (.narrow ws (if k then some e else none))) s

/-- NEQ. -/
def execNeq (gd : Guard) (k : Bool) (d a : R64) (s : State) : Out := narrowForm gd k ⟨0x45, d, a, 0, 0, 0⟩ s
/-- NNE. -/
def execNne (gd : Guard) (k : Bool) (d a : R64) (s : State) : Out := narrowForm gd k ⟨0x46, d, a, 0, 0, 0⟩ s
/-- NEQO. -/
def execNeqo (gd : Guard) (k : Bool) (d a : R64) (o : BitVec 10) (s : State) : Out := narrowForm gd k ⟨0x47, d, a, 0, o, 0⟩ s
/-- NNEO. -/
def execNneo (gd : Guard) (k : Bool) (d a : R64) (o : BitVec 10) (s : State) : Out := narrowForm gd k ⟨0x48, d, a, 0, o, 0⟩ s
/-- NLT. -/
def execNlt (gd : Guard) (k : Bool) (d a : R64) (s : State) : Out := narrowForm gd k ⟨0x49, d, a, 0, 0, 0⟩ s
/-- NLE. -/
def execNle (gd : Guard) (k : Bool) (d a : R64) (s : State) : Out := narrowForm gd k ⟨0x4A, d, a, 0, 0, 0⟩ s
/-- NADD. -/
def execNadd (gd : Guard) (k : Bool) (d a b : R64) (s : State) : Out := narrowForm gd k ⟨0x4B, d, a, b, 0, 0⟩ s
/-- NSUB. -/
def execNsub (gd : Guard) (k : Bool) (d a b : R64) (s : State) : Out := narrowForm gd k ⟨0x4C, d, a, b, 0, 0⟩ s
/-- NMUL. -/
def execNmul (gd : Guard) (k : Bool) (d a b : R64) (s : State) : Out := narrowForm gd k ⟨0x4D, d, a, b, 0, 0⟩ s
/-- NMIN. -/
def execNmin (gd : Guard) (k : Bool) (d a b : R64) (s : State) : Out := narrowForm gd k ⟨0x4E, d, a, b, 0, 0⟩ s
/-- NMAX. -/
def execNmax (gd : Guard) (k : Bool) (d a b : R64) (s : State) : Out := narrowForm gd k ⟨0x4F, d, a, b, 0, 0⟩ s
/-- NABS. -/
def execNabs (gd : Guard) (k : Bool) (d a : R64) (s : State) : Out := narrowForm gd k ⟨0x50, d, a, 0, 0, 0⟩ s
/-- NIN: the mask is gA from the snapshot. -/
def execNin (gd : Guard) (k : Bool) (d a : R64) (s : State) : Out := narrowForm gd k ⟨0x51, d, a, 0, 0, s.g a⟩ s
/-- NDIFF. -/
def execNdiff (gd : Guard) (k : Bool) (d : R64) (n : BitVec 10) (s : State) : Out := narrowForm gd k ⟨0x52, d, 0, 0, n, 0⟩ s
/-- NPROP (R226). -/
def execNprop (gd : Guard) (s : State) : Out := domDo gd [] (fun s => s.pushDom 2 .nprop) s
/-- NCLR (R225). -/
def execNclr (gd : Guard) (s : State) : Out := domDo gd [] (fun s => s.pushDom 1 .nclr) s
/-- The level that a word of cr.nstat holds (Table 15.6): TOP and the rest. -/
def Level.ofWord (w : Word) : Level :=
  ⟨w.toNat / 2 ^ 23 % 2 ^ 9, ⟨(w >>> 32).setWidth 32, (w >>> 15).setWidth 8, (w >>> 4).setWidth 11, w.getLsbD 3, w.getLsbD 2, w.getLsbD 1,
    w.getLsbD 0⟩⟩
/-- NCKPT (R237, R239): the level holds what its issue step shows of the d-registers and of cr.nstat with TOP. -/
def execNckpt (gd : Guard) (s : State) : Out :=
  domDo gd [] (fun s =>
    if s.cur.levels.length = 16 then s.slotFaultFree 0x0A
    else s.pushDom 1 (.nckpt (Vector.ofFn s.rdD) (Level.ofWord (s.rdCr 0x021)))) s
/-- NREST (R238, R239). -/
def execNrest (gd : Guard) (s : State) : Out :=
  domDo gd [] (fun s => if s.cur.levels = [] then s.slotFaultFree 0x0A else s.pushDom 1 .nrest) s
/-- NPOP (R238, R239). -/
def execNpop (gd : Guard) (s : State) : Out :=
  domDo gd [] (fun s => if s.cur.levels = [] then s.slotFaultFree 0x0A else s.pushDom 1 .npop) s

end Sys2Proof.Machine
end

