-- ==== Sys2Proof/Machine/Scalar.lean ====
section
/-!
DEFINITION. The scalar integer and predicate forms of S1 and S2 (09 R99 to R110).
-/
namespace Sys2Proof.Machine

/-- A g result of latency 1 with its taint (R99, R100). -/
def State.alu (s : State) (d : R64) (v : Word) (t : Bool) : State := s.pushG 1 d v t

/-- A form of two g-registers. -/
def alu2 (gd : Guard) (d a b : R64) (f : Word → Word → Word) (s : State) : Out :=
  slotDo gd (some .scalar) (fun s => s.alu d (f (s.g a) (s.g b)) ((s.rdG a).taint || (s.rdG b).taint)) s
/-- A form of a g-register and an immediate, sign-extended. -/
def aluI (gd : Guard) (d a : R64) (v : Imm) (f : Word → Word → Word) (s : State) : Out :=
  slotDo gd (some .scalar) (fun s => s.alu d (f (s.g a) (s.imm64 v)) (s.rdG a).taint) s
/-- A form of one g-register. -/
def alu1 (gd : Guard) (d a : R64) (f : Word → Word) (s : State) : Out :=
  slotDo gd (some .scalar) (fun s => s.alu d (f (s.g a)) (s.rdG a).taint) s
/-- A form of two predicates. -/
def pred2 (gd : Guard) (d a b : R16) (f : Bool → Bool → Bool) (s : State) : Out :=
  slotDo gd (some .scalar) (fun s => s.pushP d (f (s.rdP a) (s.rdP b))) s

/-- A shift count. -/
def shamt (b : Word) : Nat := b.toNat % 64
/-- MULH (R102). -/
def mulHigh (sg : Sg) (a b : Word) : Word :=
  match sg with
  | .s => BitVec.ofInt 64 (a.toInt * b.toInt / 2 ^ 64)
  | .u => BitVec.ofNat 64 (a.toNat * b.toNat / 2 ^ 64)
/-- DIVS (Table 9.4). -/
def divSigned (a b : Word) : Word := if b = 0 then 0 else BitVec.ofInt 64 (a.toInt.tdiv b.toInt)
/-- DIVN. -/
def divUnsigned (a b : Word) : Word := if b = 0 then 0 else BitVec.ofNat 64 (a.toNat / b.toNat)
/-- REM. -/
def remainder (sg : Sg) (a b : Word) : Word :=
  if b = 0 then a
  else match sg with
    | .s => BitVec.ofInt 64 (a.toInt.tmod b.toInt)
    | .u => BitVec.ofNat 64 (a.toNat % b.toNat)
/-- CLZ: leading 0 bits. -/
def leadingZeros (a : Word) : Word := if a = 0 then 64 else BitVec.ofNat 64 (63 - Nat.log2 a.toNat)
/-- POPC: 1 bits. -/
def popCount (a : Word) : Word := BitVec.ofNat 64 ((List.range 64).filter fun i => a.getLsbD i).length
/-- MIN. -/
def minBy (sg : Sg) (a b : Word) : Word :=
  match sg with
  | .s => if b.toInt < a.toInt then b else a
  | .u => if b.toNat < a.toNat then b else a
/-- MAX. -/
def maxBy (sg : Sg) (a b : Word) : Word :=
  match sg with
  | .s => if a.toInt < b.toInt then b else a
  | .u => if a.toNat < b.toNat then b else a
/-- The conditions of CMP (Table 9.5). -/
def ccHolds (c : Cc) (a b : Word) : Bool :=
  match c with
  | .eq => a == b
  | .ne => a != b
  | .lt => decide (a.toInt < b.toInt)
  | .le => decide (a.toInt ≤ b.toInt)
  | .gt => decide (b.toInt < a.toInt)
  | .ge => decide (b.toInt ≤ a.toInt)
  | .ltu => decide (a.toNat < b.toNat)
  | .leu => decide (a.toNat ≤ b.toNat)
  | .gtu => decide (b.toNat < a.toNat)
  | .geu => decide (b.toNat ≤ a.toNat)
/-- The low `n` bits, extended by sg (R104, R105). -/
def extendLow (sg : Sg) (n : Nat) (a : Nat) : Word := BitVec.ofInt 64 (patInt n (sg == .s) (a % 2 ^ n))
/-- The position of a bit field (R104). -/
def fieldPos (b : Word) : Nat := b.toNat % 64
/-- The effective width of a bit field. -/
def fieldWidth (b : Word) : Nat := min (b.toNat / 2 ^ 8 % 128) (64 - fieldPos b)
/-- BFX (R104). -/
def bfxVal (sg : Sg) (a b : Word) : Word :=
  if fieldWidth b = 0 then 0 else extendLow sg (fieldWidth b) (a.toNat / 2 ^ fieldPos b)
/-- BFI (R104). -/
def bfiVal (old a b : Word) : Word :=
  let m : Nat := (2 ^ fieldWidth b - 1) * 2 ^ fieldPos b
  BitVec.ofNat 64 ((old.toNat &&& (2 ^ 64 - 1 - m)) + (a.toNat * 2 ^ fieldPos b &&& m))

/-- ADD. -/
def execAdd (gd : Guard) (d a b : R64) (s : State) : Out := alu2 gd d a b (· + ·) s
/-- ADDI. -/
def execAddi (gd : Guard) (d a : R64) (v : Imm) (s : State) : Out := aluI gd d a v (· + ·) s
/-- SUB. -/
def execSub (gd : Guard) (d a b : R64) (s : State) : Out := alu2 gd d a b (· - ·) s
/-- MUL. -/
def execMul (gd : Guard) (d a b : R64) (s : State) : Out := alu2 gd d a b (· * ·) s
/-- MULI. -/
def execMuli (gd : Guard) (d a : R64) (v : Imm) (s : State) : Out := aluI gd d a v (· * ·) s
/-- MULH. -/
def execMulh (gd : Guard) (sg : Sg) (d a b : R64) (s : State) : Out := alu2 gd d a b (mulHigh sg) s
/-- DIVS. -/
def execDivs (gd : Guard) (d a b : R64) (s : State) : Out := alu2 gd d a b divSigned s
/-- DIVN. -/
def execDivn (gd : Guard) (d a b : R64) (s : State) : Out := alu2 gd d a b divUnsigned s
/-- REM. -/
def execRem (gd : Guard) (sg : Sg) (d a b : R64) (s : State) : Out := alu2 gd d a b (remainder sg) s
/-- AND. -/
def execAnd (gd : Guard) (d a b : R64) (s : State) : Out := alu2 gd d a b (· &&& ·) s
/-- ANDI. -/
def execAndi (gd : Guard) (d a : R64) (v : Imm) (s : State) : Out := aluI gd d a v (· &&& ·) s
/-- OR. -/
def execOr (gd : Guard) (d a b : R64) (s : State) : Out := alu2 gd d a b (· ||| ·) s
/-- ORI. -/
def execOri (gd : Guard) (d a : R64) (v : Imm) (s : State) : Out := aluI gd d a v (· ||| ·) s
/-- XOR. -/
def execXor (gd : Guard) (d a b : R64) (s : State) : Out := alu2 gd d a b (· ^^^ ·) s
/-- XORI. -/
def execXori (gd : Guard) (d a : R64) (v : Imm) (s : State) : Out := aluI gd d a v (· ^^^ ·) s
/-- ANDN. -/
def execAndn (gd : Guard) (d a b : R64) (s : State) : Out := alu2 gd d a b (fun x y => x &&& ~~~y) s
/-- SHL. -/
def execShl (gd : Guard) (d a b : R64) (s : State) : Out := alu2 gd d a b (fun x y => x <<< shamt y) s
/-- SHLI. -/
def execShli (gd : Guard) (d a : R64) (v : Imm) (s : State) : Out := aluI gd d a v (fun x y => x <<< shamt y) s
/-- SHR. -/
def execShr (gd : Guard) (d a b : R64) (s : State) : Out := alu2 gd d a b (fun x y => x >>> shamt y) s
/-- SHRI. -/
def execShri (gd : Guard) (d a : R64) (v : Imm) (s : State) : Out := aluI gd d a v (fun x y => x >>> shamt y) s
/-- SRA. -/
def execSra (gd : Guard) (d a b : R64) (s : State) : Out := alu2 gd d a b (fun x y => x.sshiftRight (shamt y)) s
/-- SRAI. -/
def execSrai (gd : Guard) (d a : R64) (v : Imm) (s : State) : Out := aluI gd d a v (fun x y => x.sshiftRight (shamt y)) s
/-- ROT: rotate right. -/
def execRot (gd : Guard) (d a b : R64) (s : State) : Out := alu2 gd d a b (fun x y => x.rotateRight (shamt y)) s
/-- CLZ. -/
def execClz (gd : Guard) (d a : R64) (s : State) : Out := alu1 gd d a leadingZeros s
/-- POPC. -/
def execPopc (gd : Guard) (d a : R64) (s : State) : Out := alu1 gd d a popCount s
/-- MIN. -/
def execMin (gd : Guard) (sg : Sg) (d a b : R64) (s : State) : Out := alu2 gd d a b (minBy sg) s
/-- MAX. -/
def execMax (gd : Guard) (sg : Sg) (d a b : R64) (s : State) : Out := alu2 gd d a b (maxBy sg) s
/-- SEL. -/
def execSel (gd : Guard) (d a b : R64) (c : R16) (s : State) : Out :=
  alu2 gd d a b (fun x y => if s.rdP c then x else y) s
/-- CMP (R106); `.pair` writes the negation to p(D+1). -/
def execCmp (gd : Guard) (pair : Bool) (cc : Cc) (d : R16) (a b : R64) (s : State) : Out :=
  slotDo gd (some .scalar) (fun s =>
    let r := ccHolds cc (s.g a) (s.g b)
    let s := s.pushP d r
    if pair then s.pushP (Fin.ofNat 16 (d.val + 1)) (!r) else s) s
/-- EXT (R105). -/
def execExt (gd : Guard) (sg : Sg) (sz : LaneW) (d a : R64) (s : State) : Out :=
  alu1 gd d a (fun x => extendLow sg sz.width x.toNat) s
/-- MOV. -/
def execMov (gd : Guard) (d a : R64) (s : State) : Out := alu1 gd d a id s
/-- MOVI. -/
def execMovi (gd : Guard) (d : R64) (v : Imm) (s : State) : Out :=
  slotDo gd (some .scalar) (fun s => s.alu d (s.imm64 v) false) s
/-- BFX. -/
def execBfx (gd : Guard) (sg : Sg) (d a b : R64) (s : State) : Out := alu2 gd d a b (bfxVal sg) s
/-- BFI: gD is a source too. -/
def execBfi (gd : Guard) (d a b : R64) (s : State) : Out :=
  slotDo gd (some .scalar) (fun s => s.alu d (bfiVal (s.g d) (s.g a) (s.g b))
    ((s.rdG d).taint || (s.rdG a).taint || (s.rdG b).taint)) s
/-- PAND. -/
def execPand (gd : Guard) (d a b : R16) (s : State) : Out := pred2 gd d a b (· && ·) s
/-- POR. -/
def execPor (gd : Guard) (d a b : R16) (s : State) : Out := pred2 gd d a b (· || ·) s
/-- PXOR. -/
def execPxor (gd : Guard) (d a b : R16) (s : State) : Out := pred2 gd d a b (· ^^ ·) s
/-- PNOT. -/
def execPnot (gd : Guard) (d a : R16) (s : State) : Out := slotDo gd (some .scalar) (fun s => s.pushP d (!s.rdP a)) s

/-- MOVC (R108): the read is of the value at issue; a write takes effect for bundles of the next step. -/
def State.movcRead (s : State) (d : R64) (cr : BitVec 10) : State := s.alu d (s.rdCr cr) false
/-- MOVC. -/
def execMovc (gd : Guard) (m : MovC) (s : State) : Out :=
  slotDo gd (some .scalar) (fun s => match m with
    | .read d cr => s.movcRead d cr
    | .write cr a => s.push 1 (.cr cr (s.g a)) 0) s
/-- RDTIME (R109). -/
def execRdtime (gd : Guard) (d : R64) (s : State) : Out := slotDo gd (some .scalar) (fun s => s.alu d s.issueCyc false) s

end Sys2Proof.Machine
end

