-- ==== Sys2Proof/Machine/System.lean ====
section
/-!
DEFINITION. The system forms of S7 (24 R368 to R374): TRET, SYSCALL, TLBINV, EVSIG, MOVC.sys, FRMST, FRMLD and CKILL, the
frame image (R366), and the effect of a control-register write (08 R97, 24 R364, R367).
-/
namespace Sys2Proof.Machine

/-! ### The frame image (Table 24.3) -/

/-- The LEN a FILE code carries (R366). -/
def snapLenOk (file len : Nat) : Bool :=
  match file with
  | 1 | 2 | 3 | 5 | 12 => len == 8
  | 4 | 10 | 11 => len == 4
  | 6 => len == 16
  | 7 => len == 512
  | 8 => decide (4 ≤ len) && decide (len ≤ 4 + 32768)
  | 9 => len == 4096
  | 13 => len == 72
  | _ => false

/-- Records read back; none when one is malformed. -/
def parseSnaps : Nat → List Byte → Option (List Snap)
  | _, [] => some []
  | 0, _ => none
  | n + 1, l =>
    let tag := leNat (l.take 8)
    let len := tag % 2 ^ 32
    let pad := (len + 7) / 8 * 8
    if l.length < 8 + pad ∨ tag / 2 ^ 32 % 2 ^ 8 ≠ 0 ∨ snapLenOk (tag / 2 ^ 56) len = false then none
    else
      let r : Snap := ⟨BitVec.ofNat 8 (tag / 2 ^ 56), Fin.ofNat 8 (tag / 2 ^ 53), tag.testBit 52, BitVec.ofNat 12 (tag / 2 ^ 40),
        BitVec.ofNat 32 len, leNat ((l.drop 8).take len)⟩
      (parseSnaps n (l.drop (8 + pad))).map (r :: ·)

/-- A frame read back from its 256-byte header and its snapshot area; none when VALID is 0, a reserved bit is set or a
record is malformed (R373). -/
def Frame.ofBytes (h area : List Byte) : Option Frame :=
  let w (i : Nat) : Nat := leNat ((h.drop (8 * i)).take 8)
  let w0 := w 0
  let rwe := leNat ((h.drop 0x28).take 12)
  let bad := w0 / 2 ^ 63 = 0 ∨ w 1 / 2 ^ 8 % 2 ^ 24 ≠ 0 ∨ leNat ((h.drop 0x34).take 4) ≠ 0 ∨ rwe % 2 ^ 6 ≠ 0
    ∨ rwe / 2 ^ 16 % 2 ^ 10 ≠ 0 ∨ w 11 / 16 ≠ 0 ∨ w 14 / 2 ^ 59 ≠ 0 ∨ w 15 / 2 ^ 8 % 2 ^ 48 ≠ 0 ∨ leNat ((h.drop 0x80).take 128) ≠ 0
  if bad then none
  else (parseSnaps (area.length / 8 + 1) area).map fun snaps =>
    { valid := true
      after := w0.testBit 62
      pt := w0.testBit 61
      py := w0.testBit 60
      blk := w0.testBit 59
      sr := Fin.ofNat 8 (w0 / 2 ^ 56)
      addr := BitVec.ofNat 56 w0
      cause := BitVec.ofNat 8 (w 1)
      faddr := BitVec.ofNat 64 (w 2)
      info := BitVec.ofNat 64 (w 3)
      ptgt := BitVec.ofNat 64 (w 4)
      rwe := BitVec.ofNat 96 rwe
      prev := BitVec.ofNat 64 (w 7)
      cur := BitVec.ofNat 64 (w 8)
      bkind := BitVec.ofNat 8 (w 9 / 2 ^ 56)
      baddr := BitVec.ofNat 56 (w 9)
      bval := BitVec.ofNat 64 (w 10)
      bmod := BitVec.ofNat 4 (w 11)
      tick := BitVec.ofNat 64 (w 12)
      b2kind := BitVec.ofNat 8 (w 13 / 2 ^ 56)
      b2id := BitVec.ofNat 56 (w 13)
      oslot := Fin.ofNat 8 (w 14 / 2 ^ 56)
      origin := BitVec.ofNat 56 (w 14)
      pact := BitVec.ofNat 8 (w 15 / 2 ^ 56)
      pn := BitVec.ofNat 8 (w 15)
      snaps := snaps
      p0 := none
      cursor := none }

/-- FRMST (R373): the held frame is stored as a store of class 0. -/
def execFrmst (gd : Guard) (a : R16) (s : State) : Out :=
  slotDo gd none (fun s => s.privileged fun s =>
    let ea := (s.rdA a).1
    let l := s.cur.frame.bytes
    if s.cardOk ea 64 l.length then s.newAcc (Access.make .store (clsMask 0) .ctx (mkElems ea l.length (leNat l)))
    else s.slotFault 0x19 (ea.setWidth 64) 0) s

/-- Bytes of the own vault as the current context's stores so far leave them. DEDUCED (log 42). -/
def State.forwarded (s : State) (ea : Addr) (n : Nat) : List Byte :=
  let pend := s.cur.accs.flatMap fun a => if a.writes then a.elems.filter fun e => !e.done && isScratch e.a && vaultCore s.env.core e.a == s.env.core else []
  let m := pend.foldl (fun m e => memWriteN m (vaultOfs e.a) e.n e.data.toNat) s.vault
  memBytes m (vaultOfs ea) n

/-- FRMLD (R373): the image is checked, then held. -/
def execFrmld (gd : Guard) (a : R16) (s : State) : Out :=
  slotDo gd none (fun s => s.privileged fun s =>
    let ea := (s.rdA a).1
    let fail := s.slotFault 0x19 (ea.setWidth 64) 0
    if !s.cardOk ea 64 256 then fail
    else
      let h := s.forwarded ea 256
      let n := leNat ((h.drop 12).take 4)
      if 0x1C000 < n ∨ s.cardOk ea 64 (256 + n) = false then fail
      else if s.poisonedLoc (.vault s.env.core (vaultOfs ea)) (256 + n) then s.slotFault 0x1A (ea.setWidth 64) 0
      else match Frame.ofBytes h (s.forwarded (ea + 256) n) with
        | some f => s.modCur fun t => { t with frame := f }
        | none => fail) s

/-! ### TRET (R368) -/

/-- TRET: it takes effect after every slot of its bundle has committed. -/
def execTret (gd : Guard) (s : State) : Out :=
  slotDo gd none (fun s => s.privileged fun s => s.modEnv fun e => { e with tret := true }) s

/-- The bundle after the one at an address (05 R57). -/
def Core.after (k : Core) (a : Nat) : Nat :=
  let h := memReadN k.ispad a 2
  a + 2 + 6 * (presentSlots (h / 256)).length + 4 * (h / 64 % 4)

/-- RWE read back (18 Table 18.6). -/
def rweFired (r : BitVec 96) (hdr : Word) : Option Fired :=
  let n := r.toNat
  if n.testBit 15 then
    some ⟨Fin.ofNat 64 (n / 2 ^ 8), Vector.ofFn fun i : Fin 7 => BitVec.ofNat 10 (n / 2 ^ (26 + 10 * i.val)), n / 2 ^ 6 % 4, hdr⟩
  else none

/-- Deliver the first pending fault of a context, with a frame naming the point at which it would next issue. -/
def State.deliver (s : State) (c : CoreId) (x : CtxId) : State :=
  match (s.ctx c x).faults with
  | [] => s
  | f :: rest =>
    let fr := { s.dueFrame c x f.cause f.faddr f.info with origin := f.origin, oslot := f.oslot }
    (s.modCtx c x fun t => { t with faults := rest }).takeTrap c x fr ((s.core c).dueAddr (s.ctx c x)) 0

/-- The return of R368, after the TRET bundle `hdr` of context `x` has committed. -/
def State.tret (s : State) (c : CoreId) (x : CtxId) (hdr : Word) : State :=
  let t := s.ctx c x
  let f := t.frame
  let dbl := s.takeTrap c x (Frame.make hdr 7 0x22 0 0) hdr 7
  if !t.hm then s
  else if !f.valid then dbl
  else
    let target : Word := if f.after then BitVec.ofNat 64 ((s.core c).after f.addr.toNat) else f.addr.setWidth 64
    if !((s.core c).markOk target) then dbl
    else
      let s := s.modCtx c x fun t => { t with
        hm := false
        frame := { f with valid := false }
        pc := target
        replay := some f.snaps
        fired := rweFired f.rwe (f.p0.getD target)
        noRewrite := true
        bubbles := 3
        transferred := true
        waitHdr := t.kept.1
        promiseT := match f.blocks.s0 with
          | some (.sleep w) => some w
          | _ => t.kept.2
        episode := t.episode.map fun (e : Episode) => { e with prev := f.prev, cur := f.cur } }
      let s := if f.cause = 0x15 then s.ddResubmit c x (Fin.ofNat 16 f.info.toNat) else s
      let block := f.blk && f.blocks != ⟨none, none⟩
      let s := if block then s.blockCtx c x f.blocks else s
      if (s.ctx c x).faults ≠ [] then s.deliver c x
      else if block then
        let s := (s.stopHere c x).modCore c Core.switchPoint
        if (s.ctx c x).stopping then s else s.wakeTest c x
      else s

/-! ### The other forms -/

/-- SYSCALL (R370): raised after every slot, unless TRAP is (05 R73). -/
def execSyscall (gd : Guard) (n : BitVec 8) (s : State) : Out :=
  slotDo gd none (fun s => s.modEnv fun e => if e.pact = 0 then { e with pact := 4, pn := n } else e) s
/-- TLBINV (R372). -/
def execTlbinv (gd : Guard) (sc : Scope) (a : R64) (s : State) : Out :=
  slotDo gd none (fun s => s.privileged fun s =>
    s.newAcc { Access.make (.tlbinv sc (some (s.g a))) 0 sc unitElem with allRel := true }) s
/-- TLBINV.all. -/
def execTlbinvAll (gd : Guard) (sc : Scope) (s : State) : Out :=
  slotDo gd none (fun s => s.privileged fun s =>
    s.newAcc { Access.make (.tlbinv sc none) 0 sc unitElem with allRel := true }) s
/-- TLBINV_ACK_COMPLETE (R372): every TLB in scope has acknowledged; the freeze ends. -/
def execTlbinvAckComplete (c : CoreId) (s : State) : Out := .next (s.modCore c fun k => { k with tlbAck := false })
/-- EVSIG (R371). -/
def execEvsig (gd : Guard) (v : R64) (s : State) : Out :=
  slotDo gd none (fun s => s.newAcc { Access.make (.evsig v) 0 .system unitElem with allRel := true }) s
/-- MOVC.sys, read. -/
def execMovcSysRead (gd : Guard) (d : R64) (cr : BitVec 10) (s : State) : Out :=
  slotDo gd none (fun s => s.privileged fun s => s.movcRead d cr) s
/-- MOVC.sys, write. -/
def execMovcSysWrite (gd : Guard) (cr : BitVec 10) (a : R64) (s : State) : Out :=
  slotDo gd none (fun s => s.privileged fun s => s.push 1 (.cr cr (s.g a)) 0) s

/-- The context a unit id names, if it is an allotted one of a group (03 Table 3.8). -/
def State.unitCtx (s : State) (group : Nat) (u : Nat) : Option (CoreId × CtxId) :=
  if 0x10000 ≤ u ∧ u < 0x10000 + 768 then
    let c : CoreId := Fin.ofNat 192 ((u - 0x10000) / 4)
    let x : CtxId := Fin.ofNat 4 u
    match (s.core c).allot with
    | some al => if al.group = group ∧ al.cmask.getLsbD (corePos c) ∧ x.val < al.nctx then some (c, x) else none
    | none => none
  else none

/-- A CKILL decides the group's code unless a fatal trap has (R374). -/
def State.noteKill (s : State) (g : Nat) : State :=
  { s with groups := s.groups.map fun (r : Group) => if r.id = g then { r with code := some (r.code.getD 3) } else r }

/-- CKILL (R374): the issuing context is killed after its bundle. -/
def execCkill (gd : Guard) (a : R64) (s : State) : Out :=
  slotDo gd none (fun s => s.privileged fun s =>
    match (s.core s.env.core).allot.bind fun al => (s.unitCtx al.group ((s.g a).toNat % 2 ^ 20)).map fun u => (al.group, u) with
    | none => s.slotFaultFree 0x19
    | some (g, u) =>
      if u = (s.env.core, s.env.ctx) then s.modEnv fun e => { e with pact := 2 }
      else (s.noteKill g).killCtx u.1 u.2) s

/-! ### Control-register writes (08 R97, Table 8.11, 24 Table 24.2) -/

/-- A write of a tile's shape empties a cursor that names the tile (17 R249). -/
def Ctx.setShape (t : Ctx) (m : R16) (v : BitVec 20) : Ctx :=
  { t with
    mshp := t.mshp.set m v
    cursor := match t.cursor with
      | some u => if u.a = m ∨ u.b = m then none else some u
      | none => none }

/-- The effect of a write, by the access of the register; a read-only one keeps its value. cr.vstat is not written here:
its cleared bits give way to those set in the same step (12 R178). -/
def Ctx.crWrite (t : Ctx) (n : BitVec 10) (v : Word) : Ctx :=
  let k := n.toNat
  if k = 0x001 then { t with priNext := some (v.getLsbD 0) }
  else if k = 0x011 then { t with vstat := t.vstat &&& ~~~(v.setWidth 7) }
  else if k = 0x020 then { t with nbud := v.setWidth 32 }
  else if k = 0x022 then { t with nbt := v.getLsbD 1, npe := v.getLsbD 0 }
  else if k = 0x023 then { t with ftv := v }
  else if 0x100 ≤ k ∧ k ≤ 0x10F then t.setShape (Fin.ofNat 16 (k - 0x100)) (v.setWidth 20)
  else if k = 0x205 then { t with frame := { t.frame with
      addr := (v.setWidth 45).setWidth 56
      after := false
      sr := 0
      pt := false
      py := false
      pact := 0
      blk := false
      rwe := 0
      snaps := []
      p0 := none
      cursor := none } }
  else if 0x208 ≤ k ∧ k ≤ 0x20F then { t with tsv := t.tsv.set (Fin.ofNat 8 (k - 0x208)) v }
  else t

end Sys2Proof.Machine
end

