-- ==== Sys2Proof/Machine/Visible.lean ====
section
/-!
DEFINITION. Results becoming visible (03 R40 to R42), accesses performing (10 R135), subscriptions starting (19 R295), and
contexts waking or taking a pending trap (09 R126, R127, 19 R303, 21 R336, 24 R361).
-/
namespace Sys2Proof.Machine

/-! ### Loads (10 R141 to R146, R166) -/

/-- A scale byte's index: the lowest entry equal to 2^(e − 127) (R144). -/
def mx4ScaleIndex (sct : BitVec 512) (e : Nat) : Option Nat :=
  if e = 255 then none
  else (List.range 16).find? fun j => sctEntry sct j == (if e = 0 then 0x00400000 else e * 2 ^ 23)

/-- The internal image of an OCP image; or the first block whose scale has no entry (R144). DESIGN CHOICE (log 74): the spec gives
the unused upper nibble of the last index byte of an odd number of blocks no value (12 R171); it becomes 0. -/
def mx4Image (sct : BitVec 512) (elems v : Nat) : Except Nat Nat :=
  let blocks := elems / 32
  let idx := (List.range blocks).map fun b => mx4ScaleIndex sct (v / 2 ^ (4 * elems + 8 * b) % 256)
  match (List.range blocks).find? fun b => (idx.getD b none).isNone with
  | some b => .error b
  | none => .ok (v % 2 ^ (4 * elems) + (idx.zipIdx.foldl (fun acc p => acc + p.1.getD 0 * 2 ^ (4 * p.2)) 0) * 2 ^ (4 * elems))

/-- The first `n` bytes of a tile. -/
def byteMask (n : Nat) : BitVec 262144 := BitVec.ofNat 262144 (2 ^ (8 * n) - 1)

/-- The value of a scalar load. -/
def loadWord (n : Nat) (signed : Bool) (v : Nat) : Word :=
  if signed then BitVec.ofInt 64 (patInt (8 * n) true (v % 2 ^ (8 * n))) else BitVec.ofNat 64 (v % 2 ^ (8 * n))

/-- Write a g-register; g0 discards it (09 R100). -/
def Ctx.setG (t : Ctx) (d : R64) (v : Word) (taint : Bool) : Ctx := if d = 0 then t else { t with g := t.g.set d ⟨v, taint⟩ }

/-- Is word `k` of a tile written whole under a mask? -/
def wholeWord (mask : BitVec 262144) (k : Nat) : Bool := mask.extractLsb' (64 * k) 64 == BitVec.allOnes 64
/-- Write `data` under `mask` to a tile of a context; words written whole lose their poison (10 R165). -/
def Core.setTile (k : Core) (x : CtxId) (m : R16) (mask data : BitVec 262144) : Core :=
  let p := physTile k.alloc x m
  { k with
    tiles := k.tiles.set p ((k.tiles[p] &&& ~~~mask) ||| (data &&& mask))
    rpoison := k.rpoison.filter fun r => match r with
      | .tile q i => q != p || !wholeWord mask i
      | _ => true }
/-- Write a block of a context; the words that `whole` names are written whole and lose their poison (10 R165). -/
def Core.setBlock (k : Core) (x : CtxId) (q : Q512) (v : BitVec 32768) (whole : Nat → Bool) : Core :=
  let p := physBlock k.alloc x q.val
  { k with
    blocks := k.blocks.set p v
    rpoison := k.rpoison.filter fun r => match r with
      | .block b i => b != p || !whole i
      | _ => true }
/-- Does an accumulating update write both elements of word `i` of its block (17 R250)? -/
def AccOp.whole (op : AccOp) (i : Nat) : Bool :=
  match op with
  | .mma _ _ _ _ _ _ _ _ m n _ _ bi bj _ => decide (32 * bi + i / 16 < m) && decide (32 * bj + 2 * (i % 16) + 1 < n)
  | _ => true
/-- Write a vector register of a context. -/
def Core.setW (k : Core) (x : CtxId) (d : R64) (v : BitVec 4096) : Core :=
  { k.modCtx x (fun t => { t with w := t.w.set d v }) with
    rpoison := k.rpoison.filter fun r => match r with
      | .w y e _ => y != x || e != d
      | _ => true }

/-- The walk fields of a subscription card: reserved bits, MODE, TD (19 R294). -/
def subValid (im : Nat) : Bool :=
  walkOk im && cardW im 0 / 2 ^ 60 == 0 && cardW im 0 / 2 ^ 56 % 4 != 3 && cardW im 1 / 2 ^ 56 == 0
  && decide (1 ≤ im / 2 ^ 320 % 8) && decide (im / 2 ^ 320 % 8 ≤ 6) && im / 2 ^ 323 % 2 ^ 125 == 0

/-- A subscription card has been read: the status of SUBSCR, and the subscription when it is 0 (19 R295). A subscription of the ring that
has ended leaves it first (R299). -/
def State.subRead (s : State) (c : CoreId) (x : CtxId) (card im : Nat) : Nat × State :=
  let r : Fin 4 := Fin.ofNat 4 (cardW im 0 / 2 ^ 58)
  let s := s.subEnd c r
  let k := s.core c
  match k.rings[r] with
  | none => (1, s)
  | some g =>
    let td := im / 2 ^ 320 % 8
    let empty := (List.range g.n).all fun i => memReadN k.vault (g.flag i) 4 == 0
    if (k.subs[r]).isSome then (2, s)
    else if !subValid im ∨ g.z < cardLen0 im * cardRuns im (td - 1) ∨ !empty then (3, s)
    else
      let u : Sub := ⟨x, card, cardW im 0 / 2 ^ 56 % 4, BitVec.ofNat 56 (cardW im 0), BitVec.ofNat 56 (cardW im 1),
        Vector.ofFn fun i : Fin 5 => BitVec.ofNat 64 (cardW im i.val), td, 0, List.replicate g.n .empty, 0, 0, 0, 0, [], [], [], 0, none⟩
      (0, s.modCore c fun k => { k with subs := k.subs.set r (some u), doneSubs := k.doneSubs.filter (· != card) })

/-- The value of a load whose every element has performed reaches its destination; one that met a fault after commit
leaves it unchanged (24 R361). A poisoned card is the engine's to report: the promise of its job is a free value, and SUBSCR
finds it invalid. DESIGN CHOICE (log 36). -/
def State.finishLoad (s : State) (c : CoreId) (x : CtxId) (a : Access) : State :=
  let s := s.modCtx c x fun t => { t with accs := t.accs.filter fun b => b.id != a.id }
  let origin := a.hdr.setWidth 56
  let v := a.value
  match a.fail, a.poison, a.dest with
  | some f, _, _ => s.pend c x f.2 (f.1.setWidth 64) 0 origin a.slot
  | none, some _, .card d _ => s.freeWord.2.modCtx c x fun t => t.setG d s.freeWord.1 false
  | none, some _, .subCard d _ => s.modCtx c x fun t => t.setG d 3 false
  | none, some g, _ => s.pend c x 0x1A (g.setWidth 64) 0 origin a.slot
  | none, none, dest =>
    match dest with
    | .none => s
    | .cpyst d => s.modCtx c x fun t => t.setG d (BitVec.ofNat 64 v) false
    | .g d n signed taint => s.modCtx c x fun t => t.setG d (loadWord n signed v) taint
    | .w d | .gath d => s.modCore c fun k => k.setW x d (BitVec.ofNat 4096 v)
    | .tile d sh => s.modCore c fun k => k.setTile x d (byteMask (imageBytes sh)) (BitVec.ofNat 262144 v)
    | .tileMx4 d sh sct =>
      match mx4Image sct (shElems sh) v with
      | .ok img => s.modCore c fun k => k.setTile x d (byteMask (imageBytes sh)) (BitVec.ofNat 262144 img)
      | .error b =>
        let ea := ((a.elems[0]?).map (·.a)).getD 0
        s.pend c x 0x11 (BitVec.ofNat 64 (ea.toNat + shElems sh / 2 + b)) 0 origin a.slot
    | .block q => s.modCore c fun k => k.setBlock x q (BitVec.ofNat 32768 v) fun _ => true
    | .sct =>
      let n := (s.core c).step
      s.modCtx c x fun t => { t with sct := BitVec.ofNat 512 v, fmtAt := some n, noRewrite := false }
    | .card d j => s.modCtx c x fun t => t.setG d (s.promiseWord j) false
    | .subCard d card =>
      let r := s.subRead c x card v
      r.2.modCtx c x fun t => t.setG d (BitVec.ofNat 64 r.1) false

/-! ### Results in flight (03 R40, R41) -/

/-- A write of cr.vstat, which comes before the flags set in its step (12 R178). -/
def Flight.clears (f : Flight) : Bool := match f.wr with
  | .cr n _ => n == 0x011
  | _ => false

/-- The effect of a result on its context and its core; its flags are ORed in. -/
def State.applyWr (s : State) (c : CoreId) (f : Flight) : State :=
  let x := f.ctx
  let s := s.modCtx c x fun t => { t with vstat := t.vstat ||| f.flags }
  match f.wr with
  | .g d v taint => s.modCtx c x fun t => t.setG d v taint
  | .a d v taint => s.modCtx c x fun t => { t with a := t.a.set d { t.a[d] with v := v, taint := taint } }
  | .stride d j v => s.modCtx c x fun t => { t with a := t.a.set d { t.a[d] with stride := (t.a[d]).stride.set j v } }
  | .p d v => s.modCtx c x fun t => if d = 0 then t else { t with p := t.p.set d v }
  | .sp v => s.modCtx c x fun t => { t with sp := v }
  | .b d v st => s.modCtx c x fun t => { t with b := t.b.set d ⟨v, st⟩ }
  | .w d v => s.modCore c fun k => k.setW x d v
  | .tile d mask data => s.modCore c fun k => k.setTile x d mask data
  | .q d v => s.modCore c fun k => k.setBlock x d v fun _ => true
  | .acc d op =>
    let k := s.core c
    let r := op.apply (k.blocks[physBlock k.alloc x d.val])
    (s.modCore c fun k => k.setBlock x d r.1 op.whole).modCtx c x fun t => { t with vstat := t.vstat ||| r.2 }
  | .cr n v => s.modCtx c x fun t => t.crWrite n v
  | .fmt v =>
    let n := (s.core c).step
    s.modCtx c x fun t => { t with fmt := v, fmtAt := some n, cursor := none, noRewrite := false }
  | .dom d v => s.modCtx c x fun t => t.setG d v false
  | .load id => match s.findAcc c x id with
    | some a => s.finishLoad c x a
    | none => s
  | .flags => s

/-- Has the data of a result arrived? -/
def State.present (s : State) (c : CoreId) (f : Flight) : Bool :=
  match f.wr with
  | .load id => match s.findAcc c f.ctx id with
    | some a => a.performed
    | none => true
  | _ => true

/-- The results of a core due at its step. -/
def Core.due (k : Core) : List Flight := k.inflight.filter fun f => decide (f.due ≤ k.step)

/-- The accesses that must perform before access `a` may: those it is ordered after, and those that name its bytes. -/
def State.needs (s : State) (c : CoreId) (x : CtxId) (a : Access) : List Nat :=
  (((s.ctx c x).before a.id).filter fun b => a.after b ||
    b.elems.any fun f => !f.done && f.n != 0 && a.elems.any fun e => e.n != 0 && s.sameBytes c x e f).map (·.id)

/-- The accesses a load waits on, itself included. -/
def State.closure (s : State) (c : CoreId) (x : CtxId) : Nat → List Nat → List Nat
  | 0, l => l
  | n + 1, l =>
    let more := ((s.ctx c x).accs.filter fun a => l.contains a.id).flatMap fun a => s.needs c x a
    let l' := (l ++ more).dedup
    if l'.length = l.length then l else s.closure c x n l'

/-- An own-vault load that is due takes its data, with the own-vault accesses it waits on (10 R160: an access that waits
only on own-vault accesses is never late). DEDUCED (log 64). -/
def State.forceOwn (s : State) (c : CoreId) (x : CtxId) (id : Nat) : State :=
  let ids := s.closure c x ((s.ctx c x).accs.length) [id]
  let todo := (s.ctx c x).accs.filter fun a => ids.contains a.id
  if todo.all fun a => a.elems.all fun e => e.done || e.n == 0 || (isScratch e.a && vaultCore c e.a == c) then
    todo.foldl (fun s a => (List.range a.elems.length).foldl (fun s k => s.performAcc c x a.id k) s) s
  else s

/-- The first result of those due: writes of cr.vstat come first, then the order of issue. DEDUCED (log 63). -/
def firstDue (l : List Flight) : Option Flight :=
  match l.find? Flight.clears with
  | some f => some f
  | none => l.head?

/-- The own-vault loads of a core that are due take their data: own-vault data is never late (10 R135). -/
def State.forceDue (s : State) (c : CoreId) : State :=
  (s.core c).due.foldl (fun s f => match f.wr with
    | .load id => s.forceOwn c f.ctx id
    | _ => s) s

/-- RESULT_VISIBLE (03 R40 to R42): one result of those due becomes visible; while the data of one is absent, none does. -/
def execResultVisible (c : CoreId) (s : State) : Out :=
  let s1 := s.forceDue c
  .next (
    let due := (s1.core c).due
    if due.all fun f => s1.present c f then
      match firstDue due with
      | none => s1
      | some f => (s1.modCore c fun k => { k with inflight := k.inflight.erase f }).applyWr c f
    else s1)

/-! ### Accesses performing -/

/-- LATE_DATA_ARRIVAL (03 R42): element `k` of a load or ATOM takes its data. -/
def execLateDataArrival (c : CoreId) (x : CtxId) (id k : Nat) (s : State) : Out := .next (s.performAcc c x id k)

/-- STORE_PERFORM (10 R135): an element of an access performs, an element of a copy job is moved, or the oldest held device
write to host memory is made. -/
def execStorePerform (src : StoreSrc) (s : State) : Out :=
  .next (match src with
    | .access c x id k => s.performAcc c x id k
    | .job id k => s.jobMove id k
    | .hub r k => s.hubMove r k
    | .host => match s.hub.hostQ with
      | [] => s
      | w :: rest =>
        if (s.hub.ports[(0 : Fin 9)]).room 1 then (s.modHub fun h => { h with hostQ := rest }).hostSend w else s)

/-! ### Waking and pending traps -/

/-- The promise check of a SLEEPU to tick `T` (09 R127): a job with a promise at or below it that has not ended raises
PROMISE_MISSED, in handler mode a double trap at once (24 R363); one that has ended is observed (10 R162). -/
def State.promiseCheck (s : State) (c : CoreId) (x : CtxId) (T : Word) : State :=
  let mine := s.jobs.filter fun j => j.core == c && j.ctx == x && (match j.promise with
    | some p => decide (p ≤ T.toNat)
    | none => false)
  let s := s.modCtx c x fun t => { t with promiseT := none }
  let s := if mine.any fun j => j.ended && wideScope j.scope then s.l1Drop c else s
  if mine.any fun j => !j.ended then
    let f := s.freeWord
    if (s.ctx c x).hm then f.2.takeTrap c x (f.2.dueFrame c x 0x14 f.1 0) ((s.core c).dueAddr (s.ctx c x)) 0
    else f.2.pend c x 0x14 f.1 0 0 0
  else s

/-- A context becomes Ready: its SLEEPU's promise check is made (09 R130). -/
def State.becomeReady (s : State) (c : CoreId) (x : CtxId) : State :=
  let s := s.modCtx c x fun t => { t with run := .ready, awake := false }
  match (s.ctx c x).promiseT with
  | some T => s.promiseCheck c x T
  | none => s

/-- At the start of a core's step, the contexts whose condition was met in an earlier one become Ready (03 R35). -/
def State.wakeAll (s : State) (c : CoreId) : State :=
  (List.finRange 4).foldl (fun s x =>
    let t := s.ctx c x
    if t.run = .blocked ∧ t.awake ∧ !t.stopping then s.becomeReady c x else s) s

/-- SLEEPU_WAKE (09 R126): CYC has reached the target. -/
def execSleepuWake (c : CoreId) (x : CtxId) (s : State) : Out :=
  .next (
    let t := s.ctx c x
    match t.run, t.blocks.s0 with
    | .blocked, some (.sleep w) =>
      if w.toNat ≤ s.cyc.toNat ∧ !t.stopping then (s.modCtx c x fun t => { t with blocks := ⟨none, t.blocks.bar⟩ }).settleBlocks c x else s
    | _, _ => s)

/-- BARW_WAKE (19 R303): the barrier has released, four ticks ago or more; the context is Ready from the step that starts
here. -/
def execBarwWake (c : CoreId) (x : CtxId) (s : State) : Out :=
  .next (
    let t := s.ctx c x
    match t.run, t.blocks.bar with
    | .blocked, some b =>
      let bar := (s.heaths[coreHeath c]).bars[b]
      if !t.stopping ∧ t.phase[b] ≠ bar.phase ∧ bar.relTick + 4 ≤ s.cyc.toNat then
        let s := s.modCtx c x fun t => { t with blocks := ⟨t.blocks.s0, none⟩ }
        if t.blocks.s0.isNone then s.becomeReady c x else s
      else s
    | _, _ => s)

/-- PENDING_TRAP_DELIVERY (21 R336, 24 R361): the first pending fault of a context that is Running or Blocked. -/
def execPendingTrapDelivery (c : CoreId) (x : CtxId) (s : State) : Out :=
  .next (
    let t := s.ctx c x
    if !t.hm && (t.run == .running || t.run == .blocked) then s.deliver c x else s)

end Sys2Proof.Machine
end

