-- ==== Sys2Proof/Machine/Slots.lean ====
section
/-!
DEFINITION. The commit of a slot (05 R70): the meaning of each slot form, one arm a constructor. The steps of other agents
are no slot forms and leave the state as it is.
-/
namespace Sys2Proof.Machine

/-- The commit of a slot form in the bundle of `env`. -/
def slotExec (i : Instr) (s : State) : Out :=
  match i with
  | .bundleIssue _ => .next s
  | .idleStep _ => .next s
  | .scaleByProduct gd sp q n n2 => execScaleByProduct gd sp q n n2 s
  | .pendingTrapDelivery _ _ => .next s
  | .resultVisible _ => .next s
  | .lateDataArrival _ _ _ _ => .next s
  | .storePerform _ => .next s
  | .sleepuWake _ _ => .next s
  | .barwWake _ _ => .next s
  | .domainEffectApply _ _ => .next s
  | .nop gd => execNop gd s
  | .prep gd b t => execPrep gd b t s
  | .bra gd b => execBra gd b s
  | .call gd b => execCall gd b s
  | .ret gd => execRet gd s
  | .lset gd l st a => execLset gd l st a s
  | .lrun gd k ofs => execLrun gd k ofs s
  | .lbrk gd l => execLbrk gd l s
  | .lidx gd d l => execLidx gd d l s
  | .lclr gd => execLclr gd s
  | .spset gd a => execSpset gd a s
  | .wait gd a b c dword => execWait gd a b c dword s
  | .sleepu gd a => execSleepu gd a s
  | .sleepuI gd v => execSleepuI gd v s
  | .yield gd => execYield gd s
  | .halt gd => execHalt gd s
  | .trap gd n => execTrap gd n s
  | .hbeat gd => execHbeat gd s
  | .add gd d a b => execAdd gd d a b s
  | .addi gd d a v => execAddi gd d a v s
  | .sub gd d a b => execSub gd d a b s
  | .mul gd d a b => execMul gd d a b s
  | .muli gd d a v => execMuli gd d a v s
  | .mulh gd sg d a b => execMulh gd sg d a b s
  | .divs gd d a b => execDivs gd d a b s
  | .divn gd d a b => execDivn gd d a b s
  | .rem gd sg d a b => execRem gd sg d a b s
  | .and gd d a b => execAnd gd d a b s
  | .andi gd d a v => execAndi gd d a v s
  | .or gd d a b => execOr gd d a b s
  | .ori gd d a v => execOri gd d a v s
  | .xor gd d a b => execXor gd d a b s
  | .xori gd d a v => execXori gd d a v s
  | .andn gd d a b => execAndn gd d a b s
  | .shl gd d a b => execShl gd d a b s
  | .shli gd d a v => execShli gd d a v s
  | .shr gd d a b => execShr gd d a b s
  | .shri gd d a v => execShri gd d a v s
  | .sra gd d a b => execSra gd d a b s
  | .srai gd d a v => execSrai gd d a v s
  | .rot gd d a b => execRot gd d a b s
  | .clz gd d a => execClz gd d a s
  | .popc gd d a => execPopc gd d a s
  | .min gd sg d a b => execMin gd sg d a b s
  | .max gd sg d a b => execMax gd sg d a b s
  | .sel gd d a b c => execSel gd d a b c s
  | .cmp gd pair cc d a b => execCmp gd pair cc d a b s
  | .ext gd sg sz d a => execExt gd sg sz d a s
  | .mov gd d a => execMov gd d a s
  | .movi gd d v => execMovi gd d v s
  | .bfx gd sg d a b => execBfx gd sg d a b s
  | .bfi gd d a b => execBfi gd d a b s
  | .pand gd d a b => execPand gd d a b s
  | .por gd d a b => execPor gd d a b s
  | .pxor gd d a b => execPxor gd d a b s
  | .pnot gd d a => execPnot gd d a s
  | .movc gd m => execMovc gd m s
  | .rdtime gd d => execRdtime gd d s
  | .dset gd d a b k => execDset gd d a b k s
  | .dsetm gd d a => execDsetm gd d a s
  | .dlo gd d a => execDlo gd d a s
  | .dhi gd d a => execDhi gd d a s
  | .dcnt gd d a => execDcnt gd d a s
  | .neq gd k d a => execNeq gd k d a s
  | .nne gd k d a => execNne gd k d a s
  | .neqo gd k d a ofs => execNeqo gd k d a ofs s
  | .nneo gd k d a ofs => execNneo gd k d a ofs s
  | .nlt gd k d a => execNlt gd k d a s
  | .nle gd k d a => execNle gd k d a s
  | .nadd gd k d a b => execNadd gd k d a b s
  | .nsub gd k d a b => execNsub gd k d a b s
  | .nmul gd k d a b => execNmul gd k d a b s
  | .nmin gd k d a b => execNmin gd k d a b s
  | .nmax gd k d a b => execNmax gd k d a b s
  | .nabs gd k d a => execNabs gd k d a s
  | .nin gd k d a => execNin gd k d a s
  | .ndiff gd k d n => execNdiff gd k d n s
  | .nprop gd => execNprop gd s
  | .nclr gd => execNclr gd s
  | .nckpt gd => execNckpt gd s
  | .nrest gd => execNrest gd s
  | .npop gd => execNpop gd s
  | .aset gd d v => execAset gd d v s
  | .aadd gd d a b => execAadd gd d a b s
  | .aupd gd d => execAupd gd d s
  | .amov gd d a => execAmov gd d a s
  | .aget gd d a => execAget gd d a s
  | .akset gd d j v => execAkset gd d j v s
  | .akmov gd d j b => execAkmov gd d j b s
  | .akget gd d a j => execAkget gd d a j s
  | .ld gd sz os d m => execLd gd sz os d m s
  | .st gd sz os d m => execSt gd sz os d m s
  | .ldc gd sz os d m => execLdc gd sz os d m s
  | .lda gd sz os d m => execLda gd sz os d m s
  | .stl gd sz os d m => execStl gd sz os d m s
  | .ldv gd os d m => execLdv gd os d m s
  | .stv gd os d m => execStv gd os d m s
  | .gath gd sz os d a x => execGath gd sz os d a x s
  | .scat gd sz os d a x => execScat gd sz os d a x s
  | .ldt gd os d m => execLdt gd os d m s
  | .ldtMx4 gd os d m => execLdtMx4 gd os d m s
  | .stt gd os d m => execStt gd os d m s
  | .ldq gd os d m => execLdq gd os d m s
  | .stq gd os d m => execStq gd os d m s
  | .atom gd op sg sz os d a c => execAtom gd op sg sz os d a c s
  | .fence gd sc d => execFence gd sc d s
  | .fenceE gd sc d => execFenceE gd sc d s
  | .pref gd os m => execPref gd os m s
  | .vadd gd ty rm d a b => execVadd gd ty rm d a b s
  | .vaddI gd d a v => execVaddI gd d a v s
  | .vsub gd ty rm d a b => execVsub gd ty rm d a b s
  | .vmul gd ty rm d a b => execVmul gd ty rm d a b s
  | .vfma gd ty rm d a b => execVfma gd ty rm d a b s
  | .vfmaI gd d a v => execVfmaI gd d a v s
  | .vfms gd ty rm d a b => execVfms gd ty rm d a b s
  | .vmin gd ty d a b => execVmin gd ty d a b s
  | .vmax gd ty d a b => execVmax gd ty d a b s
  | .vabs gd ty d a => execVabs gd ty d a s
  | .vneg gd ty d a => execVneg gd ty d a s
  | .vrcp gd ty d a => execVrcp gd ty d a s
  | .vrsq gd ty d a => execVrsq gd ty d a s
  | .vsqrt gd ty d a => execVsqrt gd ty d a s
  | .vexp2 gd ty d a => execVexp2 gd ty d a s
  | .vlog2 gd ty d a => execVlog2 gd ty d a s
  | .vsin gd ty d a => execVsin gd ty d a s
  | .vcos gd ty d a => execVcos gd ty d a s
  | .vtanh gd ty d a => execVtanh gd ty d a s
  | .vcmp gd fc ty d a b => execVcmp gd fc ty d a b s
  | .vsel gd d a b c => execVsel gd d a b c s
  | .viadd gd ty sat d a b => execViadd gd ty sat d a b s
  | .visub gd ty sat d a b => execVisub gd ty sat d a b s
  | .vimul gd ty sat d a b => execVimul gd ty sat d a b s
  | .vimad gd ty sat d a b => execVimad gd ty sat d a b s
  | .vand gd d a b => execVand gd d a b s
  | .vor gd d a b => execVor gd d a b s
  | .vxor gd d a b => execVxor gd d a b s
  | .vshl gd ty d a b => execVshl gd ty d a b s
  | .vshr gd ty d a b => execVshr gd ty d a b s
  | .vsra gd ty d a b => execVsra gd ty d a b s
  | .vcvt gd dt st rm sat d a => execVcvt gd dt st rm sat d a s
  | .vwiden gd dt st d a => execVwiden gd dt st d a s
  | .vnarr gd dt st rm sat d a => execVnarr gd dt st rm sat d a s
  | .vpack gd dt st rm sat d a b => execVpack gd dt st rm sat d a b s
  | .vunpk gd dt st rm sat d a => execVunpk gd dt st rm sat d a s
  | .vredadd gd ty d a => execVredadd gd ty d a s
  | .vredmax gd ty d a => execVredmax gd ty d a s
  | .vargmax gd ty d a => execVargmax gd ty d a s
  | .vscan gd op ty d a => execVscan gd op ty d a s
  | .vperm gd lw d a b => execVperm gd lw d a b s
  | .vbcast gd lw d a => execVbcast gd lw d a s
  | .vbcastI gd d v => execVbcastI gd d v s
  | .vshuf gd lw d a b => execVshuf gd lw d a b s
  | .vmovg gd lw d a b => execVmovg gd lw d a b s
  | .vmask gd ty d a b => execVmask gd ty d a b s
  | .mma gd sp q a b => execMma gd sp q a b s
  | .mmaTa gd sp q a b => execMmaTa gd sp q a b s
  | .mmaTb gd sp q a b => execMmaTb gd sp q a b s
  | .mzero gd sp q => execMzero gd sp q s
  | .mscale gd sp q n => execMscale gd sp q n s
  | .mcvt gd sp dt rm sat d q => execMcvt gd sp dt rm sat d q s
  | .mcvtMx4 gd sp rm sat d q => execMcvtMx4 gd sp rm sat d q s
  | .mtrn gd sp d a => execMtrn gd sp d a s
  | .mcpy gd sp d a => execMcpy gd sp d a s
  | .mbias gd sp q a => execMbias gd sp q a s
  | .mred gd sp d q => execMred gd sp d q s
  | .qadd gd sp q src => execQadd gd sp q src s
  | .qcpy gd sp q src => execQcpy gd sp q src s
  | .mfill gd sp d n => execMfill gd sp d n s
  | .opsel gd a => execOpsel gd a s
  | .opselI gd n => execOpselI gd n s
  | .setfmt gd a => execSetfmt gd a s
  | .setfmtI gd v => execSetfmtI gd v s
  | .setsct gd a => execSetsct gd a s
  | .cpy gd d a => execCpy gd d a s
  | .cpyst gd d a => execCpyst gd d a s
  | .subscr gd d a => execSubscr gd d a s
  | .unsub gd r => execUnsub gd r s
  | .ringack gd r => execRingack gd r s
  | .bara gd b => execBara gd b s
  | .barw gd b => execBarw gd b s
  | .barq gd d b => execBarq gd d b s
  | .icopy gd d a => execIcopy gd d a s
  | .icinv gd d a => execIcinv gd d a s
  | .ifence gd => execIfence gd s
  | .rwflush gd => execRwflush gd s
  | .ddvar gd d a => execDdvar gd d a s
  | .ddapply gd bo a b c => execDdapply gd bo a b c s
  | .ddite gd a d b c => execDdite gd a d b c s
  | .ddrestr gd a b c => execDdrestr gd a b c s
  | .ddexist gd a b c => execDdexist gd a b c s
  | .dduniv gd a b c => execDduniv gd a b c s
  | .ddnot gd a b => execDdnot gd a b s
  | .ddcount gd a b c => execDdcount gd a b c s
  | .ddmask gd a b c => execDdmask gd a b c s
  | .ddref gd b => execDdref gd b s
  | .ddunref gd b => execDdunref gd b s
  | .ddgc gd a => execDdgc gd a s
  | .ddord gd a => execDdord gd a s
  | .ddswap gd b => execDdswap gd b s
  | .ddstat gd a => execDdstat gd a s
  | .tret gd => execTret gd s
  | .syscall gd n => execSyscall gd n s
  | .tlbinv gd sc a => execTlbinv gd sc a s
  | .tlbinvAll gd sc => execTlbinvAll gd sc s
  | .evsig gd v => execEvsig gd v s
  | .movcSysRead gd d cr => execMovcSysRead gd d cr s
  | .movcSysWrite gd cr a => execMovcSysWrite gd cr a s
  | .frmst gd a => execFrmst gd a s
  | .frmld gd a => execFrmld gd a s
  | .ckill gd a => execCkill gd a s
  | .tlbinvAckComplete _ => .next s
  | .copyJobComplete _ => .next s
  | .codeLoadComplete _ => .next s
  | .icinvComplete _ => .next s
  | .loaderTileWrite _ _ => .next s
  | .storerSlotPull _ _ => .next s
  | .storerTileWrite _ _ => .next s
  | .subscriptionEnd _ _ => .next s
  | .brackenAccept _ => .next s
  | .ddOperationComplete _ _ => .next s
  | .ddAbandon _ _ => .next s
  | .pageWalk _ => .next s
  | .trapRecordDeferredWrite => .next s
  | .heartbeatIntervalEnd _ => .next s
  | .probeSend _ => .next s
  | .probeReceive => .next s
  | .settleEnd _ => .next s
  | .capWrite _ _ => .next s
  | .droopAlarm _ => .next s
  | .stretchEnd _ => .next s
  | .splitWindowEnd _ => .next s
  | .splitWindowRequest _ => .next s
  | .heathGate _ => .next s
  | .thermalSample _ => .next s
  | .thermalCapStep => .next s
  | .quantumBoundary => .next s
  | .contextSaveComplete _ => .next s
  | .drainFallback _ => .next s
  | .groupResume _ => .next s
  | .doorbell _ _ => .next s
  | .frozenW1C _ => .next s
  | .recordDispatch _ => .next s
  | .launch _ => .next s
  | .launchBind _ => .next s
  | .groupRelease _ => .next s
  | .launchComplete _ => .next s
  | .copy _ => .next s
  | .signal _ => .next s
  | .waitRecord _ => .next s
  | .waitRecordSatisfied _ => .next s
  | .jcbInit _ => .next s
  | .jcbRaise _ => .next s
  | .layout _ => .next s
  | .quiesceComplete => .next s
  | .layoutTick => .next s
  | .channelRetire _ => .next s
  | .moduleReset => .next s
  | .hubReset => .next s
  | .partitionReset _ => .next s
  | .vfReset _ => .next s
  | .vfResetComplete _ => .next s
  | .faultreply _ _ _ => .next s
  | .tqheadWrite _ => .next s
  | .vectorMaskClear _ _ => .next s
  | .attest => .next s
  | .attestReportComplete => .next s
  | .hostWindowWrite _ _ _ => .next s
  | .flitReceive _ _ => .next s
  | .flitAck _ _ => .next s
  | .flitNak _ _ => .next s
  | .mrd _ _ _ _ _ _ => .next s
  | .mwr _ _ _ _ _ => .next s
  | .linkAtom _ _ _ _ _ _ _ _ _ _ => .next s
  | .cpl _ _ _ _ => .next s
  | .hostRetryTimer => .next s
  | .peerTransaction _ _ _ _ => .next s
  | .recoveryMsg => .next s
  | .hostPortDown => .next s
  | .hostPortUp => .next s
  | .peerPortDown _ => .next s
  | .cxlLinkDown _ => .next s
  | .peerPortUp _ => .next s
  | .hubCopyComplete _ => .next s

end Sys2Proof.Machine
end

