-- ==== Sys2Proof/Machine/Rewrite.lean ====
section
/-!
DEFINITION. The rewrite stage (18 R264 to R276): the path ahead of a context, flush points, rule entries, matching, and
the operation that a matched position issues.
-/
namespace Sys2Proof.Machine

/-! ### The path ahead (R264, R265) -/

/-- The bundle at an address, decoded from the rest of its line (05 R76). -/
def Core.decodeAt (k : Core) (a : Nat) : Fetched := decodeBundle (memBytes k.ispad a (64 - a % 64))

/-- The end of a trip (09 R115): the sequencer afterwards, and whether it loops back. -/
def Loop.endTrip (l : Loop) : Loop × Bool :=
  match l.advancing with
  | none => ({ l with run := false }, false)
  | some j => ({ l with
      idx := (Vector.ofFn fun i : Lvl => if i.val < j.val then 0 else l.idx[i]).set j (l.idx[j] + 1) }, true)

/-- Where a context goes after the bundle at `hdr` whose next sequential address is `a`: past line pads, with the loop sequencer's
step at END. -/
def Core.follow (k : Core) (l : Loop) (hdr a : Nat) : Nat × Loop :=
  let a := k.fetchFrom hdr a
  if l.run ∧ l.endA.toNat = a then
    let r := l.endTrip
    (if r.2 then k.fetchFrom r.1.body.toNat r.1.body.toNat else a, r.1)
  else (a, l)

/-- The bundles ahead, from the one at `a`: at most `n`; an illegal encoding or a bank end ends the path. DEDUCED (log 43). -/
def Core.path (k : Core) : Nat → Loop → Nat → List Bundle
  | 0, _, _ => []
  | n + 1, l, a =>
    match k.decodeAt a with
    | .bundle b =>
      let q := k.follow l a (a + b.len)
      b :: (if q.1 = bankEnd a then [] else k.path n q.2 q.1)
    | _ => []

/-! ### S6 operations and flush points -/

/-- The S6 operation of a bundle. -/
def bundleS6 (b : Bundle) : Option Instr := (b.slots.find? fun x => x.1 == 6).map (·.2)

/-- Tiles a form names. -/
def tilesOf (i : Instr) : List R16 :=
  match i with
  | .mma _ _ _ a b | .mmaTa _ _ _ a b | .mmaTb _ _ _ a b => [a, b]
  | .mcvt _ _ _ _ _ d _ | .mcvtMx4 _ _ _ _ d _ | .mred _ _ d _ | .mfill _ _ d _ => [d]
  | .mtrn _ _ d a | .mcpy _ _ d a => [d, a]
  | .mbias _ _ _ a => [a]
  | .ldt _ _ d _ | .ldtMx4 _ _ d _ | .stt _ _ d _ => [d]
  | _ => []
/-- Blocks a form names. -/
def blocksOf (i : Instr) : List Q512 :=
  match i with
  | .mma _ _ q _ _ | .mmaTa _ _ q _ _ | .mmaTb _ _ q _ _ | .mzero _ _ q | .mscale _ _ q _ | .mbias _ _ q _ => [q]
  | .mcvt _ _ _ _ _ _ q | .mcvtMx4 _ _ _ _ _ q | .mred _ _ _ q => [q]
  | .qadd _ _ q s | .qcpy _ _ q s => [q, s]
  | .scaleByProduct _ _ q _ _ => [q]
  | _ => []
/-- The block an MMA or an MSCALE updates (R270, condition 5). -/
def updates (i : Instr) : Option Q512 :=
  match i with
  | .mma _ _ q _ _ | .mmaTa _ _ q _ _ | .mmaTb _ _ q _ _ | .mscale _ _ q _ => some q
  | _ => none

/-- A flush point of Table 18.1 in a slot, whatever its guard holds; `tiles` are those a match names. -/
def flushForm (tiles : List R16) (slot : Fin 8) (i : Instr) : Bool :=
  match i with
  | .bra _ _ | .call _ _ | .ret _ | .lrun _ _ _ | .lbrk _ _ | .wait _ _ _ _ _ | .sleepu _ _ | .sleepuI _ _ | .yield _ => true
  | .halt _ | .trap _ _ | .syscall _ _ | .tret _ | .barw _ _ => true
  | .setfmt _ _ | .setfmtI _ _ | .setsct _ _ | .rwflush _ => true
  | .fence _ _ _ | .fenceE _ _ _ | .ldq _ _ _ _ | .stq _ _ _ _ => true
  | .ldt _ _ d _ | .ldtMx4 _ _ d _ | .stt _ _ d _ => tiles.contains d
  | .movc _ (.write cr _) | .movcSysWrite _ cr _ => cr.toNat / 16 == 0x10
  | .nop _ => false
  | _ => slot == 2 && (explicitDests i ++ extraDests i).any fun x => match x with
      | .d _ => true
      | _ => false
/-- Domain forms that write no d-register at once. -/
def domainForm (i : Instr) : Bool :=
  match i with
  | .dlo _ _ _ | .dhi _ _ _ | .dcnt _ _ _ | .nprop _ | .nclr _ | .nckpt _ | .nrest _ | .npop _ => true
  | _ => false
/-- Is a bundle a flush point for a match that names `tiles`? A RWF bit counts unless the bundle is P0's. -/
def bundleFlush (b : Bundle) (first : Bool) (tiles : List R16) : Bool :=
  b.yld || (b.rwf && !first) || b.slots.any fun x => flushForm tiles x.1 x.2 || domainForm x.2

/-! ### Rule entries (R267 to R269) -/

/-- The fields of an S6 word: OPC, Q, MA, MB, MD, MOD. -/
structure S6Word where
  opc : Nat
  q   : Nat
  a   : Nat
  b   : Nat
  d   : Nat
  m   : Nat
  grd : Nat
  deriving DecidableEq, Repr

/-- The fields of an S6 form, from its encoding. -/
def s6Word (i : Instr) : S6Word :=
  let w := (encode i).getD 0
  ⟨fld w 40 8, fld w 26 9, fld w 22 4, fld w 18 4, fld w 14 4, fld w 0 10, fld w 35 5 * 16 + fld w 10 4⟩

/-- Bits `lo` to `lo + n - 1` of an entry. -/
def ruleFld (e : BitVec 256) (lo n : Nat) : Nat := e.toNat / 2 ^ lo % 2 ^ n
/-- CLS. -/
def ruleCls (e : BitVec 256) : Nat := ruleFld e 0 2
/-- LEN. -/
def ruleLen (e : BitVec 256) : Nat := ruleFld e 2 2
/-- Pattern word of a position. -/
def rulePat (e : BitVec 256) (k : Nat) : Nat := ruleFld e (32 + 32 * k) 32
/-- Replacement word of a position. -/
def ruleRep (e : BitVec 256) (k : Nat) : Nat := ruleFld e (128 + 32 * k) 32

/-- May a pattern word fire (R269)? -/
def patOk (p : Nat) : Bool :=
  let opc := fld p 0 8
  p / 2 ^ 27 == 0 && decide (1 ≤ opc) && decide (opc ≤ 0x0E)
  && (fld p 23 3 == 0 || (opc == 5 && decide (fld p 23 3 ≤ 2)))
  && (fld p 26 1 == 0 || decide (opc ≤ 3))
/-- May a replacement word fire (R269)? -/
def repOk (r : Nat) : Bool :=
  let opc := fld r 2 8
  let act := fld r 0 2
  r / 2 ^ 28 == 0
  && (if act = 2 then (decide (1 ≤ opc) && decide (opc ≤ 0x0E)) || opc == 0x80 else decide (act ≤ 1) && r / 4 == 0)
  && (fld r 25 3 == 0 || opc == 0x80)
/-- Can an entry fire, its variables apart (R269)? -/
def ruleOk (e : BitVec 256) : Bool :=
  let n := ruleLen e
  ruleCls e != 3 && n != 0 && ruleFld e 224 32 == 0 && ruleFld e 31 1 == 0 && ruleFld e 5 3 == 0
  && (List.range 3).all fun k => if k < n then patOk (rulePat e k) && repOk (ruleRep e k) else rulePat e k == 0 && ruleRep e k == 0

/-- Variables bound so far. -/
abbrev Vars := Vector (Option Nat) 7
/-- Bind variable `v` to a value, or compare; 0 leaves the field free (R268). -/
def bindVar (vs : Option Vars) (v x : Nat) : Option Vars :=
  match vs with
  | none => none
  | some l => if v = 0 then some l else match l[Fin.ofNat 7 (v - 1)] with
    | none => some (l.set (Fin.ofNat 7 (v - 1)) (some x))
    | some y => if x = y then some l else none
/-- Match a pattern word against an operation. -/
def bindWord (vs : Option Vars) (p : Nat) (w : S6Word) : Option Vars :=
  if fld p 0 8 ≠ w.opc then none
  else bindVar (bindVar (bindVar (bindVar (bindVar vs (fld p 8 3) w.q) (fld p 11 3) w.a) (fld p 14 3) w.b) (fld p 17 3) w.d) (fld p 20 3) w.m

/-- IC on a constant-bank word (Table 18.3). -/
def icHolds (ic : Nat) (v : BitVec 32) : Bool :=
  let e := fld v.toNat 23 8
  if ic = 1 then v.toNat / 2 ^ 31 == 0 && fld v.toNat 0 23 == 0 && decide (127 ≤ e) && decide (e ≤ 190)
  else if ic = 2 then e != 255 && fld v.toNat 0 31 != 0
  else true

/-- The operation a replacement word describes for an original, with the variables' values (Table 18.4, R271). DESIGN CHOICE (log 43): none
where its encoding is illegal, as with a nonzero field that its form does not use, and then its entry does not fire. -/
def replacement (vs : Nat → Option Nat) (r : Nat) (orig : Instr) : Option Instr :=
  let w := (encode orig).getD 0
  let val (v : Nat) : Option Nat := if v = 0 then some 0 else vs v
  match val (fld r 10 3), val (fld r 13 3), val (fld r 16 3), val (fld r 19 3), val (fld r 22 3), val (fld r 25 3) with
  | some q, some a, some b, some d, some m, some m2 =>
    if 512 ≤ q ∨ 16 ≤ a ∨ 16 ≤ b ∨ 16 ≤ d ∨ 1024 ≤ m ∨ 1024 ≤ m2 then none
    else if fld r 2 8 = 0x80 then some (.scaleByProduct (fGd w) ((fSp w).toOption.getD none) (Fin.ofNat 512 q) (Fin.ofNat 1024 m) (Fin.ofNat 1024 m2))
    else (decodeSlot 6 0 (fld r 2 8 * 2 ^ 40 + fld w 35 5 * 2 ^ 35 + q * 2 ^ 26 + a * 2 ^ 22 + b * 2 ^ 18 + d * 2 ^ 14
      + fld w 10 4 * 2 ^ 10 + m)).toOption
  | _, _, _, _, _, _ => none

/-- What a matched position issues: nothing for a bubble, the original, or the replacement (R271). -/
def positionOp (e : BitVec 256) (vs : Nat → Option Nat) (k : Nat) (orig : Instr) : Option (Option Instr) :=
  let r := ruleRep e k
  match fld r 0 2 with
  | 0 => some (some orig)
  | 1 => some none
  | _ => (replacement vs r orig).map some

/-! ### Issue of a matched position -/

/-- The guard and the stage predicate of an S6 form. -/
def s6Guard (i : Instr) : Guard × Option R8 :=
  let w := (encode i).getD 0
  (fGd w, (fSp w).toOption.getD none)

/-- The commit of an S6 slot whose original is `orig`: a replacement MMA takes its sequence from the original (R271). DESIGN CHOICE
(log 43): one whose original is no MMA has the key and the sequence of its own names. -/
def s6Exec (orig op : Instr) (s : State) : Out :=
  match mmaKey orig, mmaKey op with
  | some (ko, kq, ka, kb), some (ro, rq, ra, rb) =>
    let g := s6Guard orig
    matDo g.1 g.2 (fun s => mmaClass s.rdFmt) (fun s => s.mmaStep ko kq ka kb ro rq ra rb) s
  | _, _ => slotExec op s

/-- An S6 form with a guard that holds and no stage predicate. -/
def unguarded (i : Instr) : Instr :=
  match i with
  | .scaleByProduct _ _ q n n2 => .scaleByProduct ⟨false, 0⟩ none q n n2
  | _ =>
    let w := (encode i).getD 0
    match decodeSlot 6 0 (w % 2 ^ 35 / 2 ^ 14 * 2 ^ 14 + w % 2 ^ 10 + w / 2 ^ 40 * 2 ^ 40) with
    | .ok j => j
    | .error _ => i

/-- Does a replacement MMA pass the checks on its own tiles, blocks and format, as the first step of a sequence of its own
(R270, condition 8)? -/
def ownChecks (op : Instr) (s : State) : Bool :=
  (mmaKey op).isNone || match slotExec op (s.modCur fun t => { t with cursor := none }) with
    | .next t => !t.env.stopped
    | _ => false

/-- Would an operation pass its checks at its position (R270, condition 8)? Tried with its guard taken as true; the state
after it is the one in which the next position is tried. DEDUCED (log 43). -/
def tryOp (orig op : Instr) (s : State) : Bool × State :=
  let s := s.modEnv fun e => { e with slot := 6, stopped := false }
  match s6Exec (unguarded orig) (unguarded op) s with
  | .next t => (!t.env.stopped && ownChecks (unguarded op) s, t)
  | _ => (false, s)

/-! ### Matching (R270) -/

/-- The first `n` S6 operations of a path, with the numbers of their bundles. -/
def firstS6 (path : List Bundle) (n : Nat) : List (Nat × Instr) :=
  (path.zipIdx.filterMap fun p => (bundleS6 p.1).map fun i => (p.2, i)).take n

/-- Is a write to a tile pending for a context? -/
def State.tilePending (s : State) (c : CoreId) (x : CtxId) (m : R16) : Bool :=
  (s.core c).inflight.any fun f => f.ctx == x && match f.wr with
    | .tile d _ _ => d == m
    | .load id => match s.findAcc c x id with
      | some a => (match a.dest with
        | .tile d _ => d == m
        | .tileMx4 d _ _ => d == m
        | _ => false)
      | none => false
    | _ => false
/-- Is a write to a block pending, an accumulating update apart? -/
def State.blockPending (s : State) (c : CoreId) (x : CtxId) (q : Q512) : Bool :=
  (s.core c).inflight.any fun f => f.ctx == x && match f.wr with
    | .q d _ => d == q
    | .load id => match s.findAcc c x id with
      | some a => a.dest == .block q
      | none => false
    | _ => false
/-- Does a format or scale-table value take effect in this step or within the next `n` steps (Table 18.1)? -/
def State.fmtWithin (s : State) (c : CoreId) (x : CtxId) (n : Nat) : Bool :=
  (s.ctx c x).fmtAt == some (s.core c).step ||
  (s.core c).inflight.any fun f => f.ctx == x && decide (f.due < (s.core c).step + n) && match f.wr with
    | .fmt _ => true
    | .load id => match s.findAcc c x id with
      | some a => a.dest == .sct
      | none => false
    | _ => false

/-- Is a domain effect of a context pending: one not yet applied, or a result of DLO, DHI or DCNT that is not visible yet (R270, 15 R234)? -/
def State.domPending (s : State) (c : CoreId) (x : CtxId) : Bool :=
  !(s.ctx c x).pendDom.isEmpty || (s.core c).inflight.any fun f => f.ctx == x && match f.wr with
    | .dom _ _ => true
    | _ => false

/-- Does entry `e` meet every condition for P0 at the head of `path` (the bundle in `env`)? Its variables, if so. DESIGN CHOICE (log 43):
the tiles and blocks that the match names are those of its matched operations and of their replacements. -/
def State.ruleMatch (s : State) (e : BitVec 256) (path : List Bundle) : Option Vars :=
  let c := s.env.core
  let x := s.env.ctx
  let n := ruleLen e
  let ops := firstS6 path n
  let cls := ruleCls e
  let t := s.cur
  if !ruleOk e || (cls == 1 && !t.rwp.getLsbD 0) || (cls == 2 && !t.rwp.getLsbD 1) || ops.length != n then none
  else
    let words := ops.map fun o => s6Word o.2
    match (List.range n).foldl (fun vs k => bindWord vs (rulePat e k) (words.getD k ⟨0, 0, 0, 0, 0, 0, 0⟩)) (some (Vector.replicate 7 none)) with
    | none => none
    | some vs =>
      let last := (ops.getLast?.map (·.1)).getD 0
      let reach := path.take (last + 8)
      let tiles := ops.flatMap fun o => tilesOf o.2
      let blocks := ops.flatMap fun o => blocksOf o.2
      let val (v : Nat) : Option Nat := vs[Fin.ofNat 7 (v - 1)]
      let news := (List.range n).map fun k => positionOp e val k ((ops.getD k (0, .bundleIssue 0)).2)
      let newOps := news.filterMap fun o => o.join
      let tiles := tiles ++ newOps.flatMap tilesOf
      let blocks := blocks ++ newOps.flatMap blocksOf
      let ic := (List.range n).all fun k =>
        let p := rulePat e k
        icHolds (fld p 23 3) (s.rdCb (Fin.ofNat 1024 ((words.getD k ⟨0, 0, 0, 0, 0, 0, 0⟩).m)))
        && (fld p 26 1 == 0 || match mmaKey ((ops.getD k (0, .bundleIssue 0)).2), stepK s.rdFmt with
            | some (o, q, a, b), some ks => ((s.newCursor o q a b ks).map (·.count)) == some 1
            | _, _ => false)
      let grd := words.all fun w => w.grd == (words.getD 0 ⟨0, 0, 0, 0, 0, 0, 0⟩).grd
      let gp := (words.getD 0 ⟨0, 0, 0, 0, 0, 0, 0⟩).grd / 16 % 16
      let gpOk := gp == 0 || !((path.take last).any fun b => b.slots.any fun y =>
        (explicitDests y.2 ++ extraDests y.2).contains (.p gp))
      let gap (k : Nat) : Nat := ((ops.getD k (0, .bundleIssue 0)).1) - ((ops.getD (k - 1) (0, .bundleIssue 0)).1)
      let dist := (n < 2 || decide (ruleFld e 8 8 ≤ gap 1)) && (n < 3 || decide (ruleFld e 16 8 ≤ gap 2))
      let size := reach.length == last + 8 && decide (reach.length ≤ 24) && decide ((reach.filter fun b => (bundleS6 b).isSome).length ≤ 16)
      let flush := reach.zipIdx.any fun p => bundleFlush p.1 (p.2 == 0) tiles
      let naming := (reach.drop (last + 1)).all fun b => b.slots.all fun y =>
        let bs := blocksOf y.2
        (tilesOf y.2).all (fun m => !tiles.contains m)
        && bs.all fun q => !blocks.contains q || (updates y.2 == some q)
      let pend := !s.domPending c x && !(tiles.any fun m => s.tilePending c x m) && !(blocks.any fun q => s.blockPending c x q)
      let fpo := ruleFld e 4 1 == 0 || (!fmtInt s.rdFmt && !fmtSat s.rdFmt)
      let pass := news.all (·.isSome)
        && (ops.foldl (fun (acc : Bool × State) o => if acc.1 then tryOp o.2 o.2 acc.2 else acc) (true, s)).1
        && ((ops.zip news).foldl (fun (acc : Bool × State) o => match acc.1, o.2 with
            | true, some (some r) => tryOp o.1.2 r acc.2
            | _, _ => acc) (true, s)).1
      if ic && grd && gpOk && dist && size && !flush && naming && pend && fpo && !s.fmtWithin c x (last + 8) && pass then some vs else none

/-- The stage takes the S6 slot of the bundle in `env` as P0: the first entry that meets every condition fires (R270). -/
def State.rewriteP0 (s : State) (l : Loop) : State :=
  let c := s.env.core
  let k := s.core c
  if s.cur.fired.isSome || s.cur.noRewrite || s.cur.hm then s
  else
    let path := k.path 24 l s.env.hdr.toNat
    match (List.finRange 64).findSome? fun e => (s.ruleMatch k.rules[e] path).map fun v => (e, v) with
    | none => s
    | some (e, v) =>
      (s.modCur fun t => { t with fired := some ⟨e, v.map fun (o : Option Nat) => BitVec.ofNat 10 (o.getD 0), 0, s.env.hdr⟩ }).modCore c
        fun k => { k with firings := k.firings.set e (k.firings[e] + 1) }

/-- The operation the S6 slot of the bundle in `env` issues, for its original. -/
def State.s6Op (s : State) (orig : Instr) : Option Instr :=
  match s.cur.fired with
  | none => some orig
  | some f =>
    match positionOp (s.core s.env.core).rules[f.entry] (fun v => some (f.vars[Fin.ofNat 7 (v - 1)]).toNat) f.next orig with
    | some o => o
    | none => some orig

/-- The operation that stands in for the S6 slot of the bundle in `env` is noted, for what its position reads (R271). -/
def State.replaceS6 (s : State) : State :=
  s.modEnv fun e => { e with repl := if s.cur.fired.isSome then
      ((e.slots.find? fun y => y.1 == 6).bind fun y => s.s6Op y.2) else none }

/-- A matched position has committed (R271). -/
def State.advanceFired (s : State) : State :=
  s.modCur fun t => { t with fired := match t.fired with
    | some f => if f.next + 1 < ruleLen (s.core s.env.core).rules[f.entry] then some { f with next := f.next + 1 } else none
    | none => none }

end Sys2Proof.Machine
end

