-- ==== Sys2Proof/Machine/Issue.lean ====
section
/-!
DEFINITION. The issue of a bundle (05 R69 to R76): fetch, the traps taken before any slot commits, the freezes that hold
it, the commit of its slots in order, the side effects of R73, the end of a trip (09 R115), the resumption of a split
bundle (24 R368), and the steps in which nothing issues (03 R36, 09 R123).
-/
namespace Sys2Proof.Machine

/-! ### Sequential fetch and the end of a trip (09 R115, R116) -/

/-- The address registers and strides that the next trip reads: those of the context with the writes that become visible
in the next step (03 R40). DEDUCED (log 25). -/
def State.areas (s : State) (c : CoreId) (x : CtxId) : Vector AReg 16 :=
  let k := s.core c
  (k.inflight.filter fun f => f.ctx == x && decide (f.due ≤ k.step + 1)).foldl (fun a f => match f.wr with
    | .a d v taint => a.set d { a[d] with v := v, taint := taint }
    | .stride d j v => a.set d { a[d] with stride := (a[d]).stride.set j v }
    | _ => a) (s.ctx c x).a

/-- The clamp of a drain at the end of a trip, with the re-entry copy of the address registers (23 R351). -/
def Loop.drainClamp (l : Loop) (a : Vector AReg 16) : Loop :=
  let n := if (l.idx[(0 : Lvl)]).toNat + 1 < (l.n[(0 : Lvl)]).toNat then (l.idx[(0 : Lvl)] + 1).setWidth 32 else l.n[(0 : Lvl)]
  { l with n := l.n.set (0 : Lvl) n, drained := some (n, a) }

/-- The context continues at the first header from `a` on, after the bundle at `hdr`; a trip that ends there is ended. In
handler mode the sequencer is held (24 R363). DEDUCED (log 24). -/
def State.advance (s : State) (c : CoreId) (x : CtxId) (hdr a : Nat) : State :=
  let a := (s.core c).fetchFrom hdr a
  let s := s.modCtx c x fun t => { t with pc := BitVec.ofNat 64 a, transferred := false }
  let t := s.ctx c x
  if t.hm ∨ !t.loop.run ∨ t.loop.endA.toNat ≠ a then s
  else
    let drain := s.groupStop c == some .drain && t.loop.k == 1 && t.fired.isNone && t.loop.drained.isNone
    let l := if drain then t.loop.drainClamp (s.areas c x) else t.loop
    let r := l.endTrip
    let s := s.modCtx c x fun t => { t with
      loop := r.1
      pc := if r.2 then r.1.body else t.pc }
    s.seqPreds c x (if r.2 then r.1.stagePreds else 0)

/-! ### What holds a bundle (03 Table 3.7) -/

/-- The cause under which an access that has not performed freezes its core: translation where a replayable fault holds it (24
R378), the L1 miss for any other global one (10 R135), lateral for one to a vault. DESIGN CHOICE (log 75): that is also charged when
the oldest of 32 outstanding accesses is to the own vault, for which 03 Table 3.7 names no cause. -/
def State.accCause (s : State) (c : CoreId) (x : CtxId) (a : Access) : FreezeCause :=
  match a.elems.find? fun e => !e.done with
  | some e => if s.faultHeld c x e.a then .translation else if isScratch e.a then .lateral else .l1miss
  | none => .lateral

/-- Is a form NOP? -/
def isNop (i : Instr) : Bool := match i with
  | .nop _ => true
  | _ => false

/-- Is an access a load, a store or an atomic of its context (10 R150)? A fence, a release, an arrival, a message and an
invalidation are none, and the read of a card or of a scale table is the job's (R161). -/
def Access.isData (a : Access) : Bool :=
  match a.kind, a.dest with
  | .load _, .card _ _ | .load _, .subCard _ _ | .load _, .sct => false
  | .load _, _ | .store, _ | .atom _ _ _ _, _ => true
  | _, _ => false

/-- Is a form an S4 access (10 R148, R150)? -/
def isAccess (i : Instr) : Bool := match i with
  | .nop _ | .fence _ _ _ | .fenceE _ _ _ | .pref _ _ _ => false
  | _ => true

/-- Accesses of a context that have not performed, in program order (10 R160). -/
def Ctx.outstanding (t : Ctx) : List Access := t.accs.filter fun a => a.isData && !a.performed

/-- An access of a context that names bytes of a WAIT's word and has not performed, if there is one. -/
def State.waitAccess (s : State) (c : CoreId) (x : CtxId) (a : Addr) (cc : Wc) (dw : Bool) : Option Access :=
  (s.ctx c x).accs.find? fun b => b.elems.any fun f => !f.done && f.n != 0 && s.sameBytes c x (waitElem a cc dw) f

/-- Must a FRMLD, ordered as a load of class 0, come after an access of its context (24 R373)? DEDUCED (log 42). -/
def State.frmldAfter (s : State) (b : Access) : Bool :=
  (Access.make (.load true) (clsMask 0) .ctx []).after b || b.elems.any fun f => !f.done && f.n != 0 &&
    isScratch f.a && vaultCore s.env.core f.a == s.env.core
/-- An access that a FRMLD of the bundle in `env` must come after, if there is one. -/
def State.frmldWait (s : State) : Option Access := s.cur.accs.find? s.frmldAfter

/-- Why the bundle in `env` may not issue now, if it may not, with the access it waits on: a WAIT test held, 32 accesses
outstanding, settling, a FRMLD that waits. A bundle that has issued in a split step settles no more (27 R401, R405). -/
def State.heldBy (s : State) : Option (FreezeCause × Option Access) :=
  let c := s.env.core
  let x := s.env.ctx
  let out := s.cur.outstanding
  let on (q : Access) : FreezeCause × Option Access := (s.accCause c x q, some q)
  let at1 (y : Fin 8 × Instr) : Option (FreezeCause × Option Access) :=
    let s := s.modEnv fun e => { e with slot := y.1 }
    let w := (encode y.2).getD 0
    if (y.1 == 5 || y.1 == 6) && !isNop y.2 && (s.core c).opp.set && (s.core c).splitAt.isNone then some (.settle, none)
    else if !s.guard (fGd w) then none
    else if y.1 == 4 && isAccess y.2 && decide (32 ≤ out.length) then (out.head?).map on
    else match y.2 with
      | .wait _ a b cc dw =>
        if s.waitTest c x (s.rdA a).1 cc dw (s.g b) = .held then
          some (match s.waitAccess c x (s.rdA a).1 cc dw with
            | some q => on q
            | none => (if s.faultHeld c x (s.rdA a).1 then .translation else .l1miss, none))
        else none
      | .frmld _ _ => s.frmldWait.map on
      | _ => none
  s.env.slots.findSome? at1
/-- The cause under which the bundle in `env` is held. -/
def State.held (s : State) : Option FreezeCause := s.heldBy.map (·.1)

/-- The access a result that is due waits on, for its cause. -/
def State.lateCause (s : State) (c : CoreId) : Option FreezeCause :=
  (s.core c).due.findSome? fun f => if s.present c f then none else match f.wr with
    | .load id =>
      let ids := s.closure c f.ctx ((s.ctx c f.ctx).accs.length) [id]
      ((s.ctx c f.ctx).accs.find? fun a => ids.contains a.id && !a.performed).map (s.accCause c f.ctx)
    | _ => none

/-- Is a TLBINV of a core under way (24 R372)? -/
def State.invalidating (s : State) (c : CoreId) : Bool :=
  (s.core c).tlbAck || (s.core c).ctxs.toList.any fun t => t.accs.any fun a => !a.performed && match a.kind with
    | .tlbinv _ _ => true
    | _ => false

/-- Why a core is frozen before it can issue anything, if it is. -/
def State.frozen (s : State) (c : CoreId) : Option FreezeCause :=
  let k := s.core c
  if 0 < k.freezeLeft then some k.freezeWhy
  else if s.invalidating c then some .translation
  else if k.ctxs.toList.any Ctx.propagates then some .domain
  else s.lateCause c

/-! ### Commit (R70 to R73) -/

/-- The poisoned word that the commit of `i` in the place of `orig` reads, if there is one (10 R166). -/
def State.poisonRead (s : State) (orig i : Instr) : Option RWord :=
  let k := s.core s.env.core
  let x := s.env.ctx
  let blocks := match i with
    | .mscale _ _ q _ | .mbias _ _ q _ | .qadd _ _ q _ | .scaleByProduct _ _ q _ _ => [q]
    | _ => (s.mmaBlock orig i).toList
  let reads (r : RWord) : Bool := match r with
    | .w y d _ => y == x && (sources i).contains (.w d) && (s.snap 7 d.val).isNone
    | .d y d _ => y == x && (sources i).contains (.d d) && (s.snap 6 d.val).isNone
    | .tile p _ => (sources i).any fun q => match q with
      | .tile m => physTile s.alloc x m == p && (s.snapTile m).isNone
      | _ => false
    | .block p _ => blocks.any (fun q => physBlock s.alloc x q.val == p) || (sources i ++ dynamicSources s i).any fun q => match q with
      | .q q => physBlock s.alloc x q.val == p && (s.snap 9 q.val).isNone
      | _ => false
  k.rpoison.find? reads

/-- The slot being committed reads a poisoned word: the fatal poison fault, against its bundle and slot; a position of a
fired match reports it against the first position's bundle (18 R276). DEDUCED (log 70). -/
def State.poisonFault (s : State) (matched : Bool) : State :=
  let d := s.freeWord
  let f := d.2.slotFrame s.env.slot 0x1A d.1 0
  let p0 := (s.cur.fired.map (·.hdr0)).getD s.env.hdr
  let f := if matched then { f with addr := p0.setWidth 56, rwe := 2 ^ 14 } else f
  d.2.takeTrap s.env.core s.env.ctx f s.env.hdr s.env.slot

/-- A slot whose guard holds commits unless it reads a poisoned word (10 R166). -/
def commitForm (orig op : Instr) (matched : Bool) (f : State → State) (s : State) : State :=
  let g := s6Guard orig
  let on := s.guard (fGd ((encode orig).getD 0)) && (s.env.slot != 6 || match g.2 with
    | some k => s.rdSp k
    | none => true)
  if on && (s.poisonRead orig op).isSome then s.poisonFault matched else f s

/-- A slot commits; a position of a fired match issues as its replacement. -/
def commitSlot (orig : Instr) (y : Fin 8 × Instr) (s : State) : State :=
  let s := s.modEnv fun e => { e with slot := y.1 }
  if y.1 = 6 then
    match s.s6Op orig with
    | none => s.advanceFired
    | some op => commitForm orig op s.cur.fired.isSome (fun s => match s6Exec orig op s with
      | .next t => if t.env.stopped then t else if s.cur.fired.isSome then t.advanceFired else t
      | _ => s) s
  else commitForm y.2 y.2 false (fun s => match slotExec y.2 s with
    | .next t => t
    | _ => s) s

/-- The slots commit in order, until one traps or a failure discards the rest (R70, R71). -/
def commitAll : List (Fin 8 × Instr) → State → State
  | [], s => s
  | y :: ys, s => if s.env.stopped || s.env.discard then s else commitAll ys (commitSlot y.2 y s)

/-- A span ends (03 R37). -/
def State.endSpan (s : State) (c : CoreId) (x : CtxId) : State :=
  let s := s.modCtx c x fun t => { t with span := t.span + 1 }
  s.modCore c fun k => { k with spanEgy := k.spanEgy.set x ((k.ctxs[x]).egy.setWidth 64) }

/-- HALT (09 R128): the context becomes Halted; its abandoned Bracken operations are discarded (21 R338), and the pins of a
launch that has halted end (10 R159). -/
def State.haltCtx (s : State) (c : CoreId) (x : CtxId) : State :=
  let s := (s.modCtx c x fun t => { t with run := .halted, blocks := ⟨none, none⟩ }).ddHalt c x
  (match (s.core c).allot with
    | some al => (s.endPinsHalted al.group).endPinsStopped
    | none => s).modCore c Core.switchPoint

/-- The context's transfer, or its sequential advance (R73, step 3). A nest that starts (the one transfer that checks no
mark) has its first stage predicates written here, after every slot of LRUN's bundle and before the trip's first bundle
(09 R116). DEDUCED (log 29). -/
def State.goOn (s : State) (c : CoreId) (x : CtxId) (hdr next : Word) : State :=
  if s.env.tret then s.tret c x hdr
  else match s.env.transfer with
    | some t =>
      let s := s.modCtx c x fun q => { q with pc := t.target, bubbles := t.bubbles, transferred := t.checked }
      if t.checked then s else s.seqPreds c x (s.ctx c x).loop.stagePreds
    | none => s.advance c x hdr.toNat next.toNat

/-- The side effects of a bundle whose slots have committed (R73). -/
def State.finish (s : State) (flush : Bool) : State :=
  let c := s.env.core
  let x := s.env.ctx
  let env := s.env
  let s := s.modCtx c x fun t => { t with replay := none, noRewrite := t.noRewrite && !flush }
  if env.pact = 1 then s.haltCtx c x
  else if env.pact = 2 then (match (s.core c).allot with
    | some al => s.noteKill al.group
    | none => s).killCtx c x
  else
    let s := s.goOn c x env.hdr env.next
    if s.env.stopped then s
    else
      let s := if env.yield then s.endSpan c x else s
      let blocks := env.block != ⟨none, none⟩
      let s := match (s.ctx c x).promiseT with
        | some T => if blocks then s else s.promiseCheck c x T
        | none => s
      if s.env.stopped then s
      else if env.pact = 3 ∨ env.pact = 4 then
        let d := s.freeWord
        let f := d.2.dueFrame c x (if env.pact = 3 then 0x25 else 0x24) d.1 (env.pn.setWidth 64)
        d.2.takeTrap c x (if blocks then f.withBlocks env.block else f) env.hdr (if env.pact = 3 then 0 else 7)
      else if (s.ctx c x).run ≠ .running then s
      else if blocks then
        let s := (s.modCtx c x fun t => { t with waitHdr := env.hdr }).blockCtx c x env.block
        ((s.stopHere c x).modCore c Core.switchPoint).wakeTest c x
      else if env.yield ∨ (s.groupStop c = some .drain ∧ (s.ctx c x).loop.drained.isSome ∧ !(s.ctx c x).loop.run) then
        (s.stopHere c x).modCore c Core.switchPoint
      else s

/-! ### Issue -/

/-- The bundle-boundary trap of a context that would next issue where it may not (R57, R75). DEDUCED (log 23). -/
def State.boundary (s : State) (c : CoreId) (x : CtxId) (target : Nat) : State :=
  let h := (s.ctx c x).lastHdr
  s.takeTrap c x { Frame.make h 0 0x02 (BitVec.ofNat 64 target) 0 with after := true } h 0

/-- Is the pending transfer of a resumed bundle the start of its LRUN's nest, the one transfer that checks no mark (05 R75)?
DEDUCED (log 29). -/
def startsNest (l : Loop) (b : Bundle) (target : Word) : Bool :=
  l.run && l.body == target && b.slots.any fun y => match y.2 with
    | .lrun _ _ _ => true
    | _ => false

/-- The bundle in `env` for a context at header `a`: in a split window with what it read at its issue (27 R405); a bundle
that a TRET resumes with what its frame keeps (24 R368). -/
def State.openBundle (s : State) (c : CoreId) (x : CtxId) (a : Nat) (b : Bundle) : State :=
  let t := s.ctx c x
  let f := t.frame
  let re := t.replay.isSome
  { s with env := {
      core := c
      ctx := x
      slot := 0
      hdr := BitVec.ofNat 64 a
      next := BitVec.ofNat 64 (a + b.len)
      slots := if re then b.slots.filter fun y => decide (f.sr.val ≤ y.1.val) else b.slots
      lits := b.lits
      crs := match (s.core c).splitAt with
        | some i => i.crs
        | none => s.crsOf c x b.slots
      repl := none
      loop0 := t.loop
      transfer := if re && f.pt then some ⟨f.ptgt, 0, !startsNest t.loop b f.ptgt⟩ else none
      pact := if re then f.pact else 0
      pn := if re then f.pn else 0
      yield := b.yld || (re && f.py)
      block := if re then f.pendingBlocks else ⟨none, none⟩
      stopped := false
      discard := false
      tret := false } }

/-- The addresses whose WAIT tests hold the bundle in `env` (10 R413). -/
def State.waitHolds (s : State) : List Addr :=
  s.env.slots.filterMap fun y =>
    let s := s.modEnv fun e => { e with slot := y.1 }
    match y.2 with
    | .wait _ a b cc dw =>
      if s.guard (fGd ((encode y.2).getD 0)) && s.waitTest s.env.core s.env.ctx (s.rdA a).1 cc dw (s.g b) == .held
      then some (s.rdA a).1 else none
    | _ => none

/-- Does the block that the LDQ of the bundle in `env` writes, which its gD names at issue, meet another slot's destination
(R68, 10 R145)? An MMA's are the block its D field names and the one its next step updates (17 R250). DEDUCED (log 40). -/
def State.blockConflict (s : State) : Bool :=
  let at' (k : R8) : State := s.modEnv fun e => { e with slot := k }
  s.env.slots.any fun y => match y.2 with
    | .ldq _ _ d _ =>
      let q := ((at' y.1).g d).toNat % 512
      s.env.slots.any fun z => z.1 != y.1 &&
        ((explicitDests z.2 ++ extraDests z.2).contains (.q q) || ((at' z.1).mmaBlock z.2 z.2).any fun b => b.val == q)
    | _ => false

/-- Does a bundle raise the write conflict (R68)? One of which slots have committed has passed the check. -/
def State.conflicts (s : State) (c : CoreId) (x : CtxId) (a : Nat) (b : Bundle) : Bool :=
  let t := s.ctx c x
  (t.replay.isNone || t.frame.sr == 0) && (writeConflict b.slots || (s.openBundle c x a b).blockConflict)

/-- Own-vault accesses that a WAIT or a FRMLD of the bundle in `env`, its guard true, comes after perform (10 R151, R160). -/
def State.beforeWaits (s o : State) : State :=
  let c := o.env.core
  let x := o.env.ctx
  let force (s : State) (first : Access → Bool) : State :=
    (s.ctx c x).accs.foldl (fun s b => if first b then s.forceOwn c x b.id else s) s
  o.env.slots.foldl (fun s y =>
    let o := o.modEnv fun e => { e with slot := y.1 }
    if !o.guard (fGd ((encode y.2).getD 0)) then s
    else match y.2 with
      | .frmld _ _ => force s o.frmldAfter
      | .wait _ a _ cc dw => force s fun b =>
          b.elems.any fun f => !f.done && f.n != 0 && s.sameBytes c x (waitElem (o.rdA a).1 cc dw) f
      | _ => s) s

/-- Issue the bundle at header `a` (R69, R70); one that is held starts the walks its WAIT tests need. -/
def State.issueBundle (s : State) (c : CoreId) (x : CtxId) (a : Nat) (b : Bundle) : State :=
  let hdr := BitVec.ofNat 64 a
  if s.conflicts c x a b then
    let d := s.freeWord
    d.2.takeTrap c x (Frame.make hdr 0 0x03 d.1 0) hdr 0
  else
    let s := s.beforeWaits (s.openBundle c x a b)
    let o := s.openBundle c x a b
    if o.held.isSome then o.waitHolds.foldl (fun s a => s.walkCtx c x a) s
    else
      let o := o.modCur fun t => { t with lastHdr := hdr, transferred := false, noRewrite := t.noRewrite && !b.rwf }
      let o := if o.env.slots.any fun y => y.1 == 6 then (o.rewriteP0 (s.ctx c x).loop).replaceS6 else o
      let o := commitAll o.env.slots o
      let o := if o.env.stopped then o else o.finish (bundleFlush b false [])
      (o.modCtx c x fun t => { t with waitFail := none }).modCore c fun k => { k with step := k.step + 1 }

/-- The bundle the context would issue at its program counter, opened, if there is one. -/
def State.opened (s : State) (c : CoreId) (x : CtxId) : Option State :=
  let pc := (s.ctx c x).pc.toNat
  let a := (s.core c).fetchFrom pc pc
  match (s.core c).decodeAt a with
  | .bundle b => some (s.openBundle c x a b)
  | _ => none

/-- What the context that may issue does at its program counter: fetch, then a trap or a bundle. -/
def State.issue (s : State) (c : CoreId) (x : CtxId) : State :=
  let t := s.ctx c x
  let k := s.core c
  let pc := t.pc.toNat
  if t.transferred && !k.markOk t.pc then s.boundary c x pc
  else if !t.transferred && (pc = 0x20000 || pc = 0x40000) then s.boundary c x pc
  else
    let a := k.fetchFrom pc pc
    if a = bankEnd pc then s.boundary c x a
    else match k.decodeAt a with
      | .pad => s
      | .illegal o _ =>
        let hdr := BitVec.ofNat 64 a
        s.takeTrap c x (Frame.make hdr 0 0x01 (BitVec.ofNat 64 (a + o)) 0) hdr 0
      | .bundle b => s.issueBundle c x a b

/-- The context of a core that may issue a bundle in this cycle: no result, domain effect or pending trap comes first. -/
def State.issuer (s : State) (c : CoreId) : Option CtxId :=
  let k := s.core c
  match k.current with
  | none => none
  | some x =>
    let t := k.ctxs[x]
    if t.run = .running ∧ !k.switching ∧ t.bubbles = 0 ∧ k.due = [] ∧ (s.frozen c).isNone
      ∧ (t.pendDom.all fun p => decide (k.step < p.due)) ∧ t.episode.isNone ∧ (t.faults = [] ∨ t.hm) then some x
    else none

/-- What holds the bundle that would issue now. -/
def State.heldNow (s : State) (c : CoreId) : Option FreezeCause :=
  (s.issuer c).bind fun x => (s.opened c x).bind State.held

/-- Must the stop of a core's contexts wait for a freeze to end? A checkpoint and a kill do not wait for a propagation (03 R44), and own-vault data that is due is there (10 R135). -/
def State.stopWaits (s : State) (c : CoreId) (mode : StopMode) : Bool :=
  let s := s.forceDue c
  let k := s.core c
  if 0 < k.stretch then true
  else if 0 < k.freezeLeft then k.freezeWhy != .domain || mode != .kill
  else match (s.frozen c).or (s.heldNow c) with
    | none => false
    | some .domain => mode == .drain
    | some _ => true

/-- BUNDLE_ISSUE (R69): the Running context of a core issues its next bundle; nothing where it may not issue now. -/
def execBundleIssue (c : CoreId) (s : State) : Out :=
  .next (match s.issuer c with
    | some x => s.issue c x
    | none => s)

/-- IDLE_STEP (03 R36): a step in which no bundle issues: an idle step, a switch step, or a fetch-bubble step of the
Running context (09 R123). A core with nothing to run selects first. -/
def execIdleStep (c : CoreId) (s : State) : Out :=
  .next (
    let s := if (s.core c).current.isNone then s.modCore c fun k => k.applyPri.select else s
    let k := s.core c
    let tick (k : Core) : Core := { k with step := k.step + 1 }
    match k.current with
    | none => s.modCore c tick
    | some x =>
      if k.switching then s.modCore c fun k => tick { k with switching := false }
      else if 0 < (k.ctxs[x]).bubbles then (s.modCtx c x fun t => { t with bubbles := t.bubbles - 1 }).modCore c tick
      else s)

end Sys2Proof.Machine
end

