-- ==== Sys2Proof/Machine/Walks.lean ====
section
/-!
DEFINITION. The hub's page walks, replayable faults and their replies, and the trap queue's deferred records (24 R376 to
R380, 26 R386, 10 R413).
-/
namespace Sys2Proof.Machine

/-! ### Walks (R376, R377) -/

/-- The set of the die TLB to which an entry belongs: its page number modulo 1024. DESIGN CHOICE (log 14). -/
def TlbEntry.set (e : TlbEntry) : Nat := e.base / e.size % 1024
/-- A leaf cached in a die's TLB of 8192 entries, 8-way (R377); the oldest of a full set leaves. DESIGN CHOICE (log 14). -/
def Die.cache (d : Die) (e : TlbEntry) : Die :=
  let same := d.tlb.filter fun q => q.set == e.set
  let kept := match same with
    | old :: _ => if 8 ≤ same.length then d.tlb.erase old else d.tlb
    | [] => d.tlb
  { d with tlb := kept ++ [e] }

/-- The first 64 walks in arrival order are under way; held faults take no walker. -/
def State.walking (s : State) (k : Nat) : Bool := decide (((s.hub.walks.take k).filter fun w => !w.faulted).length < 64)

/-- A replayable fault is held, and reported once for its page and address space (R378). DEDUCED (log 34). -/
def State.walkFault (s : State) (k : Nat) (w : Walk) : State :=
  let known := s.hub.walks.any fun v => v.asid == w.asid && v.page == w.page && v.reported
  let s := { s with hub := { s.hub with walks := s.hub.walks.set k { w with faulted := true, reported := true } } }
  if known then s
  else s.trapRecord ⟨2, 0, w.asid.setWidth 8, BitVec.ofNat 5 ((s.partOf w.asid.toNat).getD 0), w.unit, s.cyc, BitVec.ofNat 64 (w.page * 65536), 0, 0, 0⟩

/-- PAGE_WALK: walk `k` ends: a leaf is cached, a replayable fault is held, any other fault ends the walk (R376 to R378). -/
def execPageWalk (k : Nat) (s : State) : Out :=
  .next (match s.hub.walks[k]? with
    | none => s
    | some w =>
      if w.faulted ∨ s.walking k = false then s
      else
        let drop (s : State) : State := { s with hub := { s.hub with walks := s.hub.walks.eraseIdx k } }
        match walkFrom s.gmem (w.page * 65536) 4 (s.rootOf w.asid).toNat with
        | .leaf e b sz =>
          let s := drop s
          ({ s with dies := s.dies.set w.die ((s.dies[w.die]).cache ⟨w.asid, b, sz, e⟩) }).retestAll
        | .fault true => s.walkFault k w
        | .fault false => (drop s).retestAll)

/-! ### Replies (R378, 10 R413, 26 R386) -/

/-- Does a range of `n` bytes touch a page? -/
def touches (a : Addr) (n page : Nat) : Bool := isGlobal a && decide (a.toNat / 65536 ≤ page) && decide (page ≤ (a.toNat + n - 1) / 65536)

/-- Every element of a context's accesses on a page fails: a load or an ATOM when its data is due, a store at once. -/
def State.failAccs (s : State) (c : CoreId) (x : CtxId) (page : Nat) : State :=
  (s.ctx c x).accs.foldl (fun s a =>
    (List.range a.elems.length).foldl (fun s k => match s.findAcc c x a.id with
      | none => s
      | some b => match b.elems[k]? with
        | none => s
        | some e =>
          if e.done || e.n = 0 || !touches e.a e.n page then s
          else
            let store := match b.kind with
              | .store => true
              | _ => false
            let s := if store && b.fail.isNone then s.pend c x 0x18 (e.a.setWidth 64) 0 (b.hdr.setWidth 56) b.slot else s
            (s.updAcc c x a.id fun b => { b.setDone k 0 with fail := some (e.a, 0x18) }).sweep c x) s) s

/-- The failure of a context's WAIT test on a page: after commit while Blocked, at commit while the core is frozen. DEDUCED (log 33). -/
def State.failWait (s : State) (c : CoreId) (x : CtxId) (page : Nat) : State :=
  let t := s.ctx c x
  match t.run, t.blocks.s0 with
  | .blocked, some (.wait a _ _ _) =>
    if touches a 1 page then s.pend c x 0x18 (a.setWidth 64) 0 (t.waitHdr.setWidth 56) 0 else s
  | .running, _ =>
    match s.opened c x with
    | some o => if o.waitHolds.any fun a => touches a 1 page then s.modCtx c x fun t => { t with waitFail := some page } else s
    | none => s
  | _, _ => s

/-- Does a held job touch a page? -/
def Job.onPage (j : Job) (page : Nat) : Bool :=
  j.held && !j.ended && j.status.isNone && match j.kind with
    | .copy => (List.range (cardRuns j.im 5)).any fun r =>
        touches (runSrc j.im r) (cardLen0 j.im) page || touches (runDst j.im r) (cardLen0 j.im) page
    | .icopy => touches (BitVec.ofNat 56 (cardW j.im 0)) (cardW j.im 2 % 2 ^ 32) page
    | .icinv => touches (BitVec.ofNat 56 (cardW j.im 0)) (cardW j.im 1) page

/-- Is the next tile of a ring's loader or storer held at a page? -/
def Sub.onPage (u : Sub) (page : Nat) : Bool :=
  let on (base : Addr) (t : Nat) : Bool := (List.range u.tileRuns).any fun i => touches (u.runAddr base t i) (cardLen0 u.im) page
  u.ending.isNone && ((u.mode != 1 && decide (u.tile < u.tiles) && u.slots.getD (u.tile % max 1 u.slots.length) .full == .empty && on u.src u.tile)
    || match u.held with
      | (t, _) :: _ => on u.dst t
      | [] => false)

/-- The engines of an address space that are held at a page fail (R378): jobs and subscriptions with code 4, a COPY
record FAULTED, a LAUNCH whose image it holds BAD_RECORD (23 R348), a Bracken operation with STATUS 6. -/
def State.failEngines (s : State) (asid : BitVec 7) (page : Nat) : State :=
  let mine (c : CoreId) (x : CtxId) : Bool := (s.ctx c x).asid == asid
  let s := { s with jobs := s.jobs.map fun (j : Job) => if mine j.core j.ctx && j.onPage page then { j with status := some 4 } else j }
  let onPage (a k : Nat) : Bool := !isHostAddr a && decide ((a + 64 * k) / 65536 = page)
  let held (x : Record) : Bool := recKind x.body == 2 && x.begun && !x.ended && x.code.isNone && decide (s.recFn x = asid.toNat)
    && (List.range (recN x.body 0x20 8 / 64)).any fun k =>
      !x.moved.contains k && (onPage (recN x.body 0x10 8) k || onPage (recN x.body 0x18 8) k)
  let waits (x : Record) : Bool := recKind x.body == 1 && !x.ended && x.code.isNone && decide (s.recFn x = asid.toNat)
    && (x.atHead || s.groups.any fun g => g.record == x.id && g.phase == .saved) && (s.imageHeld x).any fun v => decide (v / 65536 = page)
  let failed (x : Record) : Record := if held x then { x with code := some 4 } else if waits x then { x with code := some 8 } else x
  let s := { s with records := s.records.map failed }
  (List.finRange 192).foldl (fun s c =>
    let s := (List.finRange 4).foldl (fun s r => match (s.core c).subs[r] with
      | some u => if mine c u.owner && u.onPage page then s.subFail c r u 0 u.src .xlat else s
      | none => s) s
    match s.offered c, s.spaceOf c with
    | some (e, d), some sp =>
      let ids := d.touched sp (ddDo (s.core c) c d (sp, s.choices, 0)).work.1
      if mine c d.ctx && (s.poolCheck c d.ctx sp ids).2 && ids.any fun i => touches (sp.nodeAt i) 16 page then
        let s := s.countOps c 1
        if d.rcd.isSome then s.setEntry c e (some { d with accepted := true, result := some (6, 0, 0) }) else s.setEntry c e none
      else s
    | _, _ => s) s

/-- Does a host request of `n` bytes touch a page? The host reaches pages below 32 MiB too (10 R132). -/
def hostTouches (a : Addr) (n page : Nat) : Bool := decide (a.toNat / 65536 ≤ page) && decide (page ≤ (a.toNat + n - 1) / 65536)

/-- The addresses a link request names. -/
def txRange : PeerTx → Addr × Nat
  | .mrd _ a n => (a, n)
  | .mwr _ a data => (a, data.length)
  | .atom _ _ _ dw a _ _ => (a, if dw then 8 else 4)
  | .far _ _ => (0, 0)
/-- The host's own requests that a held fault on a page keeps back fail: a read or an ATOM is answered with status 2, a posted
write is dropped and counted (26 R385). DEDUCED (log 57). -/
def State.failRetries (s : State) (asid : BitVec 7) (page : Nat) : State :=
  let mine (r : Retry) : Bool := r.port == 0 && r.f == asid && hostTouches (txRange r.tx).1 (txRange r.tx).2 page
  (s.hub.retries.filter mine).foldl (fun s r => match r.tx with
    | .mrd tag _ _ => s.send r.port (.cpl r.f r.pslot tag 2 [])
    | .atom tag _ _ _ _ _ _ => s.send r.port (.cpl r.f r.pslot tag 2 [])
    | _ => s.hubError) (s.modHub fun h => { h with retries := h.retries.filter fun r => !mine r })

/-- The answer to every held fault of an address space on a page; without one it has no effect (26 R386). -/
def State.faultReply (s : State) (asid : BitVec 7) (page : Addr) (fail : Bool) : State :=
  let p := page.toNat / 65536
  let hit (w : Walk) : Bool := w.asid == asid && w.page == p && w.faulted
  if !(s.hub.walks.any hit) then s
  else if !fail then
    s.modHub fun h => { h with walks := h.walks.map fun (w : Walk) => if hit w then { w with faulted := false, reported := false } else w }
  else
    let s := allCtx.foldl (fun s u => if (s.ctx u.1 u.2).asid == asid then s.failWait u.1 u.2 p else s) s
    let s := (s.failEngines asid p).failRetries asid p
    let s := s.modHub fun h => { h with walks := h.walks.filter fun w => !(w.asid == asid && w.page == p) }
    allCtx.foldl (fun s u => if (s.ctx u.1 u.2).asid == asid then s.failAccs u.1 u.2 p else s) s

/-- Do the host's writes to the windows act: its port is up, and the module is not in recovery (26 R397)? -/
def State.hostOpen (s : State) : Bool := (s.hub.ports[(0 : Fin 9)]).up && !s.mon.recovery
/-- FAULTREPLY. -/
def execFaultreply (f : Fin 96) (page : Addr) (fail : Bool) (s : State) : Out :=
  .next (if s.hostOpen then s.faultReply (BitVec.ofNat 7 f.val) page fail else s)

/-! ### The trap queue (R379, R380) -/

/-- May a waiting record leave: it finds room in the trap queue, or is dropped there? -/
def State.tqMoves (s : State) (r : TrapRec) : Bool := s.tqRoom r || (r.kind != 1 && r.kind != 2)

/-- TRAP_RECORD_DEFERRED_WRITE: once the hub holds the write, the oldest waiting record that finds room is written; one of kind 3 or
4 that finds none is dropped (R380). -/
def execTrapRecordDeferredWrite (s : State) : Out :=
  .next (
    let gone (r : TrapRec) : State := { s with hub := { s.hub with deferred := s.hub.deferred.erase r } }
    if s.roomFor 1 = false then s
    else match s.hub.deferred.find? s.tqRoom with
      | some r => (gone r).tqWrite r
      | none => match s.hub.deferred.find? s.tqMoves with
        | some r => (gone r).tqDrop
        | none => s)

/-- A write of TQHEAD: a value from TQHEAD to TQTAIL is taken, any other is ignored (R379). -/
def State.setTqhead (s : State) (v : BitVec 32) : State :=
  if (v - s.hub.tqhead).toNat ≤ (s.hub.tqtail - s.hub.tqhead).toNat then s.modHub fun h => { h with tqhead := v } else s
/-- TQHEAD_WRITE. -/
def execTqheadWrite (v : BitVec 32) (s : State) : Out := .next (if s.hostOpen then s.setTqhead v else s)

end Sys2Proof.Machine
end

