-- ==== Sys2Proof/Machine/Records.lean ====
section
/-!
DEFINITION. Command records (23 R340 to R347): their fields and limits, queues and their mapping, job control blocks, the
completion of a record, doorbells, and the SIGNAL, WAIT, JCB_INIT, JCB_RAISE and COPY records.
-/
namespace Sys2Proof.Machine

/-! ### Partitions, queues and their functions -/

/-- A partition by number. -/
def State.part (s : State) (p : Nat) : Option Partition := s.layout.parts[p]?
/-- Change a partition. -/
def State.modPart (s : State) (p : Nat) (f : Partition → Partition) : State :=
  { s with layout := { s.layout with parts := s.layout.parts.modify p f } }
/-- The partition of a queue. -/
def State.queuePart (s : State) (q : Fin 4096) : Option Nat := (s.queues[q]).owner.bind fun f => s.partOf f.val
/-- Change a queue. -/
def State.modQueue (s : State) (q : Fin 4096) (f : Queue → Queue) : State := { s with queues := s.queues.set q (f s.queues[q]) }
/-- Does a queue belong to the management function? -/
def Queue.mgmt (q : Queue) : Bool := q.owner == some 96

/-- The host address of the record at the head of a queue. HEAD counts records modulo 2^16. DEDUCED (log 44). -/
def Queue.headAddr (d : Queue) : Nat := d.base.toNat + 64 * (d.head.toNat % 2 ^ d.sizelog.toNat)
/-- The record at the head of a queue, as it stands in host memory. -/
def State.headRec (s : State) (q : Fin 4096) : BitVec 512 := BitVec.ofNat 512 (memReadN s.hmem (s.queues[q]).headAddr 64)
/-- The read of the record at the head of a queue leaves (26 R384). -/
def State.askHead (s : State) (q : Fin 4096) : State :=
  State.hostAsk (fnNo (((s.queues[q]).owner.map (·.val)).getD 96)) s.nextRec 64 (s.queues[q]).headAddr 64 s

/-- Records of a queue that were dispatched and have not completed. -/
def State.incomplete (s : State) (q : Fin 4096) : List Record := s.records.filter fun x => x.queue == q && !x.ended && !x.atHead
/-- The LAUNCH that waits at the head of a queue. -/
def State.waitingAt (s : State) (q : Fin 4096) : Option Record := s.records.find? fun x => x.queue == q && x.atHead && !x.ended

/-! ### Job control blocks (R345) -/

/-- A job control block of a partition. -/
def Partition.jcb (p : Partition) (j : Nat) : Jcb := ((p.jcbs.find? fun e => e.1 == j).map (·.2)).getD ⟨0, 0, false⟩
/-- Set a job control block; one that is all 0 is not listed. -/
def Partition.setJcb (p : Partition) (j : Nat) (v : Jcb) : Partition :=
  let rest := p.jcbs.filter fun e => e.1 != j
  { p with jcbs := if v = ⟨0, 0, false⟩ then rest else (rest.filter fun e => decide (e.1 < j)) ++ [(j, v)] ++ rest.filter fun e => decide (j < e.1) }
/-- Is a block complete? -/
def Jcb.complete (b : Jcb) : Bool := b.expect != 0 && b.done == b.expect
/-- The block a record of a queue names, with its partition. -/
def State.jcbOf (s : State) (q : Fin 4096) (j : Nat) : Jcb :=
  match (s.queuePart q).bind s.part with
  | some p => p.jcb j
  | none => ⟨0, 0, false⟩
/-- Set a block of a queue's partition. -/
def State.setJcb (s : State) (q : Fin 4096) (j : Nat) (v : Jcb) : State :=
  match s.queuePart q with
  | some p => s.modPart p (·.setJcb j v)
  | none => s

/-! ### Work and dispatch (R343) -/

/-- Is the condition of a WAIT record met? Its word is host memory, which is not read while the host port is down (26 R392). -/
def State.waitMet (s : State) (q : Fin 4096) (b : BitVec 512) : Bool :=
  if recN b 0x24 1 = 0 then (s.hub.ports[(0 : Fin 9)]).up && decide (recN b 0x18 8 ≤ memReadN s.hmem (recN b 0x10 8) 8)
  else (s.jcbOf q (recN b 0x20 4)).complete

/-- Does the record at the head of a queue break a limit, its 64-byte alignment among them (R340)? -/
def State.headBad (s : State) (q : Fin 4096) : Bool := (s.queues[q]).base.toNat % 64 != 0 || recBad (s.queues[q]).mgmt (s.headRec q)

/-- Is the head record of a queue dispatchable? A record that will not run needs no condition. -/
def State.dispatchable (s : State) (q : Fin 4096) : Bool :=
  let d := s.queues[q]
  let b := s.headRec q
  let runs := !s.headBad q && !(d.cancel && !recClean b)
  !(recBarrier b && s.incomplete q != [])
  && !((s.incomplete q).any fun x => recKind x.body == 4)
  && (!runs || recKind b != 4 || s.waitMet q b)

/-- Does a queue have work? -/
def State.hasWork (s : State) (q : Fin 4096) : Bool :=
  let d := s.queues[q]
  d.head != d.tail && !d.frozen && decide (4 ≤ d.sizelog.toNat) && s.dispatchable q

/-- May a queue dispatch: it is mapped (a management queue always is), its partition is not suspended, its function is not
being reset, the host port is up, and the module is not in recovery. -/
def State.mayDispatch (s : State) (q : Fin 4096) : Bool :=
  let d := s.queues[q]
  s.hostOpen && match d.owner with
    | none => false
    | some f => f.val == 96 || (d.mapped && !(s.hub.resets.any fun r => r.val == f.val)
        && match (s.partOf f.val).bind s.part with
          | some p => !p.suspended
          | none => false)

/-! ### Completion (R341, R345 to R347) -/

/-- Completed LAUNCH and COPY records stay listed while they are the latest of their queue that names a block. -/
def keepEnded (l : List Record) (r : Record) : List Record :=
  let linked (x : Record) : Bool := recKind x.body == 1 || recKind x.body == 2
  l.filter fun x => !(x.ended && (x.id == r.id && (!linked x || (recJcb x.body).isNone)
    || x.id != r.id && x.queue == r.queue && recJcb x.body == recJcb r.body && decide (x.id < r.id) && linked r))

/-- A record completes: the post is decided, the completion word written, the post applied and the interrupt sent. -/
def State.completeNow (s : State) (x : Record) (code : Nat) : State :=
  let r := x.id
  let q := x.queue
  let f := fnNo (s.recFn x)
  let post : Option (Nat × Jcb) := match recJcb x.body, s.queuePart q with
    | some j, some _ => some (j, s.jcbOf q j)
    | _, _ => none
  let past := match post with
    | some (_, b) => decide (b.expect.toNat < b.done.toNat + 1)
    | none => false
  let code := if past then 8 else code
  let s := if recComp x.body = 0 then s else s.hostWrite f (recComp x.body) (leBytes 8 (s.statusWord code))
  let s := match post with
    | some (j, b) => if past then s else s.setJcb q j { b with done := b.done + 1, err := b.err || code != 1 }
    | none => s
  let s := match (s.queues[q]).owner with
    | some f => if recIntr x.body then s.interrupt f (recVector x.body) else s
    | none => s
  let freeze := (recKind x.body = 1 ∧ (code = 4 ∨ code = 5)) ∨ (recKind x.body = 2 ∧ code = 4)
  let s := if freeze then s.modQueue q fun d => { d with frozen := true } else s
  let s := s.modRec r fun y => { y with
    code := some code
    posted := post.isSome && !past
    atHead := false
    ended := true }
  { s with records := keepEnded s.records { x with ended := true } }

/-- A record completes with a code, as soon as the hub has room for the writes it forms (26 R392). -/
def State.complete (s : State) (r code : Nat) : State :=
  match s.record r with
  | none => s
  | some x =>
    if s.roomFor (recWrites x.body - bit1 (recKind x.body == 3)) then s.completeNow x code
    else s.modRec r fun y => { y with code := some code, flushed := true, atHead := false }
/-- A record that waits for room completes. -/
def State.flush (s : State) (r : Nat) : State :=
  match s.record r with
  | some x => if x.flushed ∧ !x.ended then s.complete r (x.code.getD 1) else s
  | none => s

/-- The head of a queue moves on. -/
def State.nextHead (s : State) (q : Fin 4096) : State := s.modQueue q fun d => { d with head := d.head + 1 }
/-- The dispatcher takes up the record at the head of a queue. -/
def State.newRec (s : State) (q : Fin 4096) (b : BitVec 512) (atHead : Bool) : State :=
  { s with
    nextRec := s.nextRec + 1
    records := s.records ++ [⟨s.nextRec, q, b, none, false, false, [], false, atHead, false⟩] }

/-- RECORD_DISPATCH (R340, R343, R346): the head record of a queue is dispatched; one that is malformed, or that cancel
mode discards, completes at once; a LAUNCH waits at the head. DEDUCED (log 44). -/
def execRecordDispatch (q : Fin 4096) (s : State) : Out :=
  .next (
    let d := s.queues[q]
    let b := s.headRec q
    let bad := s.headBad q
    let r := s.nextRec
    if s.mayDispatch q = false ∨ s.hasWork q = false ∨ (s.waitingAt q).isSome then s
    else
      let s := s.askHead q
      if bad then ((s.newRec q b false).nextHead q).complete r 8
      else if d.cancel ∧ recClean b = false then ((s.newRec q b false).nextHead q).complete r 2
      else
        let s := if recClean b then s.modQueue q fun d => { d with cancel := false } else s
        if recKind b = 1 then s.newRec q b true else (s.newRec q b false).nextHead q)

/-! ### Host writes of a descriptor (Table 23.4, R347) -/

/-- DOORBELL: the host writes TAIL; while the host port is down doorbells stop (26 R391). -/
def execDoorbell (q : Fin 4096) (tail : BitVec 16) (s : State) : Out :=
  .next (if s.hostOpen then s.modQueue q fun d => { d with tail := tail } else s)
/-- FROZEN_W1C: the host writes FROZEN, and the queue's records are dispatched again. -/
def execFrozenW1C (q : Fin 4096) (s : State) : Out :=
  .next (if s.hostOpen then s.modQueue q fun d => { d with frozen := false } else s)

/-! ### SIGNAL, WAIT and the job control records -/

/-- SIGNAL: VALUE is written to the word at ADDR in host memory (Table 23.3, 26 R392). -/
def execSignal (r : Nat) (s : State) : Out :=
  .next (match s.running r 3 with
    | some x => (s.hostWrite (fnNo (s.recFn x)) (recN x.body 0x10 8) (leBytes 8 (recN x.body 0x18 8))).complete r 1
    | none => s)
/-- WAIT_RECORD: a WAIT whose condition is met ends; until then it holds its queue (R343). -/
def execWaitRecord (r : Nat) (s : State) : Out :=
  .next (match s.running r 4 with
    | some x =>
      if s.waitMet x.queue x.body then
        let err := recN x.body 0x24 1 = 1 ∧ (s.jcbOf x.queue (recN x.body 0x20 4)).err
        let s := if recN x.body 0x24 1 = 0 then State.hostAsk (fnNo (s.recFn x)) r 8 (recN x.body 0x10 8) 8 s else s
        s.modRec r fun y => { y with code := some (y.code.getD (if err then 2 else 1)) }
      else s
    | none => s)
/-- WAIT_RECORD_SATISFIED: the WAIT completes; an error token sets cancel mode (R346). -/
def execWaitRecordSatisfied (r : Nat) (s : State) : Out :=
  .next (match s.running r 4 with
    | some x => match x.code with
      | some code =>
        let s := s.complete r code
        if code = 2 then s.modQueue x.queue fun d => { d with cancel := true } else s
      | none => s
    | none => s)
/-- JCB_INIT (R345). -/
def execJcbInit (r : Nat) (s : State) : Out :=
  .next (match s.running r 5 with
    | some x => (s.setJcb x.queue (recN x.body 0x10 4) ⟨BitVec.ofNat 32 (recN x.body 0x14 4), 0, false⟩).complete r 1
    | none => s)
/-- The latest earlier LAUNCH or COPY of a queue that names a block (R345). -/
def State.producer (s : State) (x : Record) (j : Nat) : Option Record :=
  (s.records.filter fun y => y.queue == x.queue && decide (y.id < x.id) && (recKind y.body == 1 || recKind y.body == 2)
    && recJcb y.body == some j).getLast?
/-- JCB_RAISE (R345): legal only while its producer has not posted and the sum stays below 2^32. -/
def execJcbRaise (r : Nat) (s : State) : Out :=
  .next (match s.running r 6 with
    | some x =>
      let j := recN x.body 0x10 4
      let b := s.jcbOf x.queue j
      let sum := b.expect.toNat + recN x.body 0x14 4
      let open' := match s.producer x j with
        | some y => !y.posted
        | none => false
      if open' && decide (sum < 2 ^ 32) then (s.setJcb x.queue j { b with expect := BitVec.ofNat 32 sum }).complete r 1
      else s.complete r 8
    | none => s)

/-! ### COPY records (Table 23.3, R341) -/

/-- Does the commit in progress affect the partition of a record's queue? -/
def State.recAffected (s : State) (x : Record) : Bool := (s.queuePart x.queue).any s.affected
/-- COPY: a copy engine of the hub-side pool starts the record; one of an affected partition is held until the tick (R355). -/
def execCopy (r : Nat) (s : State) : Out :=
  .next (match s.running r 2 with
    | some x => if s.recAffected x then s else s.modRec r fun y => { y with begun := true }
    | none => s)

/-- HUB_COPY_COMPLETE (R341): a COPY whose every byte has moved, or that has failed, completes. -/
def execHubCopyComplete (r : Nat) (s : State) : Out :=
  .next (match s.running r 2 with
    | some x =>
      if x.code.isSome then s.complete r (x.code.getD 4)
      else if x.begun && (List.range (recN x.body 0x20 8 / 64)).all fun k => x.moved.contains k then s.complete r 1
      else s
    | none => s)

end Sys2Proof.Machine
end

