-- ==== Sys2Proof/Machine/Launch.lean ====
section
/-!
DEFINITION. Launches (23 R348, R349, 19 R300, 17 R261): admission, the binding of heaths, the
load of text, banks, scratch image and rules, the space (21 R311, R312), the release (03 R45), kills, and the end.
-/
namespace Sys2Proof.Machine

/-! ### The space (21 R311, R312) -/

/-- The leaf of an address with the address of its entry. -/
def leafEntry (m : Memory) (va : Nat) : Nat → Nat → Option (Nat × Word)
  | 0, _ => none
  | lv + 1, t =>
    let a := t + 8 * (va / 2 ^ (10 * lv + 16) % 1024)
    let e := BitVec.ofNat 64 (memReadN m a 8)
    if e.getLsbD 0 = false ∨ malformed e lv then none
    else if e.getLsbD 1 then leafEntry m va lv (e.toNat / 2 ^ 13 % 2 ^ 47 * 2 ^ 13)
    else some (a, e)

/-- The entries of the leaves that cover a pool region; none unless all are mapped with R and W and lie wholly within it. -/
def State.poolLeaves (s : State) (f pool n : Nat) : Option (List (Nat × Word)) :=
  ((List.range ((pool % 65536 + n + 65535) / 65536)).foldl (fun acc i => acc.bind fun l =>
    let va := pool / 65536 * 65536 + 65536 * i
    match leafEntry s.gmem va 4 (s.rootOf (BitVec.ofNat 7 f)).toNat with
    | none => none
    | some (a, e) =>
      let size := leafSize (e.toNat / 4 % 4)
      let lo := va / size * size
      if e.getLsbD 4 && e.getLsbD 5 && decide (pool ≤ lo) && decide (lo + size ≤ pool + n) then some ((a, e) :: l) else none)
    (some [])).map List.dedup

/-- Write page-table entries; their granules, written whole, lose their poison (10 R165). -/
def State.writePtes (s : State) (l : List (Nat × Word)) : State :=
  { s with
    gmem := l.foldl (fun m p => memWriteN m p.1 8 p.2.toNat) s.gmem
    gpoison := s.gpoison.filter fun g => !(List.range 8).all fun i => l.any fun p => p.1 == 64 * g + 8 * i }

/-- Every translation of a range of an address space leaves every TLB of the package. -/
def State.dropRange (s : State) (asid : BitVec 7) (a n : Nat) : State :=
  let keep (e : TlbEntry) : Bool := !(e.asid == asid && decide (e.base < a + n) && decide (a < e.base + e.size))
  { s with
    cores := s.cores.map fun (k : Core) => { k with tlb := k.tlb.filter keep }
    dies := s.dies.map fun (d : Die) => { d with tlb := d.tlb.filter keep } }

/-- The bytes of a new pool: terminals, variable nodes, free nodes and the unique-table heads; the engine writes them at
their physical places. The links and the heads are the engine's own (log 9). -/
def State.writePool (s : State) (f : Nat) (sp : Space) : State :=
  let put (s : State) (va n v : Nat) : State := match s.hubPhys f .engine true va with
    | .ok pa => s.writeLoc (.mem pa) n v
    | _ => s
  let s := (List.range sp.cap).foldl (fun s id =>
    let chain := (Config.nodeChain (s.choices + id)).toNat
    let img := if id = 0 then nodeImage 0xFFFF 0xFFFF 0 0 chain else if id = 1 then nodeImage 0xFFFF 0xFFFF 1 1 chain
      else if id < 2 + sp.nvars then nodeImage (id - 2) 0xFFFF 0 1 chain else nodeImage 0xFFFE 0 0 0 chain
    put (put s (sp.pool + 16 * id) 16 img) (sp.pool + 16 * sp.cap + 4 * id) 4 (Config.nodeChain (s.choices + sp.cap + id)).toNat) s
  { s with choices := s.choices + 2 * sp.cap }

/-- The space of a launch record is created for its group, if it names a pool; none when the root monitor refuses. -/
def State.createSpace (s : State) (g : Group) (b : BitVec 512) : Option State :=
  let pool := recN b 0x18 8
  if pool = 0 then some s
  else
    let cap := 2 ^ recN b 0x22 1
    (s.poolLeaves g.asid.toNat pool (20 * cap)).map fun l =>
      let nv := recN b 0x20 2
      let sp : Space := ⟨g.id, pool, cap, nv, recN b 0x24 4, (List.range nv).map fun v => ⟨2 + v, v, 0, 1, 0xFFFF⟩,
        List.range 4096, 0, 0, 0, 0, 0, 0, l⟩
      let s := (s.writePtes (l.map fun p => (p.1, p.2 &&& ~~~0x140#64))).dropRange g.asid pool (20 * cap)
      ({ s with spaces := s.spaces ++ [sp] }).writePool g.asid.toNat sp

/-- The space of a group is destroyed: the permissions of its pool are restored (R311). -/
def State.destroySpace (s : State) (g : Nat) : State :=
  match s.spaces.find? fun sp => sp.group == g with
  | none => s
  | some sp =>
    let asid := ((s.groups.find? fun x => x.id == g).map (·.asid)).getD 0
    let s := (s.writePtes sp.ptes).dropRange asid sp.pool (20 * sp.cap)
    { s with spaces := s.spaces.filter fun x => x.group != g }

/-! ### Admission (R348) -/

/-- A launch group by its number. -/
def State.group (s : State) (g : Nat) : Option Group := s.groups.find? fun x => x.id == g
/-- Change a group. -/
def State.modGroup (s : State) (g : Nat) (f : Group → Group) : State :=
  { s with groups := s.groups.map fun (x : Group) => if x.id = g then f x else x }

/-- Change a heath. -/
def State.modHeath (s : State) (h : Fin 24) (f : Heath → Heath) : State := { s with heaths := s.heaths.set h (f s.heaths[h]) }
/-- The heaths of a partition; one that is retired leaves it at the tick (23 R357). -/
def Partition.heathList (p : Partition) : List (Fin 24) := (List.finRange 24).filter fun h => p.heaths.getLsbD h.val

/-- The checks of R348 in their order: the code of the first that fails, or the header. -/
def State.admission (s : State) (x : Record) : Except Nat (BitVec 2048) :=
  let b := x.body
  let f := s.recFn x
  let image := recN b 0x10 8
  match s.fnRead f image 256 with
  | none => .error 8
  | some l =>
    let h := BitVec.ofNat 2048 (leNat l)
    let pool := recN b 0x18 8
    if headerOk h = false ∨ (s.fnRead f image (hdN h 8 8)).isNone then .error 8
    else if headerFits h = false then .error 6
    else if pool ≠ 0 ∧ (s.poolLeaves f pool (20 * 2 ^ recN b 0x22 1)).isNone then .error 8
    else if (match (s.queuePart x.queue).bind s.part with
      | some p => p.heathList.length
      | none => 0) < hdHeaths h then .error 7
    else if poolsOk h = false then .error 7
    else .ok h

/-- LAUNCH: the record at the head of a queue that dispatches is admitted, or completes with the code of the first check that fails. A
replayable fault holds the read of its image, and a fail reply makes it unreadable (24 R378). -/
def execLaunch (r : Nat) (s : State) : Out :=
  .next (match s.running r 1 with
    | none => s
    | some x =>
      if x.atHead = false ∨ (s.group r).isSome ∨ s.mayDispatch x.queue = false ∨ (s.queues[x.queue]).frozen then s
      else match x.code, s.imageHeld x, s.admission x with
        | some code, _, _ => (s.nextHead x.queue).complete r code
        | none, some v, _ => s.imageWalk x v
        | none, none, .error code => (s.nextHead x.queue).complete r code
        | none, none, .ok h => { s with groups := s.groups ++ [{
            id := r
            record := r
            header := h
            image := BitVec.ofNat 64 (recN x.body 0x10 8)
            part := (s.queuePart x.queue).getD 0
            asid := BitVec.ofNat 7 (s.recFn x)
            phase := .waiting
            heaths := []
            release := 0
            resumed := 0
            code := none
            stop := none
            stopAt := 0
            saved := []
            bars := []
            records := []
            victims := []
            target := [] }] })

/-! ### Free and eligible heaths -/

/-- Does a heath change partition in the commit in progress (R355)? -/
def State.heathMoves (s : State) (h : Fin 24) : Bool :=
  match s.commit with
  | none => false
  | some c =>
    (s.layout.parts.findIdx? fun p => p.heaths.getLsbD h.val && !p.suspended)
      != (c.next.parts.findIdx? fun p => p.heaths.getLsbD h.val && !p.suspended)

/-- Free heaths of a partition for a group; a thermal migration keeps its own. -/
def State.freeHeaths (s : State) (p : Nat) (g : Nat) : List (Fin 24) :=
  match s.part p with
  | none => []
  | some q => if q.suspended then [] else q.heathList.filter fun h =>
      (s.heaths[h]).group.isNone && !(s.heaths[h]).retired && !s.heathMoves h && !(s.groups.any fun x => x.id != g && x.target.contains h)

/-- Slot entries already reserved on a die by other groups. -/
def State.dieRings (s : State) (g : Nat) (d : Fin 12) : Nat :=
  (List.finRange 24).foldl (fun n h => if heathDie h = d then match (s.heaths[h]).group with
    | some x => if x = g then n else n + (match s.group x with
        | some y => hdRings y.header
        | none => 0)
    | none => n else n) 0

/-- The heaths kept for a group: in ascending order, each eligible together with those kept; none when too few (R348). DEDUCED (log 46). -/
def State.pick (s : State) (g : Group) : Option (List (Fin 24)) :=
  let free := s.freeHeaths g.part g.id
  let cands := if g.target ≠ [] ∧ g.target.all (free.contains ·) then g.target else free
  let need := hdHeaths g.header
  let kept := cands.foldl (fun (l : List (Fin 24)) h =>
    let d := heathDie h
    if need ≤ l.length then l
    else if s.dieRings g.id d + hdRings g.header * ((l.filter fun x => heathDie x == d).length + 1) ≤ 8192 then l ++ [h] else l) []
  if kept.length = need ∧ 0 < need then some kept else none

/-! ### Binding -/

/-- Bytes loaded at an instruction address through the code-load path: their range is parsed again (05 R74). -/
def Core.loadCode (k : Core) (d : Nat) (l : List Byte) : Core :=
  let n := l.length
  { k with
    ispad := memWriteBytes k.ispad d l
    ipoison := clearPoison k.ipoison d n
    marks := (k.marks.filter fun m => !(decide (d ≤ m) && decide (m < d + n))) ++ (parseMarks (memWriteBytes k.ispad d l) (d + n) (n / 2 + 1) d).getD [] }

/-- The handler of a launch: its body and cr.thv (24 R365). -/
def State.handlerOf (s : State) (g : Group) : List Byte × Word :=
  match s.part g.part with
  | some p => if p.image ≠ [] ∧ hdN g.header 0x14 4 ≤ 0x1E000 then (p.image.take 8192, 0x1E000) else ([], 0)
  | none => ([], 0)

/-- The constant bank of a context (06 R90): all 0 without an offset; words past the image read 0. DESIGN CHOICE (log 45). -/
def State.bankOf (s : State) (g : Group) (x : Nat) : Vector (BitVec 32) 1024 :=
  let o := hdN g.header (0x90 + 4 * x) 4
  let l := if o = 0 then [] else s.imageBytesAt g o (min 4096 (hdN g.header 8 8 - o))
  let v := leNat l
  Vector.ofFn fun i : Fin 1024 => BitVec.ofNat 32 (v / 2 ^ (32 * i.val))

/-- The ring declarations of a header (19 R292). DESIGN CHOICE (log 45): one whose O or Z is no multiple of 64, or which passes SCRATCH,
stands as it is; no check of R348 names it. -/
def hdRing (h : BitVec 2048) (r : Fin 4) : Option RingDecl :=
  let v := hdN h (0x60 + 8 * r.val) 8
  if v / 2 ^ 32 % 1024 = 0 then none else some ⟨v / 2 ^ 42, v / 2 ^ 32 % 1024, v % 2 ^ 32⟩

/-- What a launch allots to a core. -/
def allotOf (g : Group) (part rheath : Nat) : Allot :=
  let h := g.header
  ⟨g.id, hdHeaths h, rheath, BitVec.ofNat 8 (hdCmask h), hdNctx h, hdN h 0x2C 4, hdN h 0x30 2, hdN h 0x32 1, hdN h 0x33 1,
    hdN h 0x34 2, hdQueue h 1, hdQueue h 2, hdQueue h 3, part⟩

/-- A context at its launch values (R349); it becomes Ready at the release. DESIGN CHOICE (log 45): an ENTRY that is odd or past
the text is taken as it stands; no check of R348 names it. -/
def State.launchCtx (s : State) (g : Group) (b : BitVec 512) (thv : Word) (x : CtxId) : Ctx :=
  { Ctx.reset with
    pc := BitVec.ofNat 64 (hdN g.header (0x18 + 4 * x.val) 4)
    g := Ctx.reset.g.set (63 : R64) ⟨BitVec.ofNat 64 (recN b 0x28 8), false⟩
    bank := s.bankOf g x.val
    pri := (hdN g.header 0x2B 1).testBit x.val
    rwp := BitVec.ofNat 2 (recN b 0x23 1)
    nbud := BitVec.ofNat 32 (hdN g.header 0x38 4)
    thv := thv
    ptroot := s.rootOf g.asid
    asid := g.asid }

/-- What a core of a bound heath holds before its contexts: text, handler, rules, `.scr` image where CMASK names the core (06 R88), rings (R348, R134, R266,
R305, 17 R242, R246). DEDUCED (log 45). DESIGN CHOICE (log 45): a `.scr` image that passes SCRATCH is written there all the same,
and its bytes past the vault are dropped; no check of R348 names it. So it is with a RING entry that breaks R292: its flag words are
written where its fields place them. The text load (R305) reads memory, and no die instruction cache. -/
def State.bindCore (s : State) (g : Group) (rheath : Nat) (pos : Fin 8) (k : Core) : Core :=
  let h := g.header
  let hl := s.handlerOf g
  let rules := leNat (s.imageBytesAt g (hdN h 0x80 4) (32 * hdN h 0x84 1))
  let scr := s.imageBytesAt g (hdN h 0xA0 4) (hdN h 0xA4 4)
  let k := { k with marks := k.marks.filter fun m => decide (m < 0x20000) }
  let k := k.loadCode 0 (s.imageBytesAt g (hdN h 0x10 4) (hdN h 0x14 4))
  let k := if hl.2 = 0 then k else k.loadCode 0x1E000 hl.1
  let rings := Vector.ofFn fun r : Fin 4 => hdRing h r
  let scr := if (hdCmask h).testBit pos.val then scr else []
  let vault := (memWriteBytes [] (hdN h 0xA8 4) scr).filter fun c => decide (c.1 < 0x400000)
  { k with
    current := none
    switching := false
    fresh := true
    step := k.step + 3
    allot := some (allotOf g g.part rheath)
    ctxs := Vector.replicate 4 Ctx.reset
    vault := rings.toList.foldl (fun m r => match r with
      | some d => (List.range d.n).foldl (fun m i => memWriteN m (d.flag i) 8 0) m
      | none => m) vault
    vpoison := []
    rpoison := []
    saveRam := []
    spoison := []
    tiles := Vector.replicate 16 0
    blocks := Vector.replicate 512 0
    l1 := []
    rules := Vector.ofFn fun i : Fin 64 => BitVec.ofNat 256 (rules / 2 ^ (256 * i.val))
    inflight := []
    freezeLeft := 0
    tlbAck := false
    beat := ⟨Vector.replicate 4 none, false, 0, none⟩
    ddq := Vector.replicate 16 none
    rings := rings
    subs := Vector.replicate 4 none
    doneSubs := []
    doneDds := [] }

/-- Heaths of a group in relative order, with their cores and positions. -/
def groupCores (hs : List (Fin 24)) : List (Nat × Fin 24 × Fin 8) :=
  hs.zipIdx.flatMap fun p => (List.finRange 8).map fun i => (p.2, p.1, i)

/-- The cores of a group. -/
def Group.cores (g : Group) : List CoreId := (groupCores g.heaths).map fun p => heathCore p.2.1 p.2.2
/-- The allotted contexts of a group. -/
def Group.ctxs (g : Group) : List (CoreId × CtxId) :=
  (g.cores.filter fun c => (hdCmask g.header).testBit (corePos c)).flatMap fun c =>
    ((List.finRange 4).filter fun x => decide (x.val < hdNctx g.header)).map fun x => (c, x)

/-- Heaths are bound: their units are reset, their cores loaded; a gated heath leaves gating (27 R406). -/
def State.bindHeaths (s : State) (g : Group) (hs : List (Fin 24)) : State :=
  let s := hs.foldl (fun s h => s.modHeath h fun q => { q with
    bars := Vector.replicate 4 ⟨0, 0, 0⟩
    group := some g.id
    gated := false }) s
  (groupCores hs).foldl (fun s p => s.setCore (heathCore p.2.1 p.2.2) (s.bindCore g p.1 p.2.2 (s.core (heathCore p.2.1 p.2.2)))) s

/-- A core in its reset state, but for its place in time and the launch that still holds it (27 R407). -/
def Core.reinit (k : Core) : Core := { Core.reset with
  step := k.step
  clock := k.clock
  allot := k.allot
  ctxs := k.ctxs }

/-- The contexts of a heath whose retention was lost take cause 0x20, with a frame naming their entry bundles; the heath
returns to its reset state, its cores with it (27 R407). -/
def State.retention (s : State) (g : Group) : State :=
  let lost := g.heaths.filter fun h => (s.heaths[h]).lost
  let s := (g.ctxs.filter fun u => lost.contains (coreHeath u.1)).foldl (fun s u =>
    let pc : Word := BitVec.ofNat 64 (hdN g.header (0x18 + 4 * u.2.val) 4)
    let d := s.freeWord
    let s := d.2.modCtx u.1 u.2 fun t => { t with run := .ready }
    s.takeTrap u.1 u.2 (Frame.make pc 0 0x20 d.1 0) pc 0) s
  let s := if lost = [] then s else g.ctxs.foldl (fun s u => s.modCtx u.1 u.2 fun t =>
    if t.run = .unloaded then { t with run := .halted } else t) s
  lost.foldl (fun s h =>
    let s := s.modHeath h fun q => { Heath.reset with group := q.group, temp := q.temp, sensor := q.sensor }
    (heathCores h).foldl (fun s c => s.modCore c Core.reinit) s) s

/-- Does a saved group of the partition come before a launch (R352)? -/
def State.resumeFirst (s : State) (g : Group) : Bool :=
  s.groups.any fun x => x.phase == .saved && x.part == g.part && decide (hdTokens g.header ≤ hdTokens x.header)

/-- LAUNCH_BIND (R348): when enough eligible heaths are free, they are bound and loaded, and the space is created; a refused
space ends the record. DESIGN CHOICE (log 45): an image that can be read no more ends it with BAD_RECORD, as check 1 does. -/
def execLaunchBind (g : Nat) (s : State) : Out :=
  .next (match s.group g with
    | none => s
    | some y => match s.record y.record with
      | none => s
      | some x =>
        if y.phase ≠ .waiting ∨ s.mayDispatch x.queue = false ∨ (s.queues[x.queue]).frozen ∨ s.resumeFirst y then s
        else match s.pick y with
          | none => s
          | some hs =>
            let refuse (s : State) : State :=
              ({ s with groups := s.groups.filter fun (z : Group) => z.id != g }.nextHead x.queue).complete y.record 8
            match s.imageHeld x, s.createSpace y x.body with
            | some v, _ => if x.code.isSome then refuse s else s.imageWalk x v
            | none, none => refuse s
            | none, some t => if x.code.isSome || (s.fnRead (s.recFn x) (recN x.body 0x10 8) (hdN y.header 8 8)).isNone then refuse s else
              let s := t

              let y := { y with phase := .bound, heaths := hs }
              let s := ((s.nextHead x.queue).modRec x.id fun r => { r with atHead := false, begun := true }).modGroup g fun _ => y
              let s := s.bindHeaths y hs
              let thv := (s.handlerOf y).2
              let s := y.ctxs.foldl (fun s u => s.modCtx u.1 u.2 fun _ => s.launchCtx y x.body thv u.2) s
              s.retention y)

/-- GROUP_RELEASE (03 R45): every allotted context of a bound group may issue from this tick on; the cores are watched, and
start at CAP, settled (27 R399), with a step of their own also in a split window (27 R405). DEDUCED (log 53). A resumed context's last beat still counts (03 R50). -/
def execGroupRelease (g : Nat) (s : State) : Out :=
  .next (match s.group g with
    | none => s
    | some y =>
      if y.phase ≠ .bound then s
      else
        let now := s.cyc.toNat
        let s := s.modGroup g fun y => { y with
          phase := .resident
          release := now
          resumed := if y.saved = [] then y.resumed else now
          saved := []
          bars := []
          target := [] }
        let s := y.cores.foldl (fun s c => s.modCore c fun k => { k with
          fresh := true
          splitAt := none
          opp := ⟨0, k.opp.cap, k.opp.cap, false, k.opp.cap⟩
          beat := ⟨k.beat.last, false, 0, some now⟩ }) s
        let s := y.ctxs.foldl (fun s u => s.modCtx u.1 u.2 fun t => { t with
          run := if t.run = .unloaded then .ready else t.run
          stopping := false }) s
        y.ctxs.foldl (fun s u => s.wakeTest u.1 u.2) s)

/-! ### The end of a group (R349) -/

/-- Have the engines ended their work for a group: jobs, accepted operations, ending subscriptions and stores? -/
def State.workDone (s : State) (g : Group) : Bool :=
  g.cores.all fun c =>
    let k := s.core c
    !(s.jobs.any fun j => j.core == c && !j.ended)
    && !(k.entries.any fun e => e.2.accepted)
    && !(k.subs.toList.any fun u => match u with
      | some u => u.ending.isSome || u.held != [] || u.loaded != []
      | none => false)
    && k.ctxs.toList.all fun t => t.accs.all fun a => a.performed || !a.writes

/-- The heaths of a group are released. -/
def State.freeGroup (s : State) (g : Group) : State :=
  let s := s.endPins fun p => g.cores.contains p.core
  let s := { s with jobs := s.jobs.filter fun (j : Job) => !g.cores.contains j.core }
  let s := g.heaths.foldl (fun s h => s.modHeath h fun q => { q with group := none }) s
  g.cores.foldl (fun s c => s.modCore c fun k => { k with
    allot := none
    current := none
    ctxs := Vector.replicate 4 Ctx.reset
    inflight := []
    rings := Vector.replicate 4 none
    subs := Vector.replicate 4 none
    ddq := Vector.replicate 16 none
    beat := ⟨Vector.replicate 4 none, false, 0, none⟩ }) s

/-- Has every allotted context of a group stopped for good? One whose fatal record found no entry stays Trapped until the
record is written (24 R380). -/
def State.groupEnded (s : State) (g : Group) : Bool :=
  g.ctxs.all fun u => (s.ctx u.1 u.2).run == .halted
    || (s.ctx u.1 u.2).run == .held && !(s.hub.deferred.any fun d => d.kind == 1 && d.unit == ctxUnit u.1 u.2)

/-- LAUNCH_COMPLETE (R349): the heaths are released, the space destroyed, and the LAUNCH completes: DONE if every context
halted, else with the code of the first failure. -/
def execLaunchComplete (g : Nat) (s : State) : Out :=
  .next (match s.group g with
    | none => s
    | some y =>
      if (y.phase = .resident ∨ y.phase = .stopping ∨ y.phase = .bound) ∧ s.groupEnded y ∧ s.workDone y then
        let s := (s.freeGroup y).destroySpace g
        let s := { s with groups := s.groups.filter fun (z : Group) => z.id != g }
        s.complete y.record (y.code.getD 1)
      else s)

/-- A group is killed with a code (R352, 26 R391): one that runs stops at once and completes when its work has ended; one
that waits or is saved completes now. -/
def State.killGroup (s : State) (g : Group) (code : Nat) : State :=
  if g.heaths = [] ∨ g.phase = .saved then
    let s := s.destroySpace g.id
    let s := if g.phase = .waiting then (match s.record g.record with
      | some x => s.nextHead x.queue
      | none => s) else s
    let s := { s with groups := s.groups.filter fun (z : Group) => z.id != g.id }
    s.complete g.record code
  else
    let s := (s.failGroup g.id code).modGroup g.id fun y => { y with target := [] }
    g.ctxs.foldl (fun s u =>
      let r := (s.ctx u.1 u.2).run
      if r = .halted ∨ r = .held then s else s.killCtx u.1 u.2) s

end Sys2Proof.Machine
end

