-- ==== Sys2Proof/Machine/Preempt.lean ====
section
/-!
DEFINITION. Quantum boundaries (23 R344), pre-emption (R350), stopping, saving and resuming a launch group (R351, R352,
24 R375), and thermal migration (27 R411).
-/
namespace Sys2Proof.Machine

/-! ### Mapping (R344) -/

/-- The order in which queues are mapped: age, then priority, then number. -/
def mapsBefore (s : State) (a b : Fin 4096) : Bool :=
  let x := s.queues[a]
  let y := s.queues[b]
  if x.age ≠ y.age then decide (y.age < x.age)
  else if x.prio ≠ y.prio then decide (y.prio.toNat < x.prio.toNat)
  else decide (a.val ≤ b.val)

/-- The queues of a partition that are mapped at a boundary. -/
def State.mapped (s : State) (p : Nat) : List (Fin 4096) :=
  match s.part p with
  | none => []
  | some q => if q.suspended then [] else
      let w := (List.finRange 4096).filter fun x => s.queuePart x == some p && s.hasWork x
      (w.insertionSort fun a b => mapsBefore s a b = true).take q.qslots.toNat

/-- Ages, then the mapping of every partition. -/
def State.remap (s : State) : State :=
  let s := { s with queues := Vector.ofFn fun q : Fin 4096 =>
      let d := s.queues[q]
      { d with age := if d.mapped then 0 else if s.hasWork q then min (d.age + 1) 65535 else d.age } }
  let l := (List.range s.layout.parts.length).flatMap s.mapped
  { s with queues := Vector.ofFn fun q : Fin 4096 => { s.queues[q] with mapped := l.contains q } }

/-! ### Stopping (R351) -/

/-- A context of a group that stops: a Ready or Blocked one stops at once, but a nest of K = 1 runs out under a drain; a checkpoint
interrupts a propagation episode between re-executions, also one that a late effect has begun in a context that has stopped or halted; a
drain lets it run to its end (03 R44, 15 R233); a kill ends it. -/
def State.stopCtx (s : State) (c : CoreId) (x : CtxId) (mode : StopMode) : State :=
  let t := s.ctx c x
  let nest := mode = .drain ∧ (t.episode.isSome ∨ t.loop.run ∧ t.loop.k = 1)
  if mode = .kill then (if t.run = .unloaded ∨ t.run = .halted ∨ t.run = .held then s else s.killCtx c x)
  else if mode = .checkpoint ∧ t.episode.isSome ∧ !t.nstat.act ∧ (t.stopping ∨ t.run = .halted) then
    s.modCtx c x fun t => { t.interrupt with stopping := true }
  else if t.stopping then s
  else if (t.run = .ready ∨ t.run = .blocked) ∧ ¬nest then s.modCtx c x fun t => t.interrupt.stop
  else if t.run = .running ∧ mode = .checkpoint ∧ t.episode.isSome then
    (s.modCtx c x fun t => t.interrupt.stop).modCore c Core.switchPoint
  else s

/-- The contexts of a core whose group is being stopped stop, where no freeze makes them wait (03 R44). -/
def State.stopCore (s : State) (c : CoreId) : State :=
  match s.groupStop c with
  | none => s
  | some mode => if s.stopWaits c mode then s else ((List.finRange 4).foldl (fun s x => s.stopCtx c x mode) s).endPinsStopped

/-- The contexts of a stopping group stop, those of a frozen core later, in its turn. -/
def State.stopAll (s : State) (g : Group) : State := g.cores.foldl State.stopCore s

/-- Drain or checkpoint of a resident group. -/
def State.beginStop (s : State) (g : Group) (mode : StopMode) : State :=
  (s.modGroup g.id fun y => { y with
    phase := .stopping
    stop := some mode
    stopAt := s.cyc.toNat }).stopAll g

/-- The kill of a resident group by a pre-emption or the fallback of a drain (R350, R351), which waits for a freeze to end (03 R44). -/
def State.beginKill (s : State) (g : Group) : State :=
  (s.modGroup g.id fun y => { y with
    code := some (y.code.getD 3)
    target := [] }).beginStop g .kill

/-! ### Pre-emption (R350) -/

/-- The remaining estimate of a group in ticks; none when it is unknown. -/
def State.remaining (s : State) (g : Group) : Option Nat :=
  let ovr := match s.record g.record with
    | some x => recN x.body 0x30 4
    | none => 0
  let est := 1750 * (if ovr = 0 then hdN g.header 0x88 4 else ovr)
  let past := s.cyc.toNat - g.release
  if est ≤ past then none else some (est - past)

/-- Does group `a` come before `b` as a victim: fewest tokens, then the largest remaining estimate, then the latest
release? DEDUCED (log 47). -/
def State.victimBefore (s : State) (a b : Group) : Bool :=
  let x := hdTokens a.header
  let y := hdTokens b.header
  if x ≠ y then decide (x < y)
  else match s.remaining a, s.remaining b with
    | none, some _ => true
    | some _, none => false
    | some m, some n => if m ≠ n then decide (n < m) else decide (b.release ≤ a.release)
    | none, none => decide (b.release ≤ a.release)

/-- The victim for a waiting group, if there is one. -/
def State.victim (s : State) (r : Group) : Option Group :=
  (s.groups.filter fun v => v.phase == .resident && v.part == r.part && decide (hdTokens v.header < hdTokens r.header)
    && !r.victims.contains v.id && (v.stop.isNone)).foldl (fun acc v => match acc with
      | none => some v
      | some b => if s.victimBefore b v then some b else some v) none

/-- Does a context of a group run a nest with K > 1? -/
def State.deepNest (s : State) (g : Group) : Bool := g.ctxs.any fun u => (s.ctx u.1 u.2).loop.run && decide (1 < (s.ctx u.1 u.2).loop.k)

/-- The decision of Table 23.5 for a waiting group. DEDUCED (log 47). -/
def State.preempt (s : State) (r : Group) : State :=
  match s.victim r with
  | none => s
  | some v =>
    let spared := match s.remaining v with
      | some n => decide (n ≤ 2 * s.layout.quantum.toNat)
      | none => false
    let note (s : State) : State := s.modGroup r.id fun y => { y with victims := y.victims ++ [v.id] }
    if spared then s
    else if hdAllows v.header 2 && !s.deepNest v then note (s.beginStop v .drain)
    else if hdAllows v.header 1 then note (s.beginStop v .checkpoint)
    else if hdAllows v.header 0 && decide (hdTokens v.header + 8 ≤ hdTokens r.header) then note (s.beginKill v)
    else s

/-! ### Thermal migration (27 R411) -/

/-- The heaths to which a hot group may move. -/
def State.coolHeaths (s : State) (g : Group) : Option (List (Fin 24)) :=
  let hot := (g.heaths.map fun h => (s.heaths[h]).temp).foldl max 0
  let far := g.resumed = 0 ∨ g.resumed + 87500000 ≤ s.cyc.toNat
  let cool := (s.freeHeaths g.part g.id).filter fun h => decide ((s.heaths[h]).temp + 4 ≤ hot)
  if g.phase = .resident ∧ hdAllows g.header 1 ∧ far ∧ !s.mon.noMigrate ∧ (s.layout.ths.toNat : Int) < hot then
    s.pick { g with target := if hdHeaths g.header ≤ cool.length then cool else [] } |>.bind fun l => if l.all (cool.contains ·) then some l else none
  else none

/-- The dispatcher may move a hot group: a free choice. -/
def State.migrate (s : State) (g : Group) : State :=
  match s.coolHeaths g with
  | none => s
  | some hs =>
    let d := s.draw
    if d.1 % 2 = 0 then d.2 else (d.2.modGroup g.id fun y => { y with target := hs }).beginStop g .checkpoint

/-- QUANTUM_BOUNDARY: ages and mapping, then a pre-emption decision for each mapped queue whose LAUNCH is short of heaths,
then migrations (R344, R350, 27 R411). -/
def execQuantumBoundary (s : State) : Out :=
  .next (
    let s := s.remap
    let s := ((List.finRange 4096).filter fun q => (s.queues[q]).mapped).foldl (fun s q =>
      match (s.waitingAt q).bind fun x => s.group x.id with
      | some r => if (s.pick r).isNone then s.preempt r else s
      | none => s) s
    (s.groups.map (·.id)).foldl (fun s g => match s.group g with
      | some y => s.migrate y
      | none => s) s)

/-- Have the contexts of a stopping group all stopped? -/
def State.allStopped (s : State) (g : Group) : Bool :=
  g.ctxs.all fun u => (s.ctx u.1 u.2).stopped

/-- DRAIN_FALLBACK (R351): 175,000 ticks after its stop began a drain falls back to a checkpoint, or to a kill, as the group
allows. -/
def execDrainFallback (g : Nat) (s : State) : Out :=
  .next (match s.group g with
    | none => s
    | some y =>
      let stuck := !s.allStopped y
      if y.phase ≠ .stopping ∨ y.stop ≠ some .drain ∨ s.cyc.toNat < y.stopAt + 175000 ∨ !stuck then s
      else if hdAllows y.header 1 then (s.modGroup g fun y => { y with stop := some .checkpoint }).stopAll y
      else if hdAllows y.header 0 then s.beginKill y
      else s)

/-! ### Saving (R351, 24 R375) -/

/-- A context as its record keeps it: step counts relative to its core's step, those of the b-registers saturated at 3: a
register restored counts as written three steps before (24 Table 24.6, 09 R123). DEDUCED (log 48). -/
def Ctx.save (t : Ctx) (step : Nat) : Ctx :=
  { t with
    fmtAt := none
    b := t.b.map fun (r : BReg) => { r with step := 3 }
    pendDom := t.pendDom.map fun (p : PendDom) => { p with due := p.due - step } }
/-- The reverse, on a core at a step. -/
def Ctx.restore (t : Ctx) (step : Nat) : Ctx :=
  { t with
    b := t.b.map fun (r : BReg) => { r with step := step - r.step }
    pendDom := t.pendDom.map fun (p : PendDom) => { p with due := p.due + step } }

/-- CONTEXT_SAVE_COMPLETE (R351, 19 R291, 21 R338): once every context has stopped the group's pins end; once its jobs,
accesses and accepted operations have ended as well, the records are complete and the heaths free. DEDUCED (log 48). -/
def execContextSaveComplete (g : Nat) (s : State) : Out :=
  .next (match s.group g with
    | none => s
    | some y =>
      if y.phase ≠ .stopping ∨ y.stop = some .kill ∨ s.allStopped y = false then s
      else
        let s := s.endPins fun p => y.cores.contains p.core
        let quiet := s.workDone y && y.cores.all fun c => (s.core c).inflight == [] && (s.core c).ctxs.toList.all fun t => t.accs == []
        if !quiet then s
        else
          let drain := y.stop = some .drain
          let saved := (groupCores y.heaths).map fun p =>
            let k := s.core (heathCore p.2.1 p.2.2)
            (8 * p.1 + p.2.2.val, (⟨p.2.2.val, k.ctxs.map fun (t : Ctx) => t.save k.step,
              if drain then Vector.replicate 16 0 else k.tiles, k.blocks, k.vault.filter fun c => decide (c.1 < hdN y.header 0x2C 4),
              k.vpoison.filter fun q => decide (8 * q < hdN y.header 0x2C 4),
              k.rpoison.filter fun r => match r with
                | .tile _ _ => !drain
                | _ => true,
              k.saveRam, k.spoison, k.beat.last, k.subs, k.ddq⟩ : SavedCore))
          let bars := y.heaths.map fun h => (s.heaths[h]).bars
          let s := y.ctxs.foldl (fun s u => (s.saveRecord u.1 u.2).2) s
          (s.freeGroup y).modGroup g fun z => { z with
            phase := .saved
            heaths := []
            stop := none
            saved := saved
            bars := bars })

/-! ### Resuming (R352) -/

/-- A drained context whose nest was clamped, and which stopped before END, re-enters through its prologue; one that a
checkpoint stopped elsewhere goes on there, with its counts as they stand. DEDUCED (log 25). -/
def Ctx.reenter (t : Ctx) : Ctx :=
  match t.loop.drained with
  | none => t
  | some (i, a) =>
    let n := t.loop.n0 - i
    if t.loop.run || t.pc != t.loop.endA then { t with loop := { t.loop with drained := none } }
    else if n = 0 then { t with pc := t.loop.endA, loop := { t.loop with run := false, drained := none } }
    else
      let l := { t.loop with
        run := true
        k := 1
        n := t.loop.n.set (0 : Lvl) n
        idx := t.loop.idx.set (0 : Lvl) 0
        drained := none }
      { t with
        a := a
        pc := t.loop.body
        sp := l.stagePreds
        loop := l }

/-- The saved state of a core, restored on a freshly bound one. -/
def State.restoreCore (s : State) (y : Group) (k : Core) (v : SavedCore) : Core :=
  let thv := (s.handlerOf y).2
  { k with
    ctxs := Vector.ofFn fun x : Fin 4 =>
      let t := (v.ctxs[x]).restore k.step
      if t.run = .unloaded then t
      else { t.reenter with
        bank := s.bankOf y x.val
        thv := thv
        ptroot := s.rootOf y.asid
        asid := y.asid
        awake := false
        stopping := true }
    vault := v.vault
    vpoison := v.vpoison
    rpoison := v.rpoison
    saveRam := v.saveRam
    spoison := v.spoison
    beat := { k.beat with last := v.beats }
    tiles := v.tiles
    blocks := v.blocks
    subs := v.subs
    ddq := v.ddq
    ddSeq := max k.ddSeq ((v.ddq.toList.filterMap id).foldl (fun n d => max n (d.seq + 1)) 0) }

/-- Can a waiting LAUNCH of the partition that holds more tokens than a saved group be bound? -/
def State.launchFirst (s : State) (y : Group) : Bool :=
  s.groups.any fun x => x.phase == .waiting && x.part == y.part && decide (hdTokens y.header < hdTokens x.header)
    && (s.record x.record).any (fun r => s.mayDispatch r.queue && !(s.queues[r.queue]).frozen) && (s.pick x).isSome

/-- GROUP_RESUME (R352): a saved group is bound to free heaths again, with every field restored before the release. A replayable fault
holds the reload of its image (24 R378). DESIGN CHOICE (log 45): an image that can be read no more gives no bytes. -/
def execGroupResume (g : Nat) (s : State) : Out :=
  .next (match s.group g with
    | none => s
    | some y =>
      if y.phase ≠ .saved ∨ s.launchFirst y then s
      else match s.pick y with
        | none => s
        | some hs => match (s.record y.record).bind fun x => if x.code.isSome then none else (s.imageHeld x).map fun v => (x, v) with
          | some (x, v) => s.imageWalk x v
          | none =>
          let z := { y with phase := .bound, heaths := hs }
          let s := s.modRec y.record fun x => { x with code := none }
          let s := (s.modGroup g fun _ => z).bindHeaths z hs
          let s := (groupCores hs).foldl (fun s p =>
            let c := heathCore p.2.1 p.2.2
            match y.saved.find? fun v => v.1 == 8 * p.1 + p.2.2.val with
            | some v => s.setCore c (s.restoreCore z (s.core c) v.2)
            | none => s) s
          let s := (hs.zip y.bars).foldl (fun s q => s.modHeath q.1 fun h => { h with bars := q.2 }) s
          s.retention z)

end Sys2Proof.Machine
end

