-- ==== Sys2Proof/Machine/Layout.lean ====
section
/-!
DEFINITION. Layouts (23 R353 to R358): images, the checks of the root monitor, signed images (26 R394), staging, quiescence
and the tick, retirement and suspension.
-/
namespace Sys2Proof.Machine

/-! ### Signed images (26 Table 26.5) -/

/-- The largest body of an image kind. -/
def imageLimit (kind : Nat) : Nat := if kind = 1 then 98304 else if kind = 4 then 8192 else 2 ^ 32 - 1

/-- A verified image: its body and its measurement; none when the root monitor refuses it (R394). The signature stands over
the SHA-512 digest of header bytes 0x00 to 0x3F and the body. -/
def verifyImage (kind : Nat) (l : List Byte) : Option (List Byte × Meas) :=
  let n (o k : Nat) : Nat := leNat ((l.drop o).take k)
  let len := n 0x0C 4
  let body := (l.drop 128).take len
  let key := n 5 1
  if n 0 4 = 0x474D494B ∧ n 4 1 = kind ∧ key < 4 ∧ n 6 2 = 0 ∧ leNat ((l.drop 0x10).take 48) = 0 ∧ len ≤ imageLimit kind
      ∧ body.length = len ∧ Config.fusedVersion kind ≤ n 8 4 ∧ Config.keyRevoked key = false
      ∧ edVerify (Config.yarkelKey key).toNat (sha512Bytes (l.take 64 ++ body)) ((l.drop 0x40).take 64) then
    some (body, ⟨BitVec.ofNat 8 kind, BitVec.ofNat 8 key, BitVec.ofNat 32 (n 8 4), sha512 (l.take (128 + len))⟩)
  else none

/-- The handler image at a host address. -/
def State.handlerImage (s : State) (a : Word) : Option (List Byte × Meas) := verifyImage 4 (memBytes s.hmem a.toNat 8320)

/-! ### Layout images (Tables 23.7, 23.8) -/

/-- A partition record from its 64 bytes. -/
def parsePart (v : Nat) : Partition :=
  let n (o k : Nat) : Nat := v / 2 ^ (8 * o) % 2 ^ (8 * k)
  { heaths := BitVec.ofNat 24 v
    prio := BitVec.ofNat 4 (n 3 1)
    hard := (n 3 1).testBit 4
    hbmmin := Vector.ofFn fun i : Fin 12 => BitVec.ofNat 8 (n (4 + i.val) 1)
    mscmin := Vector.ofFn fun i : Fin 12 => BitVec.ofNat 4 (n 0x10 6 / 2 ^ (4 * i.val))
    qslots := BitVec.ofNat 8 (n 0x16 1)
    droop := BitVec.ofNat 8 (n 0x17 1)
    vfmask := BitVec.ofNat 96 (n 0x18 12)
    hbi := BitVec.ofNat 32 (n 0x24 4)
    wpath := Vector.ofFn fun i : Fin 4 => BitVec.ofNat 16 (n (0x28 + 2 * i.val) 2)
    handler := BitVec.ofNat 64 (n 0x30 8)
    suspended := false
    image := []
    meas := none
    jcbs := [] }

/-- Is a record free of reserved bits? -/
def partClean (v : Nat) : Bool := v / 2 ^ 29 % 8 == 0 && v / 2 ^ (8 * 0x38) % 2 ^ 64 == 0

/-- A layout from its image in host memory; none when its header is malformed. Values of 0 select the defaults. -/
def State.layoutAt (s : State) (a : Nat) : Option Layout :=
  let n (o k : Nat) : Nat := memReadN s.hmem (a + o) k
  let np := n 8 1
  let recs := (List.range np).map fun i => n (64 + 64 * i) 64
  let slots := memBytes s.hmem (a + 64 + 64 * np) 102400
  if n 0 4 = 0x5459414C ∧ 1 ≤ np ∧ np ≤ 24 ∧ n 9 3 = 0 ∧ n 0x15 43 = 0 ∧ recs.all partClean
      ∧ slots.all fun e => e.toNat / 32 % 4 == 0 && (!e.getLsbD 7 || decide (e.toNat % 32 < np)) then
    some ⟨BitVec.ofNat 32 (n 4 4), BitVec.ofNat 32 (n 0x0C 4), BitVec.ofNat 32 (if n 0x10 4 = 0 then 175000 else n 0x10 4),
      BitVec.ofNat 8 (if n 0x14 1 = 0 then 95 else n 0x14 1),
      recs.map fun v =>
        let p := parsePart v
        let i := if p.handler = 0 then none else s.handlerImage p.handler
        { p with image := (i.map (·.1)).getD [], meas := i.map (·.2) }, slots⟩
  else none

/-- Entries a partition reserves at a stop, over the four lanes. -/
def Layout.stopEntries (l : Layout) (p stop : Nat) : Nat := ((l.reserved p).filter fun i => i / 4096 == stop).length

/-- The checks of R354. -/
def State.layoutOk (s : State) (l : Layout) : Bool :=
  let ps := l.parts
  let disjoint (n : Nat) (f : Partition → Nat → Bool) : Bool := (List.range n).all fun i => decide ((ps.filter fun p => f p i).length ≤ 1)
  let sum (f : Partition → Nat) : Nat := ps.foldl (fun n p => n + f p) 0
  let within (v lo hi : Nat) : Bool := decide (lo ≤ v) && decide (v ≤ hi)
  ps.all (fun p => p.heaths != 0)
  && disjoint 24 (fun p i => p.heaths.getLsbD i) && disjoint 96 (fun p i => p.vfmask.getLsbD i)
  && decide (sum (fun p => p.qslots.toNat) ≤ 128) && ps.all (fun p => within p.qslots.toNat 1 128)
  && ((List.finRange 12).all fun i => decide (sum (fun p => (p.hbmmin[i]).toNat) ≤ 256) && decide (sum (fun p => (p.mscmin[i]).toNat) ≤ 16))
  && ps.all (fun p => within p.hbi.toNat 175000 1750000000 && (p.droop == 0 || within p.droop.toNat 10 80))
  && within l.quantum.toNat 175000 35000000 && within l.probe.toNat 17500 1750000000 && within l.ths.toNat 70 105
  && ps.all (fun p => p.handler == 0 || (s.handlerImage p.handler).isSome)
  && (ps.zipIdx.all fun e => (List.range 25).all fun stop => (List.finRange 4).all fun w =>
      decide ((e.1.wpath[w]).toNat ≤ l.stopEntries e.2 stop))
  && l.version == s.layout.version + 1

/-! ### Staging and quiescence (R355) -/

/-- Must a group leave its heaths for the commit in progress? -/
def State.mustLeave (s : State) (g : Group) : Bool := g.heaths.any s.heathMoves

/-- Launches on heaths that change partition are checkpointed if they allow it, else killed; one that drains there already waits for
no drain to end. DEDUCED (log 49). -/
def State.quiesce (s : State) : State :=
  (s.groups.map (·.id)).foldl (fun s i => match s.group i with
    | some g =>
      let draining := g.phase = .stopping ∧ g.stop = some .drain
      if (g.phase = .resident ∧ g.stop.isNone ∨ draining) ∧ s.mustLeave g then
        if !hdAllows g.header 1 then s.beginKill g
        else if draining then (s.modGroup g.id fun y => { y with stop := some .checkpoint }).stopAll g
        else s.beginStop g .checkpoint
      else s
    | none => s) s

/-- A layout is staged, with the measurements of the images that were read for it. -/
def State.stage (s : State) (l : Layout) (meas : List Meas) (r : Option Nat) : State :=
  ({ s with commit := some ⟨l, meas, r, false, s.nextJob⟩ }).quiesce

/-- The measurements of a layout's handler images (26 R393). -/
def Layout.meas (l : Layout) : List Meas := l.parts.filterMap (·.meas)

/-- The reads of a layout image leave, with those of the handler images it names (26 R384). -/
def State.askLayout (s : State) (r a : Nat) : State :=
  let s := State.hostAsk 127 r 102400 a (64 + 64 * memReadN s.hmem (a + 8) 1 + 102400) s
  (((s.layoutAt a).map (·.parts)).getD []).foldl (fun s p => if p.handler = 0 then s else State.hostAsk 127 r 8320 p.handler.toNat 8320 s) s

/-- LAYOUT: the root monitor checks the image and stages it; a refused one completes BAD_RECORD (R354, R355). A second
commit waits for the first, and its reads of host memory wait for the host port (26 R392). -/
def execLayout (r : Nat) (s : State) : Out :=
  .next (match s.running r 7 with
    | none => s
    | some x =>
      if s.commit.isSome ∨ (s.hub.ports[(0 : Fin 9)]).up = false then s
      else
        let s := s.askLayout r (recN x.body 0x10 8)
        match s.layoutAt (recN x.body 0x10 8) with
        | none => s.complete r 8
        | some l => if s.layoutOk l then s.stage l l.meas (some r) else s.complete r 8)

/-- Are the launches that must leave gone, and the engines of affected partitions done with their earlier work? DEDUCED (log 49). -/
def State.quiescent (s : State) (c : Commit) : Bool :=
  !(s.groups.any s.mustLeave)
  && !(s.jobs.any fun j => !j.ended && decide (j.id < c.jobs) && s.affected (s.core j.core).alloc.part)
  && ((List.finRange 192).all fun k => !s.affected (s.core k).alloc.part || (s.core k).subs.toList.all fun u => match u with
    | some u => u.held == [] && u.loaded == []
    | none => true)
  && !(s.records.any fun x => recKind x.body == 2 && x.begun && !x.ended && s.recAffected x)

/-- QUIESCE_COMPLETE: affected launches are pre-empted and affected engines have ended their work in flight. -/
def execQuiesceComplete (s : State) : Out :=
  .next (
    let s := s.quiesce
    match s.commit with
    | some c => if s.quiescent c then { s with commit := some { c with quiet := true } } else s
    | none => s)

/-! ### The tick (R355) -/

/-- The threshold of a core from a layout, 40 mV without a partition (27 R403). -/
def Layout.droopOf (l : Layout) (h : Fin 24) : Nat :=
  match l.parts.find? fun p => p.heaths.getLsbD h.val && !p.suspended with
  | some p => if p.droop = 0 then 40 else p.droop.toNat
  | none => 40

/-- The records of a queue that were not dispatched complete with a code. -/
def State.flushRest (s : State) (q : Fin 4096) (code : Nat) : State :=
  let n := if (s.queues[q]).sizelog.toNat < 4 then 0 else ((s.queues[q]).tail - (s.queues[q]).head).toNat
  (List.range n).foldl (fun s _ =>
    let t := s.askHead q
    ((t.newRec q (s.headRec q) false).nextHead q).complete s.nextRec code) s

/-- Every record of a queue completes with a code; those that were not dispatched once the host port is up (26 R392). -/
def State.flushQueue (s : State) (q : Fin 4096) (code : Nat) : State :=
  let s := ((s.records.filter fun x => x.queue == q && !x.ended).map (·.id)).foldl (fun s r =>
    match s.group r with
    | some g => s.killGroup g code
    | none => match s.record r with
      | some x => (if x.atHead then s.nextHead q else s).complete r code
      | none => s) s
  if (s.hub.ports[(0 : Fin 9)]).up then s.flushRest q code
  else s.modQueue q fun d => { d with flush := some (d.flush.getD code) }

/-- The host port is up again: what waited for it in the queues completes. -/
def State.flushHeld (s : State) : State :=
  ((List.finRange 4096).filter fun q => (s.queues[q]).flush.isSome).foldl (fun s q =>
    (s.flushRest q ((s.queues[q]).flush.getD 2)).modQueue q fun d => { d with flush := none }) s

/-- The queues of a partition. -/
def State.partQueues (s : State) (p : Nat) : List (Fin 4096) := (List.finRange 4096).filter fun q => s.queuePart q == some p

/-- Partitions that are suspended and that a new layout no longer holds are discarded: their records complete SUSPENDED
(R358). A partition is known by its number and its virtual functions. DEDUCED (log 50). -/
def State.discardParts (s : State) (l : Layout) : State :=
  (s.layout.parts.zipIdx.filter fun e => e.1.suspended && (l.parts[e.2]?).all fun q => q.vfmask != e.1.vfmask).foldl (fun s e =>
    (s.partQueues e.2).foldl (fun s q => s.flushQueue q 9) s) s

/-- LAYOUT_TICK: at a multiple of 1024 after quiescence every stop and unit swaps its tables; the version advances, and the
LAYOUT record completes. Job control blocks are 0 at a commit (R345); those of a suspended partition are kept (R358). DESIGN CHOICE
(log 49): where I changes, the first interval under the new I ends at its first multiple after the tick, and the beats since the last
end under the old I count for it (03 R49). -/
def execLayoutTick (s : State) : Out :=
  .next (match s.commit with
    | none => s
    | some c =>
      if c.quiet = false ∨ s.cyc.toNat % 1024 ≠ 0 then s
      else
        let s := s.discardParts c.next
        let old := s.layout
        let n := c.next.version.toNat
        let parts := c.next.parts.zipIdx.map fun e =>
          let keep := (old.parts[e.2]?).any fun q => q.vfmask == e.1.vfmask && (e.1.suspended || q.suspended)
          { e.1 with jcbs := if keep then ((old.parts[e.2]?).map (·.jcbs)).getD [] else [] }
        let changed (h : Fin 24) : Bool :=
          ((old.parts.find? fun p => p.heaths.getLsbD h.val).map (·.hbi)) != ((parts.find? fun p => p.heaths.getLsbD h.val).map (·.hbi))
        let s := { s with
          layout := { c.next with parts := parts }
          commit := none
          cores := Vector.ofFn fun i : Fin 192 =>
            let k := s.core i
            { k with
              droopMv := c.next.droopOf (coreHeath i)
              beat := if changed (coreHeath i) then { k.beat with misses := 0 } else k.beat }
          queues := s.queues.zipIdx.map fun (e : Queue × Nat) =>
            if e.1.owner.isNone then
              { e.1 with owner := if h : Config.queueOwner n e.2 < 96 then some ⟨Config.queueOwner n e.2, Nat.lt_succ_of_lt h⟩ else none }
            else e.1
          hub := { s.hub with peers := Vector.ofFn fun i : Fin 8 =>
            (List.range 24).filterMap fun p => (Config.portEntry n i.val p).map fun v => (p, ⟨v.1, v.2⟩) }
          mon := { s.mon with meas := (s.mon.meas ++ c.meas).take 32 } }
        match c.record with
        | some r => s.complete r 1
        | none => s)

/-! ### Retirement and suspension (R357, R358) -/

/-- A partition without heaths, minima and slots (R358). -/
def Partition.suspend (p : Partition) : Partition :=
  { p with
    heaths := 0
    hbmmin := Vector.replicate 12 0
    mscmin := Vector.replicate 12 0
    qslots := 0
    suspended := true }

/-- A field of the minima: its capacity, how it is read and how it is set. -/
structure MinField where
  cap : Nat
  get : Partition → Nat
  put : Partition → Nat → Partition

/-- The sum of a minimum over the hard partitions, or over the soft ones. -/
def MinField.sum (m : MinField) (hard : Bool) (ps : List Partition) : Nat :=
  (ps.filter fun p => p.hard == hard).foldl (fun n p => n + m.get p) 0
/-- Soft minima that no longer fit are scaled by (capacity − Σhard) ÷ Σsoft, rounded down. -/
def MinField.scale (m : MinField) (ps : List Partition) : List Partition :=
  let hard := m.sum true ps
  let soft := m.sum false ps
  if hard + soft ≤ m.cap then ps else ps.map fun p => if p.hard then p else m.put p (m.get p * (m.cap - hard) / soft)

/-- While the hard minima alone exceed a capacity, the hard partition of lowest PRIO, the highest number of those, is suspended,
and everything is tried again. DEDUCED (log 50). -/
def suspendHard (ms : List MinField) : Nat → List Partition → List Partition
  | 0, ps => ps
  | fuel + 1, ps =>
    if ms.all fun m => decide (m.sum true ps ≤ m.cap) then ps
    else match (ps.zipIdx.filter fun e => e.1.hard && !e.1.suspended).foldl (fun (acc : Option (Partition × Nat)) e => match acc with
        | none => some e
        | some b => if e.1.prio.toNat ≤ b.1.prio.toNat then some e else some b) none with
      | none => ps
      | some v => suspendHard ms fuel (ps.modify v.2 Partition.suspend)

/-- The minima of every stack and slice, with what retirements left of each. -/
def State.minFields (s : State) : List MinField :=
  ((List.finRange 12).map fun i => ⟨256 - s.hbmRetired[i], fun p => (p.hbmmin[i]).toNat,
      fun p v => { p with hbmmin := p.hbmmin.set i (BitVec.ofNat 8 v) }⟩)
  ++ (List.finRange 12).map fun i => ⟨16 - s.mscRetired[i], fun p => (p.mscmin[i]).toNat,
      fun p v => { p with mscmin := p.mscmin.set i (BitVec.ofNat 4 v) }⟩

/-- The minima fitted to what is left (R357). -/
def State.fitMinima (s : State) (ps : List Partition) : List Partition :=
  s.minFields.foldl (fun ps m => m.scale ps) (suspendHard s.minFields 25 ps)

/-- The entries a suspended partition reserves become open (R358). -/
def openSlots (ps : List Partition) (slots : List Byte) : List Byte :=
  slots.map fun e => if e.getLsbD 7 && (ps[e.toNat % 32]?).any (·.suspended) then 0 else e

/-- The layout the root monitor builds after a retirement. -/
def State.retireLayout (s : State) : Layout :=
  let base := match s.commit with
    | some c => c.next
    | none => { s.layout with version := s.layout.version + 1 }
  let gone : BitVec 24 := BitVec.ofNat 24 ((List.finRange 24).foldl (fun n h => n + bit1 (s.heaths[h]).retired * 2 ^ h.val) 0)
  let ps := s.fitMinima (base.parts.map fun p =>
    let q := { p with heaths := p.heaths &&& ~~~gone }
    if q.heaths = 0 ∧ !p.suspended then q.suspend else q)
  { base with parts := ps, slots := openSlots ps base.slots }

/-- The host is told of a scaling or a suspension: a kind-4 record and an interrupt message; its code and its vector are
free values (log 12). The message comes after the write of the record (26 R388), so while one of kind 4 waits to be written it waits too. -/
def State.notice (s : State) (p : Nat) : State :=
  let d := s.freeWord
  let e := d.2.draw
  let v : R64 := Fin.ofNat 64 e.1
  let t := e.2.trapRecord ⟨4, 0, 0, BitVec.ofNat 5 p, 0, s.cyc, 0, 0, d.1, 0⟩
  if t.noticeDue then t.modHub fun h => { h with irqs := h.irqs ++ [(96, v)] } else t.interrupt 96 v

/-- CHANNEL_RETIRE: the root monitor builds and stages a new layout by itself (R357). -/
def execChannelRetire (w : Retire) (s : State) : Out :=
  .next (
    let s := match w with
      | .hbm k n => { s with hbmRetired := s.hbmRetired.set k (min 256 (s.hbmRetired[k] + n)) }
      | .msc k n => { s with mscRetired := s.mscRetired.set k (min 16 (s.mscRetired[k] + n)) }
      | .heath h => s.modHeath h fun q => { q with retired := true }
    let l := s.retireLayout
    let old := ((s.commit.map (·.next)).getD s.layout).parts
    let told := (l.parts.zip old).zipIdx.filter fun e =>
      e.1.1.hbmmin != e.1.2.hbmmin || e.1.1.mscmin != e.1.2.mscmin || e.1.1.suspended != e.1.2.suspended
    let r := s.commit.bind (·.record)
    told.foldl (fun s e => s.notice e.2) (s.stage l ((s.commit.map (·.meas)).getD []) r))

end Sys2Proof.Machine
end

