-- ==== Sys2Proof/Machine/Power.lean ====
section
/-!
DEFINITION. Operating points, droop and split issue, heath gating, and thermal control (27 R398 to R412).
-/
namespace Sys2Proof.Machine

/-- Change the operating-point register of a core. -/
def State.modOpp (s : State) (c : CoreId) (f : Opp → Opp) : State := s.modCore c fun k => { k with opp := f k.opp }

/-- SETTLE_END (R400): REM has reached 0: SET clears and CUR takes TGT. -/
def execSettleEnd (c : CoreId) (s : State) : Out :=
  .next (s.modOpp c fun o => if o.set && o.rem == 0 then { o with set := false, cur := o.tgt } else o)

/-- A write of CAP by the management processor (R402). -/
def Opp.setCap (o : Opp) (cap : R8) : Opp :=
  let o := { o with cap := cap }
  if cap < o.tgt then o.select cap else o
/-- CAP_WRITE: a CAP below TGT acts as an OPSEL of CAP (R402). -/
def execCapWrite (c : CoreId) (cap : R8) (s : State) : Out := .next (s.modOpp c fun o => o.setCap cap)

/-- DROOP_ALARM (R404): the clock is stretched for the 6 cycles after this one; an alarm in a stretch merges with it. -/
def execDroopAlarm (c : CoreId) (s : State) : Out :=
  .next (s.modCore c fun k => if k.stretch = 0 then { k with stretch := 7 } else k)
/-- STRETCH_END (R404): the last stretched cycle has passed, and a split window of 64 steps begins; a step whose first cycle an
alarm has parted from its second is none of them. DEDUCED (log 53). -/
def execStretchEnd (c : CoreId) (s : State) : Out :=
  .next (s.modCore c fun k =>
    if k.stretch = 1 then { k with stretch := 0, split := 64 + bit1 k.splitAt.isSome } else k)
/-- SPLIT_WINDOW_END (R404): the last split step is counted out. -/
def execSplitWindowEnd (c : CoreId) (s : State) : Out :=
  .next (s.modCore c fun k => if k.split = 1 then { k with split := 0, splitAt := none } else k)
/-- SPLIT_WINDOW_REQUEST (R404): the management processor asks for a split window without a stretch. -/
def execSplitWindowRequest (c : CoreId) (s : State) : Out := .next (s.modCore c fun k => { k with split := 64 })

/-- HEATH_GATE (R406, 01 R18): a heath without a resident launch is gated; its scheduler state and counters are kept, its
vaults, tiles, accumulators, caches and scratchpads are not. Whether a retention element is lost is a free choice. DEDUCED (log 52). -/
def execHeathGate (h : Fin 24) (s : State) : Out :=
  .next (
    let q := s.heaths[h]
    if q.group.isSome ∨ q.gated then s
    else
      let d := s.draw
      let s := d.2.modHeath h fun q => { q with gated := true, lost := d.1 % 2 == 1 }
      (heathCores h).foldl (fun s c => s.modCore c fun k => { k with
        vault := []
        vpoison := []
        rpoison := []
        saveRam := []
        spoison := []
        doneSubs := []
        doneDds := []
        ispad := []
        ipoison := []
        marks := []
        tiles := Vector.replicate 16 0
        blocks := Vector.replicate 512 0
        l1 := []
        tlb := [] }) s)

/-! ### Thermal control (R410 to R412) -/

/-- Heaths that have power. -/
def State.powered (s : State) : List (Fin 24) := (List.finRange 24).filter fun h => !(s.heaths[h]).gated && !(s.heaths[h]).retired
/-- Is every powered heath above THS? -/
def State.allHot (s : State) : Bool := s.powered != [] && s.powered.all fun h => decide ((s.layout.ths.toNat : Int) < (s.heaths[h]).temp)
/-- Is the hottest heath at least 4 °C below THS? -/
def State.allCool (s : State) : Bool := s.powered.all fun h => decide ((s.heaths[h]).temp + 4 ≤ (s.layout.ths.toNat : Int))
/-- CAP moves by one point in every domain. DEDUCED (log 51). -/
def State.moveCaps (s : State) (up : Bool) : State :=
  (List.finRange 192).foldl (fun s c => s.modOpp c fun o =>
    o.setCap (Fin.ofNat 8 (if up then min 7 (o.cap.val + 1) else o.cap.val - 1))) s

/-- The temperatures that the sensors show from now on. -/
def State.setSensors (s : State) (t : List Int) : State :=
  (List.finRange 24).foldl (fun s h => s.modHeath h fun q => { q with sensor := t.getD h.val q.sensor }) s

/-- THERMAL_SAMPLE (R410, R412): every sensor is read, at the temperature given for its heath; when every powered heath is hot
migration stops and CAP falls. -/
def execThermalSample (t : List Int) (s : State) : Out :=
  .next (
    let s := (List.finRange 24).foldl (fun s h => s.modHeath h fun q => { q with temp := t.getD h.val q.sensor }) (s.setSensors t)
    if s.allHot && !s.mon.noMigrate then
      ({ s with mon := { s.mon with noMigrate := true, capTick := some (s.cyc.toNat + 1750000) } }).moveCaps false
    else if s.allCool && s.mon.noMigrate then { s with mon := { s.mon with noMigrate := false } }
    else s)

/-- THERMAL_CAP_STEP (R412): CAP falls by one point while every powered heath is hot, and rises by one point once the
hottest is cool, until it is 7 everywhere. -/
def execThermalCapStep (s : State) : Out :=
  .next (
    let again (s : State) : State := { s with mon := { s.mon with capTick := some (s.cyc.toNat + 1750000) } }
    if s.mon.capTick.isNone then s
    else if s.allHot then again (s.moveCaps false)
    else if s.allCool then
      let s := s.moveCaps true
      if s.cores.all fun k => k.opp.cap = 7 then { s with mon := { s.mon with capTick := none } } else again s
    else again s)

end Sys2Proof.Machine
end

