-- ==== Sys2Proof/Machine/Watch.lean ====
section
/-!
DEFINITION. The heartbeat watch and its halt (03 R49 to R51, R44), and the wait-for probe (03 R52, R53).
-/
namespace Sys2Proof.Machine

/-! ### Heartbeat -/

/-- Is an address on a line that another holder has pinned, or on a page whose replayable fault is held? -/
def State.keptOutside (s : State) (c : CoreId) (x : CtxId) (a : Addr) : Bool :=
  !isScratch a &&
    ((s.hub.walks.any fun w => w.faulted && w.asid == (s.ctx c x).asid && w.page == a.toNat / 65536)
      || match s.loc c x false a with
        | some l => s.pinnedLoc (some c) l
        | none => false)

/-- The accesses that have not performed and for which a core is frozen: those that its overdue results wait on, those that a TLBINV under
way comes after (24 R372), and those that hold its next bundle. -/
def State.freezers (s : State) (c : CoreId) : List (CtxId × Access) :=
  let behind (x : CtxId) (id : Nat) : List (CtxId × Access) :=
    let ids := s.closure c x ((s.ctx c x).accs.length) [id]
    ((s.ctx c x).accs.filter fun a => ids.contains a.id && !a.performed).map fun a => (x, a)
  ((s.core c).due.flatMap fun f => if s.present c f then [] else match f.wr with
      | .load id => behind f.ctx id
      | _ => [])
    ++ (List.finRange 4).flatMap (fun x => (s.ctx c x).accs.flatMap fun a => match a.kind with
      | .tlbinv _ _ => if a.performed then [] else behind x a.id
      | _ => [])
    ++ match s.issuer c with
      | some x => (match ((s.opened c x).bind State.heldBy).bind (·.2) with
          | some a => behind x a.id
          | none => [])
      | none => []

/-- Is a freeze of a core caused by a pinned line or a replayable fault (03 R44)? -/
def State.heldOutside (s : State) (c : CoreId) : Bool :=
  (s.freezers c).any (fun p => p.2.elems.any fun e => !e.done && e.n != 0 && s.keptOutside c p.1 e.a)
  || match s.issuer c with
    | some x => (match s.opened c x with
        | some o => o.waitHolds.any (s.keptOutside c x)
        | none => false)
    | none => false

/-- Must a heartbeat halt wait: for the second cycle of a split step (R51), or for a freeze to end? It interrupts an episode,
and aborts a freeze by a pin or a replayable fault (R44). -/
def State.haltWaits (s : State) (c : CoreId) : Bool :=
  let s := s.forceDue c
  let k := s.core c
  if 0 < k.stretch || k.splitAt.isSome then true
  else if 0 < k.freezeLeft then k.freezeWhy != .domain
  else match (s.frozen c).or (s.heldNow c) with
    | none | some .domain => false
    | some _ => !s.heldOutside c

/-- The heartbeat halt of a core (R51): each allotted context's frame is captured with cause 0x21 and reported, once its accepted
Bracken operations have completed (21 R338), the records of the group are saved, the contexts become Halted, and the rest of the
group stops, HUNG. -/
def State.heartbeatHalt (s : State) (c : CoreId) : State :=
  let g := (s.core c).alloc.group
  let live := (List.finRange 4).filter fun x => (s.ctx c x).run != .unloaded
  let s := live.foldl (fun s x => s.modCtx c x Ctx.interrupt) s
  let s := s.modCore c fun k => { k with beat := { k.beat with misses := 0, watched := none }, freezeLeft := 0 }
  let s := live.foldl (fun s x => s.ddFinish c x) s
  let s := live.foldl (fun s x =>
    let t := s.ctx c x
    let d := s.freeWord
    let s := d.2.modCore c fun k => k.completeFmt x
    let s := if t.run = .held ∨ t.hm then s.modCtx c x fun t => { t with frame := { t.frame with cause := 0x21 } }
      else s.holdFrame c x (s.dueFrame c x 0x21 d.1 0)
    let f := (s.ctx c x).frame
    if t.run = .held then s else s.fatalHold c x f.faddr f.info) s
  let s := live.foldl (fun s x => s.modCtx c x fun t => { t with run := .halted, episode := none }) (s.saveOthers g)
  let s := s.modCore c fun k => { k with current := none, switching := false }
  (s.failGroup g 5).stopGroup g

/-- Is a core watched over the interval that ends now: it has a resident launch since before the interval, and an allotted
context that is not Halted (R49)? DEDUCED (log 54). -/
def State.watchedNow (s : State) (c : CoreId) (i : Nat) : Bool :=
  let k := s.core c
  (match k.beat.watched with
    | some t => decide (t + i ≤ s.cyc.toNat)
    | none => false)
  && k.ctxs.toList.any fun t => t.run != .unloaded && t.run != .halted

/-- HEARTBEAT_INTERVAL_END (R49 to R51): each watched core of the partition without a counted beat gets a miss; two in a row
halt it, once no freeze stands in the way. -/
def execHeartbeatIntervalEnd (p : Fin 24) (s : State) : Out :=
  .next (match s.part p.val with
    | none => s
    | some q =>
      ((List.finRange 192).filter fun c => q.heaths.getLsbD (coreHeath c).val).foldl (fun s c =>
        let k := s.core c
        let misses := if k.beat.seen then 0 else if s.watchedNow c q.hbi.toNat then k.beat.misses + 1 else k.beat.misses
        let s := s.modCore c fun k => { k with beat := { k.beat with seen := false, misses := misses } }
        if 2 ≤ misses && !s.haltWaits c then s.heartbeatHalt c else s) s)

/-! ### The wait-for probe -/

/-- The owners of subscriptions on a die for which its loader, or its storer, waits. -/
def State.ringWaits (s : State) (die : Nat) (store : Bool) : List Nat :=
  ((List.finRange 192).filter fun c => (coreDie c).val == die).flatMap fun c => (List.finRange 4).filterMap fun r =>
    match (s.core c).subs[r], (s.core c).rings[r] with
    | some u, some g =>
      let i := (if store then u.pulled else u.tile) % max 1 g.n
      let more := if store then u.mode != 0 && decide (u.pulled < u.tiles) && u.slots.getD i .empty != .finished
        else u.mode != 1 && decide (u.tile < u.tiles) && u.slots.getD i .empty != .empty
      if u.ending.isNone && more then some (ctxUnit c u.owner).toNat else none
    | _, _ => none

/-- The units a unit awaits (R52); none when it is not blocked. A copy engine with a held job awaits the host. DEDUCED (log 55). -/
def State.awaits (s : State) (u : BitVec 20) : List Nat :=
  let i := u.toNat % 2 ^ 16
  match u.toNat / 2 ^ 16 with
  | 1 =>
    let n := s.awaited (Fin.ofNat 192 (i / 4)) (Fin.ofNat 4 i)
    if i < 768 ∧ n ≠ 0 then [n] else []
  | 2 => if s.jobs.any fun j => j.held && !j.ended && copyUnit j.core == u.toNat then [0x80000] else []
  | 3 =>
    let h : Fin 24 := Fin.ofNat 24 (i / 4)
    let b : Fin 4 := Fin.ofNat 4 i
    let bar := (s.heaths[h]).bars[b]
    if i < 96 ∧ 0 < bar.count then
      ((heathCores h).flatMap fun c => ((List.finRange 4).filter fun x =>
        (s.ctx c x).run != .unloaded && (s.ctx c x).phase[b] != bar.phase).map fun x => (ctxUnit c x).toNat)
    else []
  | 5 => s.ringWaits i false
  | 6 => s.ringWaits i true
  | _ => []

/-- The units that can be blocked. -/
def blockable : List (BitVec 20) :=
  (List.range 768).map (fun i => BitVec.ofNat 20 (0x10000 + i)) ++ (List.range 48).map (fun i => BitVec.ofNat 20 (0x20000 + i))
    ++ (List.range 96).map (fun i => BitVec.ofNat 20 (0x30000 + i)) ++ (List.range 12).map (fun i => BitVec.ofNat 20 (0x50000 + i))
    ++ (List.range 12).map fun i => BitVec.ofNat 20 (0x60000 + i)

/-- A unit that is no longer blocked is not probed for; one that blocks again starts its delay anew. -/
def State.forgetFreed (s : State) : State := { s with probed := s.probed.filter fun e => s.awaits e.1 != [] }

/-- The ticks since which units have been blocked, kept up to date at each tick. -/
def State.noteBlocked (s : State) : State :=
  { s with probed := (blockable.filter fun u => s.awaits u != []).map fun u =>
      match s.probed.find? fun e => e.1 == u with
      | some e => e
      | none => (u, s.cyc.toNat, false) }

/-- PROBE_SEND (R53): a unit blocked for longer than the probe delay sends a probe to each unit it awaits. DEDUCED (log 55). -/
def execProbeSend (u : BitVec 20) (s : State) : Out :=
  .next (match s.probed.find? fun e => e.1 == u with
    | none => s
    | some e =>
      if e.2.2 ∨ s.cyc.toNat ≤ e.2.1 + s.layout.probe.toNat then s
      else { s with
        probes := s.probes ++ (s.awaits u).map fun v => ⟨u, BitVec.ofNat 20 v, 1⟩
        probed := s.probed.map fun (x : BitVec 20 × Nat × Bool) => if x.1 = u then (u, x.2.1, true) else x })

/-- The virtual function and partition of a unit that is a context, for its record. -/
def State.unitOwner (s : State) (u : BitVec 20) : BitVec 8 × BitVec 5 :=
  if u.toNat / 2 ^ 16 = 1 then
    let c : CoreId := Fin.ofNat 192 (u.toNat % 2 ^ 16 / 4)
    ((s.ctx c (Fin.ofNat 4 u.toNat)).asid.setWidth 8, BitVec.ofNat 5 (s.core c).alloc.part)
  else (0, 0)

/-- PROBE_RECEIVE (R53): the oldest probe reaches its addressee: the initiator reports a wait cycle; a blocked unit forwards
it, unless it has made 64 hops; any other discards it. DESIGN CHOICE (log 55): an initiator that is no longer blocked when its
probe comes back still reports the cycle. -/
def execProbeReceive (s : State) : Out :=
  .next (match s.probes with
    | [] => s
    | p :: rest =>
      let s := { s with probes := rest }
      if p.target = p.origin then
        let o := s.unitOwner p.origin
        s.trapRecord ⟨3, 0, o.1, o.2, p.origin, s.cyc, BitVec.ofNat 64 (p.origin.toNat + p.hops * 2 ^ 32), 0, 0, 0⟩
      else if 64 ≤ p.hops then s
      else { s with probes := s.probes ++ (s.awaits p.target).map fun v => ⟨p.origin, BitVec.ofNat 20 v, p.hops + 1⟩ })

end Sys2Proof.Machine
end

