-- ==== Sys2Proof/Machine/Host.lean ====
section
/-!
DEFINITION. Windows of the virtual and management functions, resets, attestation and recovery (26 R386 to R388, R391 to
R397), and the transactions and events of the links (R382 to R385, R389, R390, R392).
-/
namespace Sys2Proof.Machine

/-- A peer port as a port of the module. -/
def peerPort (p : R8) : Fin 9 := ⟨p.val + 1, by omega⟩

/-! ### Interrupt vectors (R388) -/

/-- Set a vector. -/
def State.setVec (s : State) (f : Fin 97) (v : R64) (x : IVec) : State :=
  s.modHub fun h => { h with vectors := h.vectors.set f ((h.vectors[f]).set v x) }
/-- MASK is cleared: a pending message is sent once and PEND cleared. -/
def State.unmask (s : State) (f : Fin 97) (v : R64) : State :=
  let x := (s.hub.vectors[f])[v]
  let s := s.setVec f v { x with mask := false, pend := false }
  if x.pend then s.interrupt f v else s
/-- VECTOR_MASK_CLEAR. -/
def execVectorMaskClear (f : Fin 97) (v : R64) (s : State) : Out := .next (if s.hostOpen then s.unmask f v else s)

/-! ### Virtual-function reset (R391, 28 Table 28.2) -/

/-- Does a layout commit affect the partition of a function? -/
def State.vfWaits (s : State) (f : Nat) : Bool := ((s.partOf f).map s.affected).getD false

/-- The function's launches are killed, its records cancelled, its descriptors disabled and its faults answered fail. -/
def State.vfAct (s : State) (f : Fin 96) : State :=
  let asid : BitVec 7 := BitVec.ofNat 7 f.val
  let s := ((s.groups.filter fun g => g.asid == asid && g.phase != .waiting).map (·.id)).foldl (fun s i => match s.group i with
    | some g => s.killGroup g 3
    | none => s) s
  let s := ((List.finRange 4096).filter fun q => ((s.queues[q]).owner.map (·.val)) == some f.val).foldl (fun s q =>
    let t := s.flushQueue q 2
    if (t.hub.ports[(0 : Fin 9)]).up then t.modQueue q fun d => { d with sizelog := 0 } else t) s
  ((s.hub.walks.filter fun w => w.asid == asid && w.faulted).map (·.page)).dedup.foldl (fun s p =>
    s.faultReply asid (BitVec.ofNat 56 (p * 65536)) true) s

/-- VF_RESET: a write of 1 to RESET; it acts at once, or after the tick of a commit of its partition. -/
def State.vfStart (s : State) (f : Fin 96) : State :=
  let s := s.modHub fun h => { h with resets := if h.resets.contains f then h.resets else h.resets ++ [f] }
  if s.vfWaits f.val then s else s.vfAct f
/-- VF_RESET. -/
def execVfReset (f : Fin 96) (s : State) : Out := .next (if s.hostOpen then s.vfStart f else s)

/-- VF_RESET_COMPLETE: nothing of the function is left to end, and RESET reads 0; not while the host port is down, and under a reset of its partition, not before
that has ended. -/
def execVfResetComplete (f : Fin 96) (s : State) : Out :=
  .next (
    if s.hub.resets.contains f = false ∨ (s.hub.ports[(0 : Fin 9)]).up = false ∨ s.vfWaits f.val ∨ (s.partOf f.val).any s.hub.presets.contains then s
    else
      let s := s.vfAct f
      let busy := (s.groups.any fun g => g.asid.toNat == f.val) || s.records.any fun x => !x.ended && s.recFn x == f.val
      if busy then s else s.modHub fun h => { h with resets := h.resets.filter (· != f) })

/-! ### Wider resets (R391, R395) -/

/-- MODULE_RESET: every launch, queue, job control block, interrupt vector and trap record is lost, with held host writes;
memory, retirements and the firmware slot stay; pools are returned (21 R311); the tables are reloaded, and the images of the boot
and the handlers measured (R393). A slot that
fails verification leaves the module in recovery; the slot the module came with verifies by a free choice (log 5). DEDUCED (log 59). -/
def State.moduleReset (s : State) : State :=
  let s := s.spaces.foldl (fun s sp => s.destroySpace sp.group) s
  let d := s.draw
  let v := verifyImage 1 s.mon.slot
  let ok := if s.mon.slot = [] then d.1 % 2 == 0 else v.isSome
  let r := State.reset
  { r with
    cyc := s.cyc
    choices := d.2.choices
    inbox := s.inbox
    gmem := s.gmem
    gpoison := s.gpoison
    hmem := s.hmem
    roots := s.roots
    cores := Vector.ofFn fun c : Fin 192 => { Core.reset with droopMv := s.layout.droopOf (coreHeath c) }
    heaths := s.heaths.map fun (h : Heath) => { Heath.reset with retired := h.retired, temp := h.temp, sensor := h.sensor }
    queues := Vector.ofFn fun q : Fin 4096 => { Queue.reset with owner := (s.queues[q]).owner }
    layout := { s.layout with parts := s.layout.parts.map fun (p : Partition) => { p with jcbs := [] } }
    hbmRetired := s.hbmRetired
    mscRetired := s.mscRetired
    hub := { r.hub with
      tqbase := s.hub.tqbase
      ports := s.hub.ports.map fun (p : Port) => { Port.reset with up := p.up }
      peers := s.hub.peers
      cxl := s.hub.cxl }
    mon := { r.mon with
      slot := s.mon.slot
      meas := ((match v with
        | some m => m.2 :: bootMeas.tail
        | none => bootMeas) ++ s.layout.meas).take 32
      recovery := !ok } }
/-- MODULE_RESET. -/
def execModuleReset (s : State) : Out := .next s.moduleReset

/-- HUB_RESET: every launch is killed without a completion; descriptors are kept with HEAD at TAIL, vectors with PEND
cleared, and the trap queue. DEDUCED (log 59). -/
def execHubReset (s : State) : Out :=
  .next (
    let s := s.groups.foldl (fun s g =>
      let s := g.ctxs.foldl (fun s u => s.killCtx u.1 u.2) s
      (s.freeGroup g).destroySpace g.id) s
    { s with
      groups := []
      records := []
      commit := none
      probes := []
      jobs := []
      queues := s.queues.map fun (d : Queue) => { d with head := d.tail, flush := none }
      hub := { s.hub with
        irqs := []
        resets := []
        presets := []
        walks := []
        retries := []
        vectors := s.hub.vectors.map fun (v : Vector IVec 64) => v.map fun (x : IVec) => { x with pend := false } } })

/-- PARTITION_RESET: its launches are killed and its other records cancelled; the root monitor gives notice and commits its
tables again. -/
def execPartitionReset (p : Fin 24) (s : State) : Out :=
  .next (match s.part p.val with
    | none => s
    | some _ =>
      let s := s.modHub fun h => { h with presets := p.val :: h.presets.filter (· != p.val) }
      let s := ((s.groups.filter fun g => g.part == p.val && g.phase != .waiting).map (·.id)).foldl (fun s i => match s.group i with
        | some g => s.killGroup g 3
        | none => s) s
      let s := (s.partQueues p.val).foldl (fun s q => s.flushQueue q 2) s
      let s := s.notice p.val
      if s.commit.isSome then s else s.stage { s.layout with version := s.layout.version + 1 } [] none)

/-- Is a partition's reset still under way: until its launches and records have ended and its commit is made? -/
def State.presetBusy (s : State) (p : Nat) : Bool :=
  s.commit.isSome || (s.groups.any fun g => g.part == p) || ((List.finRange 4096).any fun q => (s.queues[q]).flush.isSome && s.queuePart q == some p)
    || s.records.any fun x => !x.ended && s.queuePart x.queue == some p
/-- The partition resets that have ended are done. -/
def State.endPresets (s : State) : State := s.modHub fun h => { h with presets := h.presets.filter s.presetBusy }

/-! ### Attestation (R396) -/

/-- The report of the state at this moment, signed with the identity key (Table 26.6). -/
def State.attestReport (s : State) : List Byte :=
  let m := s.mon
  let body := leBytes 4 0x54544154 ++ leBytes 4 m.meas.length ++ leBytes 32 m.nonce.toNat ++ leBytes 32 identityKey
    ++ leBytes 4 s.layout.version.toNat ++ leBytes 4 0 ++ leBytes 64 m.table.toNat
    ++ m.meas.flatMap fun x => leBytes 1 x.kind.toNat ++ leBytes 1 x.keyid.toNat ++ leBytes 4 x.version.toNat
      ++ leBytes 64 x.digest.toNat ++ leBytes 2 0
  body ++ edSign identitySeed body
/-- A report is started: it is of the state at this moment, whatever commits meanwhile. -/
def State.attestStart (s : State) : State := { s with mon := { s.mon with forming := some s.attestReport } }
/-- ATTEST: a host's write, lost while its port is down (R392). -/
def execAttest (s : State) : Out := .next (if s.hostOpen then s.attestStart else s)
/-- ATTEST_REPORT_COMPLETE: the report stands in REPORT. -/
def execAttestReportComplete (s : State) : Out :=
  .next (match s.mon.forming with
    | none => s
    | some l => { s with mon := { s.mon with report := l, ready := true, forming := none } })

/-! ### Window accesses (R386, R397) -/

/-- The queues of a function in ascending order, which is the order of their descriptors (log 18). -/
def State.fnQueues (s : State) (f : Fin 97) : List (Fin 4096) := (List.finRange 4096).filter fun q => (s.queues[q]).owner == some f

/-- The low 8 bytes of a descriptor (Table 23.4). -/
def Queue.low (q : Queue) : Word :=
  BitVec.ofNat 64 (q.tail.toNat * 2 ^ 48 + q.head.toNat * 2 ^ 32 + q.sizelog.toNat * 2 ^ 24 + q.prio.toNat * 2 ^ 22 + bit1 q.cancel * 8 + bit1 q.frozen * 4)
/-- A write of the low 8 bytes: SIZELOG and PRIO only while HEAD = TAIL; TAIL is the doorbell; FROZEN is cleared by 1. -/
def Queue.writeLow (q : Queue) (v : Word) : Queue :=
  let free := q.head == q.tail
  { q with
    sizelog := if free then BitVec.ofNat 4 (v.toNat / 2 ^ 24) else q.sizelog
    prio := if free then BitVec.ofNat 2 (v.toNat / 2 ^ 22) else q.prio
    tail := BitVec.ofNat 16 (v.toNat / 2 ^ 48)
    frozen := q.frozen && !v.getLsbD 2 }
/-- A write of BASE, ignored while HEAD ≠ TAIL. -/
def Queue.writeBase (q : Queue) (v : Word) : Queue := if q.head = q.tail then { q with base := v } else q

/-- Does the window answer: the host port is up, and in recovery only the management window's recovery rows do? -/
def State.windowOpen (s : State) (f : Fin 97) (ofs : Nat) : Bool :=
  (s.hub.ports[(0 : Fin 9)]).up && (!s.mon.recovery || (f.val == 96 && decide (0x40000 ≤ ofs) && decide (ofs < 0x60008)))

/-- What an 8-byte read of a window returns (Tables 26.3 and 26.7). -/
def State.windowRead (s : State) (f : Fin 97) (ofs : Nat) : Word :=
  let m := s.mon
  if !s.windowOpen f ofs then 0
  else if ofs < 0x10000 then match (s.fnQueues f)[ofs / 16]? with
    | some q => if ofs % 16 = 0 then (s.queues[q]).low else (s.queues[q]).base
    | none => 0
  else if ofs < 0x10400 then
    let x := (s.hub.vectors[f])[Fin.ofNat 64 (ofs / 16)]
    if ofs % 16 = 0 then x.addr else BitVec.ofNat 64 (x.data.toNat + bit1 x.mask * 2 ^ 32 + bit1 x.pend * 2 ^ 33)
  else if ofs = 0x11008 then BitVec.ofNat 64 (bit1 (s.hub.resets.any fun r => r.val == f.val))
  else if ofs = 0x11010 then s.layout.version.setWidth 64
  else if f.val ≠ 96 then 0
  else if 0x20000 ≤ ofs ∧ ofs < 0x20020 then BitVec.ofNat 64 (m.nonce.toNat / 2 ^ (8 * (ofs - 0x20000)))
  else if ofs = 0x20020 then BitVec.ofNat 64 (bit1 m.forming.isSome + bit1 m.ready * 2)
  else if 0x21000 ≤ ofs ∧ ofs < 0x22000 then BitVec.ofNat 64 (leNat ((m.report.drop (ofs - 0x21000)).take 8))
  else if ofs = 0x22000 then s.hub.tqbase
  else if ofs = 0x22008 then s.hub.tqtail.setWidth 64
  else if ofs = 0x22010 then s.hub.tqhead.setWidth 64
  else if 0x40000 ≤ ofs ∧ ofs < 0x60000 then BitVec.ofNat 64 (memReadN m.mailbox (ofs - 0x40000) 8)
  else if ofs = 0x60000 then BitVec.ofNat 64 (bit1 m.verifying + bit1 m.badImage * 2)
  else 0

/-- A write of the 8-byte word at an offset; an offset the tables do not list, and a read-only one, ignores it. -/
def State.windowWord (s : State) (f : Fin 97) (ofs : Nat) (v : Word) : State :=
  if !s.windowOpen f ofs then s
  else if ofs < 0x10000 then match (s.fnQueues f)[ofs / 16]? with
    | some q => if ofs % 16 = 0 then s.modQueue q (·.writeLow v) else s.modQueue q (·.writeBase v)
    | none => s
  else if ofs < 0x10400 then
    let i : R64 := Fin.ofNat 64 (ofs / 16)
    let x := (s.hub.vectors[f])[i]
    if ofs % 16 = 0 then s.setVec f i { x with addr := v }
    else
      let s := s.setVec f i { x with data := v.setWidth 32, mask := v.getLsbD 32 }
      if v.getLsbD 32 then s else s.unmask f i
  else if h : f.val < 96 then
    let g : Fin 96 := ⟨f.val, h⟩
    if ofs = 0x11000 then s.faultReply (BitVec.ofNat 7 f.val) (v.setWidth 56) (v.getLsbD 63)
    else if ofs = 0x11008 ∧ v.getLsbD 0 then s.vfStart g else s
  else if 0x20000 ≤ ofs ∧ ofs < 0x20020 then
    let b := 8 * (ofs - 0x20000)
    { s with mon := { s.mon with nonce := BitVec.ofNat 256 (s.mon.nonce.toNat - s.mon.nonce.toNat / 2 ^ b % 2 ^ 64 * 2 ^ b + v.toNat * 2 ^ b) } }
  else if ofs = 0x20020 ∧ v.getLsbD 0 then s.attestStart
  else if ofs = 0x22010 then s.setTqhead (v.setWidth 32)
  else if 0x40000 ≤ ofs ∧ ofs < 0x60000 then
    { s with mon := { s.mon with mailbox := memWriteN s.mon.mailbox (ofs - 0x40000) 8 v.toNat } }
  else s

/-- What the bytes of a word keep that a narrower write does not name: the register's value, but nothing that a 1 would
start or clear. -/
def State.windowKeeps (s : State) (f : Fin 97) (ofs : Nat) : Word :=
  if ofs = 0x11000 ∨ ofs = 0x11008 ∨ ofs = 0x20020 then 0
  else if ofs < 0x10000 ∧ ofs % 16 = 0 then s.windowRead f ofs &&& ~~~4
  else s.windowRead f ofs

/-- A write of bytes to a window (R386): word by word, of a descriptor the upper word first. FAULTREPLY takes only its whole
8 bytes. DEDUCED (log 60). A write of 0 or more than 512 bytes is no MWR (Table 26.2), and is dropped and counted as one in memory is. -/
def State.windowPut (s : State) (f : Fin 97) (ofs : Nat) (data : List Byte) : State :=
  let n := data.length
  if n = 0 ∨ 512 < n then s.hubError else
  let words := (List.range ((ofs % 8 + n + 7) / 8)).map fun i => ofs / 8 * 8 + 8 * i
  (if ofs < 0x10000 then words.reverse else words).foldl (fun s w =>
    let whole := decide (ofs ≤ w) && decide (w + 8 ≤ ofs + n)
    let old := leBytes 8 (s.windowKeeps f w).toNat
    let l := (List.range 8).map fun i => if ofs ≤ w + i ∧ w + i < ofs + n then data.getD (w + i - ofs) 0 else old.getD i 0
    if w = 0x11000 ∧ !whole then s else s.windowWord f w (BitVec.ofNat 64 (leNat l))) s
/-- The bytes a read of a window returns. -/
def State.windowBytes (s : State) (f : Fin 97) (ofs n : Nat) : List Byte :=
  (List.range n).map fun i => (leBytes 8 (s.windowRead f ((ofs + i) / 8 * 8)).toNat).getD ((ofs + i) % 8) 0
/-- Does an MRD break Table 26.2: its length, its alignment below 8 bytes, or a 4 KiB page? -/
def badRead (a n : Nat) : Bool :=
  n == 0 || decide (512 < n) || decide (4096 < a % 4096 + n) || (decide (n < 8) && (a % n != 0 || (n != 1 && n != 2 && n != 4)))
/-- A read of a window: an MRD of the host, answered with its data (R384, R386). -/
def State.windowAnswer (s : State) (f : Fin 97) (tag : BitVec 10) (ofs n : Nat) : State :=
  if badRead ofs n then s.send 0 (.cpl (fnNo f.val) 0 tag 2 []) else s.send 0 (.cpl (fnNo f.val) 0 tag 0 (s.windowBytes f ofs n))

/-- HOST_WINDOW_WRITE: 8 bytes. -/
def execHostWindowWrite (f : Fin 97) (ofs : Nat) (v : Word) (s : State) : Out := .next (s.windowPut f ofs (leBytes 8 v.toNat))

/-- RECOVERY_MSG (R395): in recovery the ROM begins to verify the image in the mailbox. -/
def execRecoveryMsg (s : State) : Out :=
  .next (if s.mon.recovery && (s.hub.ports[(0 : Fin 9)]).up then { s with mon := { s.mon with verifying := true } } else s)
/-- The verification of the mailbox ends: an image that verifies is written to the slot and the module is reset; else the
module stays in recovery (R395, R397). -/
def State.verifyMailbox (s : State) : State :=
  let len := memReadN s.mon.mailbox 0x0C 4
  let l := memBytes s.mon.mailbox 0 (128 + min len 130944)
  if s.mon.verifying = false then s
  else if (verifyImage 1 l).isSome then { s with mon := { s.mon with slot := l } }.moduleReset
  else { s with mon := { s.mon with badImage := true, verifying := false } }

/-! ### The link layer (R383) -/

/-- A port is down: what it was sending is lost, with the requests it had refused. On the host port a COPY record that reads
host memory fails; on a peer port the far copies in flight end with STATUS 2 (R382, R391, R392). DEDUCED (log 61). -/
def State.portDown (s : State) (p : Fin 9) : State :=
  let s := (s.modPort p fun q => { q with up := false, buffer := [], waiting := [] }).modHub fun h =>
    { h with retries := h.retries.filter fun r => r.port != p }
  if p = 0 then
    { s with records := s.records.map fun (x : Record) =>
        if recKind x.body == 2 && x.begun && !x.ended && x.code.isNone && isHostAddr (recN x.body 0x10 8) then { x with code := some 4 } else x }
  else
    { s with jobs := s.jobs.map fun (j : Job) =>
        if j.kind == .copy && !j.ended && j.image.isSome && cardFar j.im && peerPort (cardPort j.im) == p
        then { j with status := some (j.status.getD 2), acked := j.moved.length } else j }

/-- Flits up to a sequence number are acknowledged. -/
def Port.ack (q : Port) (sq : BitVec 12) : Port := { q with
  buffer := q.buffer.filter fun b => decide (2048 ≤ (sq - b.1).toNat)
  replays := if q.lastNak.any (fun n => decide ((sq - n).toNat < 2048)) then 0 else q.replays }
/-- An acknowledgement arrives: what waits for room in the replay buffer is sent. -/
def State.acked (s : State) (p : Fin 9) (sq : BitVec 12) : State := State.pump p 256 (s.modPort p (·.ack sq))

/-- A port trains to its full width, or goes down: a free choice (R382). -/
def State.retrain (s : State) (p : Fin 9) : State :=
  let d := s.draw
  let s := d.2.modPort p fun q => { q with replays := 0, lastNak := none }
  if d.1 % 2 = 0 then s else s.portDown p

/-- A flit without payload leaves: an acknowledgement or a NAK. -/
def State.answer (s : State) (p : Fin 9) (ft : Nat) (ack sq : BitVec 12) : State :=
  s.modHub fun h => { h with out := h.out ++ [.flit p (flitBytes ft ack.toNat sq.toNat (List.replicate 244 0))] }

/-- A NAK: the flits from its number on are replayed in order; the eighth replay of one flit in succession retrains the
port. -/
def State.nak (s : State) (p : Fin 9) (sq : BitVec 12) : State :=
  let q := s.hub.ports[p]
  let n := if q.lastNak = some sq then q.replays + 1 else 1
  let s := s.modPort p fun q => { q with replays := n, lastNak := some sq }
  let s := s.modHub fun h => { h with out := h.out ++ (q.buffer.dropWhile fun b => b.1 != sq).map fun b => .flit p b.2 }
  if 8 ≤ n then s.retrain p else s

/-- FLIT_RECEIVE (R383): a flit whose CRC, type and reserved bits are good and that is next in sequence is taken and
acknowledged; a bad one is answered with a NAK. Its acknowledgement number is taken in either direction. -/
def execFlitReceive (port : Fin 9) (flit : List Byte) (s : State) : Out :=
  .next (
    let q := s.hub.ports[port]
    let h := leNat (flit.take 4)
    let ft := h / 2 ^ 24 % 16
    let sq : BitVec 12 := BitVec.ofNat 12 h
    if q.up = false then s
    else if flit.length ≠ 256 ∨ h / 2 ^ 28 ≠ 0 ∨ 4 ≤ ft ∨ crc64 (flit.take 248) ≠ BitVec.ofNat 64 (leNat (flit.drop 248)) then
      s.answer port 3 (q.recvSeq - 1) sq
    else
      let s := s.acked port (BitVec.ofNat 12 (h / 2 ^ 12))
      if ft = 3 then s.nak port sq
      else if ft = 1 ∧ sq = q.recvSeq then (s.modPort port fun q => { q with recvSeq := sq + 1 }).answer port 2 sq sq
      else s)

/-- FLIT_ACK (R383): the flits up to a number leave the replay buffer. -/
def execFlitAck (port : Fin 9) (sq : BitVec 12) (s : State) : Out := .next (if (s.hub.ports[port]).up then s.acked port sq else s)
/-- FLIT_NAK (R383). -/
def execFlitNak (port : Fin 9) (sq : BitVec 12) (s : State) : Out := .next (if (s.hub.ports[port]).up then s.nak port sq else s)

/-! ### Transactions (R384, R385, R389) -/

/-- May a peer's transaction be accepted: its function belongs to the named partition, and the port's entry is valid? -/
def State.peerAccepts (s : State) (port : Fin 9) (f : BitVec 7) (pslot : BitVec 5) : Bool :=
  (match s.part pslot.toNat with
    | some p => decide (f.toNat < 96) && p.vfmask.getLsbD f.toNat
    | none => false)
  && decide (0 < port.val) && (s.hub.peers[(Fin.ofNat 8 (port.val - 1))]).any fun e => e.1 == pslot.toNat

/-- The outcome of a link request at memory: performed at a place, answered with a status, refused at a pinned line, or held at a
replayable fault. -/
inductive LinkRes where
  | ok (pa : Nat)
  | status (n : BitVec 3)
  | retry
  | held
  deriving DecidableEq, Repr

/-- Where a link request of `n` bytes of one page acts: translated for its function with H, at the home slice; it is refused
when a line of it is pinned (R159). A replayable fault holds a host access (24 R378); a peer's is a plain fault (R389). -/
def State.linkAt (s : State) (port : Fin 9) (f : BitVec 7) (pslot : BitVec 5) (a : Addr) (n : Nat) (write : Bool) : LinkRes :=
  if 0 < port.val ∧ s.peerAccepts port f pslot = false then .status 3
  else if 96 ≤ f.toNat then .status 2
  else match s.hubPhys f.toNat .host write a.toNat with
    | .ok pa => if (List.range ((pa % 256 + n + 255) / 256)).any fun i => s.pinnedLoc none (.mem (pa + 256 * i - pa % 256 * bit1 (i != 0)))
        then .retry else .ok pa
    | .perm => .status 3
    | .page => .status 2
    | .held => if port.val = 0 then .held else .status 2

/-- A request waits: one refused at a pinned line is answered with status 1 and repeated after 1024 ticks (R385), one at a
replayable fault is held, reported, and tried again. -/
def State.refuse (s : State) (port : Fin 9) (tag : Option (BitVec 10)) (f : BitVec 7) (pslot : BitVec 5) (a : Addr)
    (held : Bool) (tx : PeerTx) : State :=
  let s := if held then s.walkFor 0 f 0x80000 a else match tag with
    | some t => s.send port (.cpl f pslot t 1 [])
    | none => s
  s.modHub fun h => { h with retries := h.retries ++ [⟨s.cyc.toNat + 1024, port, f, pslot, tx⟩] }

/-- A read is answered with its data, or with a status. DEDUCED (log 57). -/
def State.linkRead (s : State) (port : Fin 9) (tag : BitVec 10) (f : BitVec 7) (pslot : BitVec 5) (a : Addr) (n : Nat) : State :=
  if badRead a.toNat n then s.send port (.cpl f pslot tag 2 [])
  else match s.linkAt port f pslot a n false with
    | .status st => s.send port (.cpl f pslot tag st [])
    | .retry => s.refuse port (some tag) f pslot a false (.mrd tag a n)
    | .held => s.refuse port (some tag) f pslot a true (.mrd tag a n)
    | .ok pa =>
      let s := s.mscHub f.toNat false a.toNat n
      if s.poisonedLoc (.mem pa) n then s.send port (.cpl f pslot tag 4 [])
      else s.send port (.cpl f pslot tag 0 (memBytes s.gmem pa n))

/-- A posted write performs, or is dropped and counted; on a peer port it is answered (`tag`), so that the far copy that sent
it ends once its writes have performed (19 R283, R389). Pages are taken one by one; none is written unless all may be.
DEDUCED (log 57). -/
def State.linkWrite (s : State) (port : Fin 9) (tag : BitVec 10) (f : BitVec 7) (pslot : BitVec 5) (a : Addr) (data : List Byte) : State :=
  let n := data.length
  let reply (s : State) (st : BitVec 3) : State := if port.val = 0 then s else s.send port (.cpl f pslot tag st [])
  let parts := (pagePieces 3 a.toNat n).map fun p => (p, s.linkAt port f pslot (BitVec.ofNat 56 p.1) p.2 true)
  if n = 0 ∨ 512 < n then reply s.hubError 2
  else match parts.findSome? fun p => match p.2 with
    | .status st => some st
    | _ => none with
  | some st => reply s.hubError st
  | none =>
    if parts.any (fun p => p.2 == .held) then
      s.refuse port none f pslot (BitVec.ofNat 56 (((parts.find? fun p => p.2 == .held).map (·.1.1)).getD 0)) true (.mwr tag a data)
    else if parts.any (fun p => p.2 == .retry) then s.refuse port none f pslot a false (.mwr tag a data)
    else reply (parts.foldl (fun s p => match p.2 with
      | .ok pa => ((s.mscHub f.toNat true p.1.1 p.1.2).writeLoc (.mem pa) p.1.2 (leNat ((data.drop (p.1.1 - a.toNat)).take p.1.2))).retest (.mem pa) p.1.2
      | _ => s) s) 0

/-- An atomic performs at the home slice as a system-scope ATOM and is answered with the old value (10 R146). -/
def State.linkAtomic (s : State) (port : Fin 9) (tag : BitVec 10) (f : BitVec 7) (pslot : BitVec 5) (op : AtOp) (sg : Sg)
    (dword : Bool) (a : Addr) (x cmp : Word) : State :=
  let n := if dword then 8 else 4
  if a.toNat % n ≠ 0 then s.send port (.cpl f pslot tag 2 [])
  else match s.linkAt port f pslot a n true with
    | .status st => s.send port (.cpl f pslot tag st [])
    | .retry => s.refuse port (some tag) f pslot a false (.atom tag op sg dword a x cmp)
    | .held => s.refuse port (some tag) f pslot a true (.atom tag op sg dword a x cmp)
    | .ok pa =>
      let s := s.mscHub f.toNat true a.toNat n
      if s.poisonedLoc (.mem pa) n then s.send port (.cpl f pslot tag 4 [])
      else
        let old := memReadN s.gmem pa n
        let s := match atomNew op sg n old (x.toNat % 2 ^ (8 * n)) (cmp.toNat % 2 ^ (8 * n)) with
          | some w => (s.writeLoc (.mem pa) n w).retest (.mem pa) n
          | none => s
        s.send port (.cpl f pslot tag 0 (leBytes n old))

/-- Does a port carry transactions now? -/
def State.portUp (s : State) (port : Fin 9) : Bool := (s.hub.ports[port]).up && !s.mon.recovery

/-- MRD. -/
def execMrd (port : Fin 9) (tag : BitVec 10) (f : BitVec 7) (pslot : BitVec 5) (a : Addr) (n : Nat) (s : State) : Out :=
  .next (if s.portUp port then s.linkRead port tag f pslot a n else s)
/-- MWR; one of a peer port bears a tag of its own, a free one (log 12). -/
def execMwr (port : Fin 9) (f : BitVec 7) (pslot : BitVec 5) (a : Addr) (data : List Byte) (s : State) : Out :=
  .next (if s.portUp port then s.draw.2.linkWrite port (BitVec.ofNat 10 s.draw.1) f pslot a data else s)
/-- LINK_ATOM. -/
def execLinkAtom (port : Fin 9) (tag : BitVec 10) (f : BitVec 7) (pslot : BitVec 5) (op : AtOp) (sg : Sg) (dword : Bool)
    (a : Addr) (x cmp : Word) (s : State) : Out :=
  .next (if s.portUp port then s.linkAtomic port tag f pslot op sg dword a x cmp else s)

/-- Does a completion answer a far copy: it bears the job's tag, and the function and slot that the port's table gives its partition? -/
def State.answersJob (s : State) (p : R8) (r : CplTag) (j : Job) : Bool :=
  j.kind == .copy && !j.ended && cardFar j.im && decide (j.id % 1024 = r.tag.toNat) && cardPort j.im == p
    && ((s.hub.peers[p]).find? fun e => e.1 == (s.core j.core).alloc.part).all fun e => e.2.f == r.f && e.2.q == r.pslot
/-- Does a completion answer a COPY record that reads host memory: it bears the record's tag and function? -/
def State.answersRec (s : State) (r : CplTag) (x : Record) : Bool :=
  recKind x.body == 2 && x.begun && !x.ended && x.code.isNone && decide (x.id % 1024 = r.tag.toNat) && fnNo (s.recFn x) == r.f
    && isHostAddr (recN x.body 0x10 8)

/-- CPL: a completion for a request of this module. One for a far copy acknowledges a write of it, and decides its code on an
error (R389); one with an error on the host port ends a COPY record that reads host memory (R392). The tag is the job's or the
record's number. DEDUCED (log 57). The data of a read of host memory are those at its MRD, so a retry repeats nothing (log 77). -/
def execCpl (port : Fin 9) (tag : CplTag) (status : BitVec 3) (_data : List Byte) (s : State) : Out :=
  .next (
    if status = 1 then s
    else if port.val = 0 then
      if status = 0 then s
      else
        let end1 (x : Record) : Record := if s.answersRec tag x then { x with code := some 4 } else x
        { s with records := s.records.map end1 }
    else
      let code : Nat := if status = 3 then 2 else if status = 4 then 3 else 4
      let end1 (j : Job) : Job := if s.answersJob (Fin.ofNat 8 (port.val - 1)) tag j then { j with
          acked := j.acked + 1
          status := if status = 0 then j.status else some (j.status.getD code) } else j
      { s with jobs := s.jobs.map end1 })

/-- HOST_RETRY_TIMER: the first refused request whose time has come is repeated (R385). -/
def execHostRetryTimer (s : State) : Out :=
  .next (match s.hub.retries.find? fun r => decide (r.tick ≤ s.cyc.toNat) with
    | none => s
    | some r =>
      let s := s.modHub fun h => { h with retries := h.retries.erase r }
      match r.tx with
      | .mrd tag a n => s.linkRead r.port tag r.f r.pslot a n
      | .mwr tag a data => s.linkWrite r.port tag r.f r.pslot a data
      | .atom tag op sg dw a x cmp => s.linkAtomic r.port tag r.f r.pslot op sg dw a x cmp
      | .far _ _ => s)

/-- An element of a far copy leaves on its port, with the function and partition of the port's table (R389, 19 R290). -/
def State.farMove (s : State) (port : R8) (id k : Nat) : State :=
  match s.job id with
  | none => s
  | some j =>
    if j.kind ≠ .copy ∨ j.image = none ∨ j.status ≠ none ∨ j.ended ∨ j.moved.contains k ∨ !cardFar j.im ∨ cardPort j.im ≠ port
        ∨ s.holdsNew j then s
    else match jobElem j.im k, (s.hub.peers[port]).find? fun e => e.1 == (s.core j.core).alloc.part with
      | none, _ => s
      | some _, none => s.jobStop id 2
      | some (r, lo, n), some e =>
        let sa := runSrc j.im r + BitVec.ofNat 56 lo
        let da := runDst j.im r + BitVec.ofNat 56 lo
        if !(s.hub.ports[peerPort port]).up then s.jobStop id 2
        else if !((cardRegions j.im).any fun q => q.covers sa n) then s.jobStop id 2
        else if s.jobWaits j sa n then s
        else match s.engLocs j.core j.ctx false sa n with
          | .error x => s.jobFail j sa n x
          | .ok src =>
            if src.any fun l => s.poisonedLoc l 1 then s.jobStop id 3
            else
              let v := s.engRead src
              let s := s.modJob id fun j => { j with moved := k :: j.moved }
              (s.mscEng j.core j.ctx false sa n).send (peerPort port) (.mwr e.2.f e.2.q (BitVec.ofNat 10 id) (da.setWidth 64) (leBytes n v))

/-- PEER_TRANSACTION (R389): a peer's transaction is accepted only if its function and partition match the tables, else it
is answered with status 3; an element of this module's far copy leaves. -/
def execPeerTransaction (port : R8) (f : BitVec 7) (pslot : BitVec 5) (tx : PeerTx) (s : State) : Out :=
  .next (
    let p := peerPort port
    match tx with
    | .far j k => s.farMove port j k
    | .mrd tag a n => if s.portUp p then s.linkRead p tag f pslot a n else s
    | .mwr tag a data => if s.portUp p then s.linkWrite p tag f pslot a data else s
    | .atom tag op sg dw a x cmp => if s.portUp p then s.linkAtomic p tag f pslot op sg dw a x cmp else s)

/-! ### Link events (R391, R392, R390) -/

/-- HOST_PORT_DOWN: a COPY record that reads host memory fails; host requests in flight are lost. -/
def execHostPortDown (s : State) : Out := .next (s.portDown 0)
/-- HOST_PORT_UP: the port trains to its full width; the held writes are sent in order. -/
def execHostPortUp (s : State) : Out := .next (State.pump 0 256 (s.modPort 0 fun _ => Port.reset)).flushHeld
/-- PEER_PORT_DOWN: far copies in flight on it end with STATUS 2. -/
def execPeerPortDown (port : R8) (s : State) : Out := .next (s.portDown (peerPort port))
/-- CXL_LINK_DOWN: every later access to the port's pages is a non-replayable fault. -/
def execCxlLinkDown (port : Fin 2) (s : State) : Out := .next (s.modHub fun h => { h with cxl := h.cxl.set port false })
/-- PEER_PORT_UP: the port trains to its full width. -/
def execPeerPortUp (port : R8) (s : State) : Out := .next (s.modPort (peerPort port) fun _ => Port.reset)

end Sys2Proof.Machine
end

