-- ==== Sys2Proof/Machine/Clock.lean ====
section
/-!
DEFINITION. Time: the events of the device that take place at a moment of their own choosing, the work that may wait no
longer, the cycle of a core (03 R30 to R44, 27 R398 to R405), and the end of a tick.
-/
namespace Sys2Proof.Machine

/-- The state an outcome gives; the state before, where it gives none. -/
def after (o : Out) (s : State) : State := match o with
  | .next t => t
  | _ => s

/-! ### Inputs (log 2) -/

/-- Is an instruction an input from outside the device's clocked parts: the host, a link, a sensor, or firmware? -/
def isInput (i : Instr) : Bool := match i with
  | .capWrite _ _ | .droopAlarm _ | .splitWindowRequest _ | .heathGate _ | .doorbell _ _ | .frozenW1C _
  | .channelRetire _ | .moduleReset | .hubReset | .partitionReset _ | .vfReset _ | .faultreply _ _ _ | .tqheadWrite _
  | .vectorMaskClear _ _ | .attest | .hostWindowWrite _ _ _ | .flitReceive _ _ | .flitAck _ _ | .flitNak _ _
  | .mrd _ _ _ _ _ _ | .mwr _ _ _ _ _ | .linkAtom _ _ _ _ _ _ _ _ _ _ | .cpl _ _ _ _ | .peerTransaction _ _ _ _
  | .recoveryMsg | .hostPortDown | .hostPortUp | .peerPortDown _ | .peerPortUp _ | .cxlLinkDown _ => true
  | _ => false

/-- Has an input of tick `t` come? A droop alarm stretches the cycles after that of its tick: it comes after its core's turn
(27 R404, 28 Table 28.3). -/
def State.comes (s : State) (t : Nat) (i : Input) : Bool :=
  decide (t < s.cyc.toNat) || (t == s.cyc.toNat && match i with
    | .instr (.droopAlarm c) => decide (c.val < s.turn)
    | _ => true)
/-- The input whose time has come, and the state without it. -/
def State.nextInput (s : State) : Option (Input × State) :=
  match s.inbox with
  | [] => none
  | (t, i) :: rest => if s.comes t i then some (i, { s with inbox := rest }) else none

/-- Granule `g` of line `line` is marked poisoned, where this is that line. -/
def L1Line.mark (line g : Nat) (e : L1Line) : L1Line :=
  if e.line = line ∧ g / 8 = line then { e with poison := g :: e.poison.filter (· != g) } else e

/-- An uncorrectable error marks its granule as poisoned (10 R165); a granule of an L1 or instruction-cache copy is marked there
alone. DESIGN CHOICE (log 70): a fetch of a poisoned word of the instruction scratchpad, and a re-execution over poisoned
d-registers, are no consumption. -/
def State.eccError (s : State) (p : EccPlace) : State :=
  match p with
  | .vault c g => s.poisonLocs [.vault c (8 * g.val)]
  | .mem g => s.poisonLocs [.mem (64 * g)]
  | .reg c r => s.modCore c fun k => { k with rpoison := r :: k.rpoison.filter (· != r) }
  | .saveRam c g => s.modCore c fun k => { k with spoison := g.val :: k.spoison.filter (· != g.val) }
  | .ispad c g => s.modCore c fun k => { k with ipoison := g.val :: k.ipoison.filter (· != g.val) }
  | .l1 c line g => s.modCore c fun k => { k with l1 := k.l1.map (L1Line.mark line g) }
  | .icache d line g => { s with dies := s.dies.set d { s.dies[d] with icache := (s.dies[d]).icache.map (L1Line.mark line g) } }

/-- What an input does that is no instruction. -/
def State.input (s : State) (i : Input) : State :=
  let host (t : State) : State := if (s.hub.ports[(0 : Fin 9)]).up then t else s
  match i with
  | .instr _ => s
  | .corrected => { s with mon := { s.mon with errors := s.mon.errors + 1 } }
  | .uncorrectable p => s.eccError p
  | .sensors t => s.setSensors t
  | .windowRead f tag ofs n => host (s.windowAnswer f tag ofs n)
  | .windowWrite f ofs data => host (s.windowPut f ofs data)
  | .message => host s.hubError

/-! ### Events of the device (log 6) -/

/-- An event that may take place now or later. A job or a COPY record moves a piece of its own choosing. -/
inductive Event where
  | arrive (c : CoreId) (x : CtxId) (id k : Nat)
  | perform (c : CoreId) (x : CtxId) (id k : Nat)
  | hostWrite
  | move (j : Nat)
  | hubMove (r : Nat)
  | tlbAck (c : CoreId)
  | jobEnd (j : Nat)
  | loadEnd (j : Nat)
  | icinvEnd (j : Nat)
  | loader (c : CoreId) (r : Fin 4)
  | pull (c : CoreId) (r : Fin 4)
  | storer (c : CoreId) (r : Fin 4)
  | subEnd (c : CoreId) (r : Fin 4)
  | accept (c : CoreId)
  | ddEnd (c : CoreId) (e : R16)
  | abandon (c : CoreId) (e : R16)
  | walk (k : Nat)
  | trapRecord
  | irq
  | probe
  | dispatch (q : Fin 4096)
  | launch (r : Nat)
  | bind (g : Nat)
  | release (g : Nat)
  | launchEnd (g : Nat)
  | saved (g : Nat)
  | resume (g : Nat)
  | copy (r : Nat)
  | copyEnd (r : Nat)
  | signal (r : Nat)
  | wait (r : Nat)
  | satisfied (r : Nat)
  | jcbInit (r : Nat)
  | jcbRaise (r : Nat)
  | layout (r : Nat)
  | quiesce
  | vfEnd (f : Fin 96)
  | report
  | flush (r : Nat)
  | verified
  deriving DecidableEq, Repr

/-- Pieces of a job's walk; a number that names none moves nothing. -/
def Job.pieces (j : Job) : Nat := cardRuns j.im 5 * elemStride j.im

/-- Element `k` of a copy job moves: on the die, or on a peer port (19 R290, 26 R389). -/
def State.moveElem (s : State) (j : Job) (k : Nat) : Out :=
  if cardFar j.im then execPeerTransaction (cardPort j.im) 0 0 (.far j.id k) s else execStorePerform (.job j.id k) s

/-- An event takes place. -/
def Event.run (e : Event) (s : State) : Out :=
  match e with
  | .arrive c x id k => execLateDataArrival c x id k s
  | .perform c x id k => execStorePerform (.access c x id k) s
  | .hostWrite => execStorePerform .host s
  | .move j => match s.job j with
    | some y => s.draw.2.moveElem y (s.draw.1 % max 1 y.pieces)
    | none => .next s
  | .hubMove r => match s.record r with
    | some x => execStorePerform (.hub r (s.draw.1 % max 1 (recN x.body 0x20 8 / 64))) s.draw.2
    | none => .next s
  | .tlbAck c => execTlbinvAckComplete c s
  | .jobEnd j => execCopyJobComplete j s
  | .loadEnd j => execCodeLoadComplete j s
  | .icinvEnd j => execIcinvComplete j s
  | .loader c r => execLoaderTileWrite c r s
  | .pull c r => execStorerSlotPull c r s
  | .storer c r => execStorerTileWrite c r s
  | .subEnd c r => execSubscriptionEnd c r s
  | .accept c => execBrackenAccept c s
  | .ddEnd c e => execDdOperationComplete c e s
  | .abandon c e => execDdAbandon c e s
  | .walk k => execPageWalk k s
  | .trapRecord => execTrapRecordDeferredWrite s
  | .irq => .next s.sendIrq
  | .probe => execProbeReceive s
  | .dispatch q => execRecordDispatch q s
  | .launch r => execLaunch r s
  | .bind g => execLaunchBind g s
  | .release g => execGroupRelease g s
  | .launchEnd g => execLaunchComplete g s
  | .saved g => execContextSaveComplete g s
  | .resume g => execGroupResume g s
  | .copy r => execCopy r s
  | .copyEnd r => execHubCopyComplete r s
  | .signal r => execSignal r s
  | .wait r => execWaitRecord r s
  | .satisfied r => execWaitRecordSatisfied r s
  | .jcbInit r => execJcbInit r s
  | .jcbRaise r => execJcbRaise r s
  | .layout r => execLayout r s
  | .quiesce => execQuiesceComplete s
  | .vfEnd f => execVfResetComplete f s
  | .report => execAttestReportComplete s
  | .flush r => .next (s.flush r)
  | .verified => .next s.verifyMailbox

/-- The elements of a context's accesses that may perform. -/
def State.ctxEvents (s : State) (c : CoreId) (x : CtxId) : List Event :=
  (s.ctx c x).accs.flatMap fun a =>
    let load := match a.kind with
      | .load _ | .atom _ _ _ _ => true
      | _ => false
    ((List.range a.elems.length).filter fun k => s.canPerform c x a k).map fun k =>
      if load then .arrive c x a.id k else .perform c x a.id k

/-- The events of a ring's loader and storer. -/
def State.ringEvents (s : State) (c : CoreId) (r : Fin 4) : List Event :=
  match (s.core c).subs[r] with
  | none => []
  | some u =>
    let n := max 1 u.slots.length
    let at1 (k : Nat) (v : SlotState) : Bool := u.slots.getD (k % n) .empty == v
    (if u.mode ≠ 1 ∧ u.ending.isNone ∧ s.loadPaused c u = false ∧ u.tile < u.tiles ∧ at1 u.tile .empty then [.loader c r] else [])
      ++ (if u.mode ≠ 0 ∧ u.pulled < u.tiles ∧ at1 u.pulled .finished then [.pull c r] else [])
      ++ (if u.held ≠ [] then [.storer c r] else [])
      ++ (if u.endCode.isSome then [.subEnd c r] else [])

/-- The events of a core's vault, engines and Bracken queue. -/
def State.coreEvents (s : State) (c : CoreId) : List Event :=
  let k := s.core c
  if k.allot.isNone then []
  else (List.finRange 4).flatMap (s.ctxEvents c)
    ++ (if k.tlbAck then [.tlbAck c] else [])
    ++ (List.finRange 4).flatMap (s.ringEvents c)
    ++ (if (s.offered c).isSome then [.accept c] else [])
    ++ k.entries.flatMap fun e =>
      (if e.2.result.isSome then [.ddEnd c e.1] else []) ++ (if k.nextAbandoned e.2 then [.abandon c e.1] else [])

/-- The events of a job. -/
def State.jobEvents (s : State) (j : Job) : List Event :=
  if j.ended ∨ (s.holdsNew j ∧ j.status.isNone) then []
  else match j.kind with
    | .copy => if j.canEnd then [.jobEnd j.id] else if j.image.isSome then [.move j.id] else []
    | .icopy => if s.loadTurn j then [.loadEnd j.id] else []
    | .icinv => if s.loadTurn j then [.icinvEnd j.id] else []

/-- The events of a record. -/
def State.recEvents (s : State) (x : Record) : List Event :=
  if x.ended then []
  else if x.flushed then (if s.roomFor (recWrites x.body) then [.flush x.id] else [])
  else match recKind x.body with
    | 1 => if x.atHead ∧ (s.group x.id).isNone ∧ s.mayDispatch x.queue ∧ !(s.queues[x.queue]).frozen then [.launch x.id] else []
    | 2 =>
      let done := x.code.isSome || (x.begun && (List.range (recN x.body 0x20 8 / 64)).all fun k => x.moved.contains k)
      if done then [.copyEnd x.id] else if x.begun then [.hubMove x.id] else [.copy x.id]
    | 3 => [.signal x.id]
    | 4 => if x.code.isSome then [.satisfied x.id] else if s.waitMet x.queue x.body then [.wait x.id] else []
    | 5 => [.jcbInit x.id]
    | 6 => [.jcbRaise x.id]
    | 7 => if s.commit.isNone then [.layout x.id] else []
    | _ => []

/-- The events of a launch group; a release falls before the first core's turn of its tick, so that every core of the group
starts with its first step at or after it (03 R45). -/
def State.groupEvents (s : State) (g : Group) : List Event :=
  (match g.phase with
    | .waiting => [.bind g.id]
    | .bound => if s.turn = 0 then [.release g.id] else []
    | .stopping => if s.allStopped g then [.saved g.id] else []
    | .saved => if s.turn = 0 then [.resume g.id] else []
    | .resident | .ended => [])
  ++ (if g.heaths ≠ [] ∧ s.groupEnded g ∧ s.workDone g then [.launchEnd g.id] else [])

/-- Every event that may take place now. -/
def State.events (s : State) : List Event :=
  (List.finRange 192).flatMap s.coreEvents
    ++ s.jobs.flatMap s.jobEvents
    ++ ((List.range s.hub.walks.length).filter fun k => s.walking k && !((s.hub.walks[k]?).map (·.faulted)).getD true).map .walk
    ++ (if s.hub.deferred.any s.tqMoves ∧ s.roomFor 1 then [.trapRecord] else [])
    ++ (if s.hub.irqs ≠ [] ∧ s.roomFor 1 ∧ !s.noticeDue then [.irq] else [])
    ++ (if s.hub.hostQ ≠ [] ∧ (s.hub.ports[(0 : Fin 9)]).room 1 then [.hostWrite] else [])
    ++ (if s.probes ≠ [] then [.probe] else [])
    ++ ((s.queues.toList.zipIdx.filter fun e => e.1.head != e.1.tail).map fun e => Fin.ofNat 4096 e.2).flatMap (fun q =>
        if s.mayDispatch q ∧ s.hasWork q ∧ (s.waitingAt q).isNone then [.dispatch q] else [])
    ++ s.records.flatMap s.recEvents
    ++ s.groups.flatMap s.groupEvents
    ++ (if (s.commit.map (·.quiet)) = some false then [.quiesce] else [])
    ++ s.hub.resets.map .vfEnd
    ++ (if s.mon.forming.isSome then [.report] else [])
    ++ (if s.mon.verifying then [.verified] else [])

/-- A free choice: one of the events that may take place takes place, or time goes on (log 6). What the last step unblocked is
noted before. -/
def State.pickEvent (s : State) : Option Event × State :=
  let s := s.forgetFreed
  match s.events with
  | [] => (none, s)
  | l => (l[s.draw.1 % (l.length + 1)]?, s.draw.2)

/-! ### Work that may wait no longer (10 R159, 19 R287, R288) -/

/-- Is a job past the tick by which it ends, with nothing of R288 that delays it: no fault or pin has held it, and no CXL
replay does? DEDUCED (log 36). -/
def State.overdue (s : State) (j : Job) : Bool :=
  !j.ended && !j.held && !s.holdsNew j && j.image.isSome && !(s.jobPath j == 2 && Config.cxlReplay j.id)
    && j.dead.any fun d => decide (d ≤ s.cyc.toNat)

/-- The engine has a job's card 16 ticks after its start, whatever freezes the core (R287, R288); a release that waits on
more than own-vault accesses may hold it (R285). -/
def State.forceCard (s : State) (j : Job) : State :=
  match (s.ctx j.core j.ctx).accs.find? fun a => match a.dest with
    | .card _ id => id == j.id
    | _ => false with
  | some a => if j.image.isNone ∧ j.status.isNone ∧ j.start + 16 ≤ s.cyc.toNat then s.forceOwn j.core j.ctx a.id else s
  | none => s

/-- The next piece of an overdue job's work. -/
def State.pushJob (s : State) (j : Job) : State :=
  match j.kind with
  | .copy =>
    if j.canEnd then after (execCopyJobComplete j.id s) s
    else match (List.range j.pieces).find? fun k => (jobElem j.im k).isSome && !j.moved.contains k with
      | some k => after (s.moveElem j k) s
      | none => s
  | .icopy => after (execCodeLoadComplete j.id s) s
  | .icinv => after (execIcinvComplete j.id s) s

/-- The tests of WAITs that a pin which ended had refused are repeated; else the first overdue work there is, done. -/
def State.forced (s : State) : Option State :=
  if s.retests then some { s with retests := false }.retestAll
  else s.jobs.findSome? fun j =>
    let t := if s.overdue j then s.pushJob j else s.forceCard j
    if t = s then none else some t

/-! ### The cycle of a core -/

/-- The index of a freeze counter. -/
def FreezeCause.index : FreezeCause → Fin 6
  | .lateral => 0 | .l1miss => 1 | .translation => 2 | .domain => 3 | .settle => 4 | .droop => 5

/-- A frozen cycle is counted (03 R43). -/
def State.countFreeze (s : State) (c : CoreId) (w : FreezeCause) : State :=
  s.modCore c fun k => { k with freezes := k.freezes.set w.index (k.freezes[w.index] + 1) }

/-- Clock of a core in units of 50 MHz: 35 at point 7; while settling, the lower of the clocks of CUR and TGT (27 R398,
R400). -/
def Opp.rate (o : Opp) : Nat := 4 * (if o.set then min o.cur.val o.tgt.val else o.cur.val) + 7

/-- REM falls at the start of every cycle (27 R400). DEDUCED (log 53). -/
def State.settleTick (s : State) (c : CoreId) : State :=
  let s := s.modOpp c fun o => { o with rem := if o.rem = 0 then 0 else o.rem - 1 }
  after (execSettleEnd c s) s

/-- Every result that is due and whose data is present becomes visible (03 R41). -/
def State.results (s : State) (c : CoreId) : Nat → State
  | 0 => s
  | n + 1 => if (s.core c).due = [] then s else (after (execResultVisible c s) s).results c n

/-- Has a context a domain effect to take at this step: a re-execution of its episode, or one that is due? -/
def State.domDue (s : State) (c : CoreId) (x : CtxId) : Bool :=
  let t := s.ctx c x
  match t.episode with
  | some _ => t.propagates && (s.core c).freezeLeft == 0
  | none => t.pendDom.any fun p => decide (p.due ≤ (s.core c).step)

/-- The domain effects of a context at this step, until a re-execution freezes the core (15 R215, R227). -/
def State.domains (s : State) (c : CoreId) (x : CtxId) : Nat → State
  | 0 => s
  | n + 1 => if s.domDue c x then (after (execDomainEffectApply c x s) s).domains c x n else s

/-- The start of a step: contexts wake, results and domain effects become visible, pending traps are taken. DESIGN CHOICE (log 27): a
MOVC's write of cr.nctl or cr.nbud that is due in the step of a domain effect is visible to it and to its episode, whichever of
the two was issued first; 15 R215 orders domain effects among themselves only. -/
def State.stepStart (s : State) (c : CoreId) : State :=
  let s := ((List.finRange 4).foldl (fun s x => after (execBarwWake c x s) s) s).wakeAll c
  let s := s.results c (s.core c).inflight.length
  if (s.core c).due ≠ [] then s
  else
    let s := (List.finRange 4).foldl (fun s x => s.domains c x (2 * (s.ctx c x).pendDom.length + 2)) s
    if 0 < (s.core c).freezeLeft then s
    else (List.finRange 4).foldl (fun s x =>
      if (s.ctx c x).faults = [] then s else after (execPendingTrapDelivery c x s) s) s

/-- What a core does in a step that no freeze holds: a step in which nothing issues, or a bundle; a trap taken before any
slot commits leaves the step to what follows it. -/
def State.stepBody (s : State) (c : CoreId) : State :=
  let n := (s.core c).step
  let s := after (execIdleStep c s) s
  if (s.core c).step ≠ n then s
  else
    let cause := s.heldNow c
    let t := after (execBundleIssue c s) s
    if (t.core c).step ≠ n then t
    else match cause, (s.core c).current with
      | some w, some x =>
        if (t.ctx c x).hm = (s.ctx c x).hm ∧ (t.ctx c x).run = (s.ctx c x).run then t.countFreeze c w
        else after (execIdleStep c t) t
      | _, _ => after (execIdleStep c t) t

/-- A step of a split window takes two cycles: its bundle issues in the first, which reads its control registers and CYC and
in which nothing commits, and commits in the second, or later with the same sources where a freeze comes between (27 R405). DEDUCED
(log 53). -/
def State.coreStep (s : State) (c : CoreId) : State :=
  let s := if ((s.core c).splitAt).isSome then s else s.stepStart c
  match s.frozen c with
  | some w => (s.countFreeze c w).modCore c fun k => { k with freezeLeft := k.freezeLeft - 1 }
  | none =>
    let k := s.core c
    let t := s.stepBody c
    if (t.core c).step = k.step then t
    else if k.split = 0 then t
    else if k.splitAt.isNone then
      let i := after (execIdleStep c s) s
      let s := if (i.core c).step = k.step then i else s
      let crs := match (s.issuer c).bind (s.opened c) with
        | some o => o.env.crs
        | none => []
      s.modCore c fun k => { k with splitAt := some ⟨s.cyc, crs⟩ }
    else if k.split = 1 then after (execSplitWindowEnd c t) t
    else t.modCore c fun k => { k with split := k.split - 1, splitAt := none }

/-- In a stretched cycle a propagation freeze runs on: its next re-execution starts when the last has ended (27 R404). -/
def State.propagate (s : State) (c : CoreId) : State :=
  if (s.core c).freezeLeft = 0 then
    (List.finRange 4).foldl (fun s x => if (s.ctx c x).propagates then s.domains c x (2 * (s.ctx c x).pendDom.length + 2) else s) s
  else s

/-- A cycle has passed of a stretch, or before it (27 R404). -/
def State.stretchTick (s : State) (c : CoreId) : State :=
  if (s.core c).stretch = 1 then after (execStretchEnd c s) s else s.modCore c fun k => { k with stretch := k.stretch - 1 }

/-- One cycle of a core: settling, a heartbeat halt or a stop that waited, a stretched cycle, a frozen cycle, or a step. -/
def State.coreCycle (s : State) (c : CoreId) : State :=
  let s := (s.settleTick c).stretchTick c
  let s := if 2 ≤ (s.core c).beat.misses ∧ s.haltWaits c = false then s.heartbeatHalt c else s
  let s := s.stopCore c
  let k := s.core c
  if 0 < k.stretch then ((s.propagate c).countFreeze c .droop).modCore c fun k => { k with freezeLeft := k.freezeLeft - 1 }
  else if 0 < k.freezeLeft then
    (s.countFreeze c k.freezeWhy).modCore c fun k => { k with freezeLeft := k.freezeLeft - 1 }
  else s.coreStep c

/-- The turn of a core in a tick: a cycle, unless its clock is slower and none begins in this tick (log 4). A gated heath's
clock stands. -/
def State.coreTurn (s : State) (c : CoreId) : State :=
  let s := { s with turn := c.val + 1 }
  let k := s.core c
  if (s.heaths[coreHeath c]).gated then s
  else
    let sum := k.clock + k.opp.rate
    if sum < 35 then s.modCore c fun k => { k with clock := sum }
    else (s.modCore c fun k => { k with clock := sum - 35 }).coreCycle c

/-! ### The end of a tick -/

/-- The static energy of a core in a tick is divided among its allotted contexts that are not Halted (27 R409). -/
def State.staticEnergy (s : State) (c : CoreId) : State :=
  let k := s.core c
  let live := (List.finRange 4).filter fun x => (k.ctxs[x]).run != .unloaded && (k.ctxs[x]).run != .halted
  let w := weightAt .static k.opp.cur.val * 65536
  live.foldl (fun s x => s.chargeExact c x w (10000 * live.length)) s

/-- What falls due at a tick: heartbeat intervals, temperature samples and thermal steps, drains that fall back, retries, the
quantum, and the tick of a layout commit. -/
def State.tickEvents (s : State) : State :=
  let now := s.cyc.toNat
  let s := (List.finRange 24).foldl (fun s p => match s.part p.val with
    | some q => if now % max 1 q.hbi.toNat = 0 then after (execHeartbeatIntervalEnd p s) s else s
    | none => s) s
  let s := if now % 175000 = 0 then after (execThermalSample [] s) s else s
  let s := if s.mon.capTick = some now then after (execThermalCapStep s) s else s
  let s := ((s.groups.filter fun g => g.stopAt + 175000 == now).map (·.id)).foldl (fun s g => after (execDrainFallback g s) s) s
  let s := (s.hub.retries.filter fun r => decide (r.tick ≤ now)).foldl (fun s _ => after (execHostRetryTimer s) s) s
  let s := if now % max 1 s.layout.quantum.toNat = 0 then after (execQuantumBoundary s) s else s
  (after (execLayoutTick s) s).endPresets

/-- The end of a tick: sleepers whose tick has come wake, static energy is charged, blocked units are noted and probe, and
CYC rises. -/
def State.nextTick (s : State) : State :=
  let s := allCtx.foldl (fun s u => after (execSleepuWake u.1 u.2 s) s) s
  let s := (List.finRange 192).foldl (fun s c => s.staticEnergy c) s
  let s := s.noteBlocked
  let s := s.probed.foldl (fun s e => after (execProbeSend e.1 s) s) s
  { s with cyc := s.cyc + 1, turn := 0 }.tickEvents

/-- Time goes on: the next core has its turn, or the tick ends. -/
def State.timeStep (s : State) : State := if h : s.turn < 192 then s.coreTurn ⟨s.turn, h⟩ else s.nextTick

/-! ### Placing an instruction (log 2) -/

/-- What a resident launch of one context would allot to core 0 alone. -/
def fetchAllot : Allot := ⟨0, 1, 0, 1, 1, 0x400000, 512, 16, 64, 256, 64, 16, 8, 0⟩

/-- Core 0 with its context 0 running at the start of its instruction scratchpad, on the bytes given, and nothing in
flight. -/
def Core.fetching (k : Core) (l : List Byte) : Core :=
  let t := k.ctxs[(0 : CtxId)]
  { k with
    clock := 28
    current := some 0
    switching := false
    allot := some fetchAllot
    ispad := memWriteBytes k.ispad 0 l
    marks := 0 :: k.marks
    inflight := []
    freezeLeft := 0
    tlbAck := false
    stretch := 0
    split := 0
    splitAt := none
    beat := { k.beat with misses := 0 }
    ddq := Vector.replicate 16 none
    subs := Vector.replicate 4 none
    ctxs := (k.ctxs.map fun (t : Ctx) => { t with run := .unloaded, accs := [], pendDom := [], faults := [] }).set (0 : CtxId) { t with
      run := .running
      pc := 0
      accs := []
      pendDom := []
      episode := none
      faults := []
      fired := none
      bubbles := 0
      transferred := false
      replay := none } }

/-- The state with an instruction's bytes where core 0 issues next, and nothing that would come before it. -/
def State.fetching (s : State) (l : List Byte) : State :=
  { s with
    turn := 0
    inbox := []
    cores := Vector.ofFn fun i : Fin 192 => if i = 0 then (s.core 0).fetching l else { s.core i with allot := none }
    heaths := s.heaths.set 0 { s.heaths[0] with gated := false }
    jobs := []
    queues := if s.queues.toList.all fun q => q.head == q.tail then s.queues else s.queues.map fun q => { q with tail := q.head }
    records := []
    groups := []
    commit := none
    probes := []
    retests := false
    hub := { s.hub with walks := [], deferred := [], hostQ := [], irqs := [], resets := [] }
    mon := { s.mon with forming := none, verifying := false } }

end Sys2Proof.Machine
end

