-- ==== Sys2Proof/Machine/Dispatch.lean ====
section
/-!
DEFINITION. The meaning of every instruction and event: one arm a row of the opcode table.
-/
namespace Sys2Proof.Machine

def exec (i : Instr) (s : State) : Host.Outcome State Fault Refusal :=
  match i with
  | .bundleIssue c => Sys2Proof.Machine.execBundleIssue c s
  | .idleStep c => Sys2Proof.Machine.execIdleStep c s
  | .scaleByProduct gd sp q n n2 => Sys2Proof.Machine.execScaleByProduct gd sp q n n2 s
  | .pendingTrapDelivery c x => Sys2Proof.Machine.execPendingTrapDelivery c x s
  | .resultVisible c => Sys2Proof.Machine.execResultVisible c s
  | .lateDataArrival c x id k => Sys2Proof.Machine.execLateDataArrival c x id k s
  | .storePerform src => Sys2Proof.Machine.execStorePerform src s
  | .sleepuWake c x => Sys2Proof.Machine.execSleepuWake c x s
  | .barwWake c x => Sys2Proof.Machine.execBarwWake c x s
  | .domainEffectApply c x => Sys2Proof.Machine.execDomainEffectApply c x s
  | .nop gd => Sys2Proof.Machine.execNop gd s
  | .prep gd b t => Sys2Proof.Machine.execPrep gd b t s
  | .bra gd b => Sys2Proof.Machine.execBra gd b s
  | .call gd b => Sys2Proof.Machine.execCall gd b s
  | .ret gd => Sys2Proof.Machine.execRet gd s
  | .lset gd l st a => Sys2Proof.Machine.execLset gd l st a s
  | .lrun gd k ofs => Sys2Proof.Machine.execLrun gd k ofs s
  | .lbrk gd l => Sys2Proof.Machine.execLbrk gd l s
  | .lidx gd d l => Sys2Proof.Machine.execLidx gd d l s
  | .lclr gd => Sys2Proof.Machine.execLclr gd s
  | .spset gd a => Sys2Proof.Machine.execSpset gd a s
  | .wait gd a b c dword => Sys2Proof.Machine.execWait gd a b c dword s
  | .sleepu gd a => Sys2Proof.Machine.execSleepu gd a s
  | .sleepuI gd v => Sys2Proof.Machine.execSleepuI gd v s
  | .yield gd => Sys2Proof.Machine.execYield gd s
  | .halt gd => Sys2Proof.Machine.execHalt gd s
  | .trap gd n => Sys2Proof.Machine.execTrap gd n s
  | .hbeat gd => Sys2Proof.Machine.execHbeat gd s
  | .add gd d a b => Sys2Proof.Machine.execAdd gd d a b s
  | .addi gd d a v => Sys2Proof.Machine.execAddi gd d a v s
  | .sub gd d a b => Sys2Proof.Machine.execSub gd d a b s
  | .mul gd d a b => Sys2Proof.Machine.execMul gd d a b s
  | .muli gd d a v => Sys2Proof.Machine.execMuli gd d a v s
  | .mulh gd sg d a b => Sys2Proof.Machine.execMulh gd sg d a b s
  | .divs gd d a b => Sys2Proof.Machine.execDivs gd d a b s
  | .divn gd d a b => Sys2Proof.Machine.execDivn gd d a b s
  | .rem gd sg d a b => Sys2Proof.Machine.execRem gd sg d a b s
  | .and gd d a b => Sys2Proof.Machine.execAnd gd d a b s
  | .andi gd d a v => Sys2Proof.Machine.execAndi gd d a v s
  | .or gd d a b => Sys2Proof.Machine.execOr gd d a b s
  | .ori gd d a v => Sys2Proof.Machine.execOri gd d a v s
  | .xor gd d a b => Sys2Proof.Machine.execXor gd d a b s
  | .xori gd d a v => Sys2Proof.Machine.execXori gd d a v s
  | .andn gd d a b => Sys2Proof.Machine.execAndn gd d a b s
  | .shl gd d a b => Sys2Proof.Machine.execShl gd d a b s
  | .shli gd d a v => Sys2Proof.Machine.execShli gd d a v s
  | .shr gd d a b => Sys2Proof.Machine.execShr gd d a b s
  | .shri gd d a v => Sys2Proof.Machine.execShri gd d a v s
  | .sra gd d a b => Sys2Proof.Machine.execSra gd d a b s
  | .srai gd d a v => Sys2Proof.Machine.execSrai gd d a v s
  | .rot gd d a b => Sys2Proof.Machine.execRot gd d a b s
  | .clz gd d a => Sys2Proof.Machine.execClz gd d a s
  | .popc gd d a => Sys2Proof.Machine.execPopc gd d a s
  | .min gd sg d a b => Sys2Proof.Machine.execMin gd sg d a b s
  | .max gd sg d a b => Sys2Proof.Machine.execMax gd sg d a b s
  | .sel gd d a b c => Sys2Proof.Machine.execSel gd d a b c s
  | .cmp gd pair cc d a b => Sys2Proof.Machine.execCmp gd pair cc d a b s
  | .ext gd sg sz d a => Sys2Proof.Machine.execExt gd sg sz d a s
  | .mov gd d a => Sys2Proof.Machine.execMov gd d a s
  | .movi gd d v => Sys2Proof.Machine.execMovi gd d v s
  | .bfx gd sg d a b => Sys2Proof.Machine.execBfx gd sg d a b s
  | .bfi gd d a b => Sys2Proof.Machine.execBfi gd d a b s
  | .pand gd d a b => Sys2Proof.Machine.execPand gd d a b s
  | .por gd d a b => Sys2Proof.Machine.execPor gd d a b s
  | .pxor gd d a b => Sys2Proof.Machine.execPxor gd d a b s
  | .pnot gd d a => Sys2Proof.Machine.execPnot gd d a s
  | .movc gd m => Sys2Proof.Machine.execMovc gd m s
  | .rdtime gd d => Sys2Proof.Machine.execRdtime gd d s
  | .dset gd d a b k => Sys2Proof.Machine.execDset gd d a b k s
  | .dsetm gd d a => Sys2Proof.Machine.execDsetm gd d a s
  | .dlo gd d a => Sys2Proof.Machine.execDlo gd d a s
  | .dhi gd d a => Sys2Proof.Machine.execDhi gd d a s
  | .dcnt gd d a => Sys2Proof.Machine.execDcnt gd d a s
  | .neq gd k d a => Sys2Proof.Machine.execNeq gd k d a s
  | .nne gd k d a => Sys2Proof.Machine.execNne gd k d a s
  | .neqo gd k d a ofs => Sys2Proof.Machine.execNeqo gd k d a ofs s
  | .nneo gd k d a ofs => Sys2Proof.Machine.execNneo gd k d a ofs s
  | .nlt gd k d a => Sys2Proof.Machine.execNlt gd k d a s
  | .nle gd k d a => Sys2Proof.Machine.execNle gd k d a s
  | .nadd gd k d a b => Sys2Proof.Machine.execNadd gd k d a b s
  | .nsub gd k d a b => Sys2Proof.Machine.execNsub gd k d a b s
  | .nmul gd k d a b => Sys2Proof.Machine.execNmul gd k d a b s
  | .nmin gd k d a b => Sys2Proof.Machine.execNmin gd k d a b s
  | .nmax gd k d a b => Sys2Proof.Machine.execNmax gd k d a b s
  | .nabs gd k d a => Sys2Proof.Machine.execNabs gd k d a s
  | .nin gd k d a => Sys2Proof.Machine.execNin gd k d a s
  | .ndiff gd k d n => Sys2Proof.Machine.execNdiff gd k d n s
  | .nprop gd => Sys2Proof.Machine.execNprop gd s
  | .nclr gd => Sys2Proof.Machine.execNclr gd s
  | .nckpt gd => Sys2Proof.Machine.execNckpt gd s
  | .nrest gd => Sys2Proof.Machine.execNrest gd s
  | .npop gd => Sys2Proof.Machine.execNpop gd s
  | .aset gd d v => Sys2Proof.Machine.execAset gd d v s
  | .aadd gd d a b => Sys2Proof.Machine.execAadd gd d a b s
  | .aupd gd d => Sys2Proof.Machine.execAupd gd d s
  | .amov gd d a => Sys2Proof.Machine.execAmov gd d a s
  | .aget gd d a => Sys2Proof.Machine.execAget gd d a s
  | .akset gd d j v => Sys2Proof.Machine.execAkset gd d j v s
  | .akmov gd d j b => Sys2Proof.Machine.execAkmov gd d j b s
  | .akget gd d a j => Sys2Proof.Machine.execAkget gd d a j s
  | .ld gd sz os d m => Sys2Proof.Machine.execLd gd sz os d m s
  | .st gd sz os d m => Sys2Proof.Machine.execSt gd sz os d m s
  | .ldc gd sz os d m => Sys2Proof.Machine.execLdc gd sz os d m s
  | .lda gd sz os d m => Sys2Proof.Machine.execLda gd sz os d m s
  | .stl gd sz os d m => Sys2Proof.Machine.execStl gd sz os d m s
  | .ldv gd os d m => Sys2Proof.Machine.execLdv gd os d m s
  | .stv gd os d m => Sys2Proof.Machine.execStv gd os d m s
  | .gath gd sz os d a x => Sys2Proof.Machine.execGath gd sz os d a x s
  | .scat gd sz os d a x => Sys2Proof.Machine.execScat gd sz os d a x s
  | .ldt gd os d m => Sys2Proof.Machine.execLdt gd os d m s
  | .ldtMx4 gd os d m => Sys2Proof.Machine.execLdtMx4 gd os d m s
  | .stt gd os d m => Sys2Proof.Machine.execStt gd os d m s
  | .ldq gd os d m => Sys2Proof.Machine.execLdq gd os d m s
  | .stq gd os d m => Sys2Proof.Machine.execStq gd os d m s
  | .atom gd op sg sz os d a c => Sys2Proof.Machine.execAtom gd op sg sz os d a c s
  | .fence gd sc d => Sys2Proof.Machine.execFence gd sc d s
  | .fenceE gd sc d => Sys2Proof.Machine.execFenceE gd sc d s
  | .pref gd os m => Sys2Proof.Machine.execPref gd os m s
  | .vadd gd ty rm d a b => Sys2Proof.Machine.execVadd gd ty rm d a b s
  | .vaddI gd d a v => Sys2Proof.Machine.execVaddI gd d a v s
  | .vsub gd ty rm d a b => Sys2Proof.Machine.execVsub gd ty rm d a b s
  | .vmul gd ty rm d a b => Sys2Proof.Machine.execVmul gd ty rm d a b s
  | .vfma gd ty rm d a b => Sys2Proof.Machine.execVfma gd ty rm d a b s
  | .vfmaI gd d a v => Sys2Proof.Machine.execVfmaI gd d a v s
  | .vfms gd ty rm d a b => Sys2Proof.Machine.execVfms gd ty rm d a b s
  | .vmin gd ty d a b => Sys2Proof.Machine.execVmin gd ty d a b s
  | .vmax gd ty d a b => Sys2Proof.Machine.execVmax gd ty d a b s
  | .vabs gd ty d a => Sys2Proof.Machine.execVabs gd ty d a s
  | .vneg gd ty d a => Sys2Proof.Machine.execVneg gd ty d a s
  | .vrcp gd ty d a => Sys2Proof.Machine.execVrcp gd ty d a s
  | .vrsq gd ty d a => Sys2Proof.Machine.execVrsq gd ty d a s
  | .vsqrt gd ty d a => Sys2Proof.Machine.execVsqrt gd ty d a s
  | .vexp2 gd ty d a => Sys2Proof.Machine.execVexp2 gd ty d a s
  | .vlog2 gd ty d a => Sys2Proof.Machine.execVlog2 gd ty d a s
  | .vsin gd ty d a => Sys2Proof.Machine.execVsin gd ty d a s
  | .vcos gd ty d a => Sys2Proof.Machine.execVcos gd ty d a s
  | .vtanh gd ty d a => Sys2Proof.Machine.execVtanh gd ty d a s
  | .vcmp gd fc ty d a b => Sys2Proof.Machine.execVcmp gd fc ty d a b s
  | .vsel gd d a b c => Sys2Proof.Machine.execVsel gd d a b c s
  | .viadd gd ty sat d a b => Sys2Proof.Machine.execViadd gd ty sat d a b s
  | .visub gd ty sat d a b => Sys2Proof.Machine.execVisub gd ty sat d a b s
  | .vimul gd ty sat d a b => Sys2Proof.Machine.execVimul gd ty sat d a b s
  | .vimad gd ty sat d a b => Sys2Proof.Machine.execVimad gd ty sat d a b s
  | .vand gd d a b => Sys2Proof.Machine.execVand gd d a b s
  | .vor gd d a b => Sys2Proof.Machine.execVor gd d a b s
  | .vxor gd d a b => Sys2Proof.Machine.execVxor gd d a b s
  | .vshl gd ty d a b => Sys2Proof.Machine.execVshl gd ty d a b s
  | .vshr gd ty d a b => Sys2Proof.Machine.execVshr gd ty d a b s
  | .vsra gd ty d a b => Sys2Proof.Machine.execVsra gd ty d a b s
  | .vcvt gd dt st rm sat d a => Sys2Proof.Machine.execVcvt gd dt st rm sat d a s
  | .vwiden gd dt st d a => Sys2Proof.Machine.execVwiden gd dt st d a s
  | .vnarr gd dt st rm sat d a => Sys2Proof.Machine.execVnarr gd dt st rm sat d a s
  | .vpack gd dt st rm sat d a b => Sys2Proof.Machine.execVpack gd dt st rm sat d a b s
  | .vunpk gd dt st rm sat d a => Sys2Proof.Machine.execVunpk gd dt st rm sat d a s
  | .vredadd gd ty d a => Sys2Proof.Machine.execVredadd gd ty d a s
  | .vredmax gd ty d a => Sys2Proof.Machine.execVredmax gd ty d a s
  | .vargmax gd ty d a => Sys2Proof.Machine.execVargmax gd ty d a s
  | .vscan gd op ty d a => Sys2Proof.Machine.execVscan gd op ty d a s
  | .vperm gd lw d a b => Sys2Proof.Machine.execVperm gd lw d a b s
  | .vbcast gd lw d a => Sys2Proof.Machine.execVbcast gd lw d a s
  | .vbcastI gd d v => Sys2Proof.Machine.execVbcastI gd d v s
  | .vshuf gd lw d a b => Sys2Proof.Machine.execVshuf gd lw d a b s
  | .vmovg gd lw d a b => Sys2Proof.Machine.execVmovg gd lw d a b s
  | .vmask gd ty d a b => Sys2Proof.Machine.execVmask gd ty d a b s
  | .mma gd sp q a b => Sys2Proof.Machine.execMma gd sp q a b s
  | .mmaTa gd sp q a b => Sys2Proof.Machine.execMmaTa gd sp q a b s
  | .mmaTb gd sp q a b => Sys2Proof.Machine.execMmaTb gd sp q a b s
  | .mzero gd sp q => Sys2Proof.Machine.execMzero gd sp q s
  | .mscale gd sp q n => Sys2Proof.Machine.execMscale gd sp q n s
  | .mcvt gd sp dt rm sat d q => Sys2Proof.Machine.execMcvt gd sp dt rm sat d q s
  | .mcvtMx4 gd sp rm sat d q => Sys2Proof.Machine.execMcvtMx4 gd sp rm sat d q s
  | .mtrn gd sp d a => Sys2Proof.Machine.execMtrn gd sp d a s
  | .mcpy gd sp d a => Sys2Proof.Machine.execMcpy gd sp d a s
  | .mbias gd sp q a => Sys2Proof.Machine.execMbias gd sp q a s
  | .mred gd sp d q => Sys2Proof.Machine.execMred gd sp d q s
  | .qadd gd sp q src => Sys2Proof.Machine.execQadd gd sp q src s
  | .qcpy gd sp q src => Sys2Proof.Machine.execQcpy gd sp q src s
  | .mfill gd sp d n => Sys2Proof.Machine.execMfill gd sp d n s
  | .opsel gd a => Sys2Proof.Machine.execOpsel gd a s
  | .opselI gd n => Sys2Proof.Machine.execOpselI gd n s
  | .setfmt gd a => Sys2Proof.Machine.execSetfmt gd a s
  | .setfmtI gd v => Sys2Proof.Machine.execSetfmtI gd v s
  | .setsct gd a => Sys2Proof.Machine.execSetsct gd a s
  | .cpy gd d a => Sys2Proof.Machine.execCpy gd d a s
  | .cpyst gd d a => Sys2Proof.Machine.execCpyst gd d a s
  | .subscr gd d a => Sys2Proof.Machine.execSubscr gd d a s
  | .unsub gd r => Sys2Proof.Machine.execUnsub gd r s
  | .ringack gd r => Sys2Proof.Machine.execRingack gd r s
  | .bara gd b => Sys2Proof.Machine.execBara gd b s
  | .barw gd b => Sys2Proof.Machine.execBarw gd b s
  | .barq gd d b => Sys2Proof.Machine.execBarq gd d b s
  | .icopy gd d a => Sys2Proof.Machine.execIcopy gd d a s
  | .icinv gd d a => Sys2Proof.Machine.execIcinv gd d a s
  | .ifence gd => Sys2Proof.Machine.execIfence gd s
  | .rwflush gd => Sys2Proof.Machine.execRwflush gd s
  | .ddvar gd d a => Sys2Proof.Machine.execDdvar gd d a s
  | .ddapply gd bo a b c => Sys2Proof.Machine.execDdapply gd bo a b c s
  | .ddite gd a d b c => Sys2Proof.Machine.execDdite gd a d b c s
  | .ddrestr gd a b c => Sys2Proof.Machine.execDdrestr gd a b c s
  | .ddexist gd a b c => Sys2Proof.Machine.execDdexist gd a b c s
  | .dduniv gd a b c => Sys2Proof.Machine.execDduniv gd a b c s
  | .ddnot gd a b => Sys2Proof.Machine.execDdnot gd a b s
  | .ddcount gd a b c => Sys2Proof.Machine.execDdcount gd a b c s
  | .ddmask gd a b c => Sys2Proof.Machine.execDdmask gd a b c s
  | .ddref gd b => Sys2Proof.Machine.execDdref gd b s
  | .ddunref gd b => Sys2Proof.Machine.execDdunref gd b s
  | .ddgc gd a => Sys2Proof.Machine.execDdgc gd a s
  | .ddord gd a => Sys2Proof.Machine.execDdord gd a s
  | .ddswap gd b => Sys2Proof.Machine.execDdswap gd b s
  | .ddstat gd a => Sys2Proof.Machine.execDdstat gd a s
  | .tret gd => Sys2Proof.Machine.execTret gd s
  | .syscall gd n => Sys2Proof.Machine.execSyscall gd n s
  | .tlbinv gd sc a => Sys2Proof.Machine.execTlbinv gd sc a s
  | .tlbinvAll gd sc => Sys2Proof.Machine.execTlbinvAll gd sc s
  | .evsig gd v => Sys2Proof.Machine.execEvsig gd v s
  | .movcSysRead gd d cr => Sys2Proof.Machine.execMovcSysRead gd d cr s
  | .movcSysWrite gd cr a => Sys2Proof.Machine.execMovcSysWrite gd cr a s
  | .frmst gd a => Sys2Proof.Machine.execFrmst gd a s
  | .frmld gd a => Sys2Proof.Machine.execFrmld gd a s
  | .ckill gd a => Sys2Proof.Machine.execCkill gd a s
  | .tlbinvAckComplete c => Sys2Proof.Machine.execTlbinvAckComplete c s
  | .copyJobComplete j => Sys2Proof.Machine.execCopyJobComplete j s
  | .codeLoadComplete j => Sys2Proof.Machine.execCodeLoadComplete j s
  | .icinvComplete j => Sys2Proof.Machine.execIcinvComplete j s
  | .loaderTileWrite c r => Sys2Proof.Machine.execLoaderTileWrite c r s
  | .storerSlotPull c r => Sys2Proof.Machine.execStorerSlotPull c r s
  | .storerTileWrite c r => Sys2Proof.Machine.execStorerTileWrite c r s
  | .subscriptionEnd c r => Sys2Proof.Machine.execSubscriptionEnd c r s
  | .brackenAccept c => Sys2Proof.Machine.execBrackenAccept c s
  | .ddOperationComplete c e => Sys2Proof.Machine.execDdOperationComplete c e s
  | .ddAbandon c e => Sys2Proof.Machine.execDdAbandon c e s
  | .pageWalk k => Sys2Proof.Machine.execPageWalk k s
  | .trapRecordDeferredWrite => Sys2Proof.Machine.execTrapRecordDeferredWrite s
  | .heartbeatIntervalEnd p => Sys2Proof.Machine.execHeartbeatIntervalEnd p s
  | .probeSend u => Sys2Proof.Machine.execProbeSend u s
  | .probeReceive => Sys2Proof.Machine.execProbeReceive s
  | .settleEnd c => Sys2Proof.Machine.execSettleEnd c s
  | .capWrite c cap => Sys2Proof.Machine.execCapWrite c cap s
  | .droopAlarm c => Sys2Proof.Machine.execDroopAlarm c s
  | .stretchEnd c => Sys2Proof.Machine.execStretchEnd c s
  | .splitWindowEnd c => Sys2Proof.Machine.execSplitWindowEnd c s
  | .splitWindowRequest c => Sys2Proof.Machine.execSplitWindowRequest c s
  | .heathGate h => Sys2Proof.Machine.execHeathGate h s
  | .thermalSample t => Sys2Proof.Machine.execThermalSample t s
  | .thermalCapStep => Sys2Proof.Machine.execThermalCapStep s
  | .quantumBoundary => Sys2Proof.Machine.execQuantumBoundary s
  | .contextSaveComplete g => Sys2Proof.Machine.execContextSaveComplete g s
  | .drainFallback g => Sys2Proof.Machine.execDrainFallback g s
  | .groupResume g => Sys2Proof.Machine.execGroupResume g s
  | .doorbell q tail => Sys2Proof.Machine.execDoorbell q tail s
  | .frozenW1C q => Sys2Proof.Machine.execFrozenW1C q s
  | .recordDispatch q => Sys2Proof.Machine.execRecordDispatch q s
  | .launch r => Sys2Proof.Machine.execLaunch r s
  | .launchBind g => Sys2Proof.Machine.execLaunchBind g s
  | .groupRelease g => Sys2Proof.Machine.execGroupRelease g s
  | .launchComplete g => Sys2Proof.Machine.execLaunchComplete g s
  | .copy r => Sys2Proof.Machine.execCopy r s
  | .signal r => Sys2Proof.Machine.execSignal r s
  | .waitRecord r => Sys2Proof.Machine.execWaitRecord r s
  | .waitRecordSatisfied r => Sys2Proof.Machine.execWaitRecordSatisfied r s
  | .jcbInit r => Sys2Proof.Machine.execJcbInit r s
  | .jcbRaise r => Sys2Proof.Machine.execJcbRaise r s
  | .layout r => Sys2Proof.Machine.execLayout r s
  | .quiesceComplete => Sys2Proof.Machine.execQuiesceComplete s
  | .layoutTick => Sys2Proof.Machine.execLayoutTick s
  | .channelRetire w => Sys2Proof.Machine.execChannelRetire w s
  | .moduleReset => Sys2Proof.Machine.execModuleReset s
  | .hubReset => Sys2Proof.Machine.execHubReset s
  | .partitionReset p => Sys2Proof.Machine.execPartitionReset p s
  | .vfReset f => Sys2Proof.Machine.execVfReset f s
  | .vfResetComplete f => Sys2Proof.Machine.execVfResetComplete f s
  | .faultreply f page fail => Sys2Proof.Machine.execFaultreply f page fail s
  | .tqheadWrite v => Sys2Proof.Machine.execTqheadWrite v s
  | .vectorMaskClear f v => Sys2Proof.Machine.execVectorMaskClear f v s
  | .attest => Sys2Proof.Machine.execAttest s
  | .attestReportComplete => Sys2Proof.Machine.execAttestReportComplete s
  | .hostWindowWrite f ofs v => Sys2Proof.Machine.execHostWindowWrite f ofs v s
  | .flitReceive port flit => Sys2Proof.Machine.execFlitReceive port flit s
  | .flitAck port sq => Sys2Proof.Machine.execFlitAck port sq s
  | .flitNak port sq => Sys2Proof.Machine.execFlitNak port sq s
  | .mrd port tag f pslot a n => Sys2Proof.Machine.execMrd port tag f pslot a n s
  | .mwr port f pslot a data => Sys2Proof.Machine.execMwr port f pslot a data s
  | .linkAtom port tag f pslot op sg dword a x cmp => Sys2Proof.Machine.execLinkAtom port tag f pslot op sg dword a x cmp s
  | .cpl port tag status data => Sys2Proof.Machine.execCpl port tag status data s
  | .hostRetryTimer => Sys2Proof.Machine.execHostRetryTimer s
  | .peerTransaction port f pslot tx => Sys2Proof.Machine.execPeerTransaction port f pslot tx s
  | .recoveryMsg => Sys2Proof.Machine.execRecoveryMsg s
  | .hostPortDown => Sys2Proof.Machine.execHostPortDown s
  | .hostPortUp => Sys2Proof.Machine.execHostPortUp s
  | .peerPortDown port => Sys2Proof.Machine.execPeerPortDown port s
  | .cxlLinkDown port => Sys2Proof.Machine.execCxlLinkDown port s
  | .peerPortUp port => Sys2Proof.Machine.execPeerPortUp port s
  | .hubCopyComplete r => Sys2Proof.Machine.execHubCopyComplete r s

end Sys2Proof.Machine
end

