-- ==== Sys2Proof/Machine/Step.lean ====
section
/-!
DEFINITION. One step of the module: an input whose time has come, else work that may wait no longer, else an event of the
device or the passing of time, as a free choice says (log 6).
-/
namespace Sys2Proof.Machine

/-- One step. -/
def step (s : State) : Host.Outcome State Fault Refusal :=
  match s.nextInput with
  | some (.instr i, t) => if isInput i then exec i t else .next t
  | some (i, t) => .next (t.input i)
  | none => match s.forced with
    | some t => .next t
    | none => match s.pickEvent with
      | (some e, t) => e.run t
      | (none, t) => .next t.timeStep

/-- `s` with a bundle of the bits `w` where core 0 issues next, so that the next step issues it (log 2). -/
def State.withFetchWord (s : State) (nbits w : Nat) : State := s.fetching (leBytes 64 (w % 2 ^ nbits))

end Sys2Proof.Machine
end

