-- ==== Sys2Proof/Safety.lean ====
section
/-!
DEFINITION. The terms in which claims are stated: completing in a next state, sending results and issuing accesses with
everything else unchanged, the canonical form of every memory, and the conditions under which a bundle issues.
-/
namespace Sys2Proof.Machine

/-! ### Completion and frames -/

/-- The instruction completes in a next state that satisfies `P`. -/
def Does (i : Instr) (s : State) (P : State → Prop) : Prop := ∃ t, exec i s = .next t ∧ P t

/-- A context without its energy count, which every charged slot raises (27 R408). -/
def Ctx.unpaid (t : Ctx) : Ctx :=
  { t with
    egy := 0
    egyFrac := 0 }

/-- A core without its results in flight and without the energy count of a context. -/
def Core.still (x : CtxId) (k : Core) : Core := { k.modCtx x Ctx.unpaid with inflight := [] }
/-- Everything but the results in flight of a core, the energy count of a context and the counter of free values. -/
def State.still (s : State) (c : CoreId) (x : CtxId) : State := { s.modCore c (Core.still x) with choices := 0 }

/-- A result: the steps to its visibility, its write and its flags (03 R40). -/
abbrev Res := Nat × Wr × BitVec 7

/-- `t` is `b` but for the results `fs`, sent in this order at the current step by the current context, and for its
energy charge: no register, flag, special register, accumulator or byte of memory differs. -/
def Sends (b t : State) (fs : List Res) : Prop :=
  t.still b.env.core b.env.ctx = b.still b.env.core b.env.ctx ∧
  (t.core b.env.core).inflight = (b.core b.env.core).inflight ++
    fs.map fun f => ⟨b.env.ctx, (b.core b.env.core).step + f.1, f.2.1, f.2.2⟩

/-- A g-register result; none where g0 discards it (09 R100). -/
def gRes (lat : Nat) (d : R64) (v : Word) (taint : Bool) : List Res := if d = 0 then [] else [(lat, .g d v taint, 0)]
/-- A predicate result; none where p0 discards it. -/
def pRes (d : R16) (v : Bool) : List Res := if d = 0 then [] else [(1, .p d v, 0)]

/-- Element `i` of `n` bits of a vector register (13 R185). -/
def laneOf (n i : Nat) (w : BitVec 4096) : Nat := w.toNat / 2 ^ (n * i) % 2 ^ n

/-- One vector result of `cnt` elements of `n` bits, element `i` being `f i`, the bits above them 0. -/
def SendsLanes (b t : State) (lat : Nat) (d : R64) (n cnt : Nat) (f : Nat → Nat) (fl : BitVec 7) : Prop :=
  ∃ v, Sends b t [(lat, .w d v, fl)] ∧ (∀ i < cnt, laneOf n i v = f i) ∧ ∀ k, n * cnt ≤ k → v.getLsbD k = false

/-- The taint of a g-register. -/
def State.gTaint (s : State) (d : R64) : Bool := (s.rdG d).taint

/-- A context without its list of accesses and its energy count. -/
def Ctx.unissued (t : Ctx) : Ctx :=
  { t.unpaid with
    accs := []
    nextId := 0 }

/-- A core without its results in flight and its TLB, and without the accesses and the energy count of a context. -/
def Core.unissued (x : CtxId) (k : Core) : Core :=
  { k.modCtx x Ctx.unissued with
    inflight := []
    tlb := [] }
/-- Everything but the accesses and results in flight of a context, its energy count, its core's TLB, the page walks and the
counter of free values. -/
def State.unissued (s : State) (c : CoreId) (x : CtxId) : State :=
  { s.modCore c (Core.unissued x) with
    choices := 0
    hub := { s.hub with walks := [] } }

/-- The accesses `as` numbered from `n` on, with the bundle and slot of `e`. -/
def numbered (e : Env) : Nat → List Access → List Access
  | _, [] => []
  | n, a :: as => { a with id := n, hdr := e.hdr, slot := e.slot } :: numbered e (n + 1) as

/-- `t` is `b` but for the accesses `as`, which take their place at the end of the program order of the current context,
the results `fs`, its energy charge, and the translations its core's TLB and the walkers begin to fetch: no register and no
byte of memory differs. -/
def Issues (b t : State) (as : List Access) (fs : List Res) : Prop :=
  t.unissued b.env.core b.env.ctx = b.unissued b.env.core b.env.ctx ∧
  (t.ctx b.env.core b.env.ctx).accs = b.cur.accs ++ numbered b.env b.cur.nextId as ∧
  (t.ctx b.env.core b.env.ctx).nextId = b.cur.nextId + as.length ∧
  (t.core b.env.core).inflight = (b.core b.env.core).inflight ++
    fs.map fun f => ⟨b.env.ctx, (b.core b.env.core).step + f.1, f.2.1, f.2.2⟩

/-- The step of the core whose bundle is being committed. -/
def State.now (s : State) : Nat := (s.core s.env.core).step

/-- Not in handler mode. -/
def State.user (s : State) : Prop := s.cur.hm = false

/-- A domain effect of the current context, applied `lat` steps after the current one (15 R215). -/
def State.pending (s : State) (lat : Nat) (eff : DomEff) : State :=
  s.modCur fun t => { t with pendDom := t.pendDom ++ [⟨s.now + lat, s.env.hdr, eff⟩] }

/-! ### Traps (24 R360) -/

/-- A trap of the current context would enter its handler: it is not in handler mode and not held, cr.thv is not 0 and
names a start mark. -/
def State.HandlerReady (s : State) : Prop :=
  s.cur.hm = false ∧ s.cur.run ≠ .held ∧ s.cur.thv ≠ 0 ∧ (s.core s.env.core).markOk s.cur.thv = true

/-- The registers a program reads, the sequencer, the special registers and the memories of the context are the same. -/
def SameRegisters (s t : State) : Prop :=
  t.cur.g = s.cur.g ∧ t.cur.a = s.cur.a ∧ t.cur.p = s.cur.p ∧ t.cur.sp = s.cur.sp ∧ t.cur.b = s.cur.b ∧ t.cur.d = s.cur.d
  ∧ t.cur.w = s.cur.w ∧ t.cur.bank = s.cur.bank ∧ t.cur.loop = s.cur.loop ∧ t.cur.vstat = s.cur.vstat ∧ t.cur.fmt = s.cur.fmt
  ∧ t.cur.sct = s.cur.sct ∧ t.cur.mshp = s.cur.mshp ∧ t.cur.store = s.cur.store ∧ t.cur.levels = s.cur.levels
  ∧ t.cur.nstat = s.cur.nstat ∧ t.cur.fpc = s.cur.fpc ∧ t.cur.ftv = s.cur.ftv ∧ t.cur.thv = s.cur.thv ∧ t.cur.tsv = s.cur.tsv
  ∧ t.cur.pendDom = s.cur.pendDom ∧ t.cur.accs = s.cur.accs ∧ t.cur.span = s.cur.span ∧ t.cur.egy = s.cur.egy
  ∧ (t.core s.env.core).tiles = (s.core s.env.core).tiles ∧ (t.core s.env.core).blocks = (s.core s.env.core).blocks
  ∧ (t.core s.env.core).vault = (s.core s.env.core).vault ∧ t.gmem = s.gmem ∧ t.hmem = s.hmem

/-- From `s` the current context takes a precise trap of the slot being committed: the frame names its bundle, slot and
cause, the context is in handler mode at cr.thv, three fetch bubbles follow, and the rest of the bundle does not commit. -/
def Enters (s t : State) (cause : BitVec 8) : Prop :=
  t.env.stopped = true ∧ t.env.core = s.env.core ∧ t.env.ctx = s.env.ctx
  ∧ t.cur.hm = true ∧ t.cur.pc = s.cur.thv ∧ t.cur.bubbles = 3
  ∧ t.cur.frame.valid = true ∧ t.cur.frame.cause = cause ∧ t.cur.frame.addr = s.env.hdr.setWidth 56
  ∧ t.cur.frame.sr = s.env.slot ∧ t.cur.frame.after = false ∧ t.cur.frame.tick = s.cyc
  ∧ t.cur.fired = none ∧ SameRegisters s t

/-- As `Enters`, with FADDR and INFO. -/
def EntersAt (s t : State) (cause : BitVec 8) (faddr info : Word) : Prop :=
  Enters s t cause ∧ t.cur.frame.faddr = faddr ∧ t.cur.frame.info = info

/-- The current context after a failure at commit that finds register `r` empty (15 R234, R235): cr.fpc and cr.nstat say so, and
every pending domain effect is discarded, with the pending results of DLO, DHI and DCNT. -/
def State.failing (s : State) (r : R64) : State :=
  (s.modCur fun u => { u with
    fpc := BitVec.ofNat 64 (1 * 2 ^ 62 + r.val * 2 ^ 56 + 0x100 * 2 ^ 47 + 2 * 2 ^ 44 + s.env.hdr.toNat % 2 ^ 44)
    nstat := { u.nstat with
      act := false
      fail := true
      bud := false
      fp := false }
    pendDom := [] }).modCore s.env.core fun k => { k with inflight := k.inflight.filter fun f =>
      !(f.ctx == s.env.ctx && match f.wr with
        | .dom _ _ => true
        | _ => false) }

/-- The instruction fails at its commit with `r` empty: control passes to the cr.ftv of its issue as a taken transfer, the bundle's
yield and its higher slots are discarded; where that is 0, cause 0x08 enters the handler (15 R234, R235, 05 R71). -/
def FailsAtCommit (i : Instr) (s : State) (r : R64) : Prop :=
  (s.rdCr 0x023 ≠ 0 → Does i s fun t => Sends ((s.failing r).modEnv fun e => { e with
    transfer := some ⟨s.rdCr 0x023, 3, true⟩
    yield := false
    discard := true }) t [])
  ∧ (s.rdCr 0x023 = 0 → s.HandlerReady → Does i s fun t => Enters (s.failing r) t 0x08)

/-! ### Guards -/

/-- The guard of a slot form (05 R59); the steps of other agents have none. -/
def guardOf (i : Instr) : Option Guard :=
  match i with
  | .bundleIssue _ => none
  | .idleStep _ => none
  | .scaleByProduct gd _ _ _ _ => some gd
  | .pendingTrapDelivery _ _ => none
  | .resultVisible _ => none
  | .lateDataArrival _ _ _ _ => none
  | .storePerform _ => none
  | .sleepuWake _ _ => none
  | .barwWake _ _ => none
  | .domainEffectApply _ _ => none
  | .nop gd => some gd
  | .prep gd _ _ => some gd
  | .bra gd _ => some gd
  | .call gd _ => some gd
  | .ret gd => some gd
  | .lset gd _ _ _ => some gd
  | .lrun gd _ _ => some gd
  | .lbrk gd _ => some gd
  | .lidx gd _ _ => some gd
  | .lclr gd => some gd
  | .spset gd _ => some gd
  | .wait gd _ _ _ _ => some gd
  | .sleepu gd _ => some gd
  | .sleepuI gd _ => some gd
  | .yield gd => some gd
  | .halt gd => some gd
  | .trap gd _ => some gd
  | .hbeat gd => some gd
  | .add gd _ _ _ => some gd
  | .addi gd _ _ _ => some gd
  | .sub gd _ _ _ => some gd
  | .mul gd _ _ _ => some gd
  | .muli gd _ _ _ => some gd
  | .mulh gd _ _ _ _ => some gd
  | .divs gd _ _ _ => some gd
  | .divn gd _ _ _ => some gd
  | .rem gd _ _ _ _ => some gd
  | .and gd _ _ _ => some gd
  | .andi gd _ _ _ => some gd
  | .or gd _ _ _ => some gd
  | .ori gd _ _ _ => some gd
  | .xor gd _ _ _ => some gd
  | .xori gd _ _ _ => some gd
  | .andn gd _ _ _ => some gd
  | .shl gd _ _ _ => some gd
  | .shli gd _ _ _ => some gd
  | .shr gd _ _ _ => some gd
  | .shri gd _ _ _ => some gd
  | .sra gd _ _ _ => some gd
  | .srai gd _ _ _ => some gd
  | .rot gd _ _ _ => some gd
  | .clz gd _ _ => some gd
  | .popc gd _ _ => some gd
  | .min gd _ _ _ _ => some gd
  | .max gd _ _ _ _ => some gd
  | .sel gd _ _ _ _ => some gd
  | .cmp gd _ _ _ _ _ => some gd
  | .ext gd _ _ _ _ => some gd
  | .mov gd _ _ => some gd
  | .movi gd _ _ => some gd
  | .bfx gd _ _ _ _ => some gd
  | .bfi gd _ _ _ => some gd
  | .pand gd _ _ _ => some gd
  | .por gd _ _ _ => some gd
  | .pxor gd _ _ _ => some gd
  | .pnot gd _ _ => some gd
  | .movc gd _ => some gd
  | .rdtime gd _ => some gd
  | .dset gd _ _ _ _ => some gd
  | .dsetm gd _ _ => some gd
  | .dlo gd _ _ => some gd
  | .dhi gd _ _ => some gd
  | .dcnt gd _ _ => some gd
  | .neq gd _ _ _ => some gd
  | .nne gd _ _ _ => some gd
  | .neqo gd _ _ _ _ => some gd
  | .nneo gd _ _ _ _ => some gd
  | .nlt gd _ _ _ => some gd
  | .nle gd _ _ _ => some gd
  | .nadd gd _ _ _ _ => some gd
  | .nsub gd _ _ _ _ => some gd
  | .nmul gd _ _ _ _ => some gd
  | .nmin gd _ _ _ _ => some gd
  | .nmax gd _ _ _ _ => some gd
  | .nabs gd _ _ _ => some gd
  | .nin gd _ _ _ => some gd
  | .ndiff gd _ _ _ => some gd
  | .nprop gd => some gd
  | .nclr gd => some gd
  | .nckpt gd => some gd
  | .nrest gd => some gd
  | .npop gd => some gd
  | .aset gd _ _ => some gd
  | .aadd gd _ _ _ => some gd
  | .aupd gd _ => some gd
  | .amov gd _ _ => some gd
  | .aget gd _ _ => some gd
  | .akset gd _ _ _ => some gd
  | .akmov gd _ _ _ => some gd
  | .akget gd _ _ _ => some gd
  | .ld gd _ _ _ _ => some gd
  | .st gd _ _ _ _ => some gd
  | .ldc gd _ _ _ _ => some gd
  | .lda gd _ _ _ _ => some gd
  | .stl gd _ _ _ _ => some gd
  | .ldv gd _ _ _ => some gd
  | .stv gd _ _ _ => some gd
  | .gath gd _ _ _ _ _ => some gd
  | .scat gd _ _ _ _ _ => some gd
  | .ldt gd _ _ _ => some gd
  | .ldtMx4 gd _ _ _ => some gd
  | .stt gd _ _ _ => some gd
  | .ldq gd _ _ _ => some gd
  | .stq gd _ _ _ => some gd
  | .atom gd _ _ _ _ _ _ _ => some gd
  | .fence gd _ _ => some gd
  | .fenceE gd _ _ => some gd
  | .pref gd _ _ => some gd
  | .vadd gd _ _ _ _ _ => some gd
  | .vaddI gd _ _ _ => some gd
  | .vsub gd _ _ _ _ _ => some gd
  | .vmul gd _ _ _ _ _ => some gd
  | .vfma gd _ _ _ _ _ => some gd
  | .vfmaI gd _ _ _ => some gd
  | .vfms gd _ _ _ _ _ => some gd
  | .vmin gd _ _ _ _ => some gd
  | .vmax gd _ _ _ _ => some gd
  | .vabs gd _ _ _ => some gd
  | .vneg gd _ _ _ => some gd
  | .vrcp gd _ _ _ => some gd
  | .vrsq gd _ _ _ => some gd
  | .vsqrt gd _ _ _ => some gd
  | .vexp2 gd _ _ _ => some gd
  | .vlog2 gd _ _ _ => some gd
  | .vsin gd _ _ _ => some gd
  | .vcos gd _ _ _ => some gd
  | .vtanh gd _ _ _ => some gd
  | .vcmp gd _ _ _ _ _ => some gd
  | .vsel gd _ _ _ _ => some gd
  | .viadd gd _ _ _ _ _ => some gd
  | .visub gd _ _ _ _ _ => some gd
  | .vimul gd _ _ _ _ _ => some gd
  | .vimad gd _ _ _ _ _ => some gd
  | .vand gd _ _ _ => some gd
  | .vor gd _ _ _ => some gd
  | .vxor gd _ _ _ => some gd
  | .vshl gd _ _ _ _ => some gd
  | .vshr gd _ _ _ _ => some gd
  | .vsra gd _ _ _ _ => some gd
  | .vcvt gd _ _ _ _ _ _ => some gd
  | .vwiden gd _ _ _ _ => some gd
  | .vnarr gd _ _ _ _ _ _ => some gd
  | .vpack gd _ _ _ _ _ _ _ => some gd
  | .vunpk gd _ _ _ _ _ _ => some gd
  | .vredadd gd _ _ _ => some gd
  | .vredmax gd _ _ _ => some gd
  | .vargmax gd _ _ _ => some gd
  | .vscan gd _ _ _ _ => some gd
  | .vperm gd _ _ _ _ => some gd
  | .vbcast gd _ _ _ => some gd
  | .vbcastI gd _ _ => some gd
  | .vshuf gd _ _ _ _ => some gd
  | .vmovg gd _ _ _ _ => some gd
  | .vmask gd _ _ _ _ => some gd
  | .mma gd _ _ _ _ => some gd
  | .mmaTa gd _ _ _ _ => some gd
  | .mmaTb gd _ _ _ _ => some gd
  | .mzero gd _ _ => some gd
  | .mscale gd _ _ _ => some gd
  | .mcvt gd _ _ _ _ _ _ => some gd
  | .mcvtMx4 gd _ _ _ _ _ => some gd
  | .mtrn gd _ _ _ => some gd
  | .mcpy gd _ _ _ => some gd
  | .mbias gd _ _ _ => some gd
  | .mred gd _ _ _ => some gd
  | .qadd gd _ _ _ => some gd
  | .qcpy gd _ _ _ => some gd
  | .mfill gd _ _ _ => some gd
  | .opsel gd _ => some gd
  | .opselI gd _ => some gd
  | .setfmt gd _ => some gd
  | .setfmtI gd _ => some gd
  | .setsct gd _ => some gd
  | .cpy gd _ _ => some gd
  | .cpyst gd _ _ => some gd
  | .subscr gd _ _ => some gd
  | .unsub gd _ => some gd
  | .ringack gd _ => some gd
  | .bara gd _ => some gd
  | .barw gd _ => some gd
  | .barq gd _ _ => some gd
  | .icopy gd _ _ => some gd
  | .icinv gd _ _ => some gd
  | .ifence gd => some gd
  | .rwflush gd => some gd
  | .ddvar gd _ _ => some gd
  | .ddapply gd _ _ _ _ => some gd
  | .ddite gd _ _ _ _ => some gd
  | .ddrestr gd _ _ _ => some gd
  | .ddexist gd _ _ _ => some gd
  | .dduniv gd _ _ _ => some gd
  | .ddnot gd _ _ => some gd
  | .ddcount gd _ _ _ => some gd
  | .ddmask gd _ _ _ => some gd
  | .ddref gd _ => some gd
  | .ddunref gd _ => some gd
  | .ddgc gd _ => some gd
  | .ddord gd _ => some gd
  | .ddswap gd _ => some gd
  | .ddstat gd _ => some gd
  | .tret gd => some gd
  | .syscall gd _ => some gd
  | .tlbinv gd _ _ => some gd
  | .tlbinvAll gd _ => some gd
  | .evsig gd _ => some gd
  | .movcSysRead gd _ _ => some gd
  | .movcSysWrite gd _ _ => some gd
  | .frmst gd _ => some gd
  | .frmld gd _ => some gd
  | .ckill gd _ => some gd
  | .tlbinvAckComplete _ => none
  | .copyJobComplete _ => none
  | .codeLoadComplete _ => none
  | .icinvComplete _ => none
  | .loaderTileWrite _ _ => none
  | .storerSlotPull _ _ => none
  | .storerTileWrite _ _ => none
  | .subscriptionEnd _ _ => none
  | .brackenAccept _ => none
  | .ddOperationComplete _ _ => none
  | .ddAbandon _ _ => none
  | .pageWalk _ => none
  | .trapRecordDeferredWrite => none
  | .heartbeatIntervalEnd _ => none
  | .probeSend _ => none
  | .probeReceive => none
  | .settleEnd _ => none
  | .capWrite _ _ => none
  | .droopAlarm _ => none
  | .stretchEnd _ => none
  | .splitWindowEnd _ => none
  | .splitWindowRequest _ => none
  | .heathGate _ => none
  | .thermalSample _ => none
  | .thermalCapStep => none
  | .quantumBoundary => none
  | .contextSaveComplete _ => none
  | .drainFallback _ => none
  | .groupResume _ => none
  | .doorbell _ _ => none
  | .frozenW1C _ => none
  | .recordDispatch _ => none
  | .launch _ => none
  | .launchBind _ => none
  | .groupRelease _ => none
  | .launchComplete _ => none
  | .copy _ => none
  | .signal _ => none
  | .waitRecord _ => none
  | .waitRecordSatisfied _ => none
  | .jcbInit _ => none
  | .jcbRaise _ => none
  | .layout _ => none
  | .quiesceComplete => none
  | .layoutTick => none
  | .channelRetire _ => none
  | .moduleReset => none
  | .hubReset => none
  | .partitionReset _ => none
  | .vfReset _ => none
  | .vfResetComplete _ => none
  | .faultreply _ _ _ => none
  | .tqheadWrite _ => none
  | .vectorMaskClear _ _ => none
  | .attest => none
  | .attestReportComplete => none
  | .hostWindowWrite _ _ _ => none
  | .flitReceive _ _ => none
  | .flitAck _ _ => none
  | .flitNak _ _ => none
  | .mrd _ _ _ _ _ _ => none
  | .mwr _ _ _ _ _ => none
  | .linkAtom _ _ _ _ _ _ _ _ _ _ => none
  | .cpl _ _ _ _ => none
  | .hostRetryTimer => none
  | .peerTransaction _ _ _ _ => none
  | .recoveryMsg => none
  | .hostPortDown => none
  | .hostPortUp => none
  | .peerPortDown _ => none
  | .cxlLinkDown _ => none
  | .peerPortUp _ => none
  | .hubCopyComplete _ => none

/-- The forms that handler mode forbids (24 R363): the sequencer's of S0, AUPD, every domain form, the subscription, ring and
barrier forms, and every S6 form; one whose stage predicate is false does nothing instead (17 R248). -/
def State.forbids (s : State) (i : Instr) : Bool :=
  let stage (k : Option R8) : Bool := (k.map s.rdSp).getD true
  match i with
  | .lset _ _ _ _ | .lrun _ _ _ | .lbrk _ _ | .lclr _ | .spset _ _ | .aupd _ _ | .subscr _ _ _ | .unsub _ _ | .ringack _ _
  | .bara _ _ | .barw _ _ => true
  | .dset _ _ _ _ _ | .dsetm _ _ _ | .dlo _ _ _ | .dhi _ _ _ | .dcnt _ _ _ | .neq _ _ _ _ | .nne _ _ _ _ | .neqo _ _ _ _ _
  | .nneo _ _ _ _ _ | .nlt _ _ _ _ | .nle _ _ _ _ | .nadd _ _ _ _ _ | .nsub _ _ _ _ _ | .nmul _ _ _ _ _ | .nmin _ _ _ _ _
  | .nmax _ _ _ _ _ | .nabs _ _ _ _ | .nin _ _ _ _ | .ndiff _ _ _ _ | .nprop _ | .nclr _ | .nckpt _ | .nrest _ | .npop _ => true
  | .mma _ k _ _ _ | .mmaTa _ k _ _ _ | .mmaTb _ k _ _ _ | .mzero _ k _ | .mscale _ k _ _ | .mcvt _ k _ _ _ _ _
  | .mcvtMx4 _ k _ _ _ _ | .mtrn _ k _ _ | .mcpy _ k _ _ | .mbias _ k _ _ | .mred _ k _ _ | .qadd _ k _ _ | .qcpy _ k _ _
  | .mfill _ k _ _ | .scaleByProduct _ k _ _ _ => stage k
  | _ => false

/-- The privileged forms (08 Table 8.10, 24 R363). -/
def isPrivileged (i : Instr) : Bool := match i with
  | .tret _ | .tlbinv _ _ _ | .tlbinvAll _ _ | .movcSysRead _ _ _ | .movcSysWrite _ _ _ | .frmst _ _ | .frmld _ _ | .ckill _ _ => true
  | _ => false

/-! ### Issue (05 R69 to R73) -/

/-- The slots of a bundle commit in order, until one traps or a failure discards the rest; one that would read a poisoned word
takes the poison fault instead (10 R166). -/
def runSlots : List (Fin 8 × Instr) → State → State
  | [], s => s
  | y :: ys, s =>
    if s.env.stopped || s.env.discard then s
    else runSlots ys (commitForm y.2 y.2 false (fun s => match exec y.2 s with
      | .next t => t
      | _ => s) (s.modEnv fun e => { e with slot := y.1 }))

/-- Context `x` of core `c` issues the bundle `b` at header `a` in this step: it may issue, its program counter leads there, no
snapshot is replayed, its writes do not conflict, and where its first slot is S6 no rewrite rule may fire (18 R270). -/
def State.Issuing (s : State) (c : CoreId) (x : CtxId) (a : Nat) (b : Bundle) : Prop :=
  s.issuer c = some x ∧ (s.ctx c x).replay = none
  ∧ (if (s.ctx c x).transferred then (s.core c).markOk (s.ctx c x).pc = true
     else (s.ctx c x).pc.toNat ≠ 0x20000 ∧ (s.ctx c x).pc.toNat ≠ 0x40000)
  ∧ (s.core c).fetchFrom (s.ctx c x).pc.toNat (s.ctx c x).pc.toNat = a ∧ a ≠ bankEnd (s.ctx c x).pc.toNat
  ∧ (s.core c).decodeAt a = .bundle b ∧ writeConflict b.slots = false ∧ (s.openBundle c x a b).blockConflict = false
  ∧ (∀ y ∈ b.slots.tail, y.1 ≠ 6)
  ∧ ((∀ y ∈ b.slots, y.1 ≠ 6) ∨ (s.ctx c x).fired = none ∧ (s.ctx c x).noRewrite = true ∧ b.rwf = false)

/-- The state in which the slots of that bundle commit. -/
def State.opening (s : State) (c : CoreId) (x : CtxId) (a : Nat) (b : Bundle) : State :=
  (s.openBundle c x a b).modCur fun t => { t with
    lastHdr := BitVec.ofNat 64 a
    transferred := false
    noRewrite := t.noRewrite && !b.rwf }

/-- The end of the step of a bundle, once its slots have committed. -/
def State.closing (s : State) (c : CoreId) (x : CtxId) (b : Bundle) : State :=
  ((if s.env.stopped then s else s.finish (bundleFlush b false [])).modCtx c x fun t => { t with waitFail := none }).modCore c
    fun k => { k with step := k.step + 1 }

/-! ### Diagrams -/

/-- Levels rise from the root down, below the level of the terminals (21 R315). -/
def Bdd.ordered : Bdd → Prop
  | .leaf _ => True
  | .node l lo hi => l < 0xFFFF ∧ l < lo.level ∧ l < hi.level ∧ lo.ordered ∧ hi.ordered

/-! ### Events of the device -/

/-- Every context of the module keeps its registers, its sequencer, its mode, its program counter, its constraint store and its
held frame. -/
def KeepsContexts (s t : State) : Prop :=
  ∀ (c : CoreId) (x : CtxId), (t.ctx c x).g = (s.ctx c x).g ∧ (t.ctx c x).a = (s.ctx c x).a ∧ (t.ctx c x).p = (s.ctx c x).p
    ∧ (t.ctx c x).sp = (s.ctx c x).sp ∧ (t.ctx c x).b = (s.ctx c x).b ∧ (t.ctx c x).d = (s.ctx c x).d
    ∧ (t.ctx c x).w = (s.ctx c x).w ∧ (t.ctx c x).bank = (s.ctx c x).bank ∧ (t.ctx c x).loop = (s.ctx c x).loop
    ∧ (t.ctx c x).pc = (s.ctx c x).pc ∧ (t.ctx c x).hm = (s.ctx c x).hm ∧ (t.ctx c x).vstat = (s.ctx c x).vstat
    ∧ (t.ctx c x).fmt = (s.ctx c x).fmt ∧ (t.ctx c x).store = (s.ctx c x).store ∧ (t.ctx c x).frame = (s.ctx c x).frame

/-- Every record numbered `r` has completed (23 R341). -/
def State.RecordEnded (s : State) (r : Nat) : Prop := ∀ y ∈ s.records, y.id = r → y.ended = true

/-- A port is up, nothing waits on it, and its replay buffer has room for four flits, more than one transaction takes (26 R383). -/
def State.PortIdle (s : State) (p : Fin 9) : Prop :=
  let q := s.hub.ports[p]
  q.up = true ∧ q.waiting = [] ∧ q.buffer.length ≤ 252
/-- The host port is idle and no write waits for it, so that the device writes of one event to host memory are made at once
(26 R392). -/
def State.HostIdle (s : State) : Prop := s.PortIdle 0 ∧ s.hub.hostQ = []
/-- From `s` to `t` a transaction leaves on a port with its flits: each is laid out as 26 Table 26.1 says, takes the next sequence
number, and stays in the replay buffer (R383). How many flits a transaction takes is the model's choice (log 58). -/
def Sent (s t : State) (p : Fin 9) (x : Tx) : Prop :=
  ∃ fl : List (List Byte),
    let q := s.hub.ports[p]
    fl.length = x.data.length / 244 + 1 ∧ t.hub.out = s.hub.out ++ .tx p x :: fl.map (.flit p)
    ∧ (t.hub.ports[p]).buffer = q.buffer ++ fl.zipIdx.map (fun e => (q.sendSeq + BitVec.ofNat 12 e.2, e.1))
    ∧ (t.hub.ports[p]).sendSeq = q.sendSeq + BitVec.ofNat 12 fl.length
    ∧ ∀ e ∈ fl.zipIdx, e.1.length = 256
      ∧ leNat (e.1.take 4) = 2 ^ 24 + (q.recvSeq - 1).toNat * 2 ^ 12 + (q.sendSeq + BitVec.ofNat 12 e.2).toNat
      ∧ leNat (e.1.drop 248) = (crc64 (e.1.take 248)).toNat

/-- From `s` to `t` record `r` completes: its completion word holds TICK and the code (23 R341), where nothing else of the record
writes host memory. -/
def Completes (s t : State) (r : Nat) (x : Record) (code : Nat) : Prop :=
  t.RecordEnded r
  ∧ (s.HostIdle → memWf s.hmem = true → recComp x.body ≠ 0 → recIntr x.body = false → recJcb x.body = none →
      memReadN t.hmem (recComp x.body) 8 = s.cyc.toNat % 2 ^ 56 * 256 + code)

/-! ### Memory -/

/-- Every memory of the module is in canonical form: strictly rising addresses, no zero byte listed. -/
def State.CanonicalMemory (s : State) : Prop :=
  memWf s.gmem = true ∧ memWf s.hmem = true ∧ memWf s.recMem = true ∧ memWf s.mon.mailbox = true
  ∧ (∀ k ∈ s.cores.toList, memWf k.vault = true ∧ memWf k.ispad = true ∧ memWf k.saveRam = true)
  ∧ (∀ g ∈ s.groups, ∀ v ∈ g.saved, memWf v.2.vault = true ∧ memWf v.2.saveRam = true)

end Sys2Proof.Machine
end

