-- ==== Sys2Proof/Certificates/Slice0/Obligations.lean ====
section
/-!
DEFINITION. The statements for the provers. Each docstring cites the rules of spec/ it formalises; a statement that rests on
a reading or a choice of the model's own names the log entry.
-/
section
open Sys2Proof Sys2Proof.Machine

/-! ### Guards -/

/-- A slot whose guard is false does nothing (05 R59). A matrix form whose stage predicate is false does nothing (17 R248). -/
def Obligations.FalseConditionsDoNothing : Prop :=
  (∀ (i : Instr) (gd : Guard) (s : State), guardOf i = some gd → s.guard gd = false → exec i s = .next s)
  ∧ (∀ (s : State) (gd : Guard) (k : R8) (q r : Q512) (a b : R16) (n n2 : Cb) (dt : Dt) (rm : Rm) (sat : Bool),
    s.guard gd = true → s.rdSp k = false →
    ∀ i ∈ [Instr.mma gd (some k) q a b, .mmaTa gd (some k) q a b, .mmaTb gd (some k) q a b, .mzero gd (some k) q,
        .mscale gd (some k) q n, .mcvt gd (some k) dt rm sat a q, .mcvtMx4 gd (some k) rm sat a q, .mtrn gd (some k) a b,
        .mcpy gd (some k) a b, .mbias gd (some k) q a, .mred gd (some k) a q, .qadd gd (some k) q r, .qcpy gd (some k) q r,
        .mfill gd (some k) a n, .scaleByProduct gd (some k) q n n2],
      exec i s = .next s)

/-! ### Scalar and address forms -/

/-- The two-register forms of S1 and S2 (09 Tables 9.4 and 9.5; R101 to R104): each completes and sends its value to gD with
the taint of its sources (R100); g0 discards it; nothing else changes. The immediate forms of S1 and S2 (09 Table 9.4, 05
R61): V is sign-extended to 64 bits. The count, extract, extend and insert forms (09 Table 9.4, R102 to R105), said bit by
bit. -/
def Obligations.ScalarResults : Prop :=
  (∀ (s : State) (gd : Guard) (d a b : R64) (c : R16), s.guard gd = true →
    let x := s.g a
    let y := s.g b
    let n := y.toNat % 64
    let out (i : Instr) (v : Word) : Prop := Does i s fun t => Sends s t (gRes 1 d v (s.gTaint a || s.gTaint b))
    out (.add gd d a b) (x + y) ∧ out (.sub gd d a b) (x - y) ∧ out (.mul gd d a b) (x * y)
    ∧ out (.mulh gd .s d a b) (BitVec.ofInt 64 (x.toInt * y.toInt / 2 ^ 64))
    ∧ out (.mulh gd .u d a b) (BitVec.ofNat 64 (x.toNat * y.toNat / 2 ^ 64))
    ∧ out (.divs gd d a b) (if y = 0 then 0 else BitVec.ofInt 64 (x.toInt.tdiv y.toInt))
    ∧ out (.divn gd d a b) (if y = 0 then 0 else BitVec.ofNat 64 (x.toNat / y.toNat))
    ∧ out (.rem gd .s d a b) (if y = 0 then x else BitVec.ofInt 64 (x.toInt.tmod y.toInt))
    ∧ out (.rem gd .u d a b) (if y = 0 then x else BitVec.ofNat 64 (x.toNat % y.toNat))
    ∧ out (.and gd d a b) (x &&& y) ∧ out (.or gd d a b) (x ||| y) ∧ out (.xor gd d a b) (x ^^^ y)
    ∧ out (.andn gd d a b) (x &&& ~~~y)
    ∧ out (.shl gd d a b) (BitVec.ofNat 64 (x.toNat * 2 ^ n)) ∧ out (.shr gd d a b) (BitVec.ofNat 64 (x.toNat / 2 ^ n))
    ∧ out (.sra gd d a b) (BitVec.ofInt 64 (x.toInt / 2 ^ n))
    ∧ out (.rot gd d a b) (BitVec.ofNat 64 (x.toNat / 2 ^ n + x.toNat * 2 ^ (64 - n)))
    ∧ out (.min gd .s d a b) (if x.toInt ≤ y.toInt then x else y) ∧ out (.min gd .u d a b) (if x.toNat ≤ y.toNat then x else y)
    ∧ out (.max gd .s d a b) (if y.toInt ≤ x.toInt then x else y) ∧ out (.max gd .u d a b) (if y.toNat ≤ x.toNat then x else y)
    ∧ out (.sel gd d a b c) (if s.rdP c then x else y))
  ∧ (∀ (s : State) (gd : Guard) (d a : R64) (v : Imm), s.guard gd = true →
    let x := s.g a
    let y : Word := (s.immV v).signExtend 64
    let n := (s.immV v).toNat % 64
    let out (i : Instr) (w : Word) : Prop := Does i s fun t => Sends s t (gRes 1 d w (s.gTaint a))
    out (.addi gd d a v) (x + y) ∧ out (.muli gd d a v) (x * y) ∧ out (.andi gd d a v) (x &&& y)
    ∧ out (.ori gd d a v) (x ||| y) ∧ out (.xori gd d a v) (x ^^^ y)
    ∧ out (.shli gd d a v) (BitVec.ofNat 64 (x.toNat * 2 ^ n)) ∧ out (.shri gd d a v) (BitVec.ofNat 64 (x.toNat / 2 ^ n))
    ∧ out (.srai gd d a v) (BitVec.ofInt 64 (x.toInt / 2 ^ n))
    ∧ Does (.movi gd d v) s (fun t => Sends s t (gRes 1 d y false)))
  ∧ (∀ (s : State) (gd : Guard) (d a b : R64), s.guard gd = true →
    let x := s.g a
    let y := s.g b
    let pos := y.toNat % 64
    let w := min (y.toNat / 2 ^ 8 % 128) (64 - pos)
    let out (i : Instr) (t : Bool) (P : Word → Prop) : Prop := ∃ v, P v ∧ Does i s fun u => Sends s u (gRes 1 d v t)
    let t := s.gTaint a
    out (.mov gd d a) t (fun v => v = x)
    ∧ out (.clz gd d a) t (fun v => v.toNat ≤ 64 ∧ (v.toNat < 64 → x.getLsbD (63 - v.toNat) = true)
        ∧ ∀ k, 64 - v.toNat ≤ k → x.getLsbD k = false)
    ∧ out (.popc gd d a) t (fun v => v.toNat = ((List.range 64).filter fun k => x.getLsbD k).length)
    ∧ (∀ sz : LaneW, sz ≠ .d →
        out (.ext gd .u sz d a) t (fun v => v.toNat = x.toNat % 2 ^ sz.width)
        ∧ out (.ext gd .s sz d a) t (fun v => ∀ k < 64, v.getLsbD k = x.getLsbD (min k (sz.width - 1))))
    ∧ out (.bfx gd .u d a b) (t || s.gTaint b) (fun v => v.toNat = x.toNat / 2 ^ pos % 2 ^ w)
    ∧ out (.bfx gd .s d a b) (t || s.gTaint b)
        (fun v => if w = 0 then v = 0 else ∀ k < 64, v.getLsbD k = x.getLsbD (pos + min k (w - 1)))
    ∧ out (.bfi gd d a b) (s.gTaint d || t || s.gTaint b) (fun v => ∀ k < 64, v.getLsbD k =
        if pos ≤ k ∧ k < pos + w then x.getLsbD (k - pos) else (s.g d).getLsbD k))

/-- CMP and the predicate forms (09 R106, R107): p0 discards what is written to it; `.pair` writes the negation to p(D+1).
MOVC and RDTIME (09 R108, R109): MOVC reads the control register at issue, and its write takes effect one step later; RDTIME
reads CYC, in the first cycle of a split step that of this cycle. -/
def Obligations.PredicateAndControlMoves : Prop :=
  (∀ (s : State) (gd : Guard) (d a b : R16) (x y : R64), s.guard gd = true →
    let out (i : Instr) (v : Bool) : Prop := Does i s fun t => Sends s t (pRes d v)
    out (.pand gd d a b) (s.rdP a && s.rdP b) ∧ out (.por gd d a b) (s.rdP a || s.rdP b)
    ∧ out (.pxor gd d a b) (s.rdP a != s.rdP b) ∧ out (.pnot gd d a) (!s.rdP a)
    ∧ ∀ (cc : Cc) (r : Bool),
        (r = true ↔ match cc with
          | .eq => s.g x = s.g y
          | .ne => s.g x ≠ s.g y
          | .lt => (s.g x).toInt < (s.g y).toInt
          | .le => (s.g x).toInt ≤ (s.g y).toInt
          | .gt => (s.g x).toInt > (s.g y).toInt
          | .ge => (s.g x).toInt ≥ (s.g y).toInt
          | .ltu => (s.g x).toNat < (s.g y).toNat
          | .leu => (s.g x).toNat ≤ (s.g y).toNat
          | .gtu => (s.g x).toNat > (s.g y).toNat
          | .geu => (s.g x).toNat ≥ (s.g y).toNat) →
        out (.cmp gd false cc d x y) r
        ∧ ∀ h : d.val + 1 < 16, Does (.cmp gd true cc d x y) s fun t => Sends s t (pRes d r ++ pRes ⟨d.val + 1, h⟩ (!r)))
  ∧ (∀ (s : State) (gd : Guard) (d a : R64) (cr : BitVec 10), s.guard gd = true →
    Does (.movc gd (.read d cr)) s (fun t => Sends s t (gRes 1 d (s.rdCr cr) false))
    ∧ Does (.movc gd (.write cr a)) s (fun t => Sends s t [(1, .cr cr (s.g a), 0)])
    ∧ Does (.rdtime gd d) s (fun t => Sends s t (gRes 1 d ((((s.core s.env.core).splitAt).map (·.cyc)).getD s.cyc) false)))

/-- The address forms (09 R111, R117) outside handler mode: the stride AUPD adds is k0 where no nest runs, that of the
advancing level in a nest, and 0 on its last trip. -/
def Obligations.AddressResults : Prop :=
  ∀ (s : State) (gd : Guard) (d a : R16) (x : R64) (j : Lvl) (v : Imm), s.guard gd = true →
    let out (i : Instr) (w : Wr) : Prop := Does i s fun t => Sends s t [(1, w, 0)]
    out (.aset gd d v) (.a d ((s.immV v).signExtend 56) false)
    ∧ out (.aadd gd d a x) (.a d ((s.rdA a).1 + (s.g x).setWidth 56) ((s.rdA a).2 || s.gTaint x))
    ∧ out (.amov gd d x) (.a d ((s.g x).setWidth 56) (s.gTaint x))
    ∧ out (.akset gd d j v) (.stride d j ((s.immV v).signExtend 56))
    ∧ out (.akmov gd d j x) (.stride d j ((s.g x).setWidth 56))
    ∧ Does (.aget gd x a) s (fun t => Sends s t (gRes 1 x ((s.rdA a).1.setWidth 64) (s.rdA a).2))
    ∧ Does (.akget gd x a j) s (fun t => Sends s t (gRes 1 x ((s.rdStride a j).signExtend 64) false))
    ∧ (s.user → ∀ w : Addr,
        (s.env.loop0.run = false → w = s.rdStride d 0) →
        (s.env.loop0.run = true → ∀ l, s.env.loop0.advancing = some l → w = s.rdStride d l) →
        (s.env.loop0.run = true → s.env.loop0.advancing = none → w = 0) →
        out (.aupd gd d) (.a d ((s.rdA d).1 + w) (s.rdA d).2))

/-! ### Control forms -/

/-- NOP, PREP and the branches (08 R94, 09 R121 to R123): a branch whose bundle holds no lower transfer takes the target of
its b-register, after three bubble steps less the steps since that register was written; CALL writes b7; one after a lower
transfer does nothing (05 R72). -/
def Obligations.BranchResults : Prop :=
  ∀ (s : State) (gd : Guard) (b : R8) (a : R64) (o : BitVec 23), s.guard gd = true →
    let bub (r : R8) : Nat := 3 - (s.now - (s.cur.b[r]).step)
    let go (r : R8) : State := s.modEnv fun e => { e with transfer := some ⟨s.rdB r, bub r, true⟩ }
    Does (.nop gd) s (fun t => Sends s t [])
    ∧ Does (.prep gd b (.rel o)) s (fun t => Sends s t [(1, .b b (s.env.hdr + o.signExtend 64 * 2) s.now, 0)])
    ∧ Does (.prep gd b (.ind a)) s (fun t => Sends s t [(1, .b b (s.g a) s.now, 0)])
    ∧ (s.env.transfer = none →
        Does (.bra gd b) s (fun t => Sends (go b) t []) ∧ Does (.ret gd) s (fun t => Sends (go 7) t [])
        ∧ Does (.call gd b) s (fun t => Sends (go b) t [(1, .b 7 s.env.next s.now, 0)]))
    ∧ (s.env.transfer ≠ none →
        Does (.bra gd b) s (fun t => Sends s t []) ∧ Does (.ret gd) s (fun t => Sends s t [])
        ∧ Does (.call gd b) s (fun t => Sends s t []))

/-- The loop forms outside handler mode (09 R113 to R120): LSET sets a count and, at level 0, the stages; LRUN latches the
counts of its levels with indices of 0 and runs the nest, or goes on at END when a level has no trip; LBRK makes the current
trip of a running level its last; LIDX reads an index with its first and last marks; LCLR and SPSET set the stage predicates.
-/
def Obligations.LoopFormResults : Prop :=
  ∀ (s : State) (gd : Guard) (l k : Lvl) (st : R8) (a d : R64) (ofs : BitVec 23), s.guard gd = true → s.user →
    let q := s.cur.loop
    let base (r : Loop) : State := s.modCur fun t => { t with loop := r }
    let endA := s.env.hdr + ofs.signExtend 64 * 2
    Does (.lset gd l st a) s (fun t => Sends (base { q with
        cnt := q.cnt.set l ((s.g a).setWidth 32)
        stages := if l = 0 then st.val + 1 else q.stages }) t [])
    ∧ (s.env.transfer = none → ∃ r : Loop,
        (∀ j : Lvl, j.val ≤ k.val → r.n[j] = q.cnt[j] ∧ r.idx[j] = 0) ∧ r.k = k.val + 1 ∧ r.s = q.stages ∧ r.cnt = q.cnt
        ∧ (r.run = true ↔ ∀ j : Lvl, j.val ≤ k.val → r.trips j ≠ 0)
        ∧ (r.run = true → r.body = s.env.next ∧ r.endA = endA)
        ∧ Does (.lrun gd k ofs) s fun t => Sends ((base r).modEnv fun e => { e with
            transfer := some (if r.run then ⟨s.env.next, 0, false⟩ else ⟨endA, 0, true⟩) }) t [])
    ∧ (∃ r : Loop, r.idx = q.idx ∧ r.run = q.run ∧ (∀ j : Lvl, j ≠ l → r.n[j] = q.n[j])
        ∧ (q.run = true ∧ l.val < q.k → (r.n[l]).toNat = min (q.n[l]).toNat ((q.idx[l]).toNat + 1))
        ∧ (¬(q.run = true ∧ l.val < q.k) → r.n[l] = q.n[l])
        ∧ Does (.lbrk gd l) s fun t => Sends (base r) t [])
    ∧ (let i := (s.env.loop0.idx[l]).toNat
       Does (.lidx gd d l) s fun t => Sends s t (gRes 1 d (if s.env.loop0.run = true ∧ l.val < s.env.loop0.k then
           BitVec.ofNat 64 (i + (if i = 0 then 2 ^ 62 else 0) + (if i + 1 = s.env.loop0.trips l then 2 ^ 63 else 0)) else 0) false))
    ∧ Does (.lclr gd) s (fun t => Sends (base { q with
        run := false
        cnt := Vector.replicate 6 0
        stages := 1 }) t [(1, .sp 0, 0)])
    ∧ Does (.spset gd a) s (fun t => Sends s t [(1, .sp ((s.g a).setWidth 8), 0)])

/-- The sequencer at the end of a trip (09 R114 to R116): the lowest level of the nest with a trip left advances, the levels
below it start again at 0 and those above it keep their indices; with none the nest ends. The stage predicate k of trip t is 1
just when k < S and k ≤ t and t − k < N. -/
def Obligations.TripEndAdvances : Prop :=
  ∀ q : Loop, q.run = true →
    (q.advancing = none ↔ ∀ j : Lvl, j.val < q.k → q.trips j ≤ (q.idx[j]).toNat + 1)
    ∧ (∀ l, q.advancing = some l → l.val < q.k ∧ (q.idx[l]).toNat + 1 < q.trips l
        ∧ (∀ j : Lvl, j.val < l.val → q.trips j ≤ (q.idx[j]).toNat + 1)
        ∧ q.endTrip.2 = true ∧ q.endTrip.1.run = true ∧ q.endTrip.1.idx[l] = q.idx[l] + 1
        ∧ (∀ j : Lvl, j.val < l.val → q.endTrip.1.idx[j] = 0) ∧ (∀ j : Lvl, l.val < j.val → q.endTrip.1.idx[j] = q.idx[j]))
    ∧ (q.advancing = none → q.endTrip.2 = false ∧ q.endTrip.1.run = false)
    ∧ (∀ k : R8, q.stagePreds.getLsbD k.val = true ↔
        k.val < q.s ∧ k.val ≤ (q.idx[(0 : Lvl)]).toNat ∧ (q.idx[(0 : Lvl)]).toNat < (q.n[(0 : Lvl)]).toNat + k.val)

/-- WAIT and SLEEPU (09 R124 to R127): a WAIT whose condition holds goes on (an acquire of what its word announces); one whose
condition does not hold, and a SLEEPU before its tick, leave a block that takes effect when the bundle has committed. The word is
read at its point of coherence, in a vault or in memory, whatever the L1 holds; a WAIT whose word has no translation, none that may
be read, or a replayable fault that the host has failed (10 R413), takes its fault at its slot, and so does one at an address that is
not aligned (see TrapsOfSlotForms). What a test does while an earlier access of its context names its bytes is log 33. YIELD, HALT, TRAP, SYSCALL and HBEAT (09 R128, 24
R370): the first four leave the action that follows the bundle's last slot (05 R73); HBEAT counts when the span count has
changed since the context's last beat (03 R50). -/
def Obligations.WaitingAndStoppingForms : Prop :=
  (∀ (s : State) (gd : Guard) (a : R16) (b : R64) (cc : Wc) (dw : Bool) (v : Imm), s.guard gd = true →
    let ea := (s.rdA a).1
    let n := if dw then 8 else 4
    let wide := if cc = .dd then 16 else n
    let page := ea.toNat / 65536
    let val := (s.g b).toNat % 2 ^ (8 * n)
    let waits (t : State) (w : Block) : State := t.modEnv fun e => { e with block := ⟨some w, e.block.bar⟩ }
    let promised (T : Word) : State := s.modCur fun q => { q with promiseT := some T }
    let T := s.issueCyc + (s.immV v).setWidth 64
    let tests (word : Nat) : Prop := ∀ ok : Bool, (ok = true ↔ match cc with
        | .eq => word = val
        | .ne => word ≠ val
        | .geu => val ≤ word
        | .ltu => word < val
        | .any => word &&& val ≠ 0
        | .dd => word / 2 ^ 63 % 2 = 1) →
      Does (.wait gd a b cc dw) s fun t =>
        if ok then Sends s t [] ∨ Sends (s.l1Drop s.env.core) t []
        else Sends (waits s (.wait ea cc dw (s.g b))) t []
    (ea.toNat % wide = 0 → s.waitAccess s.env.core s.env.ctx ea cc dw = none →
      (isScratch ea = true → s.poisonedLoc (.vault (vaultCore s.env.core ea) (vaultOfs ea)) wide = false →
        tests (memReadN (s.core (vaultCore s.env.core ea)).vault (vaultOfs ea) n))
      ∧ (isScratch ea = false → s.walkHeld s.env.core s.env.ctx ea = false → s.cur.waitFail ≠ some page →
        (∀ pa, s.physCtx s.env.core s.env.ctx false ea.toNat = .ok pa → s.pinnedLoc (some s.env.core) (.mem pa) = false →
          s.poisonedLoc (.mem pa) wide = false → tests (memReadN s.gmem pa n))
        ∧ (s.HandlerReady → s.physCtx s.env.core s.env.ctx false ea.toNat = .page →
          Does (.wait gd a b cc dw) s fun t => EntersAt s t 0x18 (ea.setWidth 64) 0)
        ∧ (s.HandlerReady → s.physCtx s.env.core s.env.ctx false ea.toNat = .perm →
          Does (.wait gd a b cc dw) s fun t => EntersAt s t 0x19 (ea.setWidth 64) 0))
      ∧ (isScratch ea = false → s.cur.waitFail = some page → s.HandlerReady →
        Does (.wait gd a b cc dw) s fun t => EntersAt s t 0x18 (ea.setWidth 64) 0))
    ∧ Does (.sleepu gd b) s (fun t => Sends (if s.cyc.toNat < (s.g b).toNat then waits (promised (s.g b)) (.sleep (s.g b))
        else promised (s.g b)) t [])
    ∧ Does (.sleepuI gd v) s (fun t => Sends (if s.cyc.toNat < T.toNat then waits (promised T) (.sleep T) else promised T) t []))
  ∧ (∀ (s : State) (gd : Guard) (n : BitVec 8), s.guard gd = true →
    Does (.yield gd) s (fun t => Sends (s.modEnv fun e => { e with yield := true }) t [])
    ∧ Does (.halt gd) s (fun t => Sends (s.modEnv fun e => { e with pact := 1 }) t [])
    ∧ Does (.trap gd n) s (fun t => Sends (s.modEnv fun e => { e with pact := 3, pn := n }) t [])
    ∧ Does (.syscall gd n) s (fun t => Sends (s.modEnv fun e => if e.pact = 0 then { e with pact := 4, pn := n } else e) t [])
    ∧ (let old := (s.core s.env.core).beat
       let beat : Beat := if old.last[s.env.ctx] = some s.cur.span then old
         else { old with last := old.last.set s.env.ctx (some s.cur.span), seen := true }
       Does (.hbeat gd) s fun t => Sends (s.modCore s.env.core fun k => { k with beat := beat }) t []))

/-! ### Domain forms -/

/-- The forms that set or read a domain register (15 R217 to R219) outside handler mode, their d-register below DOMAINS: DSET
makes the interval, DSETM takes a mask over the bounds, and each is applied two steps later; DLO, DHI and DCNT read the set as
it was at issue. A form that makes the empty set fails instead (see DomainFailuresAndEffects). The propagation and checkpoint
forms (15 R225, R226, R237 to R239) outside handler mode: NPROP is applied two steps later, the others one; NCKPT takes the
registers and cr.nstat with TOP as its issue step shows them, with fewer than 16 levels held; NREST and NPOP need one. -/
def Obligations.DomainReadAndPropagationForms : Prop :=
  (∀ (s : State) (gd : Guard) (d r a b : R64) (k : BitVec 10), s.guard gd = true → s.user →
    let lo := clamp32 ((s.g a).toInt + k.toInt)
    let hi := clamp32 ((s.g b).toInt + k.toInt)
    let x := s.rdD d
    let inMask (v : Int) : Prop := 64 ≤ v - x.lo.toInt ∨ (s.g a).getLsbD (v - x.lo.toInt).toNat = true
    let width := (x.hi.toInt - x.lo.toInt).toNat
    let pop := ((List.range 64).filter fun i => x.mask.getLsbD i).length
    let reads (i : Instr) (r : R64) (v : Word) : Prop := Does i s fun t => Sends s t (if r = 0 then [] else [(2, .dom r v, 0)])
    d.val < s.alloc.domains →
      (lo ≤ hi → ∃ y : DomReg, (∀ v : Int, y.has v = true ↔ lo ≤ v ∧ v ≤ hi) ∧
        Does (.dset gd d a b k) s fun t => Sends (s.pending 2 (.set d y)) t [])
      ∧ ((∃ v : Int, x.lo.toInt ≤ v ∧ v ≤ x.hi.toInt ∧ inMask v) → ∃ y : DomReg,
        (∀ v : Int, y.has v = true ↔ x.lo.toInt ≤ v ∧ v ≤ x.hi.toInt ∧ inMask v) ∧
        Does (.dsetm gd d a) s fun t => Sends (s.pending 2 (.set d y)) t [])
      ∧ reads (.dlo gd r d) r (x.lo.signExtend 64) ∧ reads (.dhi gd r d) r (x.hi.signExtend 64)
      ∧ reads (.dcnt gd r d) r (BitVec.ofNat 64 (if width < 64 then pop else pop + width - 63)))
  ∧ (∀ (s : State) (gd : Guard), s.guard gd = true → s.user →
    Does (.nprop gd) s (fun t => Sends (s.pending 2 .nprop) t [])
    ∧ Does (.nclr gd) s (fun t => Sends (s.pending 1 .nclr) t [])
    ∧ (s.cur.levels.length ≠ 16 → Does (.nckpt gd) s fun t =>
        let w := s.rdCr 0x021
        Sends (s.pending 1 (.nckpt (Vector.ofFn s.rdD) ⟨w.toNat / 2 ^ 23 % 2 ^ 9, ⟨(w >>> 32).setWidth 32, (w >>> 15).setWidth 8,
          (w >>> 4).setWidth 11, w.getLsbD 3, w.getLsbD 2, w.getLsbD 1, w.getLsbD 0⟩⟩)) t [])
    ∧ (s.cur.levels ≠ [] → Does (.nrest gd) s (fun t => Sends (s.pending 1 .nrest) t [])
        ∧ Does (.npop gd) s (fun t => Sends (s.pending 1 .npop) t [])))

/-- The narrowing forms (15 R220 to R223) outside handler mode, with room in the store for what `.k` records: values that leave
no register empty, each register once, are applied two steps later; a form that finds a register empty fails at its commit
(R234, R235) and writes no register. -/
def Obligations.NarrowingFormResults : Prop :=
  ∀ (s : State) (gd : Guard) (k : Bool) (d a b : R64) (o : BitVec 10), s.guard gd = true → s.user →
    (k = true → s.cur.store.length + s.cur.pendingRecords ≠ min s.alloc.store 256) →
    let out (i : Instr) (e : Constraint) : Prop := (∀ r ∈ e.regs, r.val < s.alloc.domains) →
      (∀ ws, narrowVals e s.rdD = .ok ws → (ws.map Prod.fst).Nodup
        ∧ Does i s fun t => Sends (s.pending 2 (.narrow ws (if k then some e else none))) t [])
      ∧ ∀ r, narrowVals e s.rdD = .error r → s.cur.episode = none → FailsAtCommit i s r
    out (.neq gd k d a) ⟨0x45, d, a, 0, 0, 0⟩ ∧ out (.nne gd k d a) ⟨0x46, d, a, 0, 0, 0⟩
    ∧ out (.neqo gd k d a o) ⟨0x47, d, a, 0, o, 0⟩ ∧ out (.nneo gd k d a o) ⟨0x48, d, a, 0, o, 0⟩
    ∧ out (.nlt gd k d a) ⟨0x49, d, a, 0, 0, 0⟩ ∧ out (.nle gd k d a) ⟨0x4A, d, a, 0, 0, 0⟩
    ∧ out (.nadd gd k d a b) ⟨0x4B, d, a, b, 0, 0⟩ ∧ out (.nsub gd k d a b) ⟨0x4C, d, a, b, 0, 0⟩
    ∧ out (.nmul gd k d a b) ⟨0x4D, d, a, b, 0, 0⟩ ∧ out (.nmin gd k d a b) ⟨0x4E, d, a, b, 0, 0⟩
    ∧ out (.nmax gd k d a b) ⟨0x4F, d, a, b, 0, 0⟩ ∧ out (.nabs gd k d a) ⟨0x50, d, a, 0, 0, 0⟩
    ∧ out (.nin gd k d a) ⟨0x51, d, a, 0, 0, s.g a⟩ ∧ out (.ndiff gd k d o) ⟨0x52, d, 0, 0, o, 0⟩

/-- Narrowing loses no solution (15 R210 to R212, Table 15.5): for every narrowing form but NMUL and NDIFF, a value of each
register that together satisfy the relation remains in the narrowed sets; and a form that fails has no such values. -/
def Obligations.NarrowingKeepsSolutions : Prop :=
  ∀ (e : Constraint) (get : R64 → DomReg) (val : R64 → Int),
    (∀ r ∈ e.regs, (get r).has (val r) = true) →
    (match e.opc with
      | 0x45 => val e.d = val e.a
      | 0x46 => val e.d ≠ val e.a
      | 0x47 => val e.d = val e.a + e.kofs.toInt
      | 0x48 => val e.d ≠ val e.a + e.kofs.toInt
      | 0x49 => val e.d < val e.a
      | 0x4A => val e.d ≤ val e.a
      | 0x4B => val e.d = val e.a + val e.b
      | 0x4C => val e.d = val e.a - val e.b
      | 0x4E => val e.d = min (val e.a) (val e.b)
      | 0x4F => val e.d = max (val e.a) (val e.b)
      | 0x50 => val e.d = |val e.a|
      | 0x51 => 0 ≤ val e.d ∧ val e.d ≤ 63 ∧ e.mask.getLsbD (val e.d).toNat = true
      | _ => False) →
    ∃ ws, narrowVals e get = .ok ws ∧ ∀ w ∈ ws, w.2.has (val w.1) = true

/-- A failure at commit (15 R217, R218, R234, R235): a DSET or DSETM whose set is empty writes cr.fpc and cr.nstat, discards
every pending domain effect, and leaves the failure transfer to the bundle, or raises the failure trap; no register is written.
DOMAIN_EFFECT_APPLY (15 R215, R222, R225, R226, R236 to R238): with no episode, the oldest effect takes its effect when it is
due; a narrowing meets each of its registers with its value as it is now (log 27), writes them all, records its form, and
starts an episode where it changed a register; where a register would be empty it fails instead, and writes none; a Halted context then neither transfers nor traps (log 27). A word of a
d-register that is written loses its poison, and one that NREST restores takes that of its word in the save RAM (10 R165,
log 70). -/
def Obligations.DomainFailuresAndEffects : Prop :=
  (∀ (s : State) (gd : Guard) (d a b : R64) (k : BitVec 10), s.guard gd = true → s.user → d.val < s.alloc.domains → s.cur.episode = none →
    let x := s.rdD d
    let inMask (v : Int) : Prop := 64 ≤ v - x.lo.toInt ∨ (s.g a).getLsbD (v - x.lo.toInt).toNat = true
    (clamp32 ((s.g b).toInt + k.toInt) < clamp32 ((s.g a).toInt + k.toInt) → FailsAtCommit (.dset gd d a b k) s d)
    ∧ ((∀ v : Int, ¬(x.lo.toInt ≤ v ∧ v ≤ x.hi.toInt ∧ inMask v)) → FailsAtCommit (.dsetm gd d a) s d))
  ∧ (∀ (s : State) (c : CoreId) (x : CtxId) (p : PendDom) (rest : List PendDom),
    (s.ctx c x).episode = none → (s.ctx c x).pendDom = p :: rest → p.due ≤ (s.core c).step →
    let k := s.core c
    let t0 : Ctx := { s.ctx c x with pendDom := rest }
    let out (t1 : Ctx) : Prop := exec (.domainEffectApply c x) s = .next (s.modCtx c x fun _ => t1)
    let level (j : Nat) (r : R64) : Nat := (16 * x.val + j) * 1024 + 16 * r.val
    let fresh (ds : List R64) : State := s.modCore c fun k => { k with rpoison := k.rpoison.filter fun r => match r with
      | .d y q _ => y != x || !ds.contains q
      | _ => true }
    (∀ d r, p.eff = .set d r → exec (.domainEffectApply c x) s = .next ((fresh [d]).modCtx c x fun _ => { t0 with d := t0.d.set d r }))
    ∧ (p.eff = .nclr → out { t0 with store := match t0.levels with
        | [] => []
        | l :: _ => t0.store.take l.top })
    ∧ (p.eff = .npop → out { t0 with levels := t0.levels.tail })
    ∧ (∀ d l, p.eff = .nckpt d l → memWf k.saveRam = true → Does (.domainEffectApply c x) s fun t =>
        t.ctx c x = { t0 with levels := l :: t0.levels } ∧ t.gmem = s.gmem
        ∧ (∀ r : R64, let b := level t0.levels.length r
            memReadN (t.core c).saveRam b 4 = (d[r]).lo.toNat ∧ memReadN (t.core c).saveRam (b + 4) 4 = (d[r]).hi.toNat
            ∧ memReadN (t.core c).saveRam (b + 8) 8 = (d[r]).mask.toNat)
        ∧ ∀ b : Nat, b / 1024 ≠ 16 * x.val + t0.levels.length → memRead (t.core c).saveRam b = memRead k.saveRam b)
    ∧ (∀ l ls, p.eff = .nrest → t0.levels = l :: ls → ∃ b : State,
        (∀ y, y ≠ c → b.core y = s.core y) ∧ { b.core c with rpoison := k.rpoison } = k ∧ { b with cores := s.cores } = s
        ∧ (∀ (y : CtxId) (q : R64) (j : Nat), j < 2 → (RWord.d y q j ∈ (b.core c).rpoison ↔
            if y = x then (16 * x.val + ls.length) * 128 + 2 * q.val + j ∈ k.spoison else RWord.d y q j ∈ k.rpoison))
        ∧ exec (.domainEffectApply c x) s = .next (b.modCtx c x fun _ => { t0 with
        d := Vector.ofFn fun r : R64 => ⟨BitVec.ofNat 32 (memReadN k.saveRam (level ls.length r) 4),
          BitVec.ofNat 32 (memReadN k.saveRam (level ls.length r + 4) 4), BitVec.ofNat 64 (memReadN k.saveRam (level ls.length r + 8) 8)⟩
        store := t0.store.take l.top
        nstat := l.nstat }))
    ∧ (p.eff = .nprop → t0.store ≠ [] → out { t0 with episode := some ⟨true, 0, 1, 0, 0, 0, p.hdr⟩ })
    ∧ (p.eff = .nprop → t0.store = [] → out { t0 with nstat := ⟨0, 0, 0, false, false, false, true⟩ })
    ∧ (∀ (ws : List (R64 × DomReg)) (rec1 : Option Constraint) (d : Vector DomReg 64) (m : Word), p.eff = .narrow ws rec1 →
        (ws.map Prod.fst).Nodup → (∀ q ∈ ws, (t0.d[q.1]).meet q.2 = some d[q.1]) → (∀ r : R64, r ∉ ws.map Prod.fst → d[r] = t0.d[r]) →
        (∀ r : R64, m.getLsbD r.val = true ↔ d[r] ≠ t0.d[r]) →
        let t1 : Ctx := { t0 with
          d := d
          store := t0.store ++ rec1.toList }
        let out1 (u : Ctx) : Prop := exec (.domainEffectApply c x) s = .next ((fresh (ws.map Prod.fst)).modCtx c x fun _ => u)
        (m ≠ 0 ∧ t0.npe = true ∧ t1.store ≠ [] → out1 { t1 with episode := some ⟨false, 0, 1, 0, m, 0, p.hdr⟩ })
        ∧ (¬(m ≠ 0 ∧ t0.npe = true ∧ t1.store ≠ []) → out1 t1))
    ∧ (∀ (pre post : List (R64 × DomReg)) (r : R64) (v : DomReg) (rec1 : Option Constraint), p.eff = .narrow (pre ++ (r, v) :: post) rec1 →
        (∀ q ∈ pre, ((t0.d[q.1]).meet q.2).isSome = true) → (t0.d[r]).meet v = none → Does (.domainEffectApply c x) s fun t =>
          let u := t.ctx c x
          u.d = t0.d ∧ u.store = t0.store ∧ u.levels = t0.levels ∧ u.g = t0.g ∧ u.pendDom = [] ∧ u.episode = none
          ∧ u.fpc.toNat = 2 * 2 ^ 62 + r.val * 2 ^ 56 + 0x100 * 2 ^ 47 + 2 * 2 ^ 44 + p.hdr.toNat % 2 ^ 44
          ∧ u.nstat = { t0.nstat with act := false, fail := true, bud := false, fp := false }
          ∧ (∀ f ∈ (t.core c).inflight, f.ctx = x → ∀ g w, f.wr ≠ .dom g w)
          ∧ (t0.run ≠ .halted → t0.ftv ≠ 0 → k.markOk t0.ftv = true →
              u.pc = t0.ftv ∧ u.bubbles = 3 ∧ u.hm = t0.hm ∧ u.run = t0.run)
          ∧ (t0.ftv = 0 → t0.hm = false → t0.run ≠ .held → t0.run ≠ .halted → t0.thv ≠ 0 → k.markOk t0.thv = true →
              u.hm = true ∧ u.pc = t0.thv ∧ u.bubbles = 3 ∧ u.frame.valid = true ∧ u.frame.cause = 0x08
              ∧ (t0.replay = none → u.frame.sr = 0))))

/-- A propagation episode (15 R227, R228, Table 15.6): it takes the next entry of its pass that is due in store order, every
entry in the first pass of NPROP and else one that watches a register changed in the pass before; each re-execution counts in
USED, freezes the core for two cycles of its domain work, meets the registers with the entry's values, and notes those it
changed. With none left the next pass begins with what was changed, or the episode ends at a fixed point where nothing was; at
the limit cr.nbud it ends with BUD. A re-execution that would leave a register empty fails (R234, R236: CAUSE 2, with its entry):
no register is written, every pending domain effect is discarded, and control passes to cr.ftv, or cause 0x08 is taken; a limit met
with cr.nctl.BT = 1 raises cause 0x09 at the bundle due (R232: CAUSE 3). A Halted context takes neither (log 27). -/
def Obligations.PropagationEpisodes : Prop :=
  ∀ (s : State) (c : CoreId) (x : CtxId) (e : Episode), (s.ctx c x).episode = some e →
    let k := s.core c
    let t := s.ctx c x
    let due (j : Nat) : Prop := ∃ w, t.store[j]? = some w ∧ (e.pass = 1 ∧ e.all = true ∨ ∃ r ∈ w.regs, e.prev.getLsbD r.val = true)
    let idle : Prop := ∀ j, e.entry ≤ j → ¬due j
    let ends (bud fp : Bool) : Prop := exec (.domainEffectApply c x) s = .next (s.modCtx c x fun t => { t with
      nstat := ⟨BitVec.ofNat 32 e.used, 0, BitVec.ofNat 11 (min e.pass 2047), false, false, bud, fp⟩
      episode := none })
    (idle → e.cur = 0 → ends false true)
    ∧ (idle → e.cur ≠ 0 → exec (.domainEffectApply c x) s = exec (.domainEffectApply c x) (s.modCtx c x fun t => { t with
        episode := some { e with
          pass := e.pass + 1
          entry := 0
          prev := e.cur
          cur := 0 } }))
    ∧ (¬idle → e.used = t.nbud.toNat → t.nbt = false → ends true false)
    ∧ (∀ (i : Nat) (w : Constraint) (ws : List (R64 × DomReg)) (d : Vector DomReg 64) (m : Word), e.entry ≤ i → t.store[i]? = some w → due i →
        (∀ j, e.entry ≤ j → j < i → ¬due j) → e.used ≠ t.nbud.toNat → narrowVals w (fun r => t.d[r]) = .ok ws →
        (∀ q ∈ ws, (t.d[q.1]).meet q.2 = some d[q.1]) → (∀ r : R64, r ∉ ws.map Prod.fst → d[r] = t.d[r]) →
        (∀ r : R64, m.getLsbD r.val = true ↔ d[r] ≠ t.d[r]) →
        exec (.domainEffectApply c x) s = .next ((s.setCore c { k with
          freezeLeft := k.freezeLeft + 2
          freezeWhy := .domain
          rpoison := k.rpoison.filter fun r => match r with
            | .d y q _ => y != x || !m.getLsbD q.val
            | _ => true }).modCtx c x fun t => { t with
            nstat := { t.nstat with
              act := false
              entry := 0 }
            d := d
            episode := some { e with
              used := e.used + 1
              entry := i + 1
              cur := e.cur ||| m } }))
    ∧ (let stays (u v : State) : Prop := (v.ctx c x).d = (u.ctx c x).d ∧ (v.ctx c x).store = (u.ctx c x).store
         ∧ (v.ctx c x).levels = (u.ctx c x).levels ∧ (v.ctx c x).g = (u.ctx c x).g ∧ (v.ctx c x).pendDom = []
         ∧ (v.ctx c x).episode = none ∧ ∀ f ∈ (v.core c).inflight, f.ctx = x → ∀ g w, f.wr ≠ .dom g w
       let traps (v : State) (cause : BitVec 8) : Prop := t.hm = false → t.run ≠ .held → t.run ≠ .halted → t.thv ≠ 0 →
         k.markOk t.thv = true → (v.ctx c x).hm = true ∧ (v.ctx c x).pc = t.thv ∧ (v.ctx c x).bubbles = 3
           ∧ (v.ctx c x).frame.valid = true ∧ (v.ctx c x).frame.cause = cause ∧ (v.ctx c x).frame.addr = (k.dueAddr t).setWidth 56
           ∧ (t.replay = none → (v.ctx c x).frame.sr = 0)
       (∀ (i : Nat) (w : Constraint) (r : R64), e.entry ≤ i → t.store[i]? = some w → due i → (∀ j, e.entry ≤ j → j < i → ¬due j) →
         e.used ≠ t.nbud.toNat →
         (narrowVals w (fun r => t.d[r]) = .error r ∨ ∃ pre post v, narrowVals w (fun r => t.d[r]) = .ok (pre ++ (r, v) :: post)
           ∧ (∀ q ∈ pre, ((t.d[q.1]).meet q.2).isSome = true) ∧ (t.d[r]).meet v = none) →
         Does (.domainEffectApply c x) s fun u =>
           stays s u ∧ (u.ctx c x).nstat = ⟨BitVec.ofNat 32 (e.used + 1), 0, BitVec.ofNat 11 (min e.pass 2047), false, true, false, false⟩
           ∧ (u.ctx c x).fpc = BitVec.ofNat 64 (2 * 2 ^ 62 + r.val * 2 ^ 56 + i * 2 ^ 47 + 2 * 2 ^ 44 + e.hdr.toNat % 2 ^ 44)
           ∧ (t.run ≠ .halted → t.ftv ≠ 0 → k.markOk t.ftv = true →
               (u.ctx c x).pc = t.ftv ∧ (u.ctx c x).bubbles = 3 ∧ (u.ctx c x).hm = t.hm ∧ (u.ctx c x).run = t.run)
           ∧ (t.ftv = 0 → traps u 0x08))
       ∧ (¬idle → e.used = t.nbud.toNat → t.nbt = true → Does (.domainEffectApply c x) s fun u =>
           stays s u ∧ (u.ctx c x).nstat = ⟨BitVec.ofNat 32 e.used, 0, BitVec.ofNat 11 (min e.pass 2047), false, false, true, false⟩
           ∧ (u.ctx c x).fpc = BitVec.ofNat 64 (3 * 2 ^ 62 + 0x100 * 2 ^ 47 + 2 * 2 ^ 44 + (k.dueAddr t).toNat % 2 ^ 44)
           ∧ traps u 0x09))

/-! ### Traps of slot forms -/

/-- A privileged form outside handler mode raises cause 0x04 (24 R363): the trap enters the handler, and the form has none of
its effect. A form that handler mode forbids is a double trap there (24 R363): the context is held with cause 0x22 and the
rest of the bundle does not commit. An access that fails its check at commit (10 R139) faults precisely: a memory form at an
address that is not a multiple of its unit raises an access violation that names the address, and stores nothing. -/
def Obligations.TrapsOfSlotForms : Prop :=
  (∀ (s : State) (gd : Guard) (i : Instr), guardOf i = some gd → s.guard gd = true → s.HandlerReady → isPrivileged i = true →
    Does i s fun t => Enters s t 0x04 ∧ t.cur.frame.info = 0)
  ∧ (∀ (s : State) (gd : Guard) (i : Instr), guardOf i = some gd → s.guard gd = true → s.cur.hm = true → s.cur.run ≠ .held →
    s.forbids i = true →
    Does i s fun t => t.cur.run = .held ∧ t.cur.hm = true ∧ t.cur.frame.cause = 0x22 ∧ t.env.stopped = true ∧ t.cur.loop = s.cur.loop
      ∧ t.cur.cursor = s.cur.cursor ∧ t.gmem = s.gmem)
  ∧ (∀ (s : State) (gd : Guard) (sz : MSize) (os : Os) (d : R64) (m : Mem) (a : R16) (c : R64) (op : AtOp) (sg : Sg) (cc : Wc) (dw : Bool),
    s.guard gd = true → s.HandlerReady →
    let bad (i : Instr) (ea : Addr) (unit : Nat) : Prop :=
      ea.toNat % unit ≠ 0 → Does i s fun t => EntersAt s t 0x19 (ea.setWidth 64) 0
    let ea := (s.ea m sz.bytes).1
    let line := (s.ea m 64).1
    bad (.ld gd sz os d m) ea sz.bytes ∧ bad (.ldc gd sz os d m) ea sz.bytes ∧ bad (.lda gd sz os d m) ea sz.bytes
    ∧ bad (.st gd sz os d m) ea sz.bytes ∧ bad (.stl gd sz os d m) ea sz.bytes
    ∧ bad (.atom gd op sg sz os d a c) (s.rdA a).1 sz.bytes
    ∧ bad (.ldv gd os d m) line 64 ∧ bad (.stv gd os d m) line 64
    ∧ bad (.wait gd a c cc dw) (s.rdA a).1 (if cc = .dd then 16 else if dw then 8 else 4))

/-! ### Memory forms and accesses -/

/-- The scalar, vector and atomic loads (10 R141, R142, R146, R151, R152, R156) whose address passes its check: an access
takes its place in program order, its value is due after the latency of its path, and no byte of memory changes. The scalar
and vector stores (10 R141, R142, R155) whose address passes its check: an access with the bytes of the source register takes
its place in program order, and performs later. -/
def Obligations.LoadAndStoreForms : Prop :=
  (∀ (s : State) (gd : Guard) (sz : MSize) (os : Os) (d : R64) (m : Mem) (a : R16) (c : R64) (op : AtOp) (sg : Sg), s.guard gd = true →
    let n := sz.bytes
    let sgn := signedSize sz
    let ea := s.ea m n
    let lat (own : Nat) (e : Addr) := pathLat s.env.core own e
    let acc (kind : AccKind) (e : Addr × Bool) (k : Nat) (dest : LoadDest) : Access :=
      { Access.make kind (clsMask os.cls) os.scope (mkElems e.1 k 0) with
        dest := dest
        taint := e.2
        due := s.now + lat 12 e.1 }
    let out (i : Instr) (e : Addr) (x : Access) : Prop :=
      Does i s fun t => Issues s t [x] [(lat 12 e, .load s.cur.nextId, 0)]
    (s.accessCheck ea.1 n false false = none →
      out (.ld gd sz os d m) ea.1 (acc (.load false) ea n (.g d n sgn ea.2))
      ∧ out (.ldc gd sz os d m) ea.1 { acc (.load false) ea n (.g d n sgn true) with ldc := true }
      ∧ out (.lda gd sz os d m) ea.1 { acc (.load true) ea n (.g d n sgn ea.2) with acq := true })
    ∧ (s.accessCheck (s.ea m 64).1 512 false false = none →
      out (.ldv gd os d m) (s.ea m 64).1 (acc (.load false) (s.ea m 64) 512 (.w d)))
    ∧ (s.accessCheck (s.rdA a).1 n true false = none →
      out (.atom gd op sg sz os d a c) (s.rdA a).1
        (acc (.atom op sg (s.g d) (s.g c)) (s.rdA a) n (.g d n (n == 4 && sg == .s) (s.rdA a).2))))
  ∧ (∀ (s : State) (gd : Guard) (sz : MSize) (os : Os) (d : R64) (m : Mem), s.guard gd = true →
    let n := sz.bytes
    let acc (e : Addr × Bool) (k data : Nat) : Access :=
      { Access.make .store (clsMask os.cls) os.scope (mkElems e.1 k data) with taint := e.2 }
    let low := (s.g d).toNat % 2 ^ (8 * n)
    (s.accessCheck (s.ea m n).1 n true false = none →
      Does (.st gd sz os d m) s (fun t => Issues s t [acc (s.ea m n) n low] [])
      ∧ Does (.stl gd sz os d m) s (fun t => Issues s t [{ acc (s.ea m n) n low with acq := true }] []))
    ∧ (s.accessCheck (s.ea m 64).1 512 true false = none →
      Does (.stv gd os d m) s (fun t => Issues s t [acc (s.ea m 64) 512 (s.rdW d).toNat] [])))

/-- GATH and SCAT (10 R143): lane i's address is aN plus the unsigned lane i of wX, and every lane must pass its check. The
tile and block transfers (10 R144, R145): a tile name below TILES with a valid shape, or a block below ACC, moves its image
through the own core's path, whose latency is 16. -/
def Obligations.LaneAndTileAccesses : Prop :=
  (∀ (s : State) (gd : Guard) (sz : MSize) (os : Os) (d : R64) (a : R16) (x : R64), s.guard gd = true →
    let n := 8 * sz.bytes
    let lane (w : BitVec 4096) (i : Nat) : Nat := w.toNat / 2 ^ (n * i) % 2 ^ n
    let addr (i : Nat) : Addr := (s.rdA a).1 + BitVec.ofNat 56 (lane (s.rdW x) i)
    let is := List.range (4096 / n)
    let lat := is.foldl (fun m i => max m (pathLat s.env.core 12 (addr i))) 0
    let acc (kind : AccKind) (data : Nat → Word) : Access :=
      { Access.make kind (clsMask os.cls) os.scope (is.map fun i => ⟨addr i, sz.bytes, data i, false, 0⟩) with taint := (s.rdA a).2 }
    ((∀ i ∈ is, s.accessCheck (addr i) sz.bytes false false = none) → Does (.gath gd sz os d a x) s fun t =>
      Issues s t [{ acc (.load false) (fun _ => 0) with dest := .gath d, due := s.now + lat }] [(lat, .load s.cur.nextId, 0)])
    ∧ ((∀ i ∈ is, s.accessCheck (addr i) sz.bytes true false = none) → Does (.scat gd sz os d a x) s fun t =>
      Issues s t [acc .store fun i => BitVec.ofNat 64 (lane (s.rdW d) i)] []))
  ∧ (∀ (s : State) (gd : Guard) (os : Os) (d : R16) (q : R64) (m : Mem), s.guard gd = true →
    let ea := s.ea m 64
    let sh := s.rdShape d
    let n := imageBytes sh
    let nx := shElems sh / 2 + shElems sh / 32
    let blk : Q512 := Fin.ofNat 512 (s.g q).toNat
    let lat := pathLat s.env.core 16 ea.1
    let acc (kind : AccKind) (k data : Nat) : Access :=
      { Access.make kind (clsMask os.cls) os.scope (mkElems ea.1 k data) with taint := ea.2 }
    let load (i : Instr) (k : Nat) (dest : LoadDest) : Prop := s.accessCheck ea.1 k false true = none → Does i s fun t =>
      Issues s t [{ acc (.load false) k 0 with dest := dest, due := s.now + lat }] [(lat, .load s.cur.nextId, 0)]
    let store (i : Instr) (k data : Nat) : Prop := s.accessCheck ea.1 k true true = none → Does i s fun t =>
      Issues s t [acc .store k data] []
    (d.val < s.alloc.tiles → shapeOk sh = true →
      load (.ldt gd os d m) n (.tile d sh) ∧ store (.stt gd os d m) n (s.rdTile d).toNat
      ∧ (shTy sh = 2 → load (.ldtMx4 gd os d m) nx (.tileMx4 d sh s.rdSct)))
    ∧ (blk.val < s.alloc.acc → load (.ldq gd os q m) 4096 (.block blk) ∧ store (.stq gd os q m) 4096 (s.rdBlock blk).toNat))

/-- The ordering and signalling forms (10 R147, R148, R157, 19 R302, 24 R371, R372): each issues one access without bytes that
is ordered with the classes of its mask, or after every earlier access of the context; what follows a FENCE.e waits for it where
the context has engine work that it may observe; PREF fills the line that its address names, where the context may read it and
no pin keeps it away (log 76), and changes nothing else but the MSC and the energy count. BARA records the phase it arrives at when it
commits (log 39). -/
def Obligations.OrderingFormResults : Prop :=
  ∀ (s : State) (gd : Guard) (os : Os) (sc : Scope) (d a v : R64) (m : Mem) (b : Fin 4), s.guard gd = true →
    let all (kind : AccKind) (sc : Scope) : Access := { Access.make kind 0 sc unitElem with allRel := true }
    Does (.fence gd sc d) s (fun t => Issues s t [Access.make (.fence false) ((s.g d).setWidth 16) sc unitElem] [])
    ∧ Does (.fenceE gd sc d) s (fun t => Issues s t [{ Access.make (.fence true) ((s.g d).setWidth 16) sc unitElem with
        acqAll := s.hasJobs s.env.core s.env.ctx }] [])
    ∧ Does (.evsig gd v) s (fun t => Issues s t [all (.evsig v) .system] [])
    ∧ Does (.pref gd os m) s (fun t =>
        let ea := (s.ea m 1).1
        let c := s.env.core
        let bare (u : State) : State := { u.modCore c fun k => { k with l1 := [] } with msc := s.msc }
        (isScratch ea = true → t = s)
        ∧ (isScratch ea = false → (∀ pa, s.physCtx c s.env.ctx false ea.toNat ≠ .ok pa) → t = s)
        ∧ ∀ pa, isScratch ea = false → s.physCtx c s.env.ctx false ea.toNat = .ok pa →
            (s.pinnedLoc (some c) (.mem pa) = true → t = s)
            ∧ (s.pinnedLoc (some c) (.mem pa) = false → Sends (bare s) (bare t) []
                ∧ (∃ e ∈ (t.core c).l1, e.line = pa / 64 ∧ e.data.toNat = memReadN s.gmem (64 * (pa / 64)) 64)
                ∧ ∀ e ∈ (t.core c).l1, e.line = pa / 64 ∨ e ∈ (s.core c).l1))
    ∧ (s.cur.hm = true →
        Does (.tlbinv gd sc a) s (fun t => Issues s t [all (.tlbinv sc (some (s.g a))) sc] [])
        ∧ Does (.tlbinvAll gd sc) s (fun t => Issues s t [all (.tlbinv sc none) sc] []))
    ∧ (s.user →
        (s.cur.phase[b] ≠ (s.bar b).phase → Does (.bara gd b) s fun t =>
          Issues (s.modCur fun u => { u with phase := u.phase.set b (s.bar b).phase }) t [all (.bara b) .heath] [])
        ∧ (s.cur.phase[b] = (s.bar b).phase → Does (.bara gd b) s fun t => t = s)
        ∧ Does (.barw gd b) s (fun t => t = if s.cur.phase[b] = (s.bar b).phase
            then s.modEnv fun e => { e with block := ⟨e.block.s0, some b⟩ } else s))
    ∧ Does (.barq gd d b) s (fun t => Sends s t (gRes 1 d
        (BitVec.ofNat 64 ((s.bar b).phase.toNat * 2 ^ 32 + (s.bar b).count % 64)) false))

/-- STORE_PERFORM of a store (10 R135, R153): the element's bytes are written at its place, and every other byte of every vault
and of global memory keeps its value. LATE_DATA_ARRIVAL of a load (10 R135, R136, R141): the element takes the bytes that stand at
its place in a vault or in memory, or, where the load is not one that reads the point of coherence and the core's L1 holds the line
unpoisoned, those of the L1 (whether the line is still there is free); a miss fills the line; no byte of memory changes, and no
register is written before the load's result becomes visible. An ATOM performs in a vault or in memory (10 R136, R146, R153): it
takes the old value and writes the combination in one step, `.min` and `.max` by SG, an L1 copy in its core with it, and every other
byte keeps its value; a compare-and-swap that does not match writes nothing. -/
def Obligations.AccessesPerform : Prop :=
  (∀ (s : State) (c : CoreId) (x : CtxId) (a : Access) (k : Nat) (e : Elem), s.CanonicalMemory →
    s.findAcc c x a.id = some a → a.kind = .store → a.elems[k]? = some e → s.canPerform c x a k = true →
    (isScratch e.a = true → Does (.storePerform (.access c x a.id k)) s fun t => t.gmem = s.gmem ∧
      ∀ (d : CoreId) (o : Nat), memRead (t.core d).vault o =
        if d = vaultCore c e.a ∧ vaultOfs e.a ≤ o ∧ o < vaultOfs e.a + e.n
          then BitVec.ofNat 8 (e.data.toNat / 2 ^ (8 * (o - vaultOfs e.a))) else memRead (s.core d).vault o)
    ∧ (∀ pa, isScratch e.a = false → s.physCtx c x true e.a.toNat = .ok pa →
      Does (.storePerform (.access c x a.id k)) s fun t => (∀ d, (t.core d).vault = (s.core d).vault) ∧
        ∀ o : Nat, memRead t.gmem o =
          if pa ≤ o ∧ o < pa + e.n then BitVec.ofNat 8 (e.data.toNat / 2 ^ (8 * (o - pa))) else memRead s.gmem o))
  ∧ (∀ (s : State) (c : CoreId) (x : CtxId) (a : Access) (k : Nat) (e : Elem) (poc : Bool),
    s.findAcc c x a.id = some a → a.kind = .load poc → a.elems[k]? = some e → s.canPerform c x a k = true →
    isScratch e.a = true → s.poisonedLoc (.vault (vaultCore c e.a) (vaultOfs e.a)) e.n = false →
    Does (.lateDataArrival c x a.id k) s fun t =>
      (∃ b, t.findAcc c x a.id = some b ∧ b.elems[k]? = some { e with
        done := true
        val := BitVec.ofNat 64 (memReadN (s.core (vaultCore c e.a)).vault (vaultOfs e.a) e.n) })
      ∧ t.gmem = s.gmem ∧ (∀ d, (t.core d).vault = (s.core d).vault) ∧ (t.ctx c x).g = (s.ctx c x).g)
  ∧ (∀ (s : State) (c : CoreId) (x : CtxId) (a : Access) (k : Nat) (e : Elem) (poc : Bool) (pa : Nat),
    s.findAcc c x a.id = some a → a.kind = .load poc → a.elems[k]? = some e → s.canPerform c x a k = true →
    isScratch e.a = false → s.physCtx c x false e.a.toNat = .ok pa → s.poisonedLoc (.mem pa) e.n = false →
    let now := memReadN s.gmem pa e.n
    Does (.lateDataArrival c x a.id k) s fun t =>
      (∃ b v, t.findAcc c x a.id = some b ∧ b.elems[k]? = some { e with
          done := true
          val := BitVec.ofNat 64 v }
        ∧ (poc = true ∨ s.l1Find c pa = none → v = now)
        ∧ ∀ ln, s.l1Find c pa = some ln → v = now ∨ v = ln.data.toNat / 2 ^ (8 * (pa % 64)) % 2 ^ (8 * e.n))
      ∧ (poc = false → s.l1Find c pa = none → a.acq = false → (∀ d, a.dest ≠ .cpyst d) → (s.ctx c x).run ≠ .blocked →
          ∃ ln ∈ (t.core c).l1, ln.line = pa / 64 ∧ ln.data.toNat = memReadN s.gmem (64 * (pa / 64)) 64)
      ∧ t.gmem = s.gmem ∧ (∀ d, (t.core d).vault = (s.core d).vault) ∧ (t.ctx c x).g = (s.ctx c x).g)
  ∧ (∀ (s : State) (c : CoreId) (x : CtxId) (a : Access) (e : Elem) (op : AtOp) (sg : Sg) (v cmp : Word), s.CanonicalMemory →
    s.findAcc c x a.id = some a → a.kind = .atom op sg v cmp → a.elems = [e] → s.canPerform c x a 0 = true → e.n = 4 ∨ e.n = 8 →
    let y := v.toNat % 2 ^ (8 * e.n)
    let num (z : Nat) : Int := match sg with
      | .u => (z : Int)
      | .s => if z < 2 ^ (8 * e.n - 1) then (z : Int) else (z : Int) - 2 ^ (8 * e.n)
    let new (old : Nat) : Nat := match op with
      | .add => (old + y) % 2 ^ (8 * e.n)
      | .min => if num old ≤ num y then old else y
      | .max => if num y ≤ num old then old else y
      | .and => old &&& y
      | .or => old ||| y
      | .xor => old ^^^ y
      | .swap => y
      | .cas => if old = cmp.toNat % 2 ^ (8 * e.n) then y else old
    let takes (t : State) (old : Nat) : Prop := ∃ b, t.findAcc c x a.id = some b ∧ b.elems = [{ e with
      done := true
      val := BitVec.ofNat 64 old }]
    (isScratch e.a = true → s.poisonedLoc (.vault (vaultCore c e.a) (vaultOfs e.a)) e.n = false →
      let old := memReadN (s.core (vaultCore c e.a)).vault (vaultOfs e.a) e.n
      Does (.lateDataArrival c x a.id 0) s fun t => takes t old ∧ t.gmem = s.gmem
        ∧ ∀ (d : CoreId) (o : Nat), memRead (t.core d).vault o =
          if d = vaultCore c e.a ∧ vaultOfs e.a ≤ o ∧ o < vaultOfs e.a + e.n
            then BitVec.ofNat 8 (new old / 2 ^ (8 * (o - vaultOfs e.a))) else memRead (s.core d).vault o)
    ∧ ∀ pa, isScratch e.a = false → s.physCtx c x true e.a.toNat = .ok pa → s.poisonedLoc (.mem pa) e.n = false →
      let old := memReadN s.gmem pa e.n
      Does (.lateDataArrival c x a.id 0) s fun t => takes t old ∧ (∀ d, (t.core d).vault = (s.core d).vault)
        ∧ (∀ o : Nat, memRead t.gmem o =
          if pa ≤ o ∧ o < pa + e.n then BitVec.ofNat 8 (new old / 2 ^ (8 * (o - pa))) else memRead s.gmem o)
        ∧ (pa % e.n = 0 → (op = .cas → old = cmp.toNat % 2 ^ (8 * e.n)) →
            ∀ ln ∈ (t.core c).l1, ln.line = pa / 64 → ln.data.toNat / 2 ^ (8 * (pa % 64)) % 2 ^ (8 * e.n) = new old))

/-- RESULT_VISIBLE (03 R40 to R42, 10 R141 to R146, R166, 24 R361): the first result of those due, a write of cr.vstat before the
flags of its step (log 63), reaches its register, once the data of every one due has come; its flags are ORed into cr.vstat, and
nothing else changes: no byte of memory, no other register. CPY's result is the promise of its job, all ones without one (19 R287,
all ones where no job has it); SUBSCR's is its status, and only status 0 starts a subscription (19 R295); LDT.mx4 looks each scale of
its image up in the table of its issue, and raises SCALE_MISS at the first that has no entry (10 R144). A load that met a fault or
poison leaves its register and becomes a pending fault; that it does so for causes 0x18 and 0x19 too is log 32, and that a poisoned
card leaves CPY a free promise and SUBSCR status 3 is log 36. A write of a control register becomes visible (08 R97, 24 R364): the
registers that MOVC and MOVC.sys may write take the value by the access of each; every other number keeps its register. -/
def Obligations.ResultsReachTheirRegisters : Prop :=
  (∀ (s : State) (c : CoreId) (f : Flight) (pre post : List Flight),
    let k := s.core c
    let x := f.ctx
    let clears (g : Flight) : Prop := ∃ v, g.wr = .cr 0x011 v
    k.due = pre ++ f :: post → (∀ g ∈ pre, ¬clears g) → clears f ∨ pre = [] ∧ (∀ g ∈ post, ¬clears g) →
    (∀ g ∈ k.due, ∀ id, g.wr = .load id → ∃ a, s.findAcc c g.ctx id = some a ∧ a.performed = true) →
    (∀ y, ∀ b ∈ (s.ctx c y).accs, b.performed = true
      ∧ ∀ d j q, b.dest = .card d j → s.job j = some q → q.image.isSome = true ∨ q.status.isSome = true) →
    let base := (s.modCore c fun k => { k with inflight := k.inflight.erase f }).modCtx c x fun t => { t with vstat := t.vstat ||| f.flags }
    let out (b : State) (h : Ctx → Ctx) : Prop := exec (.resultVisible c) s = .next (b.modCtx c x h)
    let setG (d : R64) (v : Word) (tn : Bool) (t : Ctx) : Ctx := if d = 0 then t else { t with g := t.g.set d ⟨v, tn⟩ }
    let onCore (t : State) : Prop := t.gmem = s.gmem ∧ (t.core c).vault = k.vault ∧ (t.core c).inflight = k.inflight.erase f
      ∧ (∀ y, y ≠ x → t.ctx c y = s.ctx c y) ∧ ∀ d, d ≠ c → t.core d = s.core d
    let setTile (t : State) (m : R16) (mask data : BitVec 262144) : Prop :=
      let p := physTile k.alloc x m
      (∀ i : Nat, ((t.core c).tiles[p]).getLsbD i = if mask.getLsbD i then data.getLsbD i else (k.tiles[p]).getLsbD i)
      ∧ (∀ q, q ≠ p → (t.core c).tiles[q] = k.tiles[q]) ∧ (t.core c).blocks = k.blocks
    let setBlock (t : State) (q : Q512) (v : BitVec 32768) : Prop :=
      (t.core c).blocks = k.blocks.set (physBlock k.alloc x q.val) v ∧ (t.core c).tiles = k.tiles
    (∀ d v tn, f.wr = .g d v tn → out base (setG d v tn))
    ∧ (∀ d v, f.wr = .dom d v → out base (setG d v false))
    ∧ (∀ d v tn, f.wr = .a d v tn → out base fun t => { t with a := t.a.set d { t.a[d] with v := v, taint := tn } })
    ∧ (∀ d j v, f.wr = .stride d j v → out base fun t => { t with a := t.a.set d { t.a[d] with stride := (t.a[d]).stride.set j v } })
    ∧ (∀ d v, f.wr = .p d v → out base fun t => if d = 0 then t else { t with p := t.p.set d v })
    ∧ (∀ v, f.wr = .sp v → out base fun t => { t with sp := v })
    ∧ (∀ d v n, f.wr = .b d v n → out base fun t => { t with b := t.b.set d ⟨v, n⟩ })
    ∧ (∀ n v, f.wr = .cr n v → out base fun t => t.crWrite n v)
    ∧ (f.wr = .flags → out base id)
    ∧ (∀ v, f.wr = .fmt v → out base fun t => { t with
        fmt := v
        fmtAt := some k.step
        cursor := none
        noRewrite := false })
    ∧ (∀ d v, f.wr = .w d v → Does (.resultVisible c) s fun t => onCore t ∧ t.ctx c x = { base.ctx c x with w := (s.ctx c x).w.set d v }
        ∧ (t.core c).tiles = k.tiles ∧ (t.core c).blocks = k.blocks)
    ∧ (∀ m mask data, f.wr = .tile m mask data → Does (.resultVisible c) s fun t => onCore t ∧ t.ctx c x = base.ctx c x ∧ setTile t m mask data)
    ∧ (∀ q v, f.wr = .q q v → Does (.resultVisible c) s fun t => onCore t ∧ t.ctx c x = base.ctx c x ∧ setBlock t q v)
    ∧ (∀ q op, f.wr = .acc q op → let r := op.apply (k.blocks[physBlock k.alloc x q.val])
        Does (.resultVisible c) s fun t => onCore t ∧ t.ctx c x = { base.ctx c x with vstat := (base.ctx c x).vstat ||| r.2 } ∧ setBlock t q r.1)
    ∧ ∀ n a, f.wr = .load n → s.findAcc c x n = some a →
        let gone := base.modCtx c x fun t => { t with accs := t.accs.filter fun b => b.id != a.id }
        let pends (cause : BitVec 8) (at1 : Addr) : Prop := out gone fun t => { t with
          faults := t.faults ++ [⟨cause, at1.setWidth 64, 0, a.hdr.setWidth 56, a.slot⟩] }
        (∀ e, a.fail = some e → pends e.2 e.1)
        ∧ (∀ g, a.fail = none → a.poison = some g → (∀ d card, a.dest ≠ .subCard d card) → (∀ d j, a.dest ≠ .card d j) → pends 0x1A g)
        ∧ (∀ g, a.fail = none → a.poison = some g →
            (∀ d card, a.dest = .subCard d card → out gone (setG d 3 false))
            ∧ (∀ d j, a.dest = .card d j → ∃ v, out { gone with choices := s.choices + 1 } (setG d v false)))
        ∧ (a.fail = none → a.poison = none →
            (a.dest = .none → out gone id)
            ∧ (∀ d n sgn tn, a.dest = .g d n sgn tn → out gone (setG d (if sgn then BitVec.ofInt 64 (patInt (8 * n) true (a.value % 2 ^ (8 * n)))
                else BitVec.ofNat 64 (a.value % 2 ^ (8 * n))) tn))
            ∧ (∀ d, a.dest = .cpyst d → out gone (setG d (BitVec.ofNat 64 a.value) false))
            ∧ (a.dest = .sct → out gone fun t => { t with
                sct := BitVec.ofNat 512 a.value
                fmtAt := some k.step
                noRewrite := false })
            ∧ (∀ d, a.dest = .w d ∨ a.dest = .gath d → Does (.resultVisible c) s fun t => onCore t
                ∧ t.ctx c x = { gone.ctx c x with w := (s.ctx c x).w.set d (BitVec.ofNat 4096 a.value) })
            ∧ (∀ m sh, a.dest = .tile m sh → Does (.resultVisible c) s fun t => onCore t ∧ t.ctx c x = gone.ctx c x
                ∧ setTile t m (BitVec.ofNat 262144 (2 ^ (8 * imageBytes sh) - 1)) (BitVec.ofNat 262144 a.value))
            ∧ (∀ m sh sct, a.dest = .tileMx4 m sh sct →
                let E := shElems sh
                let scale (b : Nat) : Nat := a.value / 2 ^ (4 * E + 8 * b) % 256
                let hit (b j : Nat) : Prop := scale b ≠ 255 ∧ j < 16
                  ∧ sct.toNat / 2 ^ (32 * j) % 2 ^ 32 = if scale b = 0 then 0x00400000 else scale b * 2 ^ 23
                (∀ ix : Nat → Nat, (∀ b < E / 32, hit b (ix b) ∧ ∀ j < ix b, ¬hit b j) → Does (.resultVisible c) s fun t =>
                    onCore t ∧ t.ctx c x = gone.ctx c x ∧ setTile t m (BitVec.ofNat 262144 (2 ^ (8 * imageBytes sh) - 1))
                      (BitVec.ofNat 262144 (a.value % 2 ^ (4 * E)
                        + ((List.range (E / 32)).map fun b => ix b * 2 ^ (4 * b)).sum * 2 ^ (4 * E))))
                ∧ ∀ e b, a.elems[0]? = some e → b < E / 32 → (∀ j, ¬hit b j) → (∀ b' < b, ∃ j, hit b' j) →
                    out gone fun t => { t with faults := t.faults ++
                      [⟨0x11, BitVec.ofNat 64 (e.a.toNat + E / 2 + b), 0, a.hdr.setWidth 56, a.slot⟩] })
            ∧ (∀ d j, a.dest = .card d j → out gone (setG d (match (s.job j).bind (·.promise) with
                | some p => BitVec.ofNat 64 p
                | none => BitVec.allOnes 64) false))
            ∧ (∀ d card, a.dest = .subCard d card →
                let im := a.value
                let r : Fin 4 := Fin.ofNat 4 (im / 2 ^ 58)
                let status (n : Nat) : Prop := out gone (setG d (BitVec.ofNat 64 n) false)
                (k.rings[r] = none → status 1)
                ∧ ∀ g, k.rings[r] = some g → (∀ u, k.subs[r] = some u → u.endCode = none → status 2)
                  ∧ (k.subs[r] = none →
                    let ok : Prop := subValid im = true ∧ cardLen0 im * cardRuns im (im / 2 ^ 320 % 8 - 1) ≤ g.z
                      ∧ ∀ i < g.n, memReadN k.vault (g.flag i) 4 = 0
                    (¬ok → status 3)
                    ∧ (ok → ∃ u : Sub, u.owner = x ∧ u.card = card ∧ u.cursor = 0 ∧ u.tile = 0 ∧ u.slots = List.replicate g.n .empty
                        ∧ u.ending = none ∧ u.im = im % 2 ^ 320 ∧ u.td = im / 2 ^ 320 % 8
                        ∧ out (gone.modCore c fun k => { k with
                            subs := k.subs.set r (some u)
                            doneSubs := k.doneSubs.filter (· != card) }) (setG d 0 false))))
            ∧ ∀ q, a.dest = .block q → Does (.resultVisible c) s fun t => onCore t ∧ t.ctx c x = gone.ctx c x
                ∧ setBlock t q (BitVec.ofNat 32768 a.value)))
  ∧ (∀ (t : Ctx) (n : BitVec 10) (v : Word),
    let u := t.crWrite n v
    let k := n.toNat
    (k = 0x001 → u = { t with priNext := some (v.getLsbD 0) })
    ∧ (k = 0x011 → u = { t with vstat := t.vstat &&& ~~~(v.setWidth 7) })
    ∧ (k = 0x020 → u = { t with nbud := v.setWidth 32 })
    ∧ (k = 0x022 → u = { t with nbt := v.getLsbD 1, npe := v.getLsbD 0 })
    ∧ (k = 0x023 → u = { t with ftv := v })
    ∧ (∀ m : R16, k = 0x100 + m.val → u.mshp = t.mshp.set m (v.setWidth 20) ∧ u.g = t.g)
    ∧ (k = 0x205 → u.frame.addr.toNat = v.toNat % 2 ^ 45 ∧ u.frame.after = false ∧ u.frame.sr = 0 ∧ u.frame.pt = false
        ∧ u.frame.rwe = 0 ∧ u.frame.snaps = [] ∧ u.frame.cause = t.frame.cause)
    ∧ (∀ j : R8, k = 0x208 + j.val → u = { t with tsv := t.tsv.set j v })
    ∧ (k ≠ 0x001 ∧ k ≠ 0x011 ∧ k ≠ 0x020 ∧ k ≠ 0x022 ∧ k ≠ 0x023 ∧ ¬(0x100 ≤ k ∧ k ≤ 0x10F) ∧ k ≠ 0x205
        ∧ ¬(0x208 ≤ k ∧ k ≤ 0x20F) → u = t))

/-! ### Vector forms -/

/-- The integer vector forms (13 R195, R197): each lane is the exact result, clamped to the type with SAT and else taken
modulo its width; SAT raises its flag just when a lane was clamped. The bitwise, select and shift forms (13 R193, R196, R197):
a lane shifted by its width or more keeps no bit, or the sign alone. -/
def Obligations.VectorIntegerAndBitResults : Prop :=
  (∀ (s : State) (gd : Guard) (ty : VTy) (sat : Bool) (d a b : R64), s.guard gd = true → ty.inI = true →
    let n := ty.width
    let num (w : BitVec 4096) (i : Nat) : Int := patInt n ty.isSigned (laneOf n i w)
    let x := num (s.rdW a)
    let y := num (s.rdW b)
    let z := num (s.rdW d)
    let lo : Int := if ty.isSigned then -(2 ^ (n - 1)) else 0
    let hi : Int := if ty.isSigned then 2 ^ (n - 1) - 1 else 2 ^ n - 1
    let out (i : Instr) (r : Nat → Int) : Prop := ∃ fl : BitVec 7,
      (fl = 32 ∧ sat = true ∧ (∃ j < ty.elems, r j < lo ∨ hi < r j) ∨ fl = 0 ∧ (sat = true → ∀ j < ty.elems, lo ≤ r j ∧ r j ≤ hi)) ∧
      Does i s fun t => SendsLanes s t 4 d n ty.elems (fun j => ((if sat then max lo (min hi (r j)) else r j) % 2 ^ n).toNat) fl
    out (.viadd gd ty sat d a b) (fun j => x j + y j) ∧ out (.visub gd ty sat d a b) (fun j => x j - y j)
    ∧ out (.vimul gd ty sat d a b) (fun j => x j * y j) ∧ out (.vimad gd ty sat d a b) (fun j => x j * y j + z j))
  ∧ (∀ (s : State) (gd : Guard) (ty : VTy) (d a b c : R64), s.guard gd = true → ty.inI = true →
    let n := ty.width
    let wa := s.rdW a
    let wb := s.rdW b
    let wc := s.rdW c
    let out (i : Instr) (f : Nat → Nat) : Prop := Does i s fun t => SendsLanes s t 4 d n ty.elems f 0
    Does (.vand gd d a b) s (fun t => Sends s t [(4, .w d (wa &&& wb), 0)])
    ∧ Does (.vor gd d a b) s (fun t => Sends s t [(4, .w d (wa ||| wb), 0)])
    ∧ Does (.vxor gd d a b) s (fun t => Sends s t [(4, .w d (wa ^^^ wb), 0)])
    ∧ (∃ v : BitVec 4096, (∀ k, v.getLsbD k = if wc.getLsbD k then wa.getLsbD k else wb.getLsbD k)
        ∧ Does (.vsel gd d a b c) s fun t => Sends s t [(4, .w d v, 0)])
    ∧ out (.vshl gd ty d a b) (fun i => if laneOf n i wb < n then laneOf n i wa * 2 ^ laneOf n i wb % 2 ^ n else 0)
    ∧ out (.vshr gd ty d a b) (fun i => if laneOf n i wb < n then laneOf n i wa / 2 ^ laneOf n i wb else 0)
    ∧ out (.vsra gd ty d a b) (fun i => if laneOf n i wb < n then (patInt n true (laneOf n i wa) / 2 ^ laneOf n i wb % 2 ^ n).toNat
        else if 2 ^ (n - 1) ≤ laneOf n i wa then 2 ^ n - 1 else 0))

/-- Lanes are laid from the least significant end (13 R185): what is packed from elements of `n` bits is read back element by
element, and the bits above them are 0. The floating-point forms that do not round (13 R188, R192, R194): sign changes,
minimum and maximum, comparison and mask, lane by lane and without flags. The floating-point arithmetic forms (13 R188, R189):
every lane is the exact sum, difference, product or fused result of its operands, rounded once, and the lanes' flags are ORed.
The special functions (13 R190, R191): latency 8, lane by lane; log 8 names the free value within the bound of Table 13.5. -/
def Obligations.VectorFloatResults : Prop :=
  (∀ (n : Nat) (l : List Nat), 0 < n → n * l.length ≤ 4096 → (∀ x ∈ l, x < 2 ^ n) →
    (∀ i : Nat, (h : i < l.length) → laneOf n i (packLanes n l) = l[i]) ∧ ∀ k, n * l.length ≤ k → (packLanes n l).getLsbD k = false)
  ∧ (∀ (s : State) (gd : Guard) (ty : VTy) (fc : Fc) (d a b : R64), s.guard gd = true → ty.inF = true →
    let n := ty.width
    let f := tyFmt ty
    let x (i : Nat) : Nat := laneOf n i (s.rdW a)
    let y (i : Nat) : Nat := laneOf n i (s.rdW b)
    let out (i : Instr) (g : Nat → Nat) : Prop := Does i s fun t => SendsLanes s t 4 d n ty.elems g 0
    out (.vabs gd ty d a) (fun i => if isNanCode f (x i) then defaultNan f else x i % 2 ^ (n - 1))
    ∧ out (.vneg gd ty d a) (fun i => if isNanCode f (x i) then defaultNan f else (x i + 2 ^ (n - 1)) % 2 ^ n)
    ∧ out (.vmin gd ty d a b) (fun i => fpMinMax f false (x i) (y i)) ∧ out (.vmax gd ty d a b) (fun i => fpMinMax f true (x i) (y i))
    ∧ out (.vcmp gd fc ty d a b) (fun i => if fpCmp f fc (x i) (y i) then 2 ^ n - 1 else 0)
    ∧ out (.vmask gd ty d a b) (fun i => if (s.rdW b).getLsbD i then x i else negInf f))
  ∧ (∀ (s : State) (gd : Guard) (ty : VTy) (rm : Rm) (d a b : R64) (v : Imm), s.guard gd = true → ty.inF = true →
    let f := tyFmt ty
    let lane (t : VTy) (r : R64) (i : Nat) : Nat := laneOf t.width i (s.rdW r)
    let out (i : Instr) (t : VTy) (g : Nat → Nat × BitVec 7) : Prop :=
      let l := (List.range t.elems).map g
      Does i s fun u => Sends s u [(4, .w d (packLanes t.width (l.map (·.1))), orFlags l)]
    let V := (s.immV v).toNat
    out (.vadd gd ty rm d a b) ty (fun i => fpAdd f rm (lane ty a i) (lane ty b i))
    ∧ out (.vsub gd ty rm d a b) ty (fun i => fpSub f rm (lane ty a i) (lane ty b i))
    ∧ out (.vmul gd ty rm d a b) ty (fun i => fpMul f rm (lane ty a i) (lane ty b i))
    ∧ out (.vfma gd ty rm d a b) ty (fun i => fpFma f rm false (lane ty a i) (lane ty b i) (lane ty d i))
    ∧ out (.vfms gd ty rm d a b) ty (fun i => fpFma f rm true (lane ty a i) (lane ty b i) (lane ty d i))
    ∧ out (.vaddI gd d a v) .f32 (fun i => fpAdd fp32 .rn (lane .f32 a i) V)
    ∧ out (.vfmaI gd d a v) .f32 (fun i => fpFma fp32 .rn false (lane .f32 d i) (lane .f32 a i) V))
  ∧ (∀ (s : State) (gd : Guard) (ty : VTy) (d a : R64), s.guard gd = true → ty.inF = true →
    let out (i : Instr) (fn : Nat) : Prop :=
      let l := (List.range ty.elems).map fun j => specialLane ty fn (laneOf ty.width j (s.rdW a))
      Does i s fun t => Sends s t [(8, .w d (packLanes ty.width (l.map (·.1))), orFlags l)]
    out (.vrcp gd ty d a) 0x0C ∧ out (.vrsq gd ty d a) 0x0D ∧ out (.vsqrt gd ty d a) 0x0E ∧ out (.vexp2 gd ty d a) 0x0F
    ∧ out (.vlog2 gd ty d a) 0x10 ∧ out (.vsin gd ty d a) 0x11 ∧ out (.vcos gd ty d a) 0x12 ∧ out (.vtanh gd ty d a) 0x13)

/-- The conversions (13 R198 to R201): VCVT converts lane by lane; VNARR gathers the elements of consecutive registers and
VPACK those of two; VWIDEN and VUNPK spread element j to register D + j mod CNT. -/
def Obligations.VectorConversionResults : Prop :=
  ∀ (s : State) (gd : Guard) (dt st : VTy) (rm : Rm) (sat : Bool) (d a b : R64), s.guard gd = true →
    let x (r : R64) (i : Nat) : Nat := laneOf st.width i (s.rdW r)
    let cv (c : Nat) : Nat × BitVec 7 := convertElem dt st rm sat c
    let one (i : Instr) (l : List (Nat × BitVec 7)) : Prop :=
      Does i s fun t => Sends s t [(4, .w d (packLanes dt.width (l.map (·.1))), orFlags l)]
    let spread (i : Instr) (cnt : Nat) (l : List (Nat × BitVec 7)) : Prop :=
      Does i s fun t => Sends s t ((List.range cnt).map fun r =>
        (4, .w (Fin.ofNat 64 (d.val + r)) (packLanes dt.width ((l.zipIdx.filter fun e => e.2 % cnt == r).map (·.1.1))),
          if r = 0 then orFlags l else 0))
    one (.vcvt gd dt st rm sat d a) ((List.range st.elems).map fun i => cv (x a i))
    ∧ one (.vnarr gd dt st rm sat d a) (let r := widthRatio st dt
        (List.range dt.elems).map fun j => cv (if j % r < r ∧ j / r < st.elems then x (Fin.ofNat 64 (a.val + j % r)) (j / r) else 0))
    ∧ one (.vpack gd dt st rm sat d a b) ((List.range st.elems).flatMap fun i => [cv (x a i), cv (x b i)])
    ∧ spread (.vwiden gd dt st d a) (widthRatio dt st) ((List.range st.elems).map fun i => ((convertElem dt st .rn false (x a i)).1, 0))
    ∧ spread (.vunpk gd dt st rm sat d a) (vunpkCnt dt st) ((List.range st.elems).map fun i => cv (x a i))

/-- The permutation and movement forms (13 R205 to R208), lane by lane. -/
def Obligations.VectorMovementResults : Prop :=
  ∀ (s : State) (gd : Guard) (lw : LaneW) (d a b : R64) (v : Imm), s.guard gd = true →
    let n := lw.width
    let cnt := 4096 / n
    let wa := s.rdW a
    let x (i : Nat) : Nat := laneOf n i wa
    let y (i : Nat) : Nat := laneOf n i (s.rdW b)
    let mix (j : Nat) : Nat := if j % 2 = 0 then x (j / 2) else y (j / 2)
    Does (.vperm gd lw d a b) s (fun t => SendsLanes s t 4 d n cnt
        (fun i => if lw = .b then x (256 * (i / 256) + y i) else x (y i % cnt)) 0)
    ∧ Does (.vbcast gd lw d a) s (fun t => SendsLanes s t 4 d n cnt (fun _ => (s.g a).toNat % 2 ^ n) 0)
    ∧ Does (.vbcastI gd d v) s (fun t => SendsLanes s t 4 d 32 128 (fun _ => (s.immV v).toNat) 0)
    ∧ (∃ p q, (∀ i < cnt, laneOf n i p = mix i ∧ laneOf n i q = mix (cnt + i)) ∧
        Does (.vshuf gd lw d a b) s fun t => Sends s t [(4, .w d p, 0), (4, .w (d + 1) q, 0)])
    ∧ Does (.vmovg gd lw d a b) s (fun t => Sends s t (gRes 4 d (BitVec.ofNat 64 (x ((s.g b).toNat % cnt))) false))

/-- The reductions, scans and VARGMAX (13 R202 to R204) complete with the value of the fixed tree; over integers, the sum
modulo the width, the greatest element, and the lowest lane that holds it. -/
def Obligations.VectorReductionResults : Prop :=
  ∀ (s : State) (gd : Guard) (ty : VTy) (op : ScanOp) (d a : R64), s.guard gd = true →
    let w := s.rdW a
    let n := ty.width
    let x (i : Nat) : Int := patInt n ty.isSigned (laneOf n i w)
    let t := treeOf ty (scanComb op) w
    let l := (List.range ty.elems).map fun i => scanLane ty (scanComb op) t.1 (i + 1) (Nat.log2 ty.elems) 0 none 0
    Does (.vredadd gd ty d a) s (fun u => Sends s u [(4, .w d (packLanes n [(reduce ty .add w).1]), (reduce ty .add w).2)])
    ∧ Does (.vredmax gd ty d a) s (fun u => Sends s u [(4, .w d (packLanes n [(reduce ty .max w).1]), (reduce ty .max w).2)])
    ∧ Does (.vscan gd op ty d a) s (fun u => Sends s u [(4, .w d (packLanes n (l.map (·.1))), t.2 ||| orFlags l)])
    ∧ (ty.inI = true →
        (reduce ty .add w).2 = 0 ∧ (reduce ty .max w).2 = 0
        ∧ (reduce ty .add w).1 = ((List.range ty.elems).map (laneOf n · w)).sum % 2 ^ n
        ∧ (∃ i < ty.elems, (reduce ty .max w).1 = laneOf n i w ∧ ∀ j < ty.elems, x j ≤ x i)
        ∧ ∃ i < ty.elems, (∀ j < ty.elems, x j ≤ x i) ∧ (∀ j < i, x j < x i)
          ∧ Does (.vargmax gd ty d a) s fun u => Sends s u (gRes 4 d (BitVec.ofNat 64 i) false))
    ∧ Does (.vargmax gd ty d a) s (fun u => Sends s u (gRes 4 d (match argmax ty (tyLanes ty w) with
        | some i => BitVec.ofNat 64 i
        | none => BitVec.allOnes 64) false))

/-! ### Matrix forms -/

/-- One native step of an MMA (17 R249, R250) outside handler mode, its stage predicate true where it has one: at a cursor of the same form that is not at its end, or at
the start of a new sequence, the step at the cursor's position accumulates into its block eight steps later, and the cursor
moves on by one. The accumulating forms and the block moves (17 R251, R252, 18 R272) outside handler mode: their blocks below
ACC and cr.fmt an implemented combination, the update is applied eight steps later to the block as it then stands. -/
def Obligations.MatrixAndAccumulatorForms : Prop :=
  (∀ (s : State) (gd : Guard) (sp : Option R8) (q : Q512) (a b : R16), s.guard gd = true → (∀ j, sp = some j → s.rdSp j = true) → s.user →
    let out (i : Instr) (opc : Nat) : Prop := ∀ c : Cursor,
      (s.cur.cursor = some c ∧ c.opc = opc ∧ c.q = q ∧ c.a = a ∧ c.b = b ∧ c.pos ≠ c.count
        ∨ (∀ c' : Cursor, s.cur.cursor = some c' → ¬(c'.opc = opc ∧ c'.q = q ∧ c'.a = a ∧ c'.b = b ∧ c'.pos ≠ c'.count)) ∧ ∃ ks, stepK s.rdFmt = some ks ∧ s.newCursor opc q a b ks = some c) →
      let blk := c.pos / c.nk
      q.val + blk < s.alloc.acc →
      Does i s fun t => Sends (s.modCur fun u => { u with cursor := some { c with pos := c.pos + 1 } }) t
        [(8, .acc (Fin.ofNat 512 (q.val + blk)) (.mma s.rdFmt s.rdSct (opc == 2) (opc == 3) (s.rdShape a) (s.rdShape b)
          (s.rdTile a) (s.rdTile b) c.m c.n c.kk c.ks (blk / c.nbj) (blk % c.nbj) (c.pos % c.nk)), 0)]
    out (.mma gd sp q a b) 1 ∧ out (.mmaTa gd sp q a b) 2 ∧ out (.mmaTb gd sp q a b) 3)
  ∧ (∀ (s : State) (gd : Guard) (sp : Option R8) (q r : Q512) (a : R16) (n n2 : Cb), s.guard gd = true → (∀ j, sp = some j → s.rdSp j = true) → s.user →
    q.val < s.alloc.acc →
    let out (i : Instr) (w : Wr) (fl : BitVec 7) : Prop := Does i s fun t => Sends s t [(8, w, fl)]
    let f := s.rdFmt
    let ty := shTy (s.rdShape a)
    let p := roundTo fp32 .rn false (2 * uOp) (xMul (decodeFp fp32 uOp (s.rdCb n).toNat) (decodeFp fp32 uOp (s.rdCb n2).toNat)).1
    out (.mzero gd sp q) (.q q 0) 0
    ∧ (r.val < s.alloc.acc → out (.qcpy gd sp q r) (.q q (s.rdBlock r)) 0)
    ∧ ((stepK f).isSome = true →
        out (.mscale gd sp q n) (.acc q (.scale f (s.rdCb n))) 0
        ∧ (r.val < s.alloc.acc → out (.qadd gd sp q r) (.acc q (.add f (s.rdBlock r))) 0)
        ∧ out (.scaleByProduct gd sp q n n2) (.acc q (.scale (f &&& 0xEFF) (BitVec.ofNat 32 p.1))) p.2
        ∧ (a.val < s.alloc.tiles → shapeOk (s.rdShape a) = true →
            (if fmtInt f then ty = 6 ∨ ty = 7 else ty = 0 ∨ ty = 1 ∨ ty = 3 ∨ ty = 4 ∨ ty = 5) →
            out (.mbias gd sp q a) (.acc q (.bias f (s.rdShape a) (s.rdTile a))) 0)))

/-- An integer MMA step is exact modulo 2^32 (17 R250, 12 R167, R182): with INT8 operands, CTYPE INT32 and OSAT 0 every
element in the matrix receives the sum of its products, every element outside keeps its value, and OF is raised just when an
exact sum lies outside INT32. -/
def Obligations.IntegerMatrixStepIsExact : Prop :=
  ∀ (f : BitVec 12) (sct : BitVec 512) (ash bsh : BitVec 20) (ai bi : BitVec 262144) (m n k ks ib jb kb : Nat) (q : BitVec 32768),
    fmtInt f = true → fmtSat f = false →
    let r := (AccOp.mma f sct false false ash bsh ai bi m n k ks ib jb kb).apply q
    let term (i j z : Nat) : Int := tileInt ash ai.toNat (32 * ib + i) z * tileInt bsh bi.toNat z (32 * jb + j)
    let sum (i j : Nat) : Int := patInt 32 true (blkElem q i j)
      + (((List.range ks).filter fun z => decide (ks * kb + z < k)).map fun z => term i j (ks * kb + z)).sum
    let inside (i j : Nat) : Prop := 32 * ib + i < m ∧ 32 * jb + j < n
    let wraps : Prop := ∃ i < 32, ∃ j < 32, inside i j ∧ ¬(-2 ^ 31 ≤ sum i j ∧ sum i j < 2 ^ 31)
    (wraps → r.2 = 4) ∧ (¬wraps → r.2 = 0)
    ∧ ∀ i < 32, ∀ j < 32, (inside i j → blkElem r.1 i j = (sum i j % 2 ^ 32).toNat) ∧ (¬inside i j → blkElem r.1 i j = blkElem q i j)

/-- The forms that write a tile (17 R253 to R257) outside handler mode, their guard and stage predicate true: with tile names
below TILES, valid shapes and the types and sizes that each form requires, MTRN and MCPY move codes, MFILL fills, MCVT converts a
block, MRED writes the sums of a block into row 0 of its tile alone, and MCVT.mx4 converts each row at the scale that fits it, with
its index; the result is visible eight steps later. One whose requirement fails raises an access violation and writes nothing; MCVT.mx4 without a usable scale
raises SCALE_MISS. The index of a row is the lowest of the least scales that its values fit, or of the greatest where none does. -/
def Obligations.TileFormResults : Prop :=
  (∀ (s : State) (gd : Guard) (sp : Option R8) (d a : R16) (q : Q512) (n : Cb) (dt : Dt) (rm : Rm) (sat : Bool),
    s.guard gd = true → (∀ j, sp = some j → s.rdSp j = true) → s.user →
    let sh := s.rdShape d
    let ah := s.rdShape a
    let ty := shTy sh
    let named (m : R16) : Prop := m.val < s.alloc.tiles ∧ shapeOk (s.rdShape m) = true
    let block : Prop := q.val < s.alloc.acc
    let small : Prop := shRows sh ≤ 32 ∧ shCols sh ≤ 32
    let w := tileBits ty
    let writes (i : Instr) (l : List (Nat × Nat × Nat)) (fl : BitVec 7) : Prop :=
      Does i s fun t => Sends s t [(8, .tile d (tileWrite l).1 (tileWrite l).2, fl)]
    let out (i : Instr) (ok : Prop) (l : List (Nat × Nat × Nat)) (fl : BitVec 7) : Prop :=
      (ok → writes i l fl) ∧ (¬ok → s.HandlerReady → Does i s fun t => Enters s t 0x19)
    let ors (l : List (Nat × BitVec 7)) : BitVec 7 := l.foldl (fun acc x => acc ||| x.2) 0
    let at1 (r c : Nat) : Nat := w * (r * shCols sh + c)
    let cs := cells (shRows sh) (shCols sh)
    let nibbles := List.range ((shElems sh + 63) / 64 * 2)
    out (.mtrn gd sp d a) (named d ∧ named a ∧ ty = shTy ah ∧ ty ≠ 2 ∧ shRows sh = shCols ah ∧ shCols sh = shRows ah)
      (cs.map fun x => (at1 x.1 x.2, w, tileCode ah (s.rdTile a).toNat x.2 x.1)) 0
    ∧ (named d ∧ named a ∧ sh = ah → Does (.mcpy gd sp d a) s fun t => ∃ mask data, Sends s t [(8, .tile d mask data, 0)]
        ∧ ∀ k : Nat, k < 262144 → mask.getLsbD k = decide (k < 8 * imageBytes ah)
            ∧ (k < 8 * imageBytes ah → data.getLsbD k = (s.rdTile a).getLsbD k))
    ∧ (¬(named d ∧ named a ∧ sh = ah) → s.HandlerReady → Does (.mcpy gd sp d a) s fun t => Enters s t 0x19)
    ∧ (let v := mfillElem ty (s.rdCb n)
       out (.mfill gd sp d n) (named d) (((List.range (shElems sh)).map fun e => (w * e, w, v.1))
         ++ if ty = 2 then nibbles.map (fun i => (4 * (shElems sh + i), 4, 0)) else []) v.2)
    ∧ (let val (x : Nat × Nat) := mcvtElem dt rm sat (blkElem (s.rdBlock q) x.1 x.2)
       out (.mcvt gd sp dt rm sat d q) (named d ∧ block ∧ ty = dt.code ∧ small) (cs.map fun x => (at1 x.1 x.2, w, (val x).1)) (ors (cs.map val)))
    ∧ (let val (j : Nat) : Nat × BitVec 7 := if ty = 5
         then roundAcc .rn false (2 * uOp) (xSum .rn ((List.range 32).map fun i => blkVal (s.rdBlock q) i j))
         else (wrapInt 32 ((List.range 32).foldl (fun acc i => acc + blkInt (s.rdBlock q) i j) 0), 0)
       let js := List.range (min (shCols sh) 32)
       out (.mred gd sp d q) (named d ∧ block ∧ (ty = 5 ∨ ty = 7)) (js.map fun j => (w * j, w, (val j).1)) (ors (js.map val)))
    ∧ (let ok : Prop := named d ∧ block ∧ ty = 2 ∧ shCols sh = 32 ∧ shRows sh ≤ 32
       let x (r c : Nat) : XVal := decodeFp fp32 uOp (blkElem (s.rdBlock q) r c)
       let idx (r : Nat) : Nat := (mx4Index s.rdSct ((List.range 32).map (x r))).getD 0
       let val (p : Nat × Nat) := mx4Elem rm s.rdSct (idx p.1) (x p.1 p.2)
       let usable : Prop := ∃ j < 16, ∃ m, m ≠ 0 ∧ decodeFp fp32 uOp (sctEntry s.rdSct j) = .fin false m
       (ok → usable → writes (.mcvtMx4 gd sp rm sat d q) ((cs.map fun p => (4 * (32 * p.1 + p.2), 4, (val p).1))
           ++ nibbles.map fun r => (4 * (shElems sh + r), 4, if r < shRows sh then idx r else 0)) (ors (cs.map val)))
       ∧ (ok → ¬usable → s.HandlerReady → Does (.mcvtMx4 gd sp rm sat d q) s fun t => EntersAt s t 0x11 0 0)
       ∧ (¬ok → s.HandlerReady → Does (.mcvtMx4 gd sp rm sat d q) s fun t => Enters s t 0x19)))
  ∧ ∀ (sct : BitVec 512) (row : List XVal) (i : Nat), mx4Index sct row = some i →
    let scale (j m : Nat) : Prop := j < 16 ∧ m ≠ 0 ∧ decodeFp fp32 uOp (sctEntry sct j) = .fin false m
    let fits (m : Nat) : Prop := ∀ v ∈ row, match v with
      | .inf _ => False
      | .fin _ x => x ≤ 6 * m
      | _ => True
    ∃ m, scale i m ∧ (fits m → ∀ j k, scale j k → fits k → m < k ∨ m = k ∧ i ≤ j)
      ∧ (¬fits m → ∀ j k, scale j k → ¬fits k ∧ (k < m ∨ m = k ∧ i ≤ j))

/-! ### Engine and system forms -/

/-- SETFMT and SETSCT (12 R180, 17 R259, R260): the value is in effect four steps later; SETSCT reads its table from the own
vault after every earlier access of the context. CPYST, SUBSCR, IFENCE and RWFLUSH (19 R289, R295, R308, 18 R277): CPYST gives
0 while the context's job or subscription of the card is outstanding and else reads STATUS, an acquire where one of the card may
have ended; SUBSCR reads its card; IFENCE dates every b-register of the core by its step;
RWFLUSH as a slot does nothing. -/
def Obligations.FormatAndQueryForms : Prop :=
  (∀ (s : State) (gd : Guard) (a : R64) (m : R16) (v : Imm), s.guard gd = true →
    let ea := (s.rdA m).1
    Does (.setfmt gd a) s (fun t => Sends s t [(4, .fmt ((s.g a).setWidth 12), 0)])
    ∧ Does (.setfmtI gd v) s (fun t => Sends s t [(4, .fmt ((s.immV v).setWidth 12), 0)])
    ∧ (ea.toNat % 64 = 0 → isScratch ea = true → vaultCore s.env.core ea = s.env.core → Does (.setsct gd m) s fun t =>
        Issues s t [{ Access.make (.load false) 0 .ctx (mkElems ea 64 0) with
          dest := .sct
          allRel := true
          due := s.now + 4 }] [(4, .load s.cur.nextId, 0)]))
  ∧ (∀ (s : State) (gd : Guard) (d : R64) (a : R16), s.guard gd = true →
    let ea := (s.rdA a).1
    let k := s.core s.env.core
    let mine : Bool := ((s.cardJob ea).any fun j => j.ctx == s.env.ctx)
      || k.subs.toList.any fun u => u.any fun u => u.owner == s.env.ctx && u.card == ea.toNat
    Does (.rwflush gd) s (fun t => t = s)
    ∧ (s.myJobs false = 0 → Does (.ifence gd) s fun t => t = s.modCore s.env.core fun k => { k with
        ctxs := k.ctxs.map fun (u : Ctx) => { u with b := u.b.map fun (r : BReg) => { r with step := s.now } } })
    ∧ (s.cardOk ea 64 64 = true →
        (mine = true → Does (.cpyst gd d a) s fun t => Sends s t (gRes 12 d 0 false))
        ∧ (mine = false → Does (.cpyst gd d a) s fun t => Issues s t
            [{ Access.make (.load false) 0 .ctx (mkElems (ea + 0x38) 8 0) with
              dest := .cpyst d
              acqAll := k.doneSubs.contains ea.toNat || s.jobs.any fun j => j.core == s.env.core && !j.past && j.card == ea.toNat
              due := s.now + 12 }] [(12, .load s.cur.nextId, 0)])
        ∧ (s.user → Does (.subscr gd d a) s fun t => Issues s t
            [{ Access.make (.load false) 0 .package (mkElems ea 64 0) with
              dest := .subCard d ea.toNat
              allRel := true
              due := s.now + 16 }] [(16, .load s.cur.nextId, 0)])))

/-- CPY, ICOPY and ICINV (19 R285, R286, R306, R307): with a card that passes its checks and has no outstanding job, and a free
queue entry, a job starts; its STATUS is written 0 by a class-0 store, and its card is read as a release of every class, its
promise being due 16 steps later. Every other outstanding job stays as it is. A card of an outstanding job, or of an active subscription
(log 37), raises an access violation that names it. -/
def Obligations.JobFormsStartJobs : Prop :=
  ∀ (s : State) (gd : Guard) (d : R64) (a : R16), s.guard gd = true →
    let ea := (s.rdA a).1
    let new (kind : JobKind) : Job :=
      ⟨s.nextJob, kind, s.env.core, s.env.ctx, ea.toNat, none, none, none, s.cyc.toNat, s.env.hdr, [], 0, none, false, false, false⟩
    let base (kind : JobKind) (kept : List Job) : State := { s.modCore s.env.core fun k => { k with doneSubs := k.doneSubs.filter (· != ea.toNat) } with
      nextJob := s.nextJob + 1
      jobs := kept ++ [new kind] }
    let out (i : Instr) (kind : JobKind) : Prop := ∃ kept : List Job,
      (∀ q ∈ s.jobs, q.ended = false → q.past = false → q ∈ kept) ∧ (∀ q ∈ kept, q ∈ s.jobs ∨ q.ended = true ∧ q.past = true)
      ∧ Does i s fun t => Issues (base kind kept) t
        [Access.make .store (clsMask 0) .ctx (mkElems (ea + 0x38) 8 0),
         { Access.make (.load false) 0 .package (mkElems ea 64 0) with
           dest := .card d s.nextJob
           allRel := true
           due := s.now + 16 }] [(16, .load (s.cur.nextId + 1), 0)]
    s.cardOk ea 64 64 = true →
      (s.cardBusy ea = false →
        (s.myJobs true < s.alloc.queue1 → out (.cpy gd d a) .copy)
        ∧ (s.myJobs false < s.alloc.queue3 → out (.icopy gd d a) .icopy ∧ out (.icinv gd d a) .icinv))
      ∧ (s.cardJob ea ≠ none ∨ (∃ r : Fin 4, ∃ u, (s.core s.env.core).subs[r] = some u ∧ u.card = ea.toNat) → s.HandlerReady → ∀ i ∈ [Instr.cpy gd d a, .icopy gd d a, .icinv gd d a],
          Does i s fun t => EntersAt s t 0x19 (ea.setWidth 64) 0)

/-- UNSUB and RINGACK (19 R298, R299) outside handler mode, by the owner of a subscription that has not ended and is not ending: UNSUB ends it
with code 5 and empties every slot that is not FINISHED; RINGACK moves the slot at the cursor on, writes its flag word after
every earlier store, and advances the cursor. The base-die loader and storer (19 R296, R297, R299): the
loader writes the next tile piece by piece into its EMPTY slot, and once every piece is there the slot's flag word with STATE 1
and the tile's number; the storer reads the next FINISHED slot, empties its flag, and writes the oldest tile it holds piece by
piece at DST; the end of a subscription empties every flag, writes STATUS, and frees the ring. Which piece comes next is free
(log 37). -/
def Obligations.RingForms : Prop :=
  (∀ (s : State) (gd : Guard) (r : Fin 4) (u : Sub) (g : RingDecl), s.guard gd = true → s.user →
    let k := s.core s.env.core
    k.subs[r] = some u → u.owner = s.env.ctx → u.ending = none → u.endCode = none →
    let base (v : Sub) : State := s.modCore s.env.core fun k => { k with subs := k.subs.set r (some v) }
    (Does (.unsub gd r) s fun t => t = base { u with
        ending := some 5
        loaded := []
        slots := u.slots.map fun q => if q = .finished then .finished else .empty })
    ∧ (∀ src dst : SlotState, k.rings[r] = some g → (src, dst) = (if u.mode = 0 then (SlotState.full, SlotState.empty)
          else if u.mode = 1 then (.empty, .finished) else (.full, .finished)) →
        u.slots.getD u.cursor .empty = src →
        let ea : Addr := BitVec.ofNat 56 (s.env.core.val % 8 * 2 ^ 22 + (g.o + 8 * u.cursor))
        let es := if u.mode = 1 then mkElems ea 8 (dst.code + u.acks % 2 ^ 32 * 2 ^ 32) else mkElems ea 4 dst.code
        Does (.ringack gd r) s fun t => Issues (base { u with
            slots := u.slots.set u.cursor dst
            cursor := (u.cursor + 1) % g.n
            acks := u.acks + 1 }) t [{ Access.make .store 0 .package es with rel := true }] []))
  ∧ (∀ (s : State) (c : CoreId) (r : Fin 4) (u : Sub) (g : RingDecl), s.CanonicalMemory →
    (s.core c).subs[r] = some u → (s.core c).rings[r] = some g → 0 < g.n →
    let n := u.tileBytes
    let len := cardLen0 u.im
    let i := u.tile % g.n
    let j := u.pulled % g.n
    let slot (run : Nat) : Nat := g.slotData i + run * len
    let keeps (t : State) : Prop := KeepsContexts s t ∧ ∀ d, d ≠ c → (t.core d).vault = (s.core d).vault
    (u.mode ≠ 1 → u.ending = none → s.loadPaused c u = false → u.tile < u.tiles → u.slots.getD i .full = .empty → s.flagDone c u g i = true →
      let ps := u.pieces slot u.loaded
      (ps = [] → Does (.loaderTileWrite c r) s fun t => keeps t ∧ t.gmem = s.gmem
        ∧ (t.core c).subs[r] = some { u with
            tile := u.tile + 1
            slots := u.slots.set i .full
            loaded := []
            bytes := u.bytes + n }
        ∧ memReadN (t.core c).vault (g.flag i) 8 = 1 + u.tile % 2 ^ 32 * 2 ^ 32
        ∧ ∀ b : Nat, b < g.flag i ∨ g.flag i + 8 ≤ b → memRead (t.core c).vault b = memRead (s.core c).vault b)
      ∧ (let source (p : Nat × Nat × Nat × Nat) (src : List Loc) : Prop :=
           s.engLocs c u.owner false (u.runAddr u.src u.tile p.2.1 + BitVec.ofNat 56 p.2.2.1) p.2.2.2 = .ok src
         ps ≠ [] → (∀ p ∈ ps, ∃ src, source p src ∧ ∀ l ∈ src, s.poisonedLoc l 1 = false) → ∃ p ∈ ps, ∃ src, source p src ∧
          let o := slot p.2.1 + p.2.2.1
          Does (.loaderTileWrite c r) s fun t => keeps t ∧ t.gmem = s.gmem
            ∧ (t.core c).subs[r] = some { u with loaded := p.1 :: u.loaded }
            ∧ ∀ b : Nat, memRead (t.core c).vault b = if o ≤ b ∧ b < o + p.2.2.2 then BitVec.ofNat 8 (s.engRead src / 2 ^ (8 * (b - o)))
                else memRead (s.core c).vault b))
    ∧ (u.mode ≠ 0 → u.ending = none ∨ u.ending = some 5 → s.affected (s.core c).alloc.part = false → u.pulled < u.tiles →
        u.slots.getD j .empty = .finished → s.flagDone c u g j = true → (∀ b < g.z, s.poisonedLoc (.vault c (g.slotData j + b)) 1 = false) →
        Does (.storerSlotPull c r) s fun t => keeps t ∧ t.gmem = s.gmem
          ∧ (t.core c).subs[r] = some { u with
              held := u.held ++ [(u.pulled, memBytes (s.core c).vault (g.slotData j) g.z)]
              pulled := u.pulled + 1
              slots := u.slots.set j .empty }
          ∧ memReadN (t.core c).vault (g.flag j) 4 = 0)
    ∧ (∀ (k : Nat) (data : List Byte) (rest : List (Nat × List Byte)), u.held = (k, data) :: rest →
        let ps := u.pieces (fun run => (u.runAddr u.dst k run).toNat) u.put
        (ps = [] → Does (.storerTileWrite c r) s fun t => keeps t ∧ t.gmem = s.gmem ∧ (t.core c).subs[r] = some { u with
            held := rest
            put := []
            stored := u.stored + 1
            bytes := u.bytes + n })
        ∧ (let target (p : Nat × Nat × Nat × Nat) (pa : Nat) : Prop :=
             s.engLocs c u.owner true (u.runAddr u.dst k p.2.1 + BitVec.ofNat 56 p.2.2.1) p.2.2.2
               = .ok ((List.range p.2.2.2).map fun i => Loc.mem (pa + i))
           ps ≠ [] → (∀ p ∈ ps, ∃ pa, target p pa) → ∃ p ∈ ps, ∃ pa, target p pa ∧
            Does (.storerTileWrite c r) s fun t => KeepsContexts s t ∧ (t.core c).subs[r] = some { u with put := p.1 :: u.put }
              ∧ ∀ b : Nat, memRead t.gmem b = if pa ≤ b ∧ b < pa + p.2.2.2 then data.getD (p.2.1 * len + p.2.2.1 + (b - pa)) 0 else memRead s.gmem b))
    ∧ (∀ code < 256, u.endCode = some code → (∀ i < g.n, s.flagDone c u g i = true) →
        let o := u.card % 2 ^ 22 + 0x38
        Does (.subscriptionEnd c r) s fun t => keeps t ∧ t.gmem = s.gmem ∧ (t.core c).subs[r] = none
          ∧ memReadN (t.core c).vault o 8 = s.cyc.toNat % 2 ^ 56 * 256 + code
          ∧ (o + 8 ≤ g.o ∨ g.o + 8 * g.n ≤ o → ∀ i < g.n, memReadN (t.core c).vault (g.flag i) 4 = 0)))

/-- The DD forms other than DDVAR (21 R318 to R320): with a space, a record that lies in the own vault and is not in use, and
a free entry, an operation with its operands takes the lowest free entry of the core's queue; a record's first word is written
0, and a release of every class comes before the operation is offered. DDVAR gives the function of a variable (R322). The
Bracken engine's events (21 R320, R321, R332 to R336): the operation offered takes effect on its space when it is accepted,
where no barrier stands against it, and ends with its failure where a page it touches may not be used; with a record it
then waits for its completion, which writes AUX and DONE with STATUS and RESULT and frees the entry; one that finds the space
full is abandoned and counted: its entry is kept and cause 0x15 becomes pending, those of a context in the order of their numbers,
or its record is written with STATUS 5 where its context has halted. The whole effect at acceptance, the failure of a pool page
before any other STATUS, and the release at acceptance of an entry without a record are log 38; node reads and cache hits are free
values (log 9). -/
def Obligations.BrackenForms : Prop :=
  (∀ (s : State) (gd : Guard) (bo : BoolOp) (a : R16) (d b c : R64) (sp : Space), s.guard gd = true → s.spaceOf s.env.core = some sp →
    let k := s.core s.env.core
    let ea := (s.rdA a).1
    let used : Bool := k.ddq.toList.any fun e => (e.map fun q => q.ctx == s.env.ctx && q.rcd == some (vaultOfs ea)).getD false
    let mine := (k.ddq.toList.filter fun e => (e.map fun q => q.ctx == s.env.ctx).getD false).length
    let release : Access := { Access.make .release 0 .package unitElem with allRel := true }
    let clear := Access.make .store (clsMask 0) .ctx (mkElems ea 8 0)
    let base (e : R16) (q : DdEntry) : State := s.modCore s.env.core fun k => { k with
      ddq := k.ddq.set e (some q)
      ddSeq := k.ddSeq + 1
      doneDds := k.doneDds.filter fun o => some o != q.rcd }
    let entry (opc fn : Nat) (x y z : Word) (rcd : Option Nat) (w : Nat) : DdEntry :=
      ⟨s.env.ctx, opc, fn, x, y, z, rcd, k.ddSeq, w, false, false, none, 0⟩
    ((s.g b).toNat < sp.nvars → Does (.ddvar gd d b) s fun t => Sends s t (gRes 1 d (s.g b + 2) false))
    ∧ ∀ e : R16, k.freeEntry = some e → mine < s.alloc.queue2 →
        (let plain (i : Instr) (opc : Nat) (y : Word) : Prop := Does i s fun t =>
           Issues (base e (entry opc 0 0 y 0 none s.cur.nextId)) t [release] []
         plain (.ddref gd b) 0x29 (s.g b) ∧ plain (.ddunref gd b) 0x2A (s.g b) ∧ plain (.ddswap gd b) 0x2D (s.g b))
        ∧ (let rcd (i : Instr) (opc fn : Nat) (x y z : Word) (area : Nat) : Prop :=
             s.cardOk ea 16 (16 + area) = true → used = false → Does i s fun t =>
               Issues (base e (entry opc fn x y z (some (vaultOfs ea)) (s.cur.nextId + 1))) t [clear, release] []
           rcd (.ddapply gd bo a b c) 0x21 bo.code 0 (s.g b) (s.g c) 0 ∧ rcd (.ddite gd a d b c) 0x22 0 (s.g d) (s.g b) (s.g c) 0
           ∧ rcd (.ddrestr gd a b c) 0x23 0 0 (s.g b) (s.g c) 0 ∧ rcd (.ddexist gd a b c) 0x24 0 0 (s.g b) (s.g c) 0
           ∧ rcd (.dduniv gd a b c) 0x25 0 0 (s.g b) (s.g c) 0 ∧ rcd (.ddnot gd a b) 0x26 0 0 (s.g b) 0 0
           ∧ rcd (.ddcount gd a b c) 0x27 0 0 (s.g b) (s.g c) 0 ∧ rcd (.ddmask gd a b c) 0x28 0 0 (s.g b) (s.g c) 0
           ∧ rcd (.ddgc gd a) 0x2B 0 0 0 0 0 ∧ rcd (.ddord gd a) 0x2C 0 0 0 0 (2 * sp.nvars) ∧ rcd (.ddstat gd a) 0x2E 0 0 0 0 64))
  ∧ (∀ (s : State) (c : CoreId) (e : R16) (d : DdEntry) (sp : Space), s.spaceOf c = some sp →
    let k := s.core c
    (s.offered c = some (e, d) → (∀ q ∈ s.inEngine sp.group, q.barrier = false) → (d.barrier = true → s.inEngine sp.group = []) →
      let r := ddDo k c d (sp, s.choices, 0)
      let pages := s.poolCheck c d.ctx sp (d.touched sp r.work.1)
      (∀ st, pages = (some st, false) → Does (.brackenAccept c) s fun t => KeepsContexts s t ∧ ∃ reads hits : Nat,
        t.spaceOf c = some { sp with
          ops := sp.ops + 1
          hits := hits }
        ∧ (d.rcd ≠ none → (t.core c).ddq[e] = some { d with
            accepted := true
            result := some (st, 0, 0)
            reads := reads }))
      ∧ (pages = (none, false) → Does (.brackenAccept c) s fun t => KeepsContexts s t ∧ ∃ reads hits : Nat,
        (r.full = true → t.spaceOf c = some { r.work.1 with abandon := r.work.1.abandon + 1 } ∧ (t.core c).ddq[e] = some { d with
          accepted := true
          abandoned := true
          reads := reads })
        ∧ (r.full = false → t.spaceOf c = some { r.work.1 with
            ops := r.work.1.ops + 1
            hits := hits }
          ∧ (d.rcd = none → (t.core c).ddq[e] = none)
          ∧ (d.rcd ≠ none → (t.core c).ddq[e] = some { d with
              accepted := true
              result := some (r.status, BitVec.ofNat 64 r.result, BitVec.ofNat 64 r.aux)
              reads := reads }))))
    ∧ (∀ (st : BitVec 8) (res aux : Word) (o : Nat), k.ddq[e] = some d → d.result = some (st, res, aux) → d.rcd = some o →
        memWf k.vault = true → Does (.ddOperationComplete c e) s fun t => KeepsContexts s t ∧ t.gmem = s.gmem
          ∧ (t.core c).ddq = k.ddq.set e none ∧ o ∈ (t.core c).doneDds ∧ (t.ctx c d.ctx).doneWide = true
          ∧ memReadN (t.core c).vault o 8 = 2 ^ 63 + st.toNat * 2 ^ 32 + res.toNat % 2 ^ 32
          ∧ memReadN (t.core c).vault (o + 8) 8 = aux.toNat)
    ∧ (k.ddq[e] = some d → d.abandoned = true → d.accepted = true →
        (∀ (j : R16) (q : DdEntry), k.ddq[j] = some q → q.ctx = d.ctx → q.abandoned = true → q.accepted = true → d.seq ≤ q.seq) →
        ((s.ctx c d.ctx).run = .halted → Does (.ddAbandon c e) s fun t => KeepsContexts s t ∧ (t.core c).ddq = k.ddq.set e none
            ∧ t.spaceOf c = some (if d.rcd = none then sp else { sp with ops := sp.ops + 1 })
            ∧ ∀ o, d.rcd = some o → memWf k.vault = true →
                memReadN (t.core c).vault o 8 = 2 ^ 63 + 5 * 2 ^ 32 ∧ memReadN (t.core c).vault (o + 8) 8 = 0)
        ∧ ((s.ctx c d.ctx).run ≠ .halted → Does (.ddAbandon c e) s fun t => KeepsContexts s t ∧ t.gmem = s.gmem
            ∧ (t.core c).ddq = k.ddq.set e (some { d with accepted := false }) ∧ t.spaceOf c = some sp
            ∧ ∃ f : PendFault, f.cause = 0x15 ∧ f.info = BitVec.ofNat 64 e.val
                ∧ f.faddr.toNat = (c.val % 8 * 2 ^ 22 + d.rcd.getD 0) % 2 ^ 56
                ∧ (t.ctx c d.ctx).faults = (s.ctx c d.ctx).faults ++ [f])))

/-- Decision diagrams mean what their operators say (21 R315, R324, Table 21.4): the combination of two diagrams evaluates to
the operator of their values under every assignment, and if-then-else, negation and substitution likewise. -/
def Obligations.DecisionDiagramsEvaluate : Prop :=
  ∀ (f g h : Bdd) (op : Bool → Bool → Bool) (val : Nat → Bool) (l : Nat) (v : Bool), (∀ b : Bdd, b = f ∨ b = g ∨ b = h → b.ordered) →
    (Bdd.apply op f g).eval val = op (f.eval val) (g.eval val)
    ∧ (Bdd.not f).eval val = !(f.eval val)
    ∧ (Bdd.ite f g h).eval val = (if f.eval val then g.eval val else h.eval val)
    ∧ (f.subst l v).eval val = f.eval fun k => if k = l then v else val k

/-- The privileged forms in handler mode (24 R363, R367 to R374): TRET acts after the bundle's slots; MOVC.sys moves control
registers; FRMST stores the held frame's image; FRMLD replaces the held frame by an image of the own vault that passes its checks,
read as the context's stores so far leave it (log 42); CKILL of the issuing context acts after its bundle; of another context of its
group it makes that context Halted at once, with its engine work, its operations not yet accepted and its pins ended and its state
discarded (what of the state stays visible is log 19), the group's code KILLED unless a fatal trap has decided it, and no other
context, no byte of memory touched but the completion records; an id of no context of the group is an access violation, which in
handler mode is a double trap. -/
def Obligations.PrivilegedFormResults : Prop :=
  ∀ (s : State) (gd : Guard) (d a : R64) (m : R16) (cr : BitVec 10), s.guard gd = true → s.cur.hm = true →
    let ea := (s.rdA m).1
    let l := s.cur.frame.bytes
    Does (.tret gd) s (fun t => t = s.modEnv fun e => { e with tret := true })
    ∧ Does (.movcSysRead gd d cr) s (fun t => Sends s t (gRes 1 d (s.rdCr cr) false))
    ∧ Does (.movcSysWrite gd cr a) s (fun t => Sends s t [(1, .cr cr (s.g a), 0)])
    ∧ (s.cardOk ea 64 l.length = true → Does (.frmst gd m) s fun t =>
        Issues s t [Access.make .store (clsMask 0) .ctx (mkElems ea l.length (leNat l))] [])
    ∧ (∀ f : Frame, s.cardOk ea 64 256 = true →
        let h := s.forwarded ea 256
        let n := leNat ((h.drop 12).take 4)
        n ≤ 0x1C000 → s.cardOk ea 64 (256 + n) = true → s.poisonedLoc (.vault s.env.core (vaultOfs ea)) (256 + n) = false →
        Frame.ofBytes h (s.forwarded (ea + 256) n) = some f → Does (.frmld gd m) s fun t => t = s.modCur fun u => { u with frame := f })
    ∧ (∀ al, (s.core s.env.core).allot = some al → (s.g a).toNat % 2 ^ 20 = (ctxUnit s.env.core s.env.ctx).toNat →
        al.cmask.getLsbD (s.env.core.val % 8) = true → s.env.ctx.val < al.nctx →
        Does (.ckill gd a) s fun t => t = s.modEnv fun e => { e with pact := 2 })
    ∧ (∀ al (c : CoreId) (x : CtxId) (bl : Allot), (s.core s.env.core).allot = some al → (s.g a).toNat % 2 ^ 20 = (ctxUnit c x).toNat →
        (s.core c).allot = some bl → bl.group = al.group → bl.cmask.getLsbD (c.val % 8) = true → x.val < bl.nctx →
        (c, x) ≠ (s.env.core, s.env.ctx) → Does (.ckill gd a) s fun t =>
          let u := t.ctx c x
          u.run = .halted ∧ u.hm = false ∧ u.pendDom = [] ∧ u.episode = none ∧ u.faults = [] ∧ u.blocks = ⟨none, none⟩
          ∧ u.replay = none ∧ u.frame = Frame.empty ∧ (∀ b ∈ u.accs, ∀ poc, b.kind ≠ .load poc)
          ∧ (t.core c).inflight = ((s.core c).inflight.filter fun f => f.ctx != x)
          ∧ t.jobs = s.jobs.map (fun j => if j.core = c ∧ j.ctx = x ∧ j.status = none then { j with status := some 5 } else j)
          ∧ (∀ (i : R16) (e : DdEntry), (t.core c).ddq[i] = some e ↔ (s.core c).ddq[i] = some e ∧ ¬(e.ctx = x ∧ e.accepted = false))
          ∧ (∀ (i : Fin 4) (q : Sub), (s.core c).subs[i] = some q → ∃ q', (t.core c).subs[i] = some q'
              ∧ (q.owner = x → q'.ending = some (q.ending.getD 5)) ∧ (q.owner ≠ x → q' = q))
          ∧ (∀ p ∈ t.pins, p ∈ s.pins ∧ ¬(p.core = c ∧ p.ctx = x))
          ∧ t.groups = s.groups.map (fun r => if r.id = al.group then { r with code := some (r.code.getD 3) } else r)
          ∧ (∀ (d : CoreId) (y : CtxId), (d, y) ≠ (c, x) → ∃ r p n, (r = (s.ctx d y).run ∨ r = .running ∧ d = c)
              ∧ t.ctx d y = { s.ctx d y with run := r, pri := p, priNext := n })
          ∧ t.gmem = s.gmem ∧ t.hmem = s.hmem ∧ t.env = s.env
          ∧ ∀ d, (t.core d).tiles = (s.core d).tiles ∧ (t.core d).blocks = (s.core d).blocks ∧ (d ≠ c → t.core d = s.core d))
    ∧ (s.cur.run ≠ .held →
        (∀ al (c : CoreId) (x : CtxId) (bl : Allot), (s.core s.env.core).allot = some al → (s.core c).allot = some bl →
          bl.group = al.group → bl.cmask.getLsbD (c.val % 8) = true → x.val < bl.nctx → (s.g a).toNat % 2 ^ 20 ≠ (ctxUnit c x).toNat) →
        Does (.ckill gd a) s fun t => t.cur.run = .held ∧ t.cur.hm = true ∧ t.cur.frame.cause = 0x22 ∧ t.env.stopped = true)

/-! ### Power, heat and watches -/

/-- OPSEL (27 R400): the point named, no higher than 7 and capped by CAP, becomes the target; one that differs from the target
sets SET and the settling time of Table 27.1. The clocking events (27 R400, R402, R404): SETTLE_END takes the target as the
current point; a CAP below the target acts as a selection of it, and another changes CAP alone; an alarm stretches the clock
for the 6 cycles after the one in progress, or merges with a stretch; the end of a stretch opens a split window of 64 steps, past
the step in progress where the alarm has parted its two cycles, and a request opens one of 64 at once, also in a window that is open
(log 53); the last step of a window closes it. Nothing else changes. -/
def Obligations.ClockingEvents : Prop :=
  (∀ (s : State) (gd : Guard) (a : R64) (n : R8), s.guard gd = true →
    let o := (s.core s.env.core).opp
    let settle : R8 → Nat := fun p => if p = 7 then 64 else if p = 6 then 56 else if p = 5 then 48 else if p = 4 then 40 else 32
    let base (m : R8) : State := s.modCore s.env.core fun k => { k with opp :=
      (if min m o.cap = o.tgt then o else ⟨BitVec.ofNat 8 (settle (min m o.cap)), o.cap, min m o.cap, true, o.cur⟩) }
    Does (.opselI gd n) s (fun t => Sends (base n) t [])
    ∧ (∀ p : R8, p.val = min (s.g a).toNat 7 → Does (.opsel gd a) s fun t => Sends (base p) t []))
  ∧ (∀ (s : State) (c : CoreId) (cap : R8),
    let k := s.core c
    let o := k.opp
    let settle : R8 → Nat := fun p => if p = 7 then 64 else if p = 6 then 56 else if p = 5 then 48 else if p = 4 then 40 else 32
    let out (i : Instr) (f : Core) : Prop := exec i s = .next (s.setCore c f)
    (o.set = true → o.rem = 0 → out (.settleEnd c) { k with opp := ⟨0, o.cap, o.tgt, false, o.tgt⟩ })
    ∧ (cap < o.tgt → out (.capWrite c cap) { k with opp := ⟨BitVec.ofNat 8 (settle cap), cap, cap, true, o.cur⟩ })
    ∧ (o.tgt ≤ cap → out (.capWrite c cap) { k with opp := { o with cap := cap } })
    ∧ out (.droopAlarm c) { k with stretch := if k.stretch = 0 then 7 else k.stretch }
    ∧ (k.stretch = 1 → out (.stretchEnd c) { k with
        stretch := 0
        split := if k.splitAt = none then 64 else 65 })
    ∧ out (.splitWindowRequest c) { k with split := 64 }
    ∧ (k.split = 1 → out (.splitWindowEnd c) { k with
        split := 0
        splitAt := none }))

/-- HEATH_GATE (27 R406, 01 R18): a heath without a resident launch is gated; its vaults, tiles, accumulators, caches and
scratchpads are lost, with their marks, the TLBs and the save RAMs (log 52); its contexts, counters and scheduler state stay, and no
other heath changes. Whether a retention element is lost is decided here (log 52), and is a free value (log 6). Thermal control (27 R410, R412; log 51 says which heaths are powered): a sample reads every sensor; once every powered
heath is above THS migration stops and CAP falls by one point everywhere; at each later step of 1,750,000 ticks CAP falls by
one while that holds, and rises by one once every powered heath is 4 degrees below THS, until it is 7 everywhere. -/
def Obligations.HeatEvents : Prop :=
  (∀ (s : State) (h : Fin 24), (s.heaths[h]).group = none → (s.heaths[h]).gated = false →
    Does (.heathGate h) s fun t =>
      (∃ b : Bool, t.heaths = s.heaths.set h { s.heaths[h] with gated := true, lost := b })
      ∧ (∀ c, coreHeath c = h → t.core c = { s.core c with
          vault := []
          vpoison := []
          rpoison := []
          saveRam := []
          spoison := []
          doneSubs := []
          doneDds := []
          ispad := []
          ipoison := []
          marks := []
          tiles := Vector.replicate 16 0
          blocks := Vector.replicate 512 0
          l1 := []
          tlb := [] })
      ∧ (∀ c, coreHeath c ≠ h → t.core c = s.core c) ∧ t.gmem = s.gmem ∧ t.hmem = s.hmem)
  ∧ (∀ (s : State) (l : List Int),
    (Does (.thermalSample l) s fun t =>
      (∀ h : Fin 24, let v := (l[h.val]?).getD (s.heaths[h]).sensor
        t.heaths[h] = { s.heaths[h] with
          temp := v
          sensor := v })
      ∧ (t.allHot = true → s.mon.noMigrate = false → t.mon.noMigrate = true ∧ t.mon.capTick = some (s.cyc.toNat + 1750000)
          ∧ ∀ c, (t.core c).opp.cap.val = (s.core c).opp.cap.val - 1)
      ∧ (t.allHot = false ∨ s.mon.noMigrate = true → t.cores = s.cores)
      ∧ (t.allHot = false → t.allCool = true → t.mon.noMigrate = false)
      ∧ t.gmem = s.gmem)
    ∧ (s.mon.capTick ≠ none → Does .thermalCapStep s fun t =>
        (s.allHot = true → ∀ c, (t.core c).opp.cap.val = (s.core c).opp.cap.val - 1)
        ∧ (s.allHot = false → s.allCool = true → ∀ c, (t.core c).opp.cap.val = min 7 ((s.core c).opp.cap.val + 1))
        ∧ (s.allHot = false → s.allCool = false → t.cores = s.cores)
        ∧ (t.mon.capTick = none ↔ s.allHot = false ∧ s.allCool = true ∧ ∀ c, (t.core c).opp.cap = 7)
        ∧ (t.mon.capTick ≠ none → t.mon.capTick = some (s.cyc.toNat + 1750000))
        ∧ t.heaths = s.heaths ∧ t.gmem = s.gmem))

/-- The heartbeat watch (03 R49 to R51): at the end of an interval a core with a counted beat has no miss, a watched one
without gets one more, and every beat is taken; a core with its second miss, in a freeze of its own domain work, is halted at
once (one that nothing freezes is halted by the same operation): every context that was allotted becomes Halted, with cause 0x21 in its frame. The
wait-for probe (03 R53): a unit blocked for longer than the probe delay sends one probe to each unit it awaits, once; a probe
that reaches another blocked unit is forwarded to what that unit awaits, up to 64 hops; one that comes back to its initiator
is reported in a record of kind 3. That a probe is sent once, and reported although its initiator may no longer be blocked, is
log 55. -/
def Obligations.WatchEvents : Prop :=
  (∀ (s : State) (p : Fin 24) (q : Partition), s.part p.val = some q →
    let inPart (c : CoreId) : Prop := q.heaths.getLsbD (coreHeath c).val = true
    let misses (c : CoreId) : Nat := if (s.core c).beat.seen then 0
      else if s.watchedNow c q.hbi.toNat then (s.core c).beat.misses + 1 else (s.core c).beat.misses
    ((∀ c, inPart c → misses c < 2) → Does (.heartbeatIntervalEnd p) s fun t =>
      { t with cores := s.cores } = s
      ∧ (∀ c, inPart c → t.core c = { s.core c with beat := { (s.core c).beat with
          seen := false
          misses := misses c } })
      ∧ ∀ c, ¬inPart c → t.core c = s.core c)
    ∧ ∀ c, inPart c → 2 ≤ misses c → (∀ d, inPart d → d ≠ c → misses d < 2) → (s.core c).stretch = 0 →
        (s.core c).splitAt = none → 0 < (s.core c).freezeLeft → (s.core c).freezeWhy = .domain →
        Does (.heartbeatIntervalEnd p) s fun t => t.gmem = s.gmem ∧ (t.core c).current = none ∧ ∀ x : CtxId,
          ((s.ctx c x).run = .unloaded → (t.ctx c x).run = .unloaded)
          ∧ ((s.ctx c x).run ≠ .unloaded → (t.ctx c x).run = .halted ∧ (t.ctx c x).frame.cause = 0x21))
  ∧ (∀ (s : State) (u : BitVec 20) (since : Nat) (p : Probe) (rest : List Probe),
    ((s.probed.find? fun e => e.1 == u) = some (u, since, false) → since + s.layout.probe.toNat < s.cyc.toNat →
      Does (.probeSend u) s fun t =>
        { t with probes := s.probes, probed := s.probed } = s
        ∧ t.probes = s.probes ++ (s.awaits u).map (fun v => ⟨u, BitVec.ofNat 20 v, 1⟩)
        ∧ (t.probed.find? fun e => e.1 == u) = some (u, since, true))
    ∧ (s.probes = p :: rest →
        (let on : List Probe := if p.hops < 64 then (s.awaits p.target).map (fun v => ⟨p.origin, BitVec.ofNat 20 v, p.hops + 1⟩) else []
         p.target ≠ p.origin → exec .probeReceive s = .next { s with probes := rest ++ on })
        ∧ (p.target = p.origin → 8 < s.tqFree → s.HostIdle → s.hub.deferred = [] → Does .probeReceive s fun t =>
            t.probes = rest ∧ t.hub.tqtail = s.hub.tqtail + 1 ∧ t.cores = s.cores ∧ t.gmem = s.gmem
            ∧ (memWf s.hmem = true → memReadN t.hmem (s.hub.tqbase.toNat + 64 * (s.hub.tqtail.toNat % 1024)) 1 = 3))))

/-- SLEEPU_WAKE, BARW_WAKE and TLBINV_ACK_COMPLETE (09 R126, R130, 19 R303, 24 R372): a sleeper whose tick has come, and a
context whose barrier released four ticks ago, lose that block; with no other block the first is ready at its core's next
step, the second at once; an acknowledged TLBINV ends its freeze. An arrival at a heath barrier performs (19 R301, R302): it
is counted, and the last of the participants releases the phase. -/
def Obligations.WakingAndBarriers : Prop :=
  (∀ (s : State) (c : CoreId) (x : CtxId) (w : Word) (b : Fin 4),
    let u := s.ctx c x
    let bar := (s.heaths[coreHeath c]).bars[b]
    (u.run = .blocked → u.blocks.s0 = some (.sleep w) → w.toNat ≤ s.cyc.toNat → u.stopping = false →
      exec (.sleepuWake c x) s = .next (s.modCtx c x fun _ => { u with
        blocks := ⟨none, u.blocks.bar⟩
        awake := u.blocks.bar.isNone }))
    ∧ (u.run = .blocked → u.blocks.bar = some b → u.stopping = false → u.phase[b] ≠ bar.phase → bar.relTick + 4 ≤ s.cyc.toNat →
        (u.blocks.s0 ≠ none → exec (.barwWake c x) s = .next (s.modCtx c x fun _ => { u with blocks := ⟨u.blocks.s0, none⟩ }))
        ∧ (u.blocks.s0 = none → u.promiseT = none → exec (.barwWake c x) s = .next (s.modCtx c x fun _ => { u with
            blocks := ⟨none, none⟩
            run := .ready
            awake := false })))
    ∧ exec (.tlbinvAckComplete c) s = .next (s.setCore c { s.core c with tlbAck := false }))
  ∧ (∀ (s : State) (c : CoreId) (x : CtxId) (a : Access) (b : Fin 4),
    s.findAcc c x a.id = some a → a.kind = .bara b → a.elems = unitElem → s.canPerform c x a 0 = true →
    let bar := (s.heaths[coreHeath c]).bars[b]
    Does (.storePerform (.access c x a.id 0)) s fun t =>
      ((t.heaths[coreHeath c]).bars[b] = if bar.count + 1 < s.participants (coreHeath c) then { bar with count := bar.count + 1 }
        else ⟨bar.phase + 1, 0, s.cyc.toNat⟩)
      ∧ (∀ h, h ≠ coreHeath c → t.heaths[h] = s.heaths[h]) ∧ (∀ d : Fin 4, d ≠ b → (t.heaths[coreHeath c]).bars[d] = (s.heaths[coreHeath c]).bars[d]))

/-- PENDING_TRAP_DELIVERY (24 R360, R361): the first pending fault of a Running or Blocked context outside handler mode enters
the handler, its frame naming the point at which the context would next issue (the bundle at its program counter, past line pads,
with slot-resume 0, or what is left of a bundle that a TRET resumes), the cause, FADDR, INFO and the operation that
met the fault; no register and no byte of memory changes. -/
def Obligations.PendingFaultsAreDelivered : Prop :=
  ∀ (s : State) (c : CoreId) (x : CtxId) (f : PendFault) (rest : List PendFault),
    let u := s.ctx c x
    u.hm = false → u.run = .running ∨ u.run = .blocked → u.faults = f :: rest → u.thv ≠ 0 → (s.core c).markOk u.thv = true →
    fatalCause f.cause = false →
    Does (.pendingTrapDelivery c x) s fun t =>
      let v := t.ctx c x
      v.hm = true ∧ v.pc = u.thv ∧ v.bubbles = 3 ∧ v.faults = rest ∧ v.frame.valid = true ∧ v.frame.cause = f.cause
      ∧ v.frame.faddr = f.faddr ∧ v.frame.info = f.info ∧ v.frame.origin = f.origin ∧ v.frame.oslot = f.oslot
      ∧ v.frame.addr = ((s.core c).dueAddr u).setWidth 56 ∧ v.frame.after = false
      ∧ (memReadN (s.core c).ispad u.pc.toNat 2 ≠ 0 → v.frame.addr = u.pc.setWidth 56)
      ∧ v.frame.sr = (if u.replay = none then 0 else u.frame.sr)
      ∧ v.g = u.g ∧ v.a = u.a ∧ v.p = u.p ∧ v.d = u.d ∧ v.w = u.w ∧ v.b = u.b ∧ v.loop = u.loop
      ∧ t.gmem = s.gmem ∧ (t.core c).vault = (s.core c).vault

/-! ### Jobs, walks and the dispatcher -/

/-- The end of a job (19 R283, R288, R306, R307): a copy job that has stopped, or whose every element has moved, its writes
acknowledged where it is a far copy, and a code load that has stopped, end with their code: STATUS holds TICK and the code, and no other byte of a vault and no byte of global
memory changes. CODE_LOAD_COMPLETE and ICINV_COMPLETE (19 R306, R307): a code load whose turn has come, its lines at places no
instruction cache holds, copies them to the instruction scratchpad; it ends with 7 where the CRC-32C differs, 8 where the
parse fails, and 1 with the start marks of its range; an ICINV removes its lines from every die's instruction cache. -/
def Obligations.JobsEnd : Prop :=
  (∀ (s : State) (id : Nat) (j : Job), s.job id = some j →
    let o := j.card % 2 ^ 22 + 0x38
    let acked : Prop := cardFar j.im = true → j.moved.length ≤ j.acked
    let ends (i : Instr) (code : Nat) : Prop := Does i s fun t =>
      (∃ q, t.job id = some q ∧ q.ended = true ∧ q.status = some code ∧ q.moved = j.moved) ∧ KeepsContexts s t ∧ t.gmem = s.gmem
      ∧ (s.CanonicalMemory → memReadN (t.core j.core).vault o 8 = s.cyc.toNat % 2 ^ 56 * 256 + code
          ∧ ∀ (d : CoreId) (b : Nat), d ≠ j.core ∨ b < o ∨ o + 8 ≤ b → memRead (t.core d).vault b = memRead (s.core d).vault b)
    ∀ code < 256,
      (j.kind = .copy → j.ended = false → acked → j.status = some code → ends (.copyJobComplete id) code)
      ∧ (j.kind = .copy → j.ended = false → acked → j.status = none → j.image ≠ none → j.allMoved = true → ends (.copyJobComplete id) 1)
      ∧ (¬acked → exec (.copyJobComplete id) s = .next s)
      ∧ (j.kind = .icopy → s.loadTurn j = true → j.status = some code → ends (.codeLoadComplete id) code)
      ∧ (j.kind = .icinv → s.loadTurn j = true → j.status = some code → ends (.icinvComplete id) code))
  ∧ (∀ (s : State) (id : Nat) (j : Job) (n : Nat) (pa : Nat → Nat), s.job id = some j → s.loadTurn j = true → j.status = none →
    (∀ l < n, s.engLoc j.core j.ctx false (BitVec.ofNat 56 (cardW j.im 0 + 64 * l)) = .ok (.mem (pa l))) →
    (∀ q ∈ s.jobs, q.core = j.core → q.kind ≠ .copy → q.ended = true ∨ q.id = id) →
    memWf (s.core j.core).ispad = true →
    let k := s.core j.core
    let dst := cardW j.im 1
    let bytes := (List.range (64 * n)).map fun i => memRead s.gmem (pa (i / 64) + i % 64)
    let pad := memWriteBytes k.ispad dst bytes
    let ended (t : State) (code : Nat) : Prop := (∃ q, t.job id = some q ∧ q.ended = true ∧ q.status = some code)
      ∧ KeepsContexts s t ∧ t.gmem = s.gmem
    (j.kind = .icopy → cardW j.im 2 % 2 ^ 32 = 64 * n →
      (∀ l < n, pa l % 64 = 0 ∧ s.poisonedLoc (.mem (pa l)) 64 = false ∧ ∀ e ∈ (s.dies[coreDie j.core]).icache, e.line ≠ pa l / 64) →
      Does (.codeLoadComplete id) s fun t => (t.core j.core).ispad = pad ∧
        if crc32c bytes ≠ cardW j.im 2 / 2 ^ 32 then ended t 7
        else match parseMarks pad (dst + 64 * n) (64 * n / 2 + 1) dst with
          | none => ended t 8
          | some ms => ended t 1 ∧ (t.core j.core).marks =
              (k.marks.filter fun m => !(decide (dst ≤ m) && decide (m < dst + 64 * n))) ++ ms)
    ∧ (j.kind = .icinv → cardW j.im 1 = 64 * n → Does (.icinvComplete id) s fun t => ended t 1
        ∧ ∀ d : Fin 12, ∀ e : L1Line, e ∈ (t.dies[d]).icache ↔ e ∈ (s.dies[d]).icache ∧ ∀ l < n, e.line ≠ pa l / 64))

/-- PAGE_WALK (24 R376 to R378): a walk under way that finds a leaf caches it in its die's TLB and ends; one that finds a
replayable fault is held, and reported once for its page and address space; one that finds any other fault ends. No register
and no byte of memory of the module changes. FAULTREPLY (24 R378, 26 R386): without a held fault of the function on the page
it does nothing; a reply that does not fail sends the held faults back to the walkers; one that fails ends the walks of the
page, and each held job of the function on the page stops with code 4. No register and no byte of memory changes. A retry lets the record of kind 2 be written again, and PART in it is log 34. The trap
queue (24 R379, R380): the first waiting record that finds room is written at TQTAIL, which moves on; a write of TQHEAD from
TQHEAD to TQTAIL is taken, and any other is ignored. Neither reply nor TQHEAD is written while the host port is down or in
recovery (26 R397). -/
def Obligations.WalksRepliesAndTrapQueue : Prop :=
  let up (s : State) : Prop := (s.hub.ports[(0 : Fin 9)]).up = true ∧ s.mon.recovery = false
  (∀ (s : State) (k : Nat) (w : Walk), s.hub.walks[k]? = some w → w.faulted = false → s.walking k = true →
    let known := s.hub.walks.any fun v => v.asid == w.asid && v.page == w.page && v.reported
    let ended (t : State) : Prop := (∀ c x, (s.ctx c x).run ≠ .blocked) → t.hub.walks = s.hub.walks.eraseIdx k
    Does (.pageWalk k) s fun t => KeepsContexts s t ∧ t.gmem = s.gmem ∧ (∀ c, (t.core c).vault = (s.core c).vault) ∧
      match walkFrom s.gmem (w.page * 65536) 4 (s.rootOf w.asid).toNat with
      | .leaf e b sz => (⟨w.asid, b, sz, e⟩ : TlbEntry) ∈ (t.dies[w.die]).tlb ∧ ended t
      | .fault false => t.dies = s.dies ∧ ended t
      | .fault true => t.hub.walks = s.hub.walks.set k { w with faulted := true, reported := true } ∧ t.cores = s.cores
          ∧ (known = true → t.hub.tqtail = s.hub.tqtail)
          ∧ (known = false → 8 < s.tqFree → s.HostIdle → s.hub.deferred = [] → t.hub.tqtail = s.hub.tqtail + 1
              ∧ (memWf s.hmem = true → memReadN t.hmem (s.hub.tqbase.toNat + 64 * (s.hub.tqtail.toNat % 1024)) 4 =
                  2 + w.asid.toNat * 2 ^ 16 + ((s.partOf w.asid.toNat).getD 0) % 32 * 2 ^ 24)))
  ∧ (∀ (s : State) (f : Fin 96) (page : Addr) (fail : Bool),
    let mine (w : Walk) : Bool := decide (w.asid.toNat = f.val) && decide (w.page = page.toNat / 65536)
    ((∀ w ∈ s.hub.walks, ¬(mine w = true ∧ w.faulted = true)) ∨ ¬up s → exec (.faultreply f page fail) s = .next s)
    ∧ (up s → (∃ w ∈ s.hub.walks, mine w = true ∧ w.faulted = true) → Does (.faultreply f page fail) s fun t =>
        KeepsContexts s t ∧ t.gmem = s.gmem ∧ t.hmem = s.hmem ∧ (∀ c, (t.core c).vault = (s.core c).vault)
        ∧ (fail = false → t.hub.walks = s.hub.walks.map fun w => if mine w && w.faulted then { w with
            faulted := false
            reported := false } else w)
        ∧ (fail = true → t.hub.walks = s.hub.walks.filter (fun w => !mine w) ∧ ∀ j ∈ s.jobs, (s.ctx j.core j.ctx).asid.toNat = f.val →
            j.onPage (page.toNat / 65536) = true → { j with status := some 4 } ∈ t.jobs)))
  ∧ (∀ (s : State) (r : TrapRec) (v : BitVec 32),
    ((s.hub.deferred.find? s.tqRoom) = some r → s.HostIdle → Does .trapRecordDeferredWrite s fun t =>
      t.hub.deferred = s.hub.deferred.erase r ∧ t.hub.tqtail = s.hub.tqtail + 1 ∧ t.hub.tqhead = s.hub.tqhead
      ∧ t.cores = s.cores ∧ t.gmem = s.gmem
      ∧ (memWf s.hmem = true → memReadN t.hmem (s.hub.tqbase.toNat + 64 * (s.hub.tqtail.toNat % 1024)) 2 = r.kind.toNat + 256 * r.cause.toNat
          ∧ memReadN t.hmem (s.hub.tqbase.toNat + 64 * (s.hub.tqtail.toNat % 1024) + 16) 8 = r.faddr.toNat))
    ∧ (up s → (v - s.hub.tqhead).toNat ≤ (s.hub.tqtail - s.hub.tqhead).toNat →
        exec (.tqheadWrite v) s = .next { s with hub := { s.hub with tqhead := v } })
    ∧ ((s.hub.tqtail - s.hub.tqhead).toNat < (v - s.hub.tqhead).toNat ∨ ¬up s → exec (.tqheadWrite v) s = .next s))

/-- DOORBELL, FROZEN_W1C and RECORD_DISPATCH (23 R340, R343, R346, R347, 26 R391): the host's writes change one field of the
descriptor while the host port is up; the head record of a queue that may dispatch and has work is taken up and HEAD moves on,
but a LAUNCH waits at the head; one that breaks a limit, its alignment among them, completes BAD_RECORD, one that cancel mode
discards CANCELLED, where the hub has room for their writes, and a clean one ends cancel mode. That a bad record completes BAD_RECORD in cancel mode
too, and that HEAD counts modulo 2^16, is log 44; the read of the record leaves as an MRD (26 R384, log 77). -/
def Obligations.QueueEvents : Prop :=
  ∀ (s : State) (q : Fin 4096) (tail : BitVec 16),
    let d := s.queues[q]
    let b := s.headRec q
    let up := (s.hub.ports[(0 : Fin 9)]).up && !s.mon.recovery
    let rcd (head : Bool) : Record := ⟨s.nextRec, q, b, none, false, false, [], false, head, false⟩
    let bad : Bool := d.base.toNat % 64 != 0 || recBad d.mgmt b
    let d' : Queue := { d with cancel := d.cancel && !recClean b }
    (exec (.doorbell q tail) s = .next (if up then { s with queues := s.queues.set q { d with tail := tail } } else s))
    ∧ (exec (.frozenW1C q) s = .next (if up then { s with queues := s.queues.set q { d with frozen := false } } else s))
    ∧ (s.mayDispatch q = true → s.hasWork q = true → s.waitingAt q = none →
        (bad = false → d.cancel = false ∨ recClean b = true →
          exec (.recordDispatch q) s = .next { s.askHead q with
            nextRec := s.nextRec + 1
            records := s.records ++ [rcd (recKind b == 1)]
            queues := s.queues.set q { d' with head := if recKind b = 1 then d.head else d.head + 1 } })
        ∧ ((∀ y ∈ s.records, y.id < s.nextRec) → s.roomFor 3 = true → bad = true → Does (.recordDispatch q) s fun t =>
            Completes (s.askHead q) t s.nextRec (rcd false) 8 ∧ (t.queues[q]).head = d.head + 1 ∧ t.cores = s.cores ∧ t.gmem = s.gmem)
        ∧ ((∀ y ∈ s.records, y.id < s.nextRec) → s.roomFor 3 = true → bad = false → d.cancel = true → recClean b = false → recJcb b = none →
            Does (.recordDispatch q) s fun t =>
              Completes (s.askHead q) t s.nextRec (rcd false) 2 ∧ (t.queues[q]).head = d.head + 1 ∧ t.cores = s.cores ∧ t.gmem = s.gmem))

/-- SIGNAL, WAIT, COPY and the job control records (23 R341, R343, R345, R346, Table 23.3): each record under way whose
condition is met has its effect and completes: a SIGNAL writes its word, a WAIT ends DONE or with its block's error and then
sets cancel mode (one on a word of host memory has read it, log 77), JCB_INIT sets its block, JCB_RAISE raises a block whose producer has not posted, and a COPY starts, and
completes when every piece has moved; a layout commit that affects its partition holds it (R355). Their words are host memory (log 17). A completion posts to the job control block its
record names (23 R345): DONE rises by one, ERR notes any code but DONE; a post past EXPECT leaves the block and completes
BAD_RECORD instead; and its interrupt is sent on its vector. -/
def Obligations.RecordsComplete : Prop :=
  (∀ (s : State) (r kind : Nat) (x : Record) (p : Nat), s.running r kind = some x → s.HostIdle → memWf s.hmem = true →
    s.queuePart x.queue = some p → p < s.layout.parts.length → recJcb x.body = none →
    let n (o k : Nat) : Nat := recN x.body o k
    let same (t : State) : Prop := t.cores = s.cores ∧ t.gmem = s.gmem
    let done (i : Instr) (code : Nat) (P : State → Prop) : Prop := Does i s fun t => Completes s t r x code ∧ same t ∧ P t
    (kind = 3 → done (.signal r) 1 fun t => recComp x.body = 0 → recIntr x.body = false → memReadN t.hmem (n 0x10 8) 8 = n 0x18 8)
    ∧ (kind = 4 → s.waitMet x.queue x.body = true →
        let ask : State := if n 0x24 1 = 0 then State.hostAsk (fnNo (s.recFn x)) r 8 (n 0x10 8) 8 s else s
        exec (.waitRecord r) s = .next (ask.modRec r fun y => { y with code := some (y.code.getD
          (if n 0x24 1 = 1 ∧ (s.jcbOf x.queue (n 0x20 4)).err = true then 2 else 1)) }))
    ∧ (kind = 4 → ∀ code, x.code = some code → code < 256 → done (.waitRecordSatisfied r) code fun t =>
        (t.queues[x.queue]).cancel = if code = 2 then true else (s.queues[x.queue]).cancel)
    ∧ (kind = 5 → done (.jcbInit r) 1 fun t => t.jcbOf x.queue (n 0x10 4) = ⟨BitVec.ofNat 32 (n 0x14 4), 0, false⟩)
    ∧ (kind = 6 → ∀ y, s.producer x (n 0x10 4) = some y →
        let b := s.jcbOf x.queue (n 0x10 4)
        (y.posted = false → b.expect.toNat + n 0x14 4 < 2 ^ 32 → done (.jcbRaise r) 1 fun t =>
          t.jcbOf x.queue (n 0x10 4) = { b with expect := BitVec.ofNat 32 (b.expect.toNat + n 0x14 4) })
        ∧ (y.posted = true ∨ 2 ^ 32 ≤ b.expect.toNat + n 0x14 4 → done (.jcbRaise r) 8 fun t => t.jcbOf x.queue (n 0x10 4) = b))
    ∧ (kind = 2 → (s.recAffected x = false → exec (.copy r) s = .next (s.modRec r fun y => { y with begun := true }))
        ∧ (s.recAffected x = true → exec (.copy r) s = .next s))
    ∧ (kind = 2 → x.begun = true → x.code = none → (∀ k < n 0x20 8 / 64, k ∈ x.moved) → done (.hubCopyComplete r) 1 fun _ => True)
    ∧ (kind = 2 → ∀ code, x.code = some code → code < 256 → done (.hubCopyComplete r) code fun t =>
        code = 4 → (t.queues[x.queue]).frozen = true))
  ∧ (∀ (s : State) (r : Nat) (x : Record) (p j : Nat), s.running r 3 = some x → s.queuePart x.queue = some p → p < s.layout.parts.length →
    recJcb x.body = some j →
    let b := s.jcbOf x.queue j
    let owner := (s.queues[x.queue]).owner
    Does (.signal r) s fun t => t.RecordEnded r
      ∧ (b.done.toNat + 1 ≤ b.expect.toNat → t.jcbOf x.queue j = { b with done := b.done + 1 })
      ∧ (b.expect.toNat < b.done.toNat + 1 → t.jcbOf x.queue j = b
          ∧ (s.HostIdle → memWf s.hmem = true → recComp x.body ≠ 0 → recIntr x.body = false →
              memReadN t.hmem (recComp x.body) 8 = s.cyc.toNat % 2 ^ 56 * 256 + 8))
      ∧ (∀ f iv, owner = some f → recIntr x.body = true → s.hub.resets = [] → (s.hub.vectors[f])[recVector x.body] = iv →
          (iv.mask = true → ((t.hub.vectors[f])[recVector x.body]).pend = true)
          ∧ (iv.mask = false → iv.addr ≠ 0 → s.HostIdle → memWf s.hmem = true → memReadN t.hmem iv.addr.toNat 4 = iv.data.toNat)))
  ∧ (∀ (s : State) (r kind : Nat) (x : Record) (p j code : Nat), kind = 2 ∨ kind = 4 → s.running r kind = some x → s.queuePart x.queue = some p →
    p < s.layout.parts.length → recJcb x.body = some j → x.code = some code →
    let b := s.jcbOf x.queue j
    let i : Instr := if kind = 2 then .hubCopyComplete r else .waitRecordSatisfied r
    Does i s fun t => t.RecordEnded r
      ∧ (b.done.toNat + 1 ≤ b.expect.toNat → t.jcbOf x.queue j = ⟨b.expect, b.done + 1, b.err || code != 1⟩))

/-- LAUNCH and LAUNCH_BIND (23 R348, R349, 21 R311): a record at the head of its queue is admitted, or completes with the code
of the first check that fails; an admitted group waits until enough eligible heaths are free, and is then bound to the lowest of them, one that would pass its
die's loader and storer entries left out (log 46):
each allotted context holds its launch values (log 45), with g63 the record's argument and the program counter its entry; heaths whose
retention was lost are left out here. GROUP_RELEASE and LAUNCH_COMPLETE (03 R45, 23 R349): at the release every allotted
context of a bound group is Ready; when every context has halted or is held and the engines have ended the group's work, its
heaths are free and the LAUNCH completes, DONE or with the group's code. -/
def Obligations.Launches : Prop :=
  (∀ (s : State) (r : Nat) (x : Record),
    (s.running r 1 = some x → x.atHead = true → s.group r = none → s.mayDispatch x.queue = true → (s.queues[x.queue]).frozen = false →
      x.code = none → s.imageHeld x = none →
      (∀ h, s.admission x = .ok h → Does (.launch r) s fun t => { t with groups := s.groups } = s
        ∧ ∃ g : Group, t.groups = s.groups ++ [g] ∧ g.id = r ∧ g.record = r ∧ g.header = h ∧ g.phase = .waiting ∧ g.heaths = []
          ∧ g.asid = BitVec.ofNat 7 (s.recFn x) ∧ g.image = BitVec.ofNat 64 (recN x.body 0x10 8))
      ∧ (∀ code, s.admission x = .error code → recJcb x.body = none → code < 256 → Does (.launch r) s fun t =>
          Completes s t r x code ∧ t.groups = s.groups ∧ (t.queues[x.queue]).head = (s.queues[x.queue]).head + 1))
    ∧ (∀ g, s.group r = some g → s.pick g = none → exec (.launchBind r) s = .next s)
    ∧ (∀ (g : Group) (hs : List (Fin 24)), g.target = [] → s.pick g = some hs →
        let free := s.freeHeaths g.part g.id
        let kept (d : Fin 12) (below : Fin 24) : Nat := (hs.filter fun h => decide (h < below) && heathDie h == d).length
        let fits (h : Fin 24) : Prop := s.dieRings g.id (heathDie h) + hdRings g.header * (kept (heathDie h) h + 1) ≤ 8192
        hs.length = hdHeaths g.header ∧ hs.Pairwise (· < ·) ∧ (∀ h ∈ hs, h ∈ free ∧ fits h)
        ∧ ∀ h ∈ free, h ∉ hs → (∃ k ∈ hs, h < k) → ¬fits h)
    ∧ ∀ (g : Group) (hs : List (Fin 24)), s.group r = some g → s.record g.record = some x → g.phase = .waiting →
        s.mayDispatch x.queue = true → (s.queues[x.queue]).frozen = false → s.resumeFirst g = false → s.pick g = some hs →
        (s.createSpace g x.body).isSome = true → (∀ h ∈ hs, (s.heaths[h]).lost = false) → x.code = none → s.imageHeld x = none →
        (s.fnRead (s.recFn x) (recN x.body 0x10 8) (hdN g.header 8 8)).isSome = true →
        Does (.launchBind r) s fun t => t.group r = some { g with
            phase := .bound
            heaths := hs }
          ∧ (∀ h ∈ hs, (t.heaths[h]).group = some g.id ∧ (t.heaths[h]).gated = false)
          ∧ (∀ h, h ∉ hs → t.heaths[h] = s.heaths[h])
          ∧ (∀ c, coreHeath c ∉ hs → (t.core c).ctxs = (s.core c).ctxs ∧ (t.core c).vault = (s.core c).vault)
          ∧ ∀ (c : CoreId) (y : CtxId), coreHeath c ∈ hs → (hdCmask g.header).testBit (c.val % 8) = true → y.val < hdNctx g.header →
              let v := t.ctx c y
              v.run = .unloaded ∧ v.pc = BitVec.ofNat 64 (hdN g.header (0x18 + 4 * y.val) 4)
              ∧ v.g = (Vector.replicate 64 ⟨0, false⟩).set (63 : R64) ⟨BitVec.ofNat 64 (recN x.body 0x28 8), false⟩
              ∧ v.a = Vector.replicate 16 AReg.zero ∧ v.p = (Vector.replicate 16 false).set 0 true ∧ v.w = Vector.replicate 64 0
              ∧ v.d = Vector.replicate 64 ⟨0, 0, 1⟩ ∧ v.loop = Loop.clear ∧ v.hm = false ∧ v.asid = g.asid ∧ v.fmt = 0 ∧ v.store = []
              ∧ v.rwp = BitVec.ofNat 2 (recN x.body 0x23 1) ∧ v.nbud = BitVec.ofNat 32 (hdN g.header 0x38 4)
              ∧ (t.core c).tiles = Vector.replicate 16 0 ∧ (t.core c).inflight = [])
  ∧ (∀ (s : State) (r : Nat) (g : Group), s.group r = some g →
    (g.phase = .bound → Does (.groupRelease r) s fun t => KeepsContexts s t ∧ t.gmem = s.gmem
      ∧ (∃ y, t.group r = some y ∧ y.phase = .resident ∧ y.release = s.cyc.toNat ∧ y.heaths = g.heaths)
      ∧ (∀ u ∈ g.ctxs, (s.ctx u.1 u.2).run = .unloaded → (t.ctx u.1 u.2).run = .ready)
      ∧ ∀ c ∈ g.cores, (t.core c).beat.watched = some s.cyc.toNat)
    ∧ (∀ x, g.phase = .resident ∨ g.phase = .stopping ∨ g.phase = .bound → s.groupEnded g = true → s.workDone g = true → s.roomFor 3 = true →
        s.record g.record = some x → recJcb x.body = none → g.code.getD 1 < 256 → Does (.launchComplete r) s fun t =>
          Completes s t g.record x (g.code.getD 1) ∧ t.group r = none ∧ (∀ h ∈ g.heaths, (t.heaths[h]).group = none)
          ∧ (∀ c ∈ g.cores, (t.core c).allot = none)
          ∧ (g.code = some 4 ∨ g.code = some 5 → recKind x.body = 1 → (t.queues[x.queue]).frozen = true)))

/-- QUANTUM_BOUNDARY (23 R344), with no launch group to pre-empt or move: a queue that was mapped has age 0, one with work
that was not ages by one; each partition then maps at most QSLOTS queues, all with work, and leaves one with work unmapped
only behind QSLOTS others that come before it by age, then priority, then number. Nothing else changes. CONTEXT_SAVE_COMPLETE,
DRAIN_FALLBACK and GROUP_RESUME (23 R351, R352): a group whose contexts have stopped and whose work is done is saved:
registers, program counters, accumulators and the allotted part of the vaults, with the tiles of a checkpoint and none of a
drain; its heaths are free. A drain that is stuck after 175,000 ticks becomes a checkpoint where the kernel allows it: each core of the group stops its Ready
and Blocked contexts, one that a freeze holds later, once the freeze has ended (03 R44). A saved
group is bound to free heaths again with what was saved. -/
def Obligations.Preemption : Prop :=
  (∀ s : State, s.groups = [] →
    let age (q : Fin 4096) : Nat := if (s.queues[q]).mapped then 0
      else if s.hasWork q then min ((s.queues[q]).age + 1) 65535 else (s.queues[q]).age
    let prio (q : Fin 4096) : Nat := (s.queues[q]).prio.toNat
    Does .quantumBoundary s fun t =>
      let on (p : Nat) (q : Fin 4096) : Bool := s.queuePart q == some p && (t.queues[q]).mapped
      { t with queues := s.queues } = s
      ∧ (∀ q : Fin 4096, t.queues[q] = { s.queues[q] with
          age := age q
          mapped := (t.queues[q]).mapped })
      ∧ (∀ q : Fin 4096, (t.queues[q]).mapped = true → s.hasWork q = true)
      ∧ ∀ (p : Nat) (r : Partition), s.part p = some r →
          ((List.finRange 4096).filter (on p)).length ≤ r.qslots.toNat
          ∧ ∀ q', s.queuePart q' = some p → s.hasWork q' = true → r.suspended = false → on p q' = false →
              ((List.finRange 4096).filter (on p)).length = r.qslots.toNat
              ∧ ∀ q, on p q = true → age q' < age q ∨ age q' = age q ∧ (prio q' < prio q ∨ prio q' = prio q ∧ q.val < q'.val))
  ∧ (∀ (s : State) (r : Nat) (g : Group), s.group r = some g →
    (g.phase = .stopping → g.stop ≠ some .kill → s.allStopped g = true → s.workDone g = true →
      (∀ c ∈ g.cores, (s.core c).inflight = [] ∧ ∀ x, (s.ctx c x).accs = []) → Does (.contextSaveComplete r) s fun t =>
        (∀ h ∈ g.heaths, (t.heaths[h]).group = none) ∧ t.gmem = s.gmem
        ∧ ∃ z, t.group r = some z ∧ z.phase = .saved ∧ z.heaths = [] ∧ z.record = g.record ∧ z.header = g.header
          ∧ ∀ e ∈ groupCores g.heaths, ∃ v, (8 * e.1 + e.2.2.val, v) ∈ z.saved ∧
            let k := s.core (heathCore e.2.1 e.2.2)
            v.blocks = k.blocks ∧ v.tiles = (if g.stop = some .drain then Vector.replicate 16 0 else k.tiles)
            ∧ (∀ o : Nat, o < hdN g.header 0x2C 4 → memRead v.vault o = memRead k.vault o)
            ∧ ∀ x : CtxId, (v.ctxs[x]).g = (k.ctxs[x]).g ∧ (v.ctxs[x]).a = (k.ctxs[x]).a ∧ (v.ctxs[x]).w = (k.ctxs[x]).w
              ∧ (v.ctxs[x]).d = (k.ctxs[x]).d ∧ (v.ctxs[x]).p = (k.ctxs[x]).p ∧ (v.ctxs[x]).pc = (k.ctxs[x]).pc
              ∧ (v.ctxs[x]).loop = (k.ctxs[x]).loop ∧ (v.ctxs[x]).frame = (k.ctxs[x]).frame)
    ∧ (g.phase = .stopping → g.stop = some .drain → g.stopAt + 175000 ≤ s.cyc.toNat → hdAllows g.header 1 = true →
        (∃ u ∈ g.ctxs, (s.ctx u.1 u.2).stopping = false ∧ (s.ctx u.1 u.2).run ≠ .halted ∧ (s.ctx u.1 u.2).run ≠ .held) →
        exec (.drainFallback r) s = .next ((s.modGroup g.id fun y => { y with stop := some .checkpoint }).stopAll g))
    ∧ (∀ hs, g.phase = .saved → s.launchFirst g = false → s.pick g = some hs → hs.Nodup → (∀ h ∈ hs, (s.heaths[h]).lost = false) →
        (∀ x, s.record g.record = some x → s.imageHeld x = none) →
        Does (.groupResume r) s fun t => t.group r = some { g with
            phase := .bound
            heaths := hs }
          ∧ (∀ h ∈ hs, (t.heaths[h]).group = some g.id) ∧ t.gmem = s.gmem
          ∧ ∀ e ∈ groupCores hs, ∀ v, (g.saved.find? fun v => v.1 == 8 * e.1 + e.2.2.val) = some v →
            let k := t.core (heathCore e.2.1 e.2.2)
            k.tiles = v.2.tiles ∧ k.blocks = v.2.blocks ∧ k.vault = v.2.vault ∧ k.subs = v.2.subs ∧ k.ddq = v.2.ddq
            ∧ ∀ x : CtxId, (k.ctxs[x]).g = (v.2.ctxs[x]).g ∧ (k.ctxs[x]).w = (v.2.ctxs[x]).w ∧ (k.ctxs[x]).d = (v.2.ctxs[x]).d
              ∧ (k.ctxs[x]).p = (v.2.ctxs[x]).p ∧ (k.ctxs[x]).run = (v.2.ctxs[x]).run
              ∧ ((v.2.ctxs[x]).loop.drained = none → (k.ctxs[x]).a = (v.2.ctxs[x]).a ∧ (k.ctxs[x]).pc = (v.2.ctxs[x]).pc
                  ∧ (k.ctxs[x]).loop = (v.2.ctxs[x]).loop)))
  ∧ (∀ (s : State) (c : CoreId) (mode : StopMode), s.groupStop c = some mode →
    (s.stopWaits c mode = true → s.stopCore c = s)
    ∧ (s.stopWaits c mode = false → mode = .checkpoint → (∀ x, (s.ctx c x).episode = none ∧ (s.ctx c x).fired = none) →
        let t := s.stopCore c
        KeepsContexts s t ∧ t.gmem = s.gmem ∧ (∀ d, d ≠ c → t.core d = s.core d)
        ∧ ∀ x, (s.ctx c x).run = .ready ∨ (s.ctx c x).run = .blocked → (t.ctx c x).stopping = true))

/-- Layout commits (23 R353 to R357): a LAYOUT record with a valid image is staged, and a refused one completes BAD_RECORD;
with the launches that must leave gone and the engines done, the commit is quiet; at the next multiple of 1024 ticks every
unit takes the new tables, and no earlier, the images read for them are measured (26 R393, at most 32: log 60), and every job control block is 0
(R345). A retired heath leaves every partition of the layout that is then staged; that it is staged at once, or changes the commit in
progress, and under which version, is log 50. The reads of an image leave as MRDs (26 R384, log 77). -/
def Obligations.LayoutEvents : Prop :=
  ∀ (s : State) (r : Nat) (x : Record) (c : Commit) (h : Fin 24),
    (s.running r 7 = some x → s.commit = none → (s.hub.ports[(0 : Fin 9)]).up = true →
      (∀ l, s.layoutAt (recN x.body 0x10 8) = some l → s.layoutOk l = true → s.groups = [] →
        exec (.layout r) s = .next { s.askLayout r (recN x.body 0x10 8) with
          commit := some ⟨l, l.meas, some r, false, s.nextJob⟩ })
      ∧ ((∀ l, s.layoutAt (recN x.body 0x10 8) = some l → s.layoutOk l = false) → recJcb x.body = none → Does (.layout r) s fun t =>
          Completes (s.askLayout r (recN x.body 0x10 8)) t r x 8 ∧ t.layout = s.layout ∧ t.commit = none))
    ∧ (s.commit = some c → (∀ g ∈ s.groups, s.mustLeave g = false) → exec .quiesceComplete s = .next { s with commit := some (
        if s.quiescent c then { c with quiet := true } else c) })
    ∧ (s.commit = some c → c.quiet = false ∨ s.cyc.toNat % 1024 ≠ 0 → exec .layoutTick s = .next s)
    ∧ (s.commit = some c → c.quiet = true → s.cyc.toNat % 1024 = 0 → (∀ p ∈ s.layout.parts, p.suspended = false) →
        Does .layoutTick s fun t => t.commit = none ∧ t.layout.version = c.next.version ∧ t.layout.quantum = c.next.quantum
          ∧ t.layout.probe = c.next.probe ∧ t.layout.ths = c.next.ths ∧ t.layout.slots = c.next.slots
          ∧ t.layout.parts.map Partition.plain = c.next.parts.map Partition.plain
          ∧ (∀ i : CoreId, (t.core i).droopMv = c.next.droopOf (coreHeath i) ∧ (t.core i).ctxs = (s.core i).ctxs
              ∧ (t.core i).vault = (s.core i).vault)
          ∧ t.gmem = s.gmem ∧ t.mon.meas = (s.mon.meas ++ c.meas).take 32
          ∧ (c.record = none → (∀ p ∈ c.next.parts, p.suspended = false) → ∀ p ∈ t.layout.parts, p.jcbs = [])
          ∧ ∀ q, c.record = some q → s.roomFor 3 = true → t.RecordEnded q)
    ∧ (s.groups = [] → Does (.channelRetire (.heath h)) s fun t => (t.heaths[h]).retired = true ∧ ∃ d, t.commit = some d
        ∧ (∀ p ∈ d.next.parts, p.heaths.getLsbD h.val = false) ∧ d.quiet = false ∧ d.record = s.commit.bind (·.record)
        ∧ d.next.version = (match s.commit with
          | some e => e.next.version
          | none => s.layout.version + 1))
    ∧ (∀ (k : Fin 12) (n : Nat), s.groups = [] →
        Does (.channelRetire (.hbm k n)) s (fun t => t.hbmRetired = s.hbmRetired.set k (min 256 (s.hbmRetired[k] + n)) ∧ t.commit ≠ none)
        ∧ Does (.channelRetire (.msc k n)) s (fun t => t.mscRetired = s.mscRetired.set k (min 16 (s.mscRetired[k] + n)) ∧ t.commit ≠ none))

/-- Resets (26 R391, Table 26.4, 23 R358): a module reset loses launches, queues, blocks, vectors and trap records, and keeps
memory, in which the pools' leaves are restored (21 R311), the layout's tables and the retirements; a hub reset keeps descriptors with HEAD at TAIL, vectors with PEND cleared
and the trap queue; a partition reset stages the partition's tables again; a function's reset disables its descriptors, and
its RESET reads 0 again when nothing of it is left; while the host port is down, and in recovery, RESET is not written (R397). What else a module reset keeps, CYC, the owners of the
queues and the droop thresholds, and the next version at a partition reset, are log 59. -/
def Obligations.ResetEvents : Prop :=
  ∀ (s : State) (p : Fin 24) (f : Fin 96),
    Does .moduleReset s (fun t => (∀ i : CoreId, t.core i = { State.reset.core i with droopMv := s.layout.droopOf (coreHeath i) }) ∧ t.groups = [] ∧ t.records = [] ∧ t.commit = none ∧ t.jobs = []
      ∧ ((s.spaces.map (·.group)).Nodup → t.spaces = []
          ∧ t.gmem = s.spaces.foldl (fun m sp => sp.ptes.foldl (fun m p => memWriteN m p.1 8 p.2.toNat) m) s.gmem)
      ∧ t.hmem = s.hmem ∧ t.cyc = s.cyc ∧ t.hub.tqtail = 0 ∧ t.hub.tqhead = 0 ∧ t.hub.deferred = []
      ∧ t.hub.hostQ = [] ∧ t.hub.vectors = State.reset.hub.vectors ∧ t.hbmRetired = s.hbmRetired ∧ t.mscRetired = s.mscRetired
      ∧ t.layout.version = s.layout.version ∧ t.layout.slots = s.layout.slots
      ∧ (∀ q : Fin 4096, t.queues[q] = { Queue.reset with owner := (s.queues[q]).owner })
      ∧ ∀ h : Fin 24, (t.heaths[h]).retired = (s.heaths[h]).retired ∧ (t.heaths[h]).group = none)
    ∧ (s.groups = [] → exec .hubReset s = .next { s with
        records := []
        commit := none
        probes := []
        jobs := []
        queues := s.queues.map fun (d : Queue) => { d with
          head := d.tail
          flush := none }
        hub := { s.hub with
          irqs := []
          resets := []
          presets := []
          walks := []
          retries := []
          vectors := s.hub.vectors.map fun (v : Vector IVec 64) => v.map fun (x : IVec) => { x with pend := false } } })
    ∧ Does .hubReset s (fun t => t.groups = [] ∧ t.records = [] ∧ ∀ q : Fin 4096, (t.queues[q]).head = (t.queues[q]).tail)
    ∧ (∀ r, s.part p.val = some r → s.groups = [] → s.partQueues p.val = [] → Does (.partitionReset p) s fun t =>
        t.cores = s.cores ∧ t.gmem = s.gmem ∧ (s.commit = none → t.commit =
          some ⟨{ s.layout with version := s.layout.version + 1 }, [], none, false, s.nextJob⟩)
        ∧ p.val ∈ t.hub.presets
        ∧ (8 < s.tqFree → s.HostIdle → s.hub.deferred = [] → t.hub.tqtail = s.hub.tqtail + 1))
    ∧ ((s.hub.ports[(0 : Fin 9)]).up = false ∨ s.mon.recovery = true → exec (.vfReset f) s = .next s)
    ∧ ((s.hub.ports[(0 : Fin 9)]).up = true → s.mon.recovery = false → s.groups = [] → s.records = [] →
        (∀ q : Fin 4096, (s.queues[q]).head = (s.queues[q]).tail) →
        (∀ w ∈ s.hub.walks, w.asid.toNat ≠ f.val) → s.vfWaits f.val = false →
        let off (d : Queue) : Queue := if d.owner.map (·.val) = some f.val then { d with sizelog := 0 } else d
        (Does (.vfReset f) s fun t => f ∈ t.hub.resets ∧ t.cores = s.cores ∧ t.gmem = s.gmem ∧ t.hub.walks = s.hub.walks
          ∧ ∀ q : Fin 4096, t.queues[q] = off s.queues[q])
        ∧ (f ∈ s.hub.resets → s.hub.presets = [] → Does (.vfResetComplete f) s fun t => t.hub.resets = s.hub.resets.filter (· != f)
            ∧ t.cores = s.cores ∧ t.gmem = s.gmem))
    ∧ ((s.hub.ports[(0 : Fin 9)]).up = true → s.mon.recovery = false → s.vfWaits f.val = true → f ∉ s.hub.resets →
        exec (.vfReset f) s = .next { s with hub := { s.hub with resets := s.hub.resets ++ [f] } })

/-! ### Host and links -/

/-- The windows (26 R386 to R388, Tables 26.3 and 26.7): with the host port up, an 8-byte write of a vector, a descriptor,
NONCE or the recovery mailbox is read back; BASE is written only while HEAD = TAIL; writes of FAULTREPLY, RESET, ATTEST and
TQHEAD act as the transactions of those names; a window that does not answer, and the read-only VERSION, ignore a write. The
order of the descriptors in a window is the model's (log 18). -/
def Obligations.WindowWrites : Prop :=
  ∀ (s : State) (f : Fin 97) (o : Nat) (v : Word) (q : Fin 4096) (i : R64),
    let up := s.windowOpen f o = true
    let w (t : State) : Prop := exec (.hostWindowWrite f o v) s = .next t
    let back : Prop := Does (.hostWindowWrite f o v) s fun t => t.windowRead f o = v ∧ t.cores = s.cores ∧ t.gmem = s.gmem
    (s.windowOpen f o = false → o % 8 = 0 → w s)
    ∧ (up → o < 0x10000 → (s.fnQueues f)[o / 16]? = some q →
        (o % 16 = 8 → (s.queues[q]).head = (s.queues[q]).tail → back)
        ∧ (o % 16 = 8 → (s.queues[q]).head ≠ (s.queues[q]).tail → w s)
        ∧ (o % 16 = 0 → Does (.hostWindowWrite f o v) s fun t => (t.queues[q]).tail = BitVec.ofNat 16 (v.toNat / 2 ^ 48)
            ∧ (t.queues[q]).head = (s.queues[q]).head ∧ (t.queues[q]).frozen = ((s.queues[q]).frozen && !v.getLsbD 2)
            ∧ ((s.queues[q]).head ≠ (s.queues[q]).tail → (t.queues[q]).sizelog = (s.queues[q]).sizelog ∧ (t.queues[q]).prio = (s.queues[q]).prio)
            ∧ ((s.queues[q]).head = (s.queues[q]).tail → (t.queues[q]).sizelog.toNat = v.toNat / 2 ^ 24 % 16)))
    ∧ (up → o = 0x10000 + 16 * i.val → back)
    ∧ (up → o = 0x10008 + 16 * i.val → v.getLsbD 32 = true → Does (.hostWindowWrite f o v) s fun t =>
        (t.hub.vectors[f])[i] = { (s.hub.vectors[f])[i] with data := v.setWidth 32, mask := true } ∧ t.cores = s.cores ∧ t.hmem = s.hmem)
    ∧ (up → o = 0x11010 → w s)
    ∧ (up → f.val = 96 → 0x20000 ≤ o → o < 0x20020 → o % 8 = 0 → back)
    ∧ (up → f.val = 96 → 0x40000 ≤ o → o + 8 ≤ 0x60000 → o % 8 = 0 → memWf s.mon.mailbox = true → back)
    ∧ (up → ∀ h : f.val < 96,
        (o = 0x11000 → exec (.hostWindowWrite f o v) s = exec (.faultreply ⟨f.val, h⟩ (v.setWidth 56) (v.getLsbD 63)) s)
        ∧ (o = 0x11008 → v.getLsbD 0 = true → exec (.hostWindowWrite f o v) s = exec (.vfReset ⟨f.val, h⟩) s))
    ∧ (up → f.val = 96 → (o = 0x20020 → v.getLsbD 0 = true → exec (.hostWindowWrite f o v) s = exec .attest s)
        ∧ (o = 0x22010 → exec (.hostWindowWrite f o v) s = exec (.tqheadWrite (v.setWidth 32)) s))

/-- Attestation, recovery and the clearing of a mask (26 R388, R395, R396): ATTEST forms the report of the state at this
moment, with its nonce and layout version, while the host port is up, and the report then stands in REPORT; in recovery the host's message has the image
in the mailbox verified: one that verifies is written to the slot and ends recovery by a module reset, another leaves the module
in recovery; a vector whose MASK clears sends its pending message once. That a second ATTEST replaces the report being formed, that
a report is of the state at its start, and the length of the image in the mailbox are log 60. -/
def Obligations.AttestationAndRecovery : Prop :=
  ∀ (s : State) (l : List Byte) (f : Fin 97) (v : R64),
    let m := s.mon
    let img := memBytes m.mailbox 0 (128 + min (memReadN m.mailbox 0x0C 4) 130944)
    let x := (s.hub.vectors[f])[v]
    let up : Prop := (s.hub.ports[(0 : Fin 9)]).up = true
    (up → m.recovery = false → Does .attest s fun t => ∃ rep, t = { s with mon := { m with forming := some rep } }
        ∧ leNat (rep.take 4) = 0x54544154 ∧ leNat ((rep.drop 8).take 32) = m.nonce.toNat
        ∧ leNat ((rep.drop 72).take 4) = s.layout.version.toNat)
    ∧ (m.recovery = true ∨ ¬up → exec .attest s = .next s)
    ∧ (m.forming = some l → exec .attestReportComplete s = .next { s with mon := { m with
        report := l
        ready := true
        forming := none } })
    ∧ (m.recovery = true → up → exec .recoveryMsg s = .next { s with mon := { m with verifying := true } })
    ∧ (m.recovery = false ∨ ¬up → exec .recoveryMsg s = .next s)
    ∧ (m.verifying = true → verifyImage 1 img = none → s.verifyMailbox = { s with mon := { m with
        badImage := true
        verifying := false } })
    ∧ (m.verifying = true → verifyImage 1 img ≠ none →
        let t := s.verifyMailbox
        t.mon.recovery = false ∧ t.mon.verifying = false ∧ t.mon.slot = img ∧ t.gmem = s.gmem ∧ t.cyc = s.cyc)
    ∧ (m.recovery = true ∨ ¬up → exec (.vectorMaskClear f v) s = .next s)
    ∧ (m.recovery = false → up → x.pend = false → Does (.vectorMaskClear f v) s fun t => t.cores = s.cores ∧ t.hmem = s.hmem
        ∧ (t.hub.vectors[f])[v] = { x with mask := false })
    ∧ (m.recovery = false → x.pend = true → (∀ g ∈ s.hub.resets, g.val ≠ f.val) → x.addr ≠ 0 → s.HostIdle → memWf s.hmem = true →
        Does (.vectorMaskClear f v) s fun t => t.cores = s.cores ∧ memReadN t.hmem x.addr.toNat 4 = x.data.toNat
          ∧ (t.hub.vectors[f])[v] = { x with mask := false, pend := false })

/-- The link layer (26 R383): the next flit in sequence is taken and acknowledged; one that fails its checks is answered with
a NAK that carries its number; an acknowledgement empties the replay buffer up to its number, and what waited for room in it is
sent; a NAK replays from its flit in order, and the eighth replay of one flit in succession retrains the port, which comes up or
goes down by a free choice (log 6). Link events (26 R390 to R392, Table 26.4): the host port going down fails the COPY records
that read host memory and loses what was refused on it; coming up it sends the held writes in order; a peer port going down ends
far copies on it with STATUS 2; a CXL port that is down is kept as such; a port comes up at its full width with nothing sent
(log 1). That a flit out of sequence is dropped without an answer, what waits for room in the replay buffer, and the CRC's
conventions are log 58; the requests lost with a port are log 61. -/
def Obligations.Links : Prop :=
  (∀ (s : State) (port : Fin 9) (flit : List Byte) (sq : BitVec 12) (x : Tx),
    let q := s.hub.ports[port]
    let h := leNat (flit.take 4)
    let ft := h / 2 ^ 24 % 16
    let num : BitVec 12 := BitVec.ofNat 12 h
    let good := flit.length = 256 ∧ h / 2 ^ 28 = 0 ∧ ft < 4 ∧ crc64 (flit.take 248) = BitVec.ofNat 64 (leNat (flit.drop 248))
    let acked (n : BitVec 12) : List (BitVec 12 × List Byte) := q.buffer.filter fun b => decide (2048 ≤ (n - b.1).toNat)
    let reply (ft : Nat) (ack n : BitVec 12) : Outgoing := .flit port (flitBytes ft ack.toNat n.toNat (List.replicate 244 0))
    let none' : Prop := q.waiting = [] ∧ (port = 0 → s.hub.hostQ = [])
    let others (t : State) : Prop := t.cores = s.cores ∧ t.gmem = s.gmem ∧ t.hmem = s.hmem ∧ ∀ p, p ≠ port → t.hub.ports[p] = s.hub.ports[p]
    (q.up = true → good → ft = 1 → none' → Does (.flitReceive port flit) s fun t => others t
        ∧ (t.hub.ports[port]).buffer = acked (BitVec.ofNat 12 (h / 2 ^ 12))
        ∧ (num = q.recvSeq → (t.hub.ports[port]).recvSeq = num + 1 ∧ t.hub.out = s.hub.out ++ [reply 2 num num])
        ∧ (num ≠ q.recvSeq → (t.hub.ports[port]).recvSeq = q.recvSeq ∧ t.hub.out = s.hub.out))
    ∧ (q.up = true → ¬good → exec (.flitReceive port flit) s = .next { s with hub := { s.hub with
        out := s.hub.out ++ [reply 3 (q.recvSeq - 1) num] } })
    ∧ (q.up = false → exec (.flitReceive port flit) s = .next s ∧ exec (.flitAck port sq) s = .next s ∧ exec (.flitNak port sq) s = .next s)
    ∧ (q.up = true → none' → Does (.flitAck port sq) s fun t => others t ∧ (t.hub.ports[port]).buffer = acked sq
        ∧ (t.hub.ports[port]).up = true ∧ t.hub.out = s.hub.out)
    ∧ (q.up = true → q.waiting = [x] → (port = 0 → s.hub.hostQ = []) → (acked sq).length + x.data.length / 244 + 1 ≤ 256 →
        Does (.flitAck port sq) s fun t => others t ∧ (t.hub.ports[port]).waiting = [] ∧ .tx port x ∈ t.hub.out)
    ∧ (q.up = true → Does (.flitNak port sq) s fun t => others t
        ∧ t.hub.out = s.hub.out ++ (q.buffer.dropWhile (·.1 != sq)).map (fun b => .flit port b.2)
        ∧ (q.lastNak ≠ some sq ∨ q.replays + 1 < 8 → (t.hub.ports[port]).up = true ∧ (t.hub.ports[port]).lastNak = some sq
            ∧ (t.hub.ports[port]).replays = if q.lastNak = some sq then q.replays + 1 else 1)
        ∧ (q.lastNak = some sq → 8 ≤ q.replays + 1 → (t.hub.ports[port]).replays = 0)))
  ∧ (∀ (s : State) (p : R8) (x : Fin 2),
    let port : Fin 9 := ⟨p.val + 1, by omega⟩
    let same (t : State) : Prop := t.cores = s.cores ∧ t.gmem = s.gmem
    let fresh : Port := ⟨true, 0, 0, [], 0, none, []⟩
    let lost (t : State) (p : Fin 9) : Prop := (t.hub.ports[p]).up = false ∧ (t.hub.ports[p]).buffer = [] ∧ (t.hub.ports[p]).waiting = []
      ∧ (∀ q, q ≠ p → t.hub.ports[q] = s.hub.ports[q]) ∧ t.hub.retries = s.hub.retries.filter (·.port != p)
    let reads (y : Record) : Bool := recKind y.body == 2 && y.begun && !y.ended && y.code.isNone && isHostAddr (recN y.body 0x10 8)
    let far (j : Job) : Bool := j.kind == .copy && !j.ended && j.image.isSome && cardFar j.im && cardPort j.im == p
    Does .hostPortDown s (fun t => same t ∧ lost t 0 ∧ t.hub.hostQ = s.hub.hostQ ∧ t.hmem = s.hmem ∧ t.jobs = s.jobs
      ∧ t.records = s.records.map fun y => if reads y then { y with code := some 4 } else y)
    ∧ Does .hostPortUp s (fun t => same t ∧ (∀ q : Fin 4096, (t.queues[q]).flush = none)
        ∧ (s.hub.hostQ = [] → (∀ q : Fin 4096, (s.queues[q]).flush = none) → (t.hub.ports[(0 : Fin 9)]) = fresh ∧ t.hmem = s.hmem)
        ∧ (s.hub.hostQ.length ≤ 256 → (∀ q : Fin 4096, (s.queues[q]).flush = none) → (∀ w ∈ s.hub.hostQ, w.data.length < 244) → t.hub.hostQ = []
          ∧ t.hmem = s.hub.hostQ.foldl (fun m w => memWriteBytes m w.a w.data) s.hmem))
    ∧ Does (.peerPortDown p) s (fun t => same t ∧ lost t port ∧ t.records = s.records
        ∧ t.jobs = s.jobs.map fun j => if far j then { j with
          status := some (j.status.getD 2)
          acked := j.moved.length } else j)
    ∧ Does (.peerPortUp p) s (fun t => same t ∧ t.hub.ports[port] = fresh ∧ t.jobs = s.jobs)
    ∧ exec (.cxlLinkDown x) s = .next { s with hub := { s.hub with cxl := s.hub.cxl.set x false } })

/-- Transactions at memory (26 R384, R385, 24 R376): a host read of bytes that may be read is answered with them; a host write
to one page is performed there and nowhere else; an ATOM is answered with the old word and combines in one step, `.min` and `.max`
by its sign; a request
without permission or translation, and a read of poison, is answered with its status and performs nothing; one that finds a line
of its bytes pinned is answered with status 1 and kept for 1024 ticks, and one at a replayable fault is kept without an answer. The
statuses of unmapped and malformed requests, and that a held access is kept and tried again after 1024 ticks, are log 57. -/
def Obligations.HostTransactions : Prop :=
  ∀ (s : State) (tag : BitVec 10) (f : BitVec 7) (ps : BitVec 5) (a : Addr) (pa n : Nat) (data : List Byte) (op : AtOp) (sg : Sg) (dw : Bool)
    (x cmp : Word), s.PortIdle 0 → s.mon.recovery = false → f.toNat < 96 → memWf s.gmem = true →
    let sent (t : State) (st : BitVec 3) (l : List Byte) : Prop := Sent s t 0 (.cpl f ps tag st l)
    let kept (t : State) (tx : PeerTx) : Prop := t.hub.retries = s.hub.retries ++ [⟨s.cyc.toNat + 1024, 0, f, ps, tx⟩]
    let quiet (t : State) : Prop := t.hub.out = s.hub.out ∧ t.hub.ports = s.hub.ports
    let at1 (write : Bool) : Phys := s.hubPhys f.toNat .host write a.toNat
    let free (n : Nat) : Prop := ∀ i < n, s.pinnedLoc none (.mem (pa + i)) = false
    let k := if dw then 8 else 4
    let fits (n : Nat) : Prop := 1 ≤ n ∧ n ≤ 512 ∧ a.toNat % 4096 + n ≤ 4096 ∧ (n < 8 → (n = 1 ∨ n = 2 ∨ n = 4) ∧ a.toNat % n = 0)
    let old := memReadN s.gmem pa k
    let y := x.toNat % 2 ^ (8 * k)
    let num (z : Nat) : Int := match sg with
      | .u => (z : Int)
      | .s => if z < 2 ^ (8 * k - 1) then (z : Int) else (z : Int) - 2 ^ (8 * k)
    let new := match op with
      | .add => (old + y) % 2 ^ (8 * k)
      | .min => if num old ≤ num y then old else y
      | .max => if num y ≤ num old then old else y
      | .and => old &&& y
      | .or => old ||| y
      | .xor => old ^^^ y
      | .swap => y
      | .cas => if old = cmp.toNat % 2 ^ (8 * k) then y else old
    (fits n → free n → at1 false = .ok pa → s.poisonedLoc (.mem pa) n = false → Does (.mrd 0 tag f ps a n) s fun t =>
        sent t 0 (memBytes s.gmem pa n) ∧ t.gmem = s.gmem ∧ t.cores = s.cores)
    ∧ (fits n → Does (.mrd 0 tag f ps a n) s fun t => t.gmem = s.gmem ∧ t.cores = s.cores
        ∧ (at1 false = .perm → sent t 3 []) ∧ (at1 false = .page → sent t 2 [])
        ∧ (free n → at1 false = .ok pa → s.poisonedLoc (.mem pa) n = true → sent t 4 [])
        ∧ (¬free n → at1 false = .ok pa → sent t 1 [] ∧ kept t (.mrd tag a n))
        ∧ (at1 false = .held → quiet t ∧ kept t (.mrd tag a n)))
    ∧ (¬fits n → Does (.mrd 0 tag f ps a n) s fun t => sent t 2 [] ∧ t.gmem = s.gmem)
    ∧ (1 ≤ data.length → data.length ≤ 512 → a.toNat % 65536 + data.length ≤ 65536 → Does (.mwr 0 f ps a data) s fun t =>
        (free data.length → at1 true = .ok pa → KeepsContexts s t ∧ quiet t ∧ (∀ c, (t.core c).vault = (s.core c).vault) ∧ ∀ b : Nat,
          memRead t.gmem b = if pa ≤ b ∧ b < pa + data.length then data.getD (b - pa) 0 else memRead s.gmem b)
        ∧ (¬free data.length → at1 true = .ok pa → quiet t ∧ t.gmem = s.gmem ∧ ∃ g, kept t (.mwr g a data))
        ∧ (at1 true = .perm ∨ at1 true = .page →
          { t with choices := s.choices } = { s with hub := { s.hub with errors := s.hub.errors + 1 } })
        ∧ (at1 true = .held → quiet t ∧ t.gmem = s.gmem ∧ ∃ g, kept t (.mwr g a data)))
    ∧ (a.toNat % k = 0 → free k → at1 true = .ok pa → s.poisonedLoc (.mem pa) k = false → Does (.linkAtom 0 tag f ps op sg dw a x cmp) s fun t =>
        sent t 0 (leBytes k old) ∧ KeepsContexts s t ∧ ∀ b : Nat,
          memRead t.gmem b = if pa ≤ b ∧ b < pa + k then BitVec.ofNat 8 (new / 2 ^ (8 * (b - pa))) else memRead s.gmem b)
    ∧ (a.toNat % k ≠ 0 → Does (.linkAtom 0 tag f ps op sg dw a x cmp) s fun t => sent t 2 [] ∧ t.gmem = s.gmem)

/-- Peers, completions and retries (26 R385, R389, R392, 19 R283, R290): a peer's transaction whose function and partition match
the tables acts as a host's does, and its write is answered once it has performed; another is answered with status 3 and
performs nothing; an element of a far copy leaves on its port with the function and partition of the port's table; a completion
acknowledges a write of the far copy it names, and an error decides its code, or fails the COPY record that reads host memory;
and a request refused is repeated when its tick has come. A completion's tag is the job's or the record's number, and a peer
answers a write (log 57). -/
def Obligations.PeerTransactions : Prop :=
  ∀ (s : State) (p : R8) (tag : BitVec 10) (f : BitVec 7) (ps : BitVec 5) (a : Addr) (n pa : Nat) (data : List Byte) (op : AtOp) (sg : Sg) (dw : Bool)
    (x cmp : Word) (r : Retry),
    let port : Fin 9 := ⟨p.val + 1, by omega⟩
    let ok := s.peerAccepts port f ps = true
    let far (j : Job) : Bool := j.kind == .copy && !j.ended && cardFar j.im && decide (j.id % 1024 = tag.toNat) && cardPort j.im == p
      && ((s.hub.peers[p]).find? fun e => e.1 == (s.core j.core).alloc.part).all fun e => e.2.f == f && e.2.q == ps
    let end1 (st : BitVec 3) (j : Job) : Job := if far j then { j with
        acked := j.acked + 1
        status := if st = 0 then j.status else some (j.status.getD (if st = 3 then 2 else if st = 4 then 3 else 4)) } else j
    let reads (y : Record) : Bool := recKind y.body == 2 && y.begun && !y.ended && y.code.isNone && decide (y.id % 1024 = tag.toNat)
      && fnNo (s.recFn y) == f && isHostAddr (recN y.body 0x10 8)
    let fail4 (y : Record) : Record := if reads y then { y with code := some 4 } else y
    let no (i : Instr) : Prop := s.PortIdle port → s.mon.recovery = false → Does i s fun t =>
      Sent s t port (.cpl f ps tag 3 []) ∧ t.gmem = s.gmem ∧ t.cores = s.cores
    let small : Prop := 1 ≤ data.length ∧ data.length ≤ 512 ∧ a.toNat % 65536 + data.length ≤ 65536
    let clear (f : BitVec 7) (a : Addr) : Prop := s.hubPhys f.toNat .host true a.toNat = .ok pa ∧ memWf s.gmem = true
      ∧ ∀ i < data.length, s.pinnedLoc none (.mem (pa + i)) = false
    let written (t : State) : Prop := KeepsContexts s t ∧ ∀ b : Nat,
      memRead t.gmem b = if pa ≤ b ∧ b < pa + data.length then data.getD (b - pa) 0 else memRead s.gmem b
    (exec (.peerTransaction p f ps (.mrd tag a n)) s = exec (.mrd port tag f ps a n) s)
    ∧ (exec (.peerTransaction p f ps (.atom tag op sg dw a x cmp)) s = exec (.linkAtom port tag f ps op sg dw a x cmp) s)
    ∧ (ok → small → clear f a → s.PortIdle port → s.mon.recovery = false →
        Does (.peerTransaction p f ps (.mwr tag a data)) s fun t => written t ∧ Sent s t port (.cpl f ps tag 0 []))
    ∧ (¬ok → (small → no (.peerTransaction p f ps (.mwr tag a data)))
        ∧ (1 ≤ n → n ≤ 512 → a.toNat % 4096 + n ≤ 4096 → 8 ≤ n → no (.mrd port tag f ps a n))
        ∧ (a.toNat % (if dw then 8 else 4) = 0 → no (.linkAtom port tag f ps op sg dw a x cmp)))
    ∧ (∀ (j : Job) (k q lo len : Nat) (e : Nat × PeerEntry) (src : List Loc), s.job j.id = some j → j.kind = .copy → j.image ≠ none →
        j.status = none → j.ended = false → k ∉ j.moved → cardFar j.im = true → cardPort j.im = p → s.holdsNew j = false →
        jobElem j.im k = some (q, lo, len) → ((s.hub.peers[p]).find? fun e => e.1 == (s.core j.core).alloc.part) = some e →
        s.PortIdle port → len ≤ 512 →
        let sa := runSrc j.im q + BitVec.ofNat 56 lo
        ((cardRegions j.im).any fun g => g.covers sa len) = true → s.jobWaits j sa len = false →
        s.engLocs j.core j.ctx false sa len = .ok src → (∀ l ∈ src, s.poisonedLoc l 1 = false) →
        Does (.peerTransaction p f ps (.far j.id k)) s fun t => t.gmem = s.gmem ∧ t.cores = s.cores
          ∧ t.job j.id = some { j with moved := k :: j.moved }
          ∧ Sent s t port (.mwr e.2.f e.2.q (BitVec.ofNat 10 j.id) ((runDst j.im q + BitVec.ofNat 56 lo).setWidth 64)
              (leBytes len (s.engRead src))))
    ∧ (∀ st : BitVec 3, st ≠ 1 → exec (.cpl port ⟨tag, f, ps⟩ st data) s = .next { s with jobs := s.jobs.map (end1 st) })
    ∧ (∀ st : BitVec 3, st ≠ 0 → st ≠ 1 → exec (.cpl 0 ⟨tag, f, ps⟩ st data) s = .next { s with records := s.records.map fail4 })
    ∧ exec (.cpl 0 ⟨tag, f, ps⟩ 0 data) s = .next s ∧ (∀ q : Fin 9, exec (.cpl q ⟨tag, f, ps⟩ 1 data) s = .next s)
    ∧ ((s.hub.retries.find? fun r => decide (r.tick ≤ s.cyc.toNat)) = some r → s.portUp r.port = true →
        let u : State := { s with hub := { s.hub with retries := s.hub.retries.erase r } }
        (∀ tag a n, r.tx = .mrd tag a n → exec .hostRetryTimer s = exec (.mrd r.port tag r.f r.pslot a n) u)
        ∧ (r.tx = .mwr tag a data → r.port = 0 → r.f.toNat < 96 → small → clear r.f a →
            Does .hostRetryTimer s fun t => written t ∧ t.hub.out = s.hub.out ∧ t.hub.retries = s.hub.retries.erase r)
        ∧ (r.tx = .mwr tag a data → r.port = port →
            exec .hostRetryTimer s = exec (.peerTransaction p r.f r.pslot (.mwr tag a data)) u)
        ∧ (∀ tag op sg dw a x cmp, r.tx = .atom tag op sg dw a x cmp →
            exec .hostRetryTimer s = exec (.linkAtom r.port tag r.f r.pslot op sg dw a x cmp) u))
    ∧ ((∀ r ∈ s.hub.retries, s.cyc.toNat < r.tick) → exec .hostRetryTimer s = .next s)

/-! ### Encodings -/

/-- Every well-formed slot form is read back from its word, in the slot that holds it, with every operand and modifier (05 R58
to R66, 08 R91); and a word that decodes is the encoding of what it decodes to, so that no bit of it is dropped and no two
words mean the same. -/
def Obligations.DecodeAndEncodeAgree : Prop :=
  (∀ (litc w : Nat) (i : Instr), WellFormedIn litc i = true → encode i = some w → decodeSlot (homeSlot i) litc w = .ok i)
  ∧ ∀ (k : Fin 8) (litc w : Nat) (i : Instr), litc < 4 → w < 2 ^ 48 → decodeSlot k litc w = .ok i →
      encode i = some w ∧ WellFormedIn litc i = true

/-- Words the spec writes out decode to the forms they stand for, one for each slot's map (08 Table 8.12, 09 Table 9.10, 10
Table 10.5, 13 Table 13.4, 15 Table 15.4, 17 Table 17.4, 21 Table 21.5, 24 Table 24.5, 27 Table 27.3), and the bundle of 08
decodes to its two slots. -/
def Obligations.WordsOfTheSpecDecode : Prop :=
  decodeSlot 0 0 0x050006000010 = .ok (.lset ⟨false, 0⟩ 0 2 12) ∧ decodeSlot 0 0 0x072000000000 = .ok (.lbrk ⟨false, 4⟩ 0)
  ∧ decodeSlot 1 0 0x270020000000 = .ok (.movc ⟨false, 0⟩ (.read 1 0)) ∧ decodeSlot 2 0 0x400280000002 = .ok (.dset ⟨false, 0⟩ 20 0 0 2)
  ∧ decodeSlot 4 0 0x0600A1000128 = .ok (.ldv ⟨false, 0⟩ ⟨2, .heath⟩ 5 ⟨2, .disp 0⟩)
  ∧ decodeSlot 5 0 0x050021060010 = .ok (.vfma ⟨false, 0⟩ .f32 .rz 1 2 3) ∧ decodeSlot 6 0 0x010000042800 = .ok (.mma ⟨false, 0⟩ (some 2) 0 0 1)
  ∧ decodeSlot 7 0 0x210002986801 = .ok (.ddapply ⟨false, 0⟩ .or 5 12 13) ∧ decodeSlot 7 0 0x3500A0000202 = .ok (.movcSysRead ⟨false, 0⟩ 5 0x202)
  ∧ decodeSlot 7 0 0x040000000004 = .ok (.opselI ⟨false, 0⟩ 4)
  ∧ decodeBundle ([0x00, 0x06, 0x00, 0x00, 0x00, 0x20, 0x00, 0x27, 0x02, 0x00, 0x00, 0x60, 0x00, 0x20] ++ List.replicate 50 0) =
      .bundle ⟨[(1, .movc ⟨false, 0⟩ (.read 1 0)), (2, .movi ⟨false, 0⟩ 3 (.int20 2))], [], false, false, 14⟩

/-! ### Issue, traps and the whole machine -/

/-- A step runs what is decoded (05 R69 to R73): an input whose time has come is performed as that instruction, a droop alarm
after the turn of its core (27 R404); the bundle
that decodes at the program counter commits the meanings of its slots in order and takes one step of its core; and when time
goes on at the turn of a core whose clock begins a cycle and that nothing holds or stops, the step is that bundle's issue. That
inputs come first is log 2 and log 6, the turns and the clocks of the cores are log 4. -/
def Obligations.StepRunsTheDecodedInstruction : Prop :=
  ∀ (s : State) (c : CoreId) (x : CtxId) (a : Nat) (b : Bundle),
    (∀ t i rest, s.inbox = (t, .instr i) :: rest → isInput i = true →
      (t < s.cyc.toNat ∨ t = s.cyc.toNat ∧ ∀ d, i = .droopAlarm d → d.val < s.turn) → step s = exec i { s with inbox := rest })
    ∧ (∀ t i rest, s.inbox = (t, i) :: rest → t ≤ s.cyc.toNat → (∀ j, i ≠ .instr j) → step s = .next (({ s with inbox := rest } : State).input i))
    ∧ (s.Issuing c x a b → (s.openBundle c x a b).held = none →
        exec (.bundleIssue c) s = .next ((runSlots b.slots (s.opening c x a b)).closing c x b))
    ∧ (s.nextInput = none → s.forced = none → ∀ t : State, s.pickEvent = (none, t) → t.turn = c.val →
        (t.heaths[coreHeath c]).gated = false → 35 ≤ (t.core c).clock + (t.core c).opp.rate →
        let u := { t with turn := c.val + 1 }.modCore c fun k => { k with clock := k.clock + k.opp.rate - 35 }
        let k := u.core c
        k.opp.set = false → k.opp.rem = 0 → k.beat.misses < 2 → k.stretch = 0 → k.freezeLeft = 0 → k.split = 0 → k.splitAt = none →
        k.due = [] → (∀ y : CtxId, (k.ctxs[y]).run ≠ .blocked ∧ (k.ctxs[y]).pendDom = [] ∧ (k.ctxs[y]).episode = none ∧ (k.ctxs[y]).faults = []) →
        u.stopCore c = u → u.Issuing c x a b → (u.openBundle c x a b).held = none →
        ∀ v, exec (.bundleIssue c) u = .next v → (v.core c).step ≠ k.step → step s = .next v)

/-- Steps without a bundle (03 R34, R36, 09 R123): a core with nobody to run takes an idle step, with a pending PRI (log 62); a switch step and a fetch
bubble take one each; and a core whose contexts are Ready runs the next in rotation of those of the highest priority, after a
switch step where that is not the one that ran last. -/
def Obligations.StepsWithoutABundle : Prop :=
  ∀ (s : State) (c : CoreId),
    let k := s.core c
    let able (y : CtxId) : Prop := (k.ctxs[y]).run = .ready ∧ (k.ctxs[y]).stopping = false
    let after (y : CtxId) : Nat := (y.val + 3 - k.last.val) % 4
    (s.issuer c = none → exec (.bundleIssue c) s = .next s)
    ∧ (k.current = none → (∀ y, ¬able y) → exec (.idleStep c) s = .next (s.setCore c { k.applyPri with step := k.step + 1 }))
    ∧ (∀ x, k.current = some x → k.switching = true → exec (.idleStep c) s = .next (s.setCore c { k with
        switching := false
        step := k.step + 1 }))
    ∧ (∀ x, k.current = some x → k.switching = false → 0 < (k.ctxs[x]).bubbles → Does (.idleStep c) s fun t =>
        (t.core c).step = k.step + 1 ∧ t.ctx c x = { s.ctx c x with bubbles := (s.ctx c x).bubbles - 1 })
    ∧ (k.current = none → k.fresh = false → (∀ y : CtxId, (k.ctxs[y]).priNext = none) → (∃ y, able y) → ∃ y, able y
        ∧ (∀ z, able z → (k.ctxs[z]).pri = true → (k.ctxs[y]).pri = true)
        ∧ (∀ z, able z → (k.ctxs[z]).pri = (k.ctxs[y]).pri → after y ≤ after z)
        ∧ Does (.idleStep c) s fun t => (t.core c).current = some y ∧ (t.ctx c y).run = .running ∧ (t.core c).switching = false
          ∧ (y ≠ k.last → (t.core c).step = k.step + 1)
          ∧ (y = k.last → (k.ctxs[y]).bubbles = 0 → (t.core c).step = k.step))

/-- Traps taken before any slot commits (05 R57, R75, R76): a taken transfer to an address without a start mark, an illegal
encoding, and a write conflict (of a bundle none of whose slots has committed, an LDQ's block among its destinations, log 40)
enter the handler of the context and name the bundle and the cause. That they take no step of
their own is a reading (log 16), and the fault address of a write conflict is free (log 12). Fatal traps (24 R362): a trap of
a context that has no handler holds the context with its frame, saves its context record, writes a record of kind 1 with its
cause and that record's address (log 48) into the trap queue, saves a record of every other context of its launch group (24 R375), and stops them. -/
def Obligations.TrapsAtIssue : Prop :=
  (∀ (s : State) (c : CoreId) (x : CtxId) (a : Nat),
    let k := s.core c
    let u := s.ctx c x
    s.issuer c = some x → u.hm = false → u.thv ≠ 0 → k.markOk u.thv = true →
    let traps (cause : BitVec 8) (hdr : Word) (aft : Bool) (P : Word → Prop) : Prop := Does (.bundleIssue c) s fun t =>
      let v := t.ctx c x
      v.hm = true ∧ v.pc = u.thv ∧ v.bubbles = 3 ∧ v.frame.valid = true ∧ v.frame.cause = cause ∧ v.frame.addr = hdr.setWidth 56
      ∧ v.frame.after = aft ∧ v.frame.sr = 0 ∧ P v.frame.faddr ∧ v.g = u.g ∧ v.a = u.a ∧ v.loop = u.loop ∧ t.gmem = s.gmem
      ∧ (t.core c).step = k.step
    (u.transferred = true → k.markOk u.pc = false → traps 0x02 u.lastHdr true fun w => w = u.pc)
    ∧ (u.transferred = false → u.pc.toNat ≠ 0x20000 → u.pc.toNat ≠ 0x40000 → k.fetchFrom u.pc.toNat u.pc.toNat = a →
        a ≠ bankEnd u.pc.toNat →
        (∀ o e, k.decodeAt a = .illegal o e → traps 0x01 (BitVec.ofNat 64 a) false fun w => w = BitVec.ofNat 64 (a + o))
        ∧ ∀ b, k.decodeAt a = .bundle b → u.replay = none ∨ u.frame.sr = 0 →
            writeConflict b.slots = true ∨ (s.openBundle c x a b).blockConflict = true →
            traps 0x03 (BitVec.ofNat 64 a) false fun _ => True))
  ∧ (∀ (s : State) (gd : Guard) (a : R64), s.guard gd = true → s.user → s.cur.run ≠ .held → s.cur.thv = 0 →
    0 < s.tqFree → s.HostIdle → s.hub.deferred = [] →
    let g := (s.core s.env.core).alloc.group
    Does (.ckill gd a) s fun t =>
      t.cur.run = .held ∧ t.cur.hm = false ∧ t.cur.frame.valid = true ∧ t.cur.frame.cause = 0x04 ∧ t.cur.frame.addr = s.env.hdr.setWidth 56
      ∧ t.cur.g = s.cur.g ∧ t.hub.tqtail = s.hub.tqtail + 1
      ∧ (memWf s.hmem = true → memReadN t.hmem (s.hub.tqbase.toNat + 64 * (s.hub.tqtail.toNat % 1024)) 2 = 0x0401
          ∧ memReadN t.hmem (s.hub.tqbase.toNat + 64 * (s.hub.tqtail.toNat % 1024) + 40) 8 = (64 * Config.recBase + s.recNext) % 2 ^ 64)
      ∧ s.recNext < t.recNext
      ∧ (∀ (c : CoreId) (y : CtxId), ((s.core c).allot.map (·.group)) = some g → (t.ctx c y).run = .unloaded ∨ (t.ctx c y).run = .halted ∨ (t.ctx c y).run = .held)
      ∧ ∀ y ∈ t.groups, y.id = g → y.stop = some .kill ∧ y.code.isSome = true ∧
          ∀ (c : CoreId) (x : CtxId), ((s.core c).allot.map (·.group)) = some g → (s.ctx c x).run ≠ .unloaded → (s.ctx c x).run ≠ .held →
            ctxUnit c x ∈ y.records.map Prod.fst)

/-- TRET (24 R368): a bundle of TRET alone in handler mode, with a valid frame whose target has its start mark, leaves handler
mode, frees the frame, and goes on at the frame's bundle after three fetch bubbles, to read the frame's snapshot; a frame that
is not valid makes it a double trap. -/
def Obligations.TrapReturnResumesTheFrame : Prop :=
  ∀ (s : State) (c : CoreId) (x : CtxId) (a : Nat) (b : Bundle) (gd : Guard),
    let u := s.ctx c x
    let f := u.frame
    s.Issuing c x a b → b.slots = [(7, .tret gd)] → b.yld = false → (s.opening c x a b).guard gd = true → u.hm = true → u.run = .running →
    s.groupStop c = none → u.promiseT = none →
    (f.valid = true → f.after = false → (s.core c).markOk (f.addr.setWidth 64) = true → f.cause ≠ 0x15 → u.faults = [] → f.blk = false →
      Does (.bundleIssue c) s fun t =>
        let v := t.ctx c x
        v.hm = false ∧ v.frame = { f with valid := false } ∧ v.pc = f.addr.setWidth 64 ∧ v.bubbles = 3 ∧ v.replay = some f.snaps
        ∧ v.g = u.g ∧ v.a = u.a ∧ v.p = u.p ∧ v.loop = u.loop ∧ v.run = .running ∧ t.gmem = s.gmem ∧ (t.core c).step = (s.core c).step + 1)
    ∧ (f.valid = false → Does (.bundleIssue c) s fun t =>
        (t.ctx c x).run = .held ∧ (t.ctx c x).frame.cause = 0x22 ∧ (t.ctx c x).hm = true)

/-- What the spec states of reset and launch values (03 R32, R53, 12 R172, R177, R179, 15 R230 and R236, 17 R243, 23 R344 and
Table 23.4, 24 R364, 27 R410): the control registers of every context, the descriptors of every queue, the layout's defaults;
and every memory is in canonical form. That an Unloaded context holds its launch values at reset is log 1. -/
def Obligations.ResetState : Prop :=
  (∀ (c : CoreId) (x : CtxId), let s := State.reset.modEnv fun e => { e with
        core := c
        ctx := x }
      (∀ n ∈ [0x003, 0x004, 0x010, 0x011, 0x021, 0x023, 0x024, 0x200, 0x202, 0x203, 0x204, 0x205], s.rdCr (BitVec.ofNat 10 n) = 0)
      ∧ s.rdCr 0x022 = 1 ∧ (∀ k : R16, s.rdCr (BitVec.ofNat 10 (0x100 + k.val)) = 0x1F1F)
      ∧ (∀ k : R16, s.rdCr (BitVec.ofNat 10 (0x030 + k.val)) = 0x3F800000) ∧ ∀ k : R8, s.rdCr (BitVec.ofNat 10 (0x208 + k.val)) = 0)
  ∧ (∀ q : Fin 4096, (State.reset.queues[q]).base = 0 ∧ (State.reset.queues[q]).tail = 0 ∧ (State.reset.queues[q]).head = 0
      ∧ (State.reset.queues[q]).sizelog = 0 ∧ (State.reset.queues[q]).prio = 0 ∧ (State.reset.queues[q]).cancel = false
      ∧ (State.reset.queues[q]).frozen = false)
  ∧ State.reset.layout.quantum = 3500000 ∧ State.reset.layout.probe = 175000 ∧ State.reset.layout.ths = 95
  ∧ State.reset.CanonicalMemory

/-- Every memory of the module keeps its canonical form in every step: strictly rising addresses and no zero byte listed, so
that equal contents are equal memories (log 3). -/
def Obligations.StepKeepsCanonicalMemory : Prop :=
  ∀ s t : State, s.CanonicalMemory → step s = .next t → t.CanonicalMemory

end
end

