-- ==== Sys2Proof/Laws/State.lean ====
section
/-!
SUPPORT. The small lemmas of the state's updates: what each update leaves and what it sets.
-/
namespace Sys2Proof.Machine

/-! ### Cores and contexts -/

@[simp] theorem State.core_setCore (s : State) (c : CoreId) (k : Core) : (s.setCore c k).core c = k := by
  simp [State.setCore, State.core]
theorem State.core_setCore_ne (s : State) {c d : CoreId} (k : Core) (h : d ≠ c) : (s.setCore c k).core d = s.core d := by
  simp only [State.setCore, State.core]
  exact Vector.getElem_set_ne _ _ (fun e => h (Fin.ext e.symm))
@[simp] theorem State.core_modCore (s : State) (c : CoreId) (f : Core → Core) : (s.modCore c f).core c = f (s.core c) := by
  simp [State.modCore]
theorem State.core_modCore_ne (s : State) {c d : CoreId} (f : Core → Core) (h : d ≠ c) : (s.modCore c f).core d = s.core d :=
  s.core_setCore_ne _ h
@[simp] theorem Core.ctx_modCtx (k : Core) (x : CtxId) (f : Ctx → Ctx) : (k.modCtx x f).ctxs[x] = f k.ctxs[x] := by
  simp [Core.modCtx]
theorem Core.ctx_modCtx_ne (k : Core) {x y : CtxId} (f : Ctx → Ctx) (h : y ≠ x) : (k.modCtx x f).ctxs[y] = k.ctxs[y] := by
  simp only [Core.modCtx]
  exact Vector.getElem_set_ne _ _ (fun e => h (Fin.ext e.symm))
@[simp] theorem State.ctx_modCtx (s : State) (c : CoreId) (x : CtxId) (f : Ctx → Ctx) : (s.modCtx c x f).ctx c x = f (s.ctx c x) := by
  simp only [State.modCtx, State.ctx, State.core_modCore]
  exact Core.ctx_modCtx _ x f

/-- Two changes of one core are one. -/
@[simp] theorem State.modCore_modCore (s : State) (c : CoreId) (f g : Core → Core) :
    (s.modCore c f).modCore c g = s.modCore c (g ∘ f) := by
  simp [State.modCore, State.setCore, State.core]
/-- Two changes of one context are one. -/
@[simp] theorem Core.modCtx_modCtx (k : Core) (x : CtxId) (f g : Ctx → Ctx) : (k.modCtx x f).modCtx x g = k.modCtx x (g ∘ f) := by
  simp [Core.modCtx]
/-- Two changes of one context are one. -/
@[simp] theorem State.modCtx_modCtx (s : State) (c : CoreId) (x : CtxId) (f g : Ctx → Ctx) :
    (s.modCtx c x f).modCtx c x g = s.modCtx c x (g ∘ f) := by
  simp only [State.modCtx, State.modCore_modCore]
  congr 1
  funext k
  simp
/-- A change that leaves a core as it is changes nothing. -/
theorem State.modCore_id (s : State) (c : CoreId) (f : Core → Core) (h : f (s.core c) = s.core c) : s.modCore c f = s := by
  have e : s.cores.set c (s.core c) = s.cores := Vector.set_getElem_self _
  simp only [State.modCore, State.setCore, h, e]

/-! ### Fields a change of a core or a context leaves -/

@[simp] theorem State.setCore_cyc (s : State) (c : CoreId) (k : Core) : (s.setCore c k).cyc = s.cyc := rfl
@[simp] theorem State.modCore_cyc (s : State) (c : CoreId) (f : Core → Core) : (s.modCore c f).cyc = s.cyc := rfl
@[simp] theorem State.modCtx_cyc (s : State) (c : CoreId) (x : CtxId) (f : Ctx → Ctx) : (s.modCtx c x f).cyc = s.cyc := rfl
@[simp] theorem State.setCore_turn (s : State) (c : CoreId) (k : Core) : (s.setCore c k).turn = s.turn := rfl
@[simp] theorem State.modCore_turn (s : State) (c : CoreId) (f : Core → Core) : (s.modCore c f).turn = s.turn := rfl
@[simp] theorem State.modCtx_turn (s : State) (c : CoreId) (x : CtxId) (f : Ctx → Ctx) : (s.modCtx c x f).turn = s.turn := rfl
@[simp] theorem State.setCore_choices (s : State) (c : CoreId) (k : Core) : (s.setCore c k).choices = s.choices := rfl
@[simp] theorem State.modCore_choices (s : State) (c : CoreId) (f : Core → Core) : (s.modCore c f).choices = s.choices := rfl
@[simp] theorem State.modCtx_choices (s : State) (c : CoreId) (x : CtxId) (f : Ctx → Ctx) : (s.modCtx c x f).choices = s.choices := rfl
@[simp] theorem State.setCore_inbox (s : State) (c : CoreId) (k : Core) : (s.setCore c k).inbox = s.inbox := rfl
@[simp] theorem State.modCore_inbox (s : State) (c : CoreId) (f : Core → Core) : (s.modCore c f).inbox = s.inbox := rfl
@[simp] theorem State.modCtx_inbox (s : State) (c : CoreId) (x : CtxId) (f : Ctx → Ctx) : (s.modCtx c x f).inbox = s.inbox := rfl
@[simp] theorem State.setCore_env (s : State) (c : CoreId) (k : Core) : (s.setCore c k).env = s.env := rfl
@[simp] theorem State.modCore_env (s : State) (c : CoreId) (f : Core → Core) : (s.modCore c f).env = s.env := rfl
@[simp] theorem State.modCtx_env (s : State) (c : CoreId) (x : CtxId) (f : Ctx → Ctx) : (s.modCtx c x f).env = s.env := rfl
@[simp] theorem State.setCore_heaths (s : State) (c : CoreId) (k : Core) : (s.setCore c k).heaths = s.heaths := rfl
@[simp] theorem State.modCore_heaths (s : State) (c : CoreId) (f : Core → Core) : (s.modCore c f).heaths = s.heaths := rfl
@[simp] theorem State.modCtx_heaths (s : State) (c : CoreId) (x : CtxId) (f : Ctx → Ctx) : (s.modCtx c x f).heaths = s.heaths := rfl
@[simp] theorem State.setCore_dies (s : State) (c : CoreId) (k : Core) : (s.setCore c k).dies = s.dies := rfl
@[simp] theorem State.modCore_dies (s : State) (c : CoreId) (f : Core → Core) : (s.modCore c f).dies = s.dies := rfl
@[simp] theorem State.modCtx_dies (s : State) (c : CoreId) (x : CtxId) (f : Ctx → Ctx) : (s.modCtx c x f).dies = s.dies := rfl
@[simp] theorem State.setCore_gmem (s : State) (c : CoreId) (k : Core) : (s.setCore c k).gmem = s.gmem := rfl
@[simp] theorem State.modCore_gmem (s : State) (c : CoreId) (f : Core → Core) : (s.modCore c f).gmem = s.gmem := rfl
@[simp] theorem State.modCtx_gmem (s : State) (c : CoreId) (x : CtxId) (f : Ctx → Ctx) : (s.modCtx c x f).gmem = s.gmem := rfl
@[simp] theorem State.setCore_gpoison (s : State) (c : CoreId) (k : Core) : (s.setCore c k).gpoison = s.gpoison := rfl
@[simp] theorem State.modCore_gpoison (s : State) (c : CoreId) (f : Core → Core) : (s.modCore c f).gpoison = s.gpoison := rfl
@[simp] theorem State.modCtx_gpoison (s : State) (c : CoreId) (x : CtxId) (f : Ctx → Ctx) : (s.modCtx c x f).gpoison = s.gpoison := rfl
@[simp] theorem State.setCore_hmem (s : State) (c : CoreId) (k : Core) : (s.setCore c k).hmem = s.hmem := rfl
@[simp] theorem State.modCore_hmem (s : State) (c : CoreId) (f : Core → Core) : (s.modCore c f).hmem = s.hmem := rfl
@[simp] theorem State.modCtx_hmem (s : State) (c : CoreId) (x : CtxId) (f : Ctx → Ctx) : (s.modCtx c x f).hmem = s.hmem := rfl
@[simp] theorem State.setCore_msc (s : State) (c : CoreId) (k : Core) : (s.setCore c k).msc = s.msc := rfl
@[simp] theorem State.modCore_msc (s : State) (c : CoreId) (f : Core → Core) : (s.modCore c f).msc = s.msc := rfl
@[simp] theorem State.modCtx_msc (s : State) (c : CoreId) (x : CtxId) (f : Ctx → Ctx) : (s.modCtx c x f).msc = s.msc := rfl
@[simp] theorem State.setCore_recMem (s : State) (c : CoreId) (k : Core) : (s.setCore c k).recMem = s.recMem := rfl
@[simp] theorem State.modCore_recMem (s : State) (c : CoreId) (f : Core → Core) : (s.modCore c f).recMem = s.recMem := rfl
@[simp] theorem State.modCtx_recMem (s : State) (c : CoreId) (x : CtxId) (f : Ctx → Ctx) : (s.modCtx c x f).recMem = s.recMem := rfl
@[simp] theorem State.setCore_recNext (s : State) (c : CoreId) (k : Core) : (s.setCore c k).recNext = s.recNext := rfl
@[simp] theorem State.modCore_recNext (s : State) (c : CoreId) (f : Core → Core) : (s.modCore c f).recNext = s.recNext := rfl
@[simp] theorem State.modCtx_recNext (s : State) (c : CoreId) (x : CtxId) (f : Ctx → Ctx) : (s.modCtx c x f).recNext = s.recNext := rfl
@[simp] theorem State.setCore_retests (s : State) (c : CoreId) (k : Core) : (s.setCore c k).retests = s.retests := rfl
@[simp] theorem State.modCore_retests (s : State) (c : CoreId) (f : Core → Core) : (s.modCore c f).retests = s.retests := rfl
@[simp] theorem State.modCtx_retests (s : State) (c : CoreId) (x : CtxId) (f : Ctx → Ctx) : (s.modCtx c x f).retests = s.retests := rfl
@[simp] theorem State.setCore_pins (s : State) (c : CoreId) (k : Core) : (s.setCore c k).pins = s.pins := rfl
@[simp] theorem State.modCore_pins (s : State) (c : CoreId) (f : Core → Core) : (s.modCore c f).pins = s.pins := rfl
@[simp] theorem State.modCtx_pins (s : State) (c : CoreId) (x : CtxId) (f : Ctx → Ctx) : (s.modCtx c x f).pins = s.pins := rfl
@[simp] theorem State.setCore_roots (s : State) (c : CoreId) (k : Core) : (s.setCore c k).roots = s.roots := rfl
@[simp] theorem State.modCore_roots (s : State) (c : CoreId) (f : Core → Core) : (s.modCore c f).roots = s.roots := rfl
@[simp] theorem State.modCtx_roots (s : State) (c : CoreId) (x : CtxId) (f : Ctx → Ctx) : (s.modCtx c x f).roots = s.roots := rfl
@[simp] theorem State.setCore_spaces (s : State) (c : CoreId) (k : Core) : (s.setCore c k).spaces = s.spaces := rfl
@[simp] theorem State.modCore_spaces (s : State) (c : CoreId) (f : Core → Core) : (s.modCore c f).spaces = s.spaces := rfl
@[simp] theorem State.modCtx_spaces (s : State) (c : CoreId) (x : CtxId) (f : Ctx → Ctx) : (s.modCtx c x f).spaces = s.spaces := rfl
@[simp] theorem State.setCore_jobs (s : State) (c : CoreId) (k : Core) : (s.setCore c k).jobs = s.jobs := rfl
@[simp] theorem State.modCore_jobs (s : State) (c : CoreId) (f : Core → Core) : (s.modCore c f).jobs = s.jobs := rfl
@[simp] theorem State.modCtx_jobs (s : State) (c : CoreId) (x : CtxId) (f : Ctx → Ctx) : (s.modCtx c x f).jobs = s.jobs := rfl
@[simp] theorem State.setCore_nextJob (s : State) (c : CoreId) (k : Core) : (s.setCore c k).nextJob = s.nextJob := rfl
@[simp] theorem State.modCore_nextJob (s : State) (c : CoreId) (f : Core → Core) : (s.modCore c f).nextJob = s.nextJob := rfl
@[simp] theorem State.modCtx_nextJob (s : State) (c : CoreId) (x : CtxId) (f : Ctx → Ctx) : (s.modCtx c x f).nextJob = s.nextJob := rfl
@[simp] theorem State.setCore_queues (s : State) (c : CoreId) (k : Core) : (s.setCore c k).queues = s.queues := rfl
@[simp] theorem State.modCore_queues (s : State) (c : CoreId) (f : Core → Core) : (s.modCore c f).queues = s.queues := rfl
@[simp] theorem State.modCtx_queues (s : State) (c : CoreId) (x : CtxId) (f : Ctx → Ctx) : (s.modCtx c x f).queues = s.queues := rfl
@[simp] theorem State.setCore_records (s : State) (c : CoreId) (k : Core) : (s.setCore c k).records = s.records := rfl
@[simp] theorem State.modCore_records (s : State) (c : CoreId) (f : Core → Core) : (s.modCore c f).records = s.records := rfl
@[simp] theorem State.modCtx_records (s : State) (c : CoreId) (x : CtxId) (f : Ctx → Ctx) : (s.modCtx c x f).records = s.records := rfl
@[simp] theorem State.setCore_nextRec (s : State) (c : CoreId) (k : Core) : (s.setCore c k).nextRec = s.nextRec := rfl
@[simp] theorem State.modCore_nextRec (s : State) (c : CoreId) (f : Core → Core) : (s.modCore c f).nextRec = s.nextRec := rfl
@[simp] theorem State.modCtx_nextRec (s : State) (c : CoreId) (x : CtxId) (f : Ctx → Ctx) : (s.modCtx c x f).nextRec = s.nextRec := rfl
@[simp] theorem State.setCore_groups (s : State) (c : CoreId) (k : Core) : (s.setCore c k).groups = s.groups := rfl
@[simp] theorem State.modCore_groups (s : State) (c : CoreId) (f : Core → Core) : (s.modCore c f).groups = s.groups := rfl
@[simp] theorem State.modCtx_groups (s : State) (c : CoreId) (x : CtxId) (f : Ctx → Ctx) : (s.modCtx c x f).groups = s.groups := rfl
@[simp] theorem State.setCore_layout (s : State) (c : CoreId) (k : Core) : (s.setCore c k).layout = s.layout := rfl
@[simp] theorem State.modCore_layout (s : State) (c : CoreId) (f : Core → Core) : (s.modCore c f).layout = s.layout := rfl
@[simp] theorem State.modCtx_layout (s : State) (c : CoreId) (x : CtxId) (f : Ctx → Ctx) : (s.modCtx c x f).layout = s.layout := rfl
@[simp] theorem State.setCore_commit (s : State) (c : CoreId) (k : Core) : (s.setCore c k).commit = s.commit := rfl
@[simp] theorem State.modCore_commit (s : State) (c : CoreId) (f : Core → Core) : (s.modCore c f).commit = s.commit := rfl
@[simp] theorem State.modCtx_commit (s : State) (c : CoreId) (x : CtxId) (f : Ctx → Ctx) : (s.modCtx c x f).commit = s.commit := rfl
@[simp] theorem State.setCore_probes (s : State) (c : CoreId) (k : Core) : (s.setCore c k).probes = s.probes := rfl
@[simp] theorem State.modCore_probes (s : State) (c : CoreId) (f : Core → Core) : (s.modCore c f).probes = s.probes := rfl
@[simp] theorem State.modCtx_probes (s : State) (c : CoreId) (x : CtxId) (f : Ctx → Ctx) : (s.modCtx c x f).probes = s.probes := rfl
@[simp] theorem State.setCore_probed (s : State) (c : CoreId) (k : Core) : (s.setCore c k).probed = s.probed := rfl
@[simp] theorem State.modCore_probed (s : State) (c : CoreId) (f : Core → Core) : (s.modCore c f).probed = s.probed := rfl
@[simp] theorem State.modCtx_probed (s : State) (c : CoreId) (x : CtxId) (f : Ctx → Ctx) : (s.modCtx c x f).probed = s.probed := rfl
@[simp] theorem State.setCore_hbmRetired (s : State) (c : CoreId) (k : Core) : (s.setCore c k).hbmRetired = s.hbmRetired := rfl
@[simp] theorem State.modCore_hbmRetired (s : State) (c : CoreId) (f : Core → Core) : (s.modCore c f).hbmRetired = s.hbmRetired := rfl
@[simp] theorem State.modCtx_hbmRetired (s : State) (c : CoreId) (x : CtxId) (f : Ctx → Ctx) : (s.modCtx c x f).hbmRetired = s.hbmRetired := rfl
@[simp] theorem State.setCore_mscRetired (s : State) (c : CoreId) (k : Core) : (s.setCore c k).mscRetired = s.mscRetired := rfl
@[simp] theorem State.modCore_mscRetired (s : State) (c : CoreId) (f : Core → Core) : (s.modCore c f).mscRetired = s.mscRetired := rfl
@[simp] theorem State.modCtx_mscRetired (s : State) (c : CoreId) (x : CtxId) (f : Ctx → Ctx) : (s.modCtx c x f).mscRetired = s.mscRetired := rfl
@[simp] theorem State.setCore_hub (s : State) (c : CoreId) (k : Core) : (s.setCore c k).hub = s.hub := rfl
@[simp] theorem State.modCore_hub (s : State) (c : CoreId) (f : Core → Core) : (s.modCore c f).hub = s.hub := rfl
@[simp] theorem State.modCtx_hub (s : State) (c : CoreId) (x : CtxId) (f : Ctx → Ctx) : (s.modCtx c x f).hub = s.hub := rfl
@[simp] theorem State.setCore_mon (s : State) (c : CoreId) (k : Core) : (s.setCore c k).mon = s.mon := rfl
@[simp] theorem State.modCore_mon (s : State) (c : CoreId) (f : Core → Core) : (s.modCore c f).mon = s.mon := rfl
@[simp] theorem State.modCtx_mon (s : State) (c : CoreId) (x : CtxId) (f : Ctx → Ctx) : (s.modCtx c x f).mon = s.mon := rfl
@[simp] theorem Core.modCtx_step (k : Core) (x : CtxId) (f : Ctx → Ctx) : (k.modCtx x f).step = k.step := rfl
@[simp] theorem Core.modCtx_clock (k : Core) (x : CtxId) (f : Ctx → Ctx) : (k.modCtx x f).clock = k.clock := rfl
@[simp] theorem Core.modCtx_last (k : Core) (x : CtxId) (f : Ctx → Ctx) : (k.modCtx x f).last = k.last := rfl
@[simp] theorem Core.modCtx_current (k : Core) (x : CtxId) (f : Ctx → Ctx) : (k.modCtx x f).current = k.current := rfl
@[simp] theorem Core.modCtx_switching (k : Core) (x : CtxId) (f : Ctx → Ctx) : (k.modCtx x f).switching = k.switching := rfl
@[simp] theorem Core.modCtx_fresh (k : Core) (x : CtxId) (f : Ctx → Ctx) : (k.modCtx x f).fresh = k.fresh := rfl
@[simp] theorem Core.modCtx_allot (k : Core) (x : CtxId) (f : Ctx → Ctx) : (k.modCtx x f).allot = k.allot := rfl
@[simp] theorem Core.modCtx_vault (k : Core) (x : CtxId) (f : Ctx → Ctx) : (k.modCtx x f).vault = k.vault := rfl
@[simp] theorem Core.modCtx_vpoison (k : Core) (x : CtxId) (f : Ctx → Ctx) : (k.modCtx x f).vpoison = k.vpoison := rfl
@[simp] theorem Core.modCtx_rpoison (k : Core) (x : CtxId) (f : Ctx → Ctx) : (k.modCtx x f).rpoison = k.rpoison := rfl
@[simp] theorem Core.modCtx_saveRam (k : Core) (x : CtxId) (f : Ctx → Ctx) : (k.modCtx x f).saveRam = k.saveRam := rfl
@[simp] theorem Core.modCtx_spoison (k : Core) (x : CtxId) (f : Ctx → Ctx) : (k.modCtx x f).spoison = k.spoison := rfl
@[simp] theorem Core.modCtx_ispad (k : Core) (x : CtxId) (f : Ctx → Ctx) : (k.modCtx x f).ispad = k.ispad := rfl
@[simp] theorem Core.modCtx_ipoison (k : Core) (x : CtxId) (f : Ctx → Ctx) : (k.modCtx x f).ipoison = k.ipoison := rfl
@[simp] theorem Core.modCtx_marks (k : Core) (x : CtxId) (f : Ctx → Ctx) : (k.modCtx x f).marks = k.marks := rfl
@[simp] theorem Core.modCtx_tiles (k : Core) (x : CtxId) (f : Ctx → Ctx) : (k.modCtx x f).tiles = k.tiles := rfl
@[simp] theorem Core.modCtx_blocks (k : Core) (x : CtxId) (f : Ctx → Ctx) : (k.modCtx x f).blocks = k.blocks := rfl
@[simp] theorem Core.modCtx_l1 (k : Core) (x : CtxId) (f : Ctx → Ctx) : (k.modCtx x f).l1 = k.l1 := rfl
@[simp] theorem Core.modCtx_tlb (k : Core) (x : CtxId) (f : Ctx → Ctx) : (k.modCtx x f).tlb = k.tlb := rfl
@[simp] theorem Core.modCtx_rules (k : Core) (x : CtxId) (f : Ctx → Ctx) : (k.modCtx x f).rules = k.rules := rfl
@[simp] theorem Core.modCtx_inflight (k : Core) (x : CtxId) (f : Ctx → Ctx) : (k.modCtx x f).inflight = k.inflight := rfl
@[simp] theorem Core.modCtx_freezeLeft (k : Core) (x : CtxId) (f : Ctx → Ctx) : (k.modCtx x f).freezeLeft = k.freezeLeft := rfl
@[simp] theorem Core.modCtx_freezeWhy (k : Core) (x : CtxId) (f : Ctx → Ctx) : (k.modCtx x f).freezeWhy = k.freezeWhy := rfl
@[simp] theorem Core.modCtx_tlbAck (k : Core) (x : CtxId) (f : Ctx → Ctx) : (k.modCtx x f).tlbAck = k.tlbAck := rfl
@[simp] theorem Core.modCtx_opp (k : Core) (x : CtxId) (f : Ctx → Ctx) : (k.modCtx x f).opp = k.opp := rfl
@[simp] theorem Core.modCtx_droopMv (k : Core) (x : CtxId) (f : Ctx → Ctx) : (k.modCtx x f).droopMv = k.droopMv := rfl
@[simp] theorem Core.modCtx_stretch (k : Core) (x : CtxId) (f : Ctx → Ctx) : (k.modCtx x f).stretch = k.stretch := rfl
@[simp] theorem Core.modCtx_split (k : Core) (x : CtxId) (f : Ctx → Ctx) : (k.modCtx x f).split = k.split := rfl
@[simp] theorem Core.modCtx_splitAt (k : Core) (x : CtxId) (f : Ctx → Ctx) : (k.modCtx x f).splitAt = k.splitAt := rfl
@[simp] theorem Core.modCtx_freezes (k : Core) (x : CtxId) (f : Ctx → Ctx) : (k.modCtx x f).freezes = k.freezes := rfl
@[simp] theorem Core.modCtx_firings (k : Core) (x : CtxId) (f : Ctx → Ctx) : (k.modCtx x f).firings = k.firings := rfl
@[simp] theorem Core.modCtx_spanEgy (k : Core) (x : CtxId) (f : Ctx → Ctx) : (k.modCtx x f).spanEgy = k.spanEgy := rfl
@[simp] theorem Core.modCtx_errors (k : Core) (x : CtxId) (f : Ctx → Ctx) : (k.modCtx x f).errors = k.errors := rfl
@[simp] theorem Core.modCtx_beat (k : Core) (x : CtxId) (f : Ctx → Ctx) : (k.modCtx x f).beat = k.beat := rfl
@[simp] theorem Core.modCtx_ddq (k : Core) (x : CtxId) (f : Ctx → Ctx) : (k.modCtx x f).ddq = k.ddq := rfl
@[simp] theorem Core.modCtx_ddSeq (k : Core) (x : CtxId) (f : Ctx → Ctx) : (k.modCtx x f).ddSeq = k.ddSeq := rfl
@[simp] theorem Core.modCtx_rings (k : Core) (x : CtxId) (f : Ctx → Ctx) : (k.modCtx x f).rings = k.rings := rfl
@[simp] theorem Core.modCtx_subs (k : Core) (x : CtxId) (f : Ctx → Ctx) : (k.modCtx x f).subs = k.subs := rfl
@[simp] theorem Core.modCtx_doneSubs (k : Core) (x : CtxId) (f : Ctx → Ctx) : (k.modCtx x f).doneSubs = k.doneSubs := rfl
@[simp] theorem Core.modCtx_doneDds (k : Core) (x : CtxId) (f : Ctx → Ctx) : (k.modCtx x f).doneDds = k.doneDds := rfl

/-! ### Fields a change of the bundle being committed leaves -/

@[simp] theorem State.modEnv_cyc (s : State) (f : Env → Env) : (s.modEnv f).cyc = s.cyc := rfl
@[simp] theorem State.modEnv_turn (s : State) (f : Env → Env) : (s.modEnv f).turn = s.turn := rfl
@[simp] theorem State.modEnv_choices (s : State) (f : Env → Env) : (s.modEnv f).choices = s.choices := rfl
@[simp] theorem State.modEnv_inbox (s : State) (f : Env → Env) : (s.modEnv f).inbox = s.inbox := rfl
@[simp] theorem State.modEnv_heaths (s : State) (f : Env → Env) : (s.modEnv f).heaths = s.heaths := rfl
@[simp] theorem State.modEnv_dies (s : State) (f : Env → Env) : (s.modEnv f).dies = s.dies := rfl
@[simp] theorem State.modEnv_gmem (s : State) (f : Env → Env) : (s.modEnv f).gmem = s.gmem := rfl
@[simp] theorem State.modEnv_gpoison (s : State) (f : Env → Env) : (s.modEnv f).gpoison = s.gpoison := rfl
@[simp] theorem State.modEnv_hmem (s : State) (f : Env → Env) : (s.modEnv f).hmem = s.hmem := rfl
@[simp] theorem State.modEnv_msc (s : State) (f : Env → Env) : (s.modEnv f).msc = s.msc := rfl
@[simp] theorem State.modEnv_recMem (s : State) (f : Env → Env) : (s.modEnv f).recMem = s.recMem := rfl
@[simp] theorem State.modEnv_recNext (s : State) (f : Env → Env) : (s.modEnv f).recNext = s.recNext := rfl
@[simp] theorem State.modEnv_retests (s : State) (f : Env → Env) : (s.modEnv f).retests = s.retests := rfl
@[simp] theorem State.modEnv_pins (s : State) (f : Env → Env) : (s.modEnv f).pins = s.pins := rfl
@[simp] theorem State.modEnv_roots (s : State) (f : Env → Env) : (s.modEnv f).roots = s.roots := rfl
@[simp] theorem State.modEnv_spaces (s : State) (f : Env → Env) : (s.modEnv f).spaces = s.spaces := rfl
@[simp] theorem State.modEnv_jobs (s : State) (f : Env → Env) : (s.modEnv f).jobs = s.jobs := rfl
@[simp] theorem State.modEnv_nextJob (s : State) (f : Env → Env) : (s.modEnv f).nextJob = s.nextJob := rfl
@[simp] theorem State.modEnv_queues (s : State) (f : Env → Env) : (s.modEnv f).queues = s.queues := rfl
@[simp] theorem State.modEnv_records (s : State) (f : Env → Env) : (s.modEnv f).records = s.records := rfl
@[simp] theorem State.modEnv_nextRec (s : State) (f : Env → Env) : (s.modEnv f).nextRec = s.nextRec := rfl
@[simp] theorem State.modEnv_groups (s : State) (f : Env → Env) : (s.modEnv f).groups = s.groups := rfl
@[simp] theorem State.modEnv_layout (s : State) (f : Env → Env) : (s.modEnv f).layout = s.layout := rfl
@[simp] theorem State.modEnv_commit (s : State) (f : Env → Env) : (s.modEnv f).commit = s.commit := rfl
@[simp] theorem State.modEnv_probes (s : State) (f : Env → Env) : (s.modEnv f).probes = s.probes := rfl
@[simp] theorem State.modEnv_probed (s : State) (f : Env → Env) : (s.modEnv f).probed = s.probed := rfl
@[simp] theorem State.modEnv_hbmRetired (s : State) (f : Env → Env) : (s.modEnv f).hbmRetired = s.hbmRetired := rfl
@[simp] theorem State.modEnv_mscRetired (s : State) (f : Env → Env) : (s.modEnv f).mscRetired = s.mscRetired := rfl
@[simp] theorem State.modEnv_hub (s : State) (f : Env → Env) : (s.modEnv f).hub = s.hub := rfl
@[simp] theorem State.modEnv_mon (s : State) (f : Env → Env) : (s.modEnv f).mon = s.mon := rfl
@[simp] theorem State.modEnv_cores (s : State) (f : Env → Env) : (s.modEnv f).cores = s.cores := rfl
@[simp] theorem State.modEnv_env (s : State) (f : Env → Env) : (s.modEnv f).env = f s.env := rfl
@[simp] theorem State.modEnv_core (s : State) (f : Env → Env) (c : CoreId) : (s.modEnv f).core c = s.core c := rfl
@[simp] theorem State.modEnv_ctx (s : State) (f : Env → Env) (c : CoreId) (x : CtxId) : (s.modEnv f).ctx c x = s.ctx c x := rfl

end Sys2Proof.Machine
end

