-- ==== Sys2Proof/Laws/Slots.lean ====
section
/-!
SUPPORT. What the shared operations of slot forms do, in the terms of Safety.lean: a guard, a result, a charge.
-/
namespace Sys2Proof.Machine

/-! ### Guards -/

/-- A slot whose guard holds does its effect and is charged. -/
theorem slotDo_of_guard {gd : Guard} {s : State} (h : s.guard gd = true) (cls : Option EClass) (f : State → State) :
    slotDo gd cls f s = .next (match cls with
      | some k => if (f s).env.stopped then f s else (f s).chargeSlot k
      | none => f s) := by
  simp only [slotDo, h, if_true]
  all_goals rfl

/-- A slot whose guard is false does nothing. -/
theorem slotDo_of_not_guard {gd : Guard} {s : State} (h : s.guard gd = false) (cls : Option EClass) (f : State → State) :
    slotDo gd cls f s = .next s := by
  simp [slotDo, h]

/-! ### Charges and results -/

theorem State.ctx_modCore (s : State) (c : CoreId) (f : Core → Core) (x : CtxId) :
    (s.modCore c f).ctx c x = (f (s.core c)).ctxs[x] := by
  simp [State.ctx]

/-- A charge changes the energy count of its context and the counter of free values only. -/
theorem State.chargeExact_eq (s : State) (c : CoreId) (x : CtxId) (w den : Nat) :
    ∃ f : Ctx → Ctx, (∀ t, (f t).unpaid = t.unpaid) ∧
      s.chargeExact c x w den = { s.modCtx c x f with choices := s.choices + 1 } := by
  refine ⟨_, ?_, rfl⟩
  intro t
  dsimp only
  generalize (if w % den = 0 then 0 else if Config.energyRound s.choices = true then 1 else 0) = up
  by_cases h : 2 ^ 64 ≤ t.egy.toNat * 65536 + t.egyFrac.toNat + w / den + up
  · rw [if_pos h]
    rfl
  · rw [if_neg h]
    rfl

/-- The core whose results and energy are set aside. -/
theorem State.core_still (s : State) (c : CoreId) (x : CtxId) : (s.still c x).core c = (s.core c).still x :=
  s.core_modCore c (Core.still x)

/-- A change of a core that shows only in its results in flight and the energy of a context. -/
theorem State.still_modCore (s : State) (c : CoreId) (x : CtxId) {f : Core → Core}
    (hf : ∀ k, (f k).still x = k.still x) : (s.modCore c f).still c x = s.still c x := by
  have e : Core.still x ∘ f = Core.still x := funext hf
  simp only [State.still, State.modCore_modCore, e]

/-- A change of a context that shows only in its energy. -/
theorem Core.still_modCtx (k : Core) (x : CtxId) {f : Ctx → Ctx} (hf : ∀ t, (f t).unpaid = t.unpaid) :
    (k.modCtx x f).still x = k.still x := by
  have e : Ctx.unpaid ∘ f = Ctx.unpaid := funext hf
  simp only [Core.still, Core.modCtx_modCtx, e]

/-- Setting the energy aside. -/
theorem State.still_paid (s : State) (c : CoreId) (x : CtxId) {f : Ctx → Ctx} (hf : ∀ t, (f t).unpaid = t.unpaid) (n : Nat) :
    ({ s.modCtx c x f with choices := n } : State).still c x = s.still c x :=
  s.still_modCore c x fun k => k.still_modCtx x hf

/-- A charge of the context that sends keeps what has been sent. -/
theorem Sends.charged {b t : State} {fs : List Res} (h : Sends b t fs) (w den : Nat) :
    Sends b (t.chargeExact b.env.core b.env.ctx w den) fs := by
  obtain ⟨f, hf, e⟩ := t.chargeExact_eq b.env.core b.env.ctx w den
  rw [e]
  refine ⟨(State.still_paid t _ _ hf _).trans h.1, ?_⟩
  have : (({ t.modCtx b.env.core b.env.ctx f with choices := t.choices + 1 } : State).core b.env.core).inflight
      = (t.core b.env.core).inflight := by
    show ((t.modCtx b.env.core b.env.ctx f).core b.env.core).inflight = _
    simp [State.modCtx]
  rw [this]
  exact h.2

theorem Sends.env {b t : State} {fs : List Res} (h : Sends b t fs) : t.env = b.env := by
  have := congrArg State.env h.1
  exact this

/-- A slot charge keeps what has been sent. -/
theorem Sends.slotCharged {b t : State} {fs : List Res} (h : Sends b t fs) (k : EClass) : Sends b (t.chargeSlot k) fs := by
  simp only [State.chargeSlot, State.charge, h.env]
  exact h.charged _ _

/-- Nothing sent. -/
theorem Sends.refl (s : State) : Sends s s [] := ⟨rfl, by simp⟩

/-- One more result. -/
theorem Sends.push {b t : State} {fs : List Res} (h : Sends b t fs) (lat : Nat) (wr : Wr) (fl : BitVec 7) :
    Sends b (t.push lat wr fl) (fs ++ [(lat, wr, fl)]) := by
  have hc : (t.core b.env.core).step = (b.core b.env.core).step := by
    have := congrArg (fun s => (State.core s b.env.core).step) h.1
    rw [State.core_still, State.core_still] at this
    exact this
  have he := h.env
  refine ⟨?_, ?_⟩
  · rw [← h.1, State.push, he]
    exact t.still_modCore _ _ fun _ => rfl
  · simp only [State.push, he, State.core_modCore, hc, h.2, List.map_append, List.append_assoc, List.map_cons, List.map_nil]

/-- One result. -/
theorem sends_push (s : State) (lat : Nat) (wr : Wr) (fl : BitVec 7) : Sends s (s.push lat wr fl) [(lat, wr, fl)] :=
  (Sends.refl s).push lat wr fl

/-- A g result, which g0 discards. -/
theorem sends_pushG (s : State) (lat : Nat) (d : R64) (v : Word) (t : Bool) : Sends s (s.pushG lat d v t) (gRes lat d v t) := by
  simp only [State.pushG, gRes]
  split
  · exact Sends.refl s
  · exact sends_push s _ _ _

/-- A predicate result, which p0 discards. -/
theorem Sends.pushP {b t : State} {fs : List Res} (h : Sends b t fs) (d : R16) (v : Bool) :
    Sends b (t.pushP d v) (fs ++ pRes d v) := by
  simp only [State.pushP, pRes]
  split
  · simpa using h
  · exact h.push _ _ _

/-! ### The shape of a slot form -/

/-- A slot whose guard holds and whose effect sends results completes with these results. -/
theorem does_slotDo {i : Instr} {gd : Guard} {cls : Option EClass} {f : State → State} {s b : State} {fs : List Res}
    (h : exec i s = slotDo gd cls f s) (hg : s.guard gd = true) (hf : Sends b (f s) fs) :
    Does i s fun t => Sends b t fs := by
  refine ⟨_, h.trans (slotDo_of_guard hg cls f), ?_⟩
  cases cls with
  | none => exact hf
  | some k =>
    show Sends b (if (f s).env.stopped = true then f s else (f s).chargeSlot k) fs
    split
    · exact hf
    · exact hf.slotCharged k

end Sys2Proof.Machine
end

