-- ==== Sys2Proof/Laws/Access.lean ====
section
/-!
SUPPORT. What issuing an access does, in the terms of Safety.lean.
-/
namespace Sys2Proof.Machine

/-! ### Translations an access asks for -/

/-- A walk asked for changes the list of walks at most. -/
theorem State.walkFor_eq (s : State) (d : Fin 12) (q : BitVec 7) (u : BitVec 20) (a : Addr) : ∃ w,
    s.walkFor d q u a = { s with hub := { s.hub with walks := w } } := by
  simp only [State.walkFor]
  split
  · exact ⟨s.hub.walks, rfl⟩
  · exact ⟨_, rfl⟩

/-- A translation asked for changes the TLB of its core and the walks at most. -/
theorem State.walkCtx_eq (s : State) (c : CoreId) (x : CtxId) (a : Addr) : ∃ l w,
    s.walkCtx c x a = { s.modCore c (fun k => { k with tlb := l }) with hub := { s.hub with walks := w } } := by
  have same : s = { s.modCore c (fun k => { k with tlb := (s.core c).tlb }) with hub := { s.hub with walks := s.hub.walks } } := by
    rw [State.modCore_id s c _ rfl]
  simp only [State.walkCtx]
  split
  · exact ⟨_, _, same⟩
  · split
    · exact ⟨_, _, rfl⟩
    · obtain ⟨w, e⟩ := s.walkFor_eq (coreDie c) (s.ctx c x).asid (ctxUnit c x) a
      exact ⟨(s.core c).tlb, w, by rw [e, State.modCore_id s c _ rfl]⟩

/-- What an access waits for aside, a translation asked for changes nothing. -/
theorem State.unissued_walkCtx (s : State) (c : CoreId) (x : CtxId) (a : Addr) : (s.walkCtx c x a).unissued c x = s.unissued c x := by
  obtain ⟨l, w, e⟩ := s.walkCtx_eq c x a
  rw [e]
  have h : ((s.modCore c fun k => { k with tlb := l }).modCore c (Core.unissued x)) = s.modCore c (Core.unissued x) := by
    rw [State.modCore_modCore]
    rfl
  have h2 := congrArg (fun t : State => { t with choices := 0, hub := { s.hub with walks := [] } }) h
  exact h2

/-- The contexts and the results in flight of a core while it asks for a translation. -/
theorem State.core_walkCtx (s : State) (c : CoreId) (x : CtxId) (a : Addr) : ((s.walkCtx c x a).core c).ctxs = (s.core c).ctxs
    ∧ ((s.walkCtx c x a).core c).inflight = (s.core c).inflight ∧ ((s.walkCtx c x a).core c).step = (s.core c).step
    ∧ (s.walkCtx c x a).env = s.env := by
  obtain ⟨l, w, e⟩ := s.walkCtx_eq c x a
  rw [e]
  have h : ({ s.modCore c (fun k => { k with tlb := l }) with hub := { s.hub with walks := w } } : State).core c
      = { s.core c with tlb := l } :=
    s.core_modCore c fun k => { k with tlb := l }
  exact ⟨by rw [h], by rw [h], by rw [h], rfl⟩

/-- Several translations asked for. -/
theorem State.foldl_walkCtx (l : List Addr) (s : State) :
    let t := l.foldl (fun s p => s.walkCtx s.env.core s.env.ctx p) s
    t.unissued s.env.core s.env.ctx = s.unissued s.env.core s.env.ctx ∧ t.env = s.env
    ∧ (t.core s.env.core).ctxs = (s.core s.env.core).ctxs ∧ (t.core s.env.core).inflight = (s.core s.env.core).inflight
    ∧ (t.core s.env.core).step = (s.core s.env.core).step := by
  induction l generalizing s with
  | nil => exact ⟨rfl, rfl, rfl, rfl, rfl⟩
  | cons p l ih =>
    obtain ⟨hc, hi, hs, he⟩ := s.core_walkCtx s.env.core s.env.ctx p
    have h := ih (s.walkCtx s.env.core s.env.ctx p)
    rw [he] at h
    obtain ⟨h1, h2, h3, h4, h5⟩ := h
    exact ⟨h1.trans (s.unissued_walkCtx _ _ _), h2, h3.trans hc, h4.trans hi, h5.trans hs⟩

/-! ### Accesses and loads -/

/-- A change of a context that shows only in its accesses and its energy. -/
theorem State.unissued_modCtx (s : State) (c : CoreId) (x : CtxId) {f : Ctx → Ctx} (hf : ∀ t, (f t).unissued = t.unissued) :
    (s.modCtx c x f).unissued c x = s.unissued c x := by
  have e : Ctx.unissued ∘ f = Ctx.unissued := funext hf
  have h : (s.modCtx c x f).modCore c (Core.unissued x) = s.modCore c (Core.unissued x) := by
    simp only [State.modCtx, State.modCore_modCore]
    congr 1
    funext k
    show Core.unissued x (k.modCtx x f) = Core.unissued x k
    simp only [Core.unissued, Core.modCtx_modCtx, e]
  have h2 := congrArg (fun t : State => { t with choices := 0, hub := { s.hub with walks := [] } }) h
  exact h2

/-- An access takes its place at the end of the program order of its context, and nothing else of the state changes. -/
theorem issues_newAcc (s : State) (a : Access) : Issues s (s.newAcc a) [a] [] := by
  let f : Ctx → Ctx := fun t => { t with
    accs := t.accs ++ [{ a with id := t.nextId, hdr := s.env.hdr, slot := s.env.slot }]
    nextId := t.nextId + 1 }
  obtain ⟨h1, -, h3, h4, -⟩ := State.foldl_walkCtx (elemPages a.elems) (s.modCtx s.env.core s.env.ctx f)
  have hk : ((s.newAcc a).ctx s.env.core s.env.ctx) = f s.cur := by
    show ((s.newAcc a).core s.env.core).ctxs[s.env.ctx] = _
    refine (congrArg (fun v : Vector Ctx 4 => v[s.env.ctx]) h3).trans ?_
    exact s.ctx_modCtx s.env.core s.env.ctx f
  refine ⟨h1.trans (s.unissued_modCtx _ _ fun _ => rfl), ?_, ?_, ?_⟩
  · rw [hk]
    rfl
  · rw [hk]
    rfl
  · rw [List.map_nil, List.append_nil]
    refine h4.trans ?_
    show ((s.modCore s.env.core fun k => k.modCtx s.env.ctx f).core s.env.core).inflight = _
    rw [State.core_modCore]
    rfl

/-- One more result. -/
theorem Issues.push {b t : State} {as : List Access} {fs : List Res} (h : Issues b t as fs) (lat : Nat) (wr : Wr) (fl : BitVec 7)
    (he : t.env = b.env) (hs : (t.core b.env.core).step = (b.core b.env.core).step) :
    Issues b (t.push lat wr fl) as (fs ++ [(lat, wr, fl)]) := by
  obtain ⟨h1, h2, h3, h4⟩ := h
  have hc : ((t.push lat wr fl).core b.env.core) = { t.core b.env.core with
      inflight := (t.core b.env.core).inflight ++ [⟨b.env.ctx, (b.core b.env.core).step + lat, wr, fl⟩] } := by
    simp only [State.push, he, State.core_modCore, hs]
  have hx : (t.push lat wr fl).ctx b.env.core b.env.ctx = t.ctx b.env.core b.env.ctx := by
    simp only [State.ctx, hc]
  refine ⟨?_, ?_, ?_, ?_⟩
  · rw [← h1]
    have e : (t.push lat wr fl).modCore b.env.core (Core.unissued b.env.ctx) = t.modCore b.env.core (Core.unissued b.env.ctx) := by
      simp only [State.push, he, State.modCore_modCore]
      rfl
    have h2 := congrArg (fun u : State => { u with choices := 0, hub := { t.hub with walks := [] } }) e
    exact h2
  · rw [hx, h2]
  · rw [hx, h3]
  · rw [hc]
    simp [h4]

/-- A load: its access, and its result, which waits for the data. -/
theorem issues_newLoad (s : State) (a : Access) (lat : Nat) :
    Issues s (s.newLoad a lat) [{ a with due := (s.core s.env.core).step + lat }] [(lat, .load s.cur.nextId, 0)] := by
  obtain ⟨-, h2, -, -, h5⟩ := State.foldl_walkCtx (elemPages a.elems) (s.modCtx s.env.core s.env.ctx fun t => { t with
    accs := t.accs ++ [{ a with id := t.nextId, hdr := s.env.hdr, slot := s.env.slot, due := (s.core s.env.core).step + lat }]
    nextId := t.nextId + 1 })
  refine (issues_newAcc s { a with due := (s.core s.env.core).step + lat }).push lat (.load s.cur.nextId) 0 h2 (h5.trans ?_)
  show ((s.modCore s.env.core _).core s.env.core).step = _
  rw [State.core_modCore]
  rfl

end Sys2Proof.Machine
end

