-- ==== Sys2Proof/Laws/Lanes.lean ====
section
/-!
SUPPORT. Vector registers by element: what a packed register holds in each element, and above them.
-/
namespace Sys2Proof.Machine

/-- The number whose `n`-bit digits are the elements of a list, the first lowest. -/
theorem digits_lt (n : Nat) {l : List Nat} (h : ∀ x ∈ l, x < 2 ^ n) :
    l.foldr (fun x acc => acc * 2 ^ n + x) 0 < 2 ^ (n * l.length) := by
  induction l with
  | nil => simp
  | cons x l ih =>
    have h1 := ih fun y hy => h y (by simp [hy])
    have h2 : x < 2 ^ n := h x (by simp)
    rw [List.foldr_cons, List.length_cons, Nat.mul_succ, Nat.pow_add]
    calc _ < l.foldr (fun x acc => acc * 2 ^ n + x) 0 * 2 ^ n + 2 ^ n := by omega
      _ = (l.foldr (fun x acc => acc * 2 ^ n + x) 0 + 1) * 2 ^ n := by ring
      _ ≤ _ := Nat.mul_le_mul_right _ h1

/-- A digit of that number. -/
theorem digits_get (n : Nat) {l : List Nat} (h : ∀ x ∈ l, x < 2 ^ n) (i : Nat) :
    l.foldr (fun x acc => acc * 2 ^ n + x) 0 / 2 ^ (n * i) % 2 ^ n = l.getD i 0 := by
  induction l generalizing i with
  | nil => simp
  | cons x l ih =>
    have hx : x < 2 ^ n := h x (by simp)
    have hp : 0 < 2 ^ n := Nat.two_pow_pos n
    rw [List.foldr_cons]
    cases i with
    | zero =>
      rw [Nat.mul_zero, Nat.pow_zero, Nat.div_one, Nat.add_comm, Nat.add_mul_mod_self_right]
      simpa using Nat.mod_eq_of_lt hx
    | succ i =>
      rw [Nat.mul_succ, Nat.add_comm (n * i) n, Nat.pow_add, ← Nat.div_div_eq_div_mul, Nat.add_comm,
        Nat.add_mul_div_right _ _ hp, Nat.div_eq_of_lt hx, Nat.zero_add, ih fun y hy => h y (by simp [hy])]
      simp

/-- An element of a packed register. -/
theorem laneOf_packLanes {n : Nat} {l : List Nat} (h : ∀ x ∈ l, x < 2 ^ n) (hl : n * l.length ≤ 4096) (i : Nat) :
    laneOf n i (packLanes n l) = l.getD i 0 := by
  have hv := Nat.lt_of_lt_of_le (digits_lt n h) (Nat.pow_le_pow_right (by omega) hl)
  rw [laneOf, packLanes, BitVec.toNat_ofNat, Nat.mod_eq_of_lt hv, digits_get n h]

/-- The bits above the elements are 0. -/
theorem packLanes_high {n : Nat} {l : List Nat} (h : ∀ x ∈ l, x < 2 ^ n) (k : Nat) (hk : n * l.length ≤ k) :
    (packLanes n l).getLsbD k = false := by
  have hv : l.foldr (fun x acc => acc * 2 ^ n + x) 0 < 2 ^ k :=
    Nat.lt_of_lt_of_le (digits_lt n h) (Nat.pow_le_pow_right (by omega) hk)
  rw [packLanes, BitVec.getLsbD_ofNat, Nat.testBit_lt_two_pow hv, Bool.and_false]

/-- A vector result, element by element. -/
theorem sendsLanes_pushW (s : State) (lat : Nat) (d : R64) (n : Nat) (l : List Nat) (fl : BitVec 7) (h : ∀ x ∈ l, x < 2 ^ n)
    (hl : n * l.length ≤ 4096) : SendsLanes s (s.pushW lat d (packLanes n l) fl) lat d n l.length (fun i => l.getD i 0) fl :=
  ⟨packLanes n l, sends_push s _ _ _, fun i _ => laneOf_packLanes h hl i, fun k hk => packLanes_high h k hk⟩

end Sys2Proof.Machine
end

