-- ==== Sys2Proof/Laws/Memory.lean ====
section
/-!
SUPPORT. Memory: every operation keeps the canonical form; a read after a write to its address gives what was written, and every
other address reads as before.
-/
namespace Sys2Proof.Machine

/-! ### The canonical form -/

/-- A canonical memory, cell by cell. -/
theorem memWf_cons (a : Nat) (b : Byte) (m : Memory) :
    memWf ((a, b) :: m) = true ↔ b ≠ 0 ∧ (∀ c ∈ m, a < c.1) ∧ memWf m = true := by
  induction m generalizing a b with
  | nil => simp [memWf]
  | cons d m ih =>
    obtain ⟨a', b'⟩ := d
    simp only [memWf, Bool.and_eq_true, bne_iff_ne, ne_eq, decide_eq_true_eq, List.mem_cons, forall_eq_or_imp, and_assoc]
    constructor
    · rintro ⟨hb, ha, hm⟩
      exact ⟨hb, ha, fun c hc => Nat.lt_trans ha (((ih a' b').1 hm).2.1 c hc), hm⟩
    · rintro ⟨hb, ha, -, hm⟩
      exact ⟨hb, ha, hm⟩

/-- An address below every listed one reads 0. -/
theorem memRead_of_lt {m : Memory} {x : Nat} (h : ∀ c ∈ m, x < c.1) : memRead m x = 0 := by
  induction m with
  | nil => rfl
  | cons d m ih =>
    obtain ⟨a, b⟩ := d
    have hx : x < a := h (a, b) (by simp)
    rw [memRead, if_neg (by omega)]
    exact ih fun c hc => h c (by simp [hc])

/-- The cells after a write are the old ones and the one written. -/
theorem mem_memWrite {m : Memory} {x : Nat} {v : Byte} {c : Host.Cell} (h : c ∈ memWrite m x v) : c ∈ m ∨ c = (x, v) := by
  induction m with
  | nil =>
    simp only [memWrite] at h
    split at h <;> simp_all
  | cons d m ih =>
    obtain ⟨a, b⟩ := d
    simp only [memWrite] at h
    split at h
    · split at h <;> simp_all <;> tauto
    · split at h
      · split at h <;> simp_all <;> tauto
      · rcases List.mem_cons.1 h with rfl | h
        · simp
        · rcases ih h with h | h <;> simp [h]

/-- A write keeps the canonical form. -/
theorem memWf_memWrite {m : Memory} (h : memWf m = true) (x : Nat) (v : Byte) : memWf (memWrite m x v) = true := by
  induction m with
  | nil =>
    simp only [memWrite]
    split
    · rfl
    · simpa [memWf] using ‹¬v = 0›
  | cons d m ih =>
    obtain ⟨a, b⟩ := d
    have hm := (memWf_cons a b m).1 h
    simp only [memWrite]
    split
    · split
      · exact h
      · refine (memWf_cons _ _ _).2 ⟨‹_›, fun c hc => ?_, h⟩
        rcases List.mem_cons.1 hc with rfl | hc
        · assumption
        · exact Nat.lt_trans ‹x < a› (hm.2.1 c hc)
    · split
      · subst x
        split
        · exact hm.2.2
        · exact (memWf_cons _ _ _).2 ⟨‹_›, hm.2⟩
      · refine (memWf_cons _ _ _).2 ⟨hm.1, fun c hc => ?_, ih hm.2.2⟩
        rcases mem_memWrite hc with hc | rfl
        · exact hm.2.1 c hc
        · show a < x
          omega

/-- Writing several bytes keeps the canonical form. -/
theorem memWf_memWriteN {m : Memory} (h : memWf m = true) (a n v : Nat) : memWf (memWriteN m a n v) = true := by
  induction n generalizing m a v with
  | zero => exact h
  | succ n ih => exact ih (memWf_memWrite h _ _) _ _

/-- Writing a list of bytes keeps the canonical form. -/
theorem memWf_memWriteBytes {m : Memory} (h : memWf m = true) (a : Nat) (l : List Byte) : memWf (memWriteBytes m a l) = true := by
  induction l generalizing m a with
  | nil => exact h
  | cons b l ih => exact ih (memWf_memWrite h _ _) _

/-- Removing cells keeps the canonical form. -/
theorem memWf_filter {m : Memory} (h : memWf m = true) (p : Host.Cell → Bool) : memWf (m.filter p) = true := by
  induction m with
  | nil => rfl
  | cons d m ih =>
    obtain ⟨a, b⟩ := d
    have hm := (memWf_cons a b m).1 h
    simp only [List.filter_cons]
    split
    · exact (memWf_cons _ _ _).2 ⟨hm.1, fun c hc => hm.2.1 c (List.mem_filter.1 hc).1, ih hm.2.2⟩
    · exact ih hm.2.2

/-- Clearing a range keeps the canonical form. -/
theorem memWf_memClear {m : Memory} (h : memWf m = true) (a n : Nat) : memWf (memClear m a n) = true := memWf_filter h _

/-- Two canonical memories, the second above the first, make one. -/
theorem memWf_append {m n : Memory} (hm : memWf m = true) (hn : memWf n = true) (h : ∀ c ∈ m, ∀ d ∈ n, c.1 < d.1) :
    memWf (m ++ n) = true := by
  induction m with
  | nil => exact hn
  | cons c m ih =>
    obtain ⟨a, b⟩ := c
    obtain ⟨h1, h2, h3⟩ := (memWf_cons a b m).1 hm
    refine (memWf_cons a b (m ++ n)).2 ⟨h1, fun d hd => ?_, ih h3 fun c hc => h c (List.mem_cons_of_mem _ hc)⟩
    rcases List.mem_append.1 hd with hd | hd
    · exact h2 d hd
    · exact h (a, b) List.mem_cons_self d hd

/-- The cells of a list of bytes from an address on are canonical and stand at and above it. -/
theorem memWf_cells (a : Nat) (l : List Byte) (k : Nat) :
    let c := ((List.range' k l.length).zip l).filterMap fun q => if q.2 = 0 then none else some (a + q.1, q.2)
    memWf c = true ∧ ∀ d ∈ c, a + k ≤ d.1 := by
  induction l generalizing k with
  | nil => simp [memWf]
  | cons b l ih =>
    obtain ⟨h1, h2⟩ := ih (k + 1)
    simp only [List.length_cons, List.range'_succ, List.zip_cons_cons, List.filterMap_cons]
    by_cases hb : b = 0
    · simp only [hb, if_true]
      exact ⟨h1, fun d hd => by have := h2 d hd; omega⟩
    · simp only [hb, if_false]
      refine ⟨(memWf_cons _ _ _).2 ⟨hb, fun d hd => by have := h2 d hd; omega, h1⟩, fun d hd => ?_⟩
      rcases List.mem_cons.1 hd with rfl | hd
      · exact Nat.le_refl _
      · have := h2 d hd
        omega

/-- Appending bytes keeps the canonical form. -/
theorem memWf_memAppend {m : Memory} (h : memWf m = true) (a : Nat) (l : List Byte) : memWf (memAppend m a l) = true := by
  obtain ⟨h1, h2⟩ := memWf_cells a l 0
  rw [memAppend, List.range_eq_range']
  refine memWf_append (memWf_filter h _) h1 fun c hc d hd => ?_
  have h3 := of_decide_eq_true (List.mem_filter.1 hc).2
  have := h2 d hd
  omega

/-! ### The MSC -/

/-- A touch of the MSC changes its lines alone. -/
theorem State.mscTouch_eq (s : State) (p : Nat) (f : Nat → Xlat) (va n : Nat) (w : Bool) :
    ∃ l, s.mscTouch p f va n w = { s with msc := l } := by
  unfold State.mscTouch
  generalize List.range ((va % 64 + n + 63) / 64) = r
  induction r generalizing s with
  | nil => exact ⟨s.msc, rfl⟩
  | cons i r ih =>
    rw [List.foldl_cons]
    dsimp only
    split
    · obtain ⟨l, e⟩ := ih { s with msc := _ }
      exact ⟨l, e⟩
    · exact ih s

/-! ### Reads and writes -/

/-- The byte written is read back. -/
theorem memRead_memWrite_self {m : Memory} (h : memWf m = true) (x : Nat) (v : Byte) : memRead (memWrite m x v) x = v := by
  induction m with
  | nil =>
    simp only [memWrite]
    split
    · simp_all [memRead]
    · simp [memRead]
  | cons d m ih =>
    obtain ⟨a, b⟩ := d
    have hm := (memWf_cons a b m).1 h
    simp only [memWrite]
    split
    · split
      · subst v
        refine memRead_of_lt fun c hc => ?_
        rcases List.mem_cons.1 hc with rfl | hc
        · assumption
        · exact Nat.lt_trans ‹x < a› (hm.2.1 c hc)
      · simp [memRead]
    · split
      · subst x
        split
        · subst v
          exact memRead_of_lt hm.2.1
        · simp [memRead]
      · rw [memRead, if_neg (by omega)]
        exact ih hm.2.2

/-- Every other address reads as before. -/
theorem memRead_memWrite_ne (m : Memory) {x y : Nat} (v : Byte) (h : y ≠ x) : memRead (memWrite m x v) y = memRead m y := by
  have hx : ¬x = y := fun e => h e.symm
  induction m with
  | nil =>
    simp only [memWrite]
    split <;> simp [memRead, hx]
  | cons d m ih =>
    obtain ⟨a, b⟩ := d
    simp only [memWrite]
    split
    · split <;> simp [memRead, hx]
    · split
      · subst x
        split <;> simp [memRead, hx]
      · simp only [memRead, ih]

/-- One byte after a write. -/
theorem memRead_memWrite {m : Memory} (h : memWf m = true) (x y : Nat) (v : Byte) :
    memRead (memWrite m x v) y = if y = x then v else memRead m y := by
  split
  · subst y
    exact memRead_memWrite_self h _ _
  · exact memRead_memWrite_ne m v ‹_›

/-- One byte after a write of several: the byte of the number written, or what was there. -/
theorem memRead_memWriteN {m : Memory} (h : memWf m = true) (a n v y : Nat) :
    memRead (memWriteN m a n v) y = if a ≤ y ∧ y < a + n then BitVec.ofNat 8 (v / 256 ^ (y - a)) else memRead m y := by
  induction n generalizing m a v with
  | zero => simp [memWriteN, show ¬(a ≤ y ∧ y < a) by omega]
  | succ n ih =>
    rw [memWriteN, ih (memWf_memWrite h _ _), memRead_memWrite h]
    by_cases h1 : a + 1 ≤ y ∧ y < a + 1 + n
    · rw [if_pos h1, if_pos (by omega), Nat.div_div_eq_div_mul, ← Nat.pow_succ', show (y - (a + 1)).succ = y - a by omega]
    · rw [if_neg h1]
      by_cases h2 : y = a
      · subst h2
        simp
      · rw [if_neg h2, if_neg (by omega)]

/-- One byte after a write of a list: the byte of the list, or what was there. -/
theorem memRead_memWriteBytes {m : Memory} (h : memWf m = true) (a : Nat) (l : List Byte) (y : Nat) :
    memRead (memWriteBytes m a l) y = if a ≤ y ∧ y < a + l.length then l.getD (y - a) 0 else memRead m y := by
  induction l generalizing m a with
  | nil => simp [memWriteBytes, show ¬(a ≤ y ∧ y < a) by omega]
  | cons b l ih =>
    rw [memWriteBytes, ih (memWf_memWrite h _ _), memRead_memWrite h]
    simp only [List.length_cons]
    by_cases h1 : a + 1 ≤ y ∧ y < a + 1 + l.length
    · rw [if_pos h1, if_pos (by omega), show y - a = y - (a + 1) + 1 by omega]
      simp
    · rw [if_neg h1]
      by_cases h2 : y = a
      · subst h2
        simp
      · rw [if_neg h2, if_neg (by omega)]

/-- Reading several bytes depends on these bytes only. -/
theorem memReadN_congr {m n : Memory} {a k : Nat} (h : ∀ y, a ≤ y → y < a + k → memRead m y = memRead n y) :
    memReadN m a k = memReadN n a k := by
  induction k generalizing a with
  | zero => rfl
  | succ k ih =>
    rw [memReadN, memReadN, h a (by omega) (by omega), ih fun y h1 h2 => h y (by omega) (by omega)]

/-- The number written is read back, modulo its width. -/
theorem memReadN_memWriteN {m : Memory} (h : memWf m = true) (a n v : Nat) :
    memReadN (memWriteN m a n v) a n = v % 256 ^ n := by
  induction n generalizing m a v with
  | zero => simp [memReadN, Nat.mod_one]
  | succ n ih =>
    have h0 : memRead (memWriteN m a (n + 1) v) a = BitVec.ofNat 8 v := by
      rw [memRead_memWriteN h]
      simp
    rw [memReadN, h0, memWriteN, ih (memWf_memWrite h _ _), Nat.pow_succ', Nat.mod_mul]
    simp

/-- A write of other bytes leaves a read. -/
theorem memReadN_memWriteN_disjoint {m : Memory} (h : memWf m = true) {a k : Nat} (b n v : Nat) (hd : a + k ≤ b ∨ b + n ≤ a) :
    memReadN (memWriteN m b n v) a k = memReadN m a k :=
  memReadN_congr fun y h1 h2 => by rw [memRead_memWriteN h, if_neg (by omega)]

end Sys2Proof.Machine
end

