-- ==== Sys2Proof/Laws/Traps.lean ====
section
/-!
SUPPORT. Taking a trap: a precise trap of a context that has a handler enters it and leaves every register and memory as they are.
-/
namespace Sys2Proof.Machine

/-! ### Switch points -/

/-- A context without what a switch point changes of it. -/
def Ctx.placed (t : Ctx) : Ctx :=
  { t with
    run := .held
    pri := false
    priNext := none
    noRewrite := true
    stopping := false
    frame := { t.frame with
      rwe := 0
      p0 := none } }

/-- A change of one context of a core that leaves it as it is placed. -/
theorem Core.placed_modCtx (k : Core) (x y : CtxId) (f : Ctx → Ctx) (h : ∀ t, (f t).placed = t.placed) :
    ((k.modCtx x f).ctxs[y]).placed = (k.ctxs[y]).placed := by
  by_cases e : y = x
  · subst e
    rw [Core.ctx_modCtx, h]
  · rw [Core.ctx_modCtx_ne k f e]

theorem Core.placed_applyPri (k : Core) (x : CtxId) : ((k.applyPri).ctxs[x]).placed = (k.ctxs[x]).placed := by
  simp only [Core.applyPri, Fin.getElem_fin, Vector.getElem_map]
  split <;> rfl

theorem Core.placed_select (k : Core) (x : CtxId) : ((k.select).ctxs[x]).placed = (k.ctxs[x]).placed := by
  unfold Core.select
  cases selectFrom k (if k.fresh then 3 else k.last) with
  | none => rfl
  | some y => exact Core.placed_modCtx _ _ x _ fun _ => rfl

/-- A switch point changes of a context its run state and its priority at most. -/
theorem Core.placed_switchPoint (k : Core) (x : CtxId) : ((k.switchPoint).ctxs[x]).placed = (k.ctxs[x]).placed := by
  simp only [Core.switchPoint]
  refine (Core.placed_select _ x).trans ?_
  show ((match k.applyPri.current with
    | some x => k.applyPri.modCtx x fun (t : Ctx) => if t.run = RunState.running then { t with run := .ready } else t
    | none => k.applyPri).ctxs[x]).placed = _
  refine Eq.trans ?_ (k.placed_applyPri x)
  split
  · exact Core.placed_modCtx _ _ x _ fun t => by split <;> rfl
  · rfl

/-- The memories of a core at a switch point. -/
theorem Core.memories_switchPoint (k : Core) : k.switchPoint.tiles = k.tiles ∧ k.switchPoint.blocks = k.blocks
    ∧ k.switchPoint.vault = k.vault := by
  have h : ∀ k : Core, k.select.tiles = k.tiles ∧ k.select.blocks = k.blocks ∧ k.select.vault = k.vault := fun k => by
    unfold Core.select
    cases selectFrom k (if k.fresh then 3 else k.last) <;> exact ⟨rfl, rfl, rfl⟩
  simp only [Core.switchPoint]
  obtain ⟨h1, h2, h3⟩ := h { (match k.applyPri.current with
    | some x => k.applyPri.modCtx x fun (t : Ctx) => if t.run = RunState.running then { t with run := .ready } else t
    | none => k.applyPri) with current := none, splitAt := none }
  refine ⟨h1.trans ?_, h2.trans ?_, h3.trans ?_⟩ <;> (dsimp only; split <;> rfl)

/-- A stop at a switch point leaves a context as it is placed. -/
theorem Ctx.placed_stop (t : Ctx) : t.stop.placed = t.placed := by
  unfold Ctx.stop Ctx.placed
  dsimp only
  split <;> rfl

/-- What a stop at a switch point changes: the context it stops, the pins that end with it, and the tests those repeat (23 R351). -/
theorem State.stopHere_eq (s : State) (c : CoreId) (x : CtxId) : ∃ (f : Ctx → Ctx) (p : List Pin) (r : Bool),
    (∀ t, (f t).placed = t.placed) ∧ s.stopHere c x = { s.modCtx c x f with pins := p, retests := r } := by
  unfold State.stopHere
  split
  · exact ⟨Ctx.stop, _, _, Ctx.placed_stop, rfl⟩
  · refine ⟨fun t => if t.loop.run ∧ t.loop.k = 1 then t else t.stop, _, _, fun t => ?_, rfl⟩
    dsimp only
    split
    · rfl
    · exact t.placed_stop
  · refine ⟨id, s.pins, s.retests, fun _ => rfl, ?_⟩
    show s = { s.modCtx c x id with pins := s.pins, retests := s.retests }
    have e : s.modCtx c x id = s := s.modCore_id c _ (by simp [Core.modCtx])
    rw [e]

/-- A stop at a switch point leaves what a context is placed with and the memories of the core. -/
theorem State.stopHere_keeps (s : State) (c : CoreId) (x : CtxId) : ((s.stopHere c x).ctx c x).placed = (s.ctx c x).placed
    ∧ ((s.stopHere c x).core c).tiles = (s.core c).tiles ∧ ((s.stopHere c x).core c).blocks = (s.core c).blocks
    ∧ ((s.stopHere c x).core c).vault = (s.core c).vault ∧ (s.stopHere c x).gmem = s.gmem ∧ (s.stopHere c x).hmem = s.hmem
    ∧ (s.stopHere c x).env = s.env := by
  obtain ⟨f, p, r, hf, e⟩ := s.stopHere_eq c x
  have hc : (s.stopHere c x).core c = (s.core c).modCtx x f := by
    rw [e]
    exact s.core_modCore c fun k => k.modCtx x f
  refine ⟨?_, by rw [hc]; rfl, by rw [hc]; rfl, by rw [hc]; rfl, by rw [e]; rfl, by rw [e]; rfl, by rw [e]; rfl⟩
  show (((s.stopHere c x).core c).ctxs[x]).placed = _
  rw [hc, Core.ctx_modCtx, hf]
  rfl

/-! ### Entering a handler -/

/-- A state whose context is placed as that of another, with the same memories, has the same registers and memories. -/
theorem sameRegisters_placed {s t u : State} (h : SameRegisters s t) (hc : u.cur.placed = t.cur.placed)
    (hm : (u.core s.env.core).tiles = (t.core s.env.core).tiles) (hb : (u.core s.env.core).blocks = (t.core s.env.core).blocks)
    (hv : (u.core s.env.core).vault = (t.core s.env.core).vault) (hg : u.gmem = t.gmem) (hh : u.hmem = t.hmem) :
    SameRegisters s u := by
  have f {α : Type} (g : Ctx → α) (hg : ∀ t : Ctx, g t = g t.placed) : g u.cur = g t.cur := by
    rw [hg, hc, ← hg]
  obtain ⟨h1, h2, h3, h4, h5, h6, h7, h8, h9, h10, h11, h12, h13, h14, h15, h16, h17, h18, h19, h20, h21, h22, h23, h24, h25, h26, h27, h28, h29⟩ := h
  exact ⟨(f Ctx.g fun _ => rfl).trans h1, (f Ctx.a fun _ => rfl).trans h2, (f Ctx.p fun _ => rfl).trans h3, (f Ctx.sp fun _ => rfl).trans h4,
    (f Ctx.b fun _ => rfl).trans h5, (f Ctx.d fun _ => rfl).trans h6, (f Ctx.w fun _ => rfl).trans h7, (f Ctx.bank fun _ => rfl).trans h8,
    (f Ctx.loop fun _ => rfl).trans h9, (f Ctx.vstat fun _ => rfl).trans h10, (f Ctx.fmt fun _ => rfl).trans h11,
    (f Ctx.sct fun _ => rfl).trans h12, (f Ctx.mshp fun _ => rfl).trans h13, (f Ctx.store fun _ => rfl).trans h14,
    (f Ctx.levels fun _ => rfl).trans h15, (f Ctx.nstat fun _ => rfl).trans h16, (f Ctx.fpc fun _ => rfl).trans h17,
    (f Ctx.ftv fun _ => rfl).trans h18, (f Ctx.thv fun _ => rfl).trans h19, (f Ctx.tsv fun _ => rfl).trans h20,
    (f Ctx.pendDom fun _ => rfl).trans h21, (f Ctx.accs fun _ => rfl).trans h22, (f Ctx.span fun _ => rfl).trans h23,
    (f Ctx.egy fun _ => rfl).trans h24, hm.trans h25, hb.trans h26, hv.trans h27, hg.trans h28, hh.trans h29⟩

/-- A switch point of its core leaves what a context is placed with. -/
theorem State.placed_switchPoint {t : State} {c : CoreId} (h : t.env.core = c) :
    (t.modCore c Core.switchPoint).cur.placed = t.cur.placed := by
  subst h
  show (((t.modCore t.env.core Core.switchPoint).core t.env.core).ctxs[t.env.ctx]).placed = _
  rw [State.core_modCore, Core.placed_switchPoint]
  rfl

/-- The registers and memories of a context after a switch point of its core. -/
theorem sameRegisters_switchPoint {s t : State} (h : SameRegisters s t) (he : s.env.core = t.env.core ∧ s.env.ctx = t.env.ctx) :
    SameRegisters s (t.modCore s.env.core Core.switchPoint) := by
  have hm := Core.memories_switchPoint (t.core s.env.core)
  refine sameRegisters_placed h (State.placed_switchPoint he.1.symm) ?_ ?_ ?_ rfl rfl
  · rw [State.core_modCore, hm.1]
  · rw [State.core_modCore, hm.2.1]
  · rw [State.core_modCore, hm.2.2]

/-- A frame with the blocks its bundle has set keeps what names its point. -/
theorem Frame.withBlocks_point (f : Frame) (b : Blocks) : (f.withBlocks b).cause = f.cause ∧ (f.withBlocks b).addr = f.addr
    ∧ (f.withBlocks b).sr = f.sr ∧ (f.withBlocks b).after = f.after ∧ (f.withBlocks b).faddr = f.faddr ∧ (f.withBlocks b).info = f.info := by
  unfold Frame.withBlocks
  split <;> exact ⟨rfl, rfl, rfl, rfl, rfl, rfl⟩

/-- Taking a trap of the context of the bundle that commits, where it has a handler for it. -/
theorem State.takeTrap_enter {s : State} (h : s.HandlerReady) (f : Frame) (hdr : Word) (slot : R8) (hf : fatalCause f.cause = false) :
    s.takeTrap s.env.core s.env.ctx f hdr slot =
      let v : State := ((s.modEnv fun e => { e with stopped := true }).modCore s.env.core fun k => k.completeFmt s.env.ctx).holdFrame
        s.env.core s.env.ctx f |>.modCtx s.env.core s.env.ctx fun t => { t with
          hm := true
          pc := t.thv
          bubbles := 3
          transferred := true
          run := if t.run = .running then .running else .ready }
      if (v.core s.env.core).current == some s.env.ctx then
        (v.stopHere s.env.core s.env.ctx).modCore s.env.core Core.switchPoint else v := by
  obtain ⟨hm, hr, ht, hk⟩ := h
  have hm' : (s.ctx s.env.core s.env.ctx).hm = false := hm
  have hr' : (s.ctx s.env.core s.env.ctx).run ≠ .held := hr
  have ht' : ((s.ctx s.env.core s.env.ctx).thv != 0) = true := by
    rw [bne_iff_ne]
    exact ht
  have hk' : ((((s.modEnv fun e => { e with stopped := true }).modCore s.env.core fun k => k.completeFmt s.env.ctx).holdFrame
      s.env.core s.env.ctx f).core s.env.core).markOk (s.ctx s.env.core s.env.ctx).thv = true := by
    rw [← hk]
    simp only [State.holdFrame, State.modCtx, State.core_modCore]
    rfl
  have he : (s.modEnv fun e => if e.core = s.env.core ∧ e.ctx = s.env.ctx then { e with stopped := true } else e)
      = s.modEnv fun e => { e with stopped := true } := by
    simp [State.modEnv]
  unfold State.takeTrap
  simp only [he, hm', if_neg hr', hf, ht', Bool.false_and, Bool.not_false, Bool.true_and, if_true, hk', Bool.false_eq_true, if_false]

/-- A precise fault of the slot being committed enters the handler of its context, where it has one, with its cause, its fault
address and its INFO in the frame; no register and no memory changes (24 R360). -/
theorem entersAt_slotFault {s : State} (h : s.HandlerReady) (cause : BitVec 8) (faddr info : Word) (hf : fatalCause cause = false) :
    EntersAt s (s.slotFault cause faddr info) cause faddr info := by
  obtain ⟨p1, p2, p3, p4, p5, p6⟩ := Frame.withBlocks_point (Frame.make s.env.hdr s.env.slot cause faddr info) s.env.block
  have hc : fatalCause (s.slotFrame s.env.slot cause faddr info).cause = false := (congrArg fatalCause p1).trans hf
  let v : State := ((s.modEnv fun e => { e with stopped := true }).modCore s.env.core fun k => k.completeFmt s.env.ctx).holdFrame
    s.env.core s.env.ctx (s.slotFrame s.env.slot cause faddr info) |>.modCtx s.env.core s.env.ctx fun t => { t with
      hm := true
      pc := t.thv
      bubbles := 3
      transferred := true
      run := if t.run = .running then .running else .ready }
  have e : s.slotFault cause faddr info
      = if (v.core s.env.core).current == some s.env.ctx then
          (v.stopHere s.env.core s.env.ctx).modCore s.env.core Core.switchPoint else v :=
    State.takeTrap_enter h _ _ _ hc
  have hx : ∃ (n : BitVec 96) (r : RunState) (q : Word × Word) (p : Option Word), v.cur = { s.cur with
      hm := true, pc := s.cur.thv, bubbles := 3, transferred := true, run := r, frame := { s.slotFrame s.env.slot cause faddr info with
        valid := true
        tick := s.cyc
        rwe := n
        p0 := p
        prev := q.1
        cur := q.2 }
      fired := none, noRewrite := true, replay := none, kept := (s.cur.waitHdr, s.cur.promiseT), promiseT := none,
      blocks := ⟨none, none⟩ } := by
    refine ⟨rweOf s.cur.fired ((s.slotFrame s.env.slot cause faddr info).rwe.getLsbD 14), if s.cur.run = .running then .running else .ready,
      ((s.cur.episode.map (·.prev)).getD 0, (s.cur.episode.map (·.cur)).getD 0), s.cur.fired.map (·.hdr0), ?_⟩
    have hk : ((s.modEnv fun e => { e with stopped := true }).modCore s.env.core fun k => k.completeFmt s.env.ctx).ctx s.env.core s.env.ctx
        = s.cur := State.ctx_modCore _ _ _ _
    show v.ctx s.env.core s.env.ctx = _
    simp only [v, State.holdFrame, State.modCtx_modCtx, State.ctx_modCtx, Function.comp, hk]
    rfl
  obtain ⟨n, r, q, p, hx⟩ := hx
  have hs : SameRegisters s v := by
    have hk : (v.core s.env.core).tiles = (s.core s.env.core).tiles ∧ (v.core s.env.core).blocks = (s.core s.env.core).blocks
        ∧ (v.core s.env.core).vault = (s.core s.env.core).vault := by
      simp only [v, State.holdFrame, State.modCtx, State.modCore_modCore, State.core_modCore]
      exact ⟨rfl, rfl, rfl⟩
    simp only [SameRegisters, hx, hk, true_and]
    exact ⟨rfl, rfl⟩
  rw [e]
  have fin : ∀ t : State, t.env = v.env → t.cur.placed = v.cur.placed → SameRegisters s t → EntersAt s t cause faddr info := by
    intro t he ht hr
    have g {α : Type} (f : Ctx → α) (hf : ∀ u : Ctx, f u = f u.placed) : f t.cur = f v.cur := by rw [hf, ht, ← hf]
    have hfr {α : Type} (p : Frame → α) (hp : ∀ w : Frame, p w = p { w with
        rwe := 0
        p0 := none }) : p t.cur.frame = p v.cur.frame := by
      rw [hp, hp v.cur.frame]
      exact g (fun u => p { u.frame with
        rwe := 0
        p0 := none }) fun _ => rfl
    refine ⟨⟨by rw [he]; rfl, by rw [he]; rfl, by rw [he]; rfl, ?_, ?_, ?_, ?_, ?_, ?_, ?_, ?_, ?_, ?_, hr⟩, ?_, ?_⟩
    · rw [g Ctx.hm fun _ => rfl, hx]
    · rw [g Ctx.pc fun _ => rfl, hx]
    · rw [g Ctx.bubbles fun _ => rfl, hx]
    · rw [hfr Frame.valid fun _ => rfl, hx]
    · rw [hfr Frame.cause fun _ => rfl, hx]
      exact p1
    · rw [hfr Frame.addr fun _ => rfl, hx]
      exact p2
    · rw [hfr Frame.sr fun _ => rfl, hx]
      exact p3
    · rw [hfr Frame.after fun _ => rfl, hx]
      exact p4
    · rw [hfr Frame.tick fun _ => rfl, hx]
    · rw [g Ctx.fired fun _ => rfl, hx]
    · rw [hfr Frame.faddr fun _ => rfl, hx]
      exact p5
    · rw [hfr Frame.info fun _ => rfl, hx]
      exact p6
  split
  · obtain ⟨q1, q2, q3, q4, q5, q6, q7⟩ := v.stopHere_keeps s.env.core s.env.ctx
    have hv : v.env.core = s.env.core ∧ v.env.ctx = s.env.ctx := ⟨rfl, rfl⟩
    have hu : (v.stopHere s.env.core s.env.ctx).cur.placed = v.cur.placed := by
      rw [State.cur, q7]
      exact q1
    have hw : SameRegisters s (v.stopHere s.env.core s.env.ctx) := sameRegisters_placed hs hu q2 q3 q4 q5 q6
    refine fin _ q7 ?_ (sameRegisters_switchPoint hw ⟨by rw [q7]; rfl, by rw [q7]; rfl⟩)
    refine Eq.trans ?_ hu
    exact State.placed_switchPoint (by rw [q7]; rfl)
  · exact fin _ rfl rfl hs

end Sys2Proof.Machine
end

