-- ==== Sys2Proof/Tests/Slice0.lean ====
section
/-!
SUPPORT. The model's own tests: ill-formed terms that each check of WellFormed refuses, the words the spec writes out, single
steps with results worked out by hand from the spec, and for every statement a state and operands that meet its hypotheses.
-/
namespace Sys2Proof.Tests
open Sys2Proof.Machine
set_option Elab.async false

/-- The guard p0, which is true. -/
def yes : Guard := ⟨false, 0⟩
/-- The guard !p0, which is false. -/
def no : Guard := ⟨true, 0⟩

/-! ### WellFormed: for each check, a term it refuses -/

theorem test_wf_lset : WellFormed (.lset yes 1 2 3) = false := by decide
theorem test_wf_wait : WellFormed (.wait yes 1 0 .dd false) = false ∧ WellFormed (.wait yes 1 2 .dd true) = false := by decide
theorem test_wf_cmp : WellFormed (.cmp yes true .eq 15 1 2) = false := by decide
theorem test_wf_ext : WellFormed (.ext yes .u .d 1 2) = false := by decide
theorem test_wf_movc : WellFormed (.movc yes (.read 1 5)) = false ∧ WellFormed (.movc yes (.write 0x200 1)) = false := by decide
theorem test_wf_movc_sys : WellFormed (.movcSysRead yes 1 0x206) = false ∧ WellFormed (.movcSysWrite yes 0x212 1) = false := by decide
theorem test_wf_ndiff : WellFormed (.ndiff yes true 0 1) = false ∧ WellFormed (.ndiff yes true 0 9) = false
    ∧ WellFormed (.ndiff yes true 61 4) = false := by decide
theorem test_wf_st : WellFormed (.st yes .sb ⟨0, .ctx⟩ 1 ⟨2, .disp 0⟩) = false := by decide
theorem test_wf_lda : WellFormed (.lda yes .h ⟨0, .ctx⟩ 1 ⟨2, .disp 0⟩) = false := by decide
theorem test_wf_stl : WellFormed (.stl yes .b ⟨0, .ctx⟩ 1 ⟨2, .disp 0⟩) = false := by decide
theorem test_wf_gath : WellFormed (.gath yes .h ⟨0, .ctx⟩ 1 2 3) = false := by decide
theorem test_wf_scat : WellFormed (.scat yes .sw ⟨0, .ctx⟩ 1 2 3) = false := by decide
theorem test_wf_atom : WellFormed (.atom yes .add .s .h ⟨0, .ctx⟩ 1 2 0) = false ∧ WellFormed (.atom yes .add .s .w ⟨0, .ctx⟩ 1 2 3) = false
    ∧ WellFormed (.atom yes .add .u .d ⟨0, .ctx⟩ 1 2 0) = false := by decide
theorem test_wf_vfp : ∀ i ∈ [Instr.vadd yes .i32 .rn 1 2 3, .vsub yes .e4m3 .rn 1 2 3, .vmul yes .u8 .rn 1 2 3, .vfma yes .i8 .rn 1 2 3,
    .vfms yes .e2m1 .rn 1 2 3, .vmin yes .i16 1 2 3, .vmax yes .e5m2 1 2 3, .vmask yes .i4 1 2 3, .vabs yes .i32 1 2, .vneg yes .u16 1 2,
    .vrcp yes .i8 1 2, .vrsq yes .e3m2 1 2, .vsqrt yes .e2m3 1 2, .vexp2 yes .u32 1 2, .vlog2 yes .i16 1 2, .vsin yes .i32 1 2,
    .vcos yes .e4m3 1 2, .vtanh yes .u8 1 2, .vcmp yes .eq .i32 1 2 3], WellFormed i = false := by decide
theorem test_wf_vint : ∀ i ∈ [Instr.viadd yes .f32 true 1 2 3, .visub yes .i4 false 1 2 3, .vimul yes .bf16 false 1 2 3,
    .vimad yes .f16 true 1 2 3, .vshl yes .f32 1 2 3, .vshr yes .e4m3 1 2 3, .vsra yes .i4 1 2 3], WellFormed i = false := by decide
theorem test_wf_convert : ∀ i ∈ [Instr.vcvt yes .f32 .f16 .rn false 1 2, .vcvt yes .e2m1 .e2m1 .rn false 1 2, .vwiden yes .f16 .f32 2 4,
    .vwiden yes .f32 .e4m3 6 4, .vwiden yes .i32 .u16 2 4, .vnarr yes .f32 .f16 .rn false 1 2, .vnarr yes .f16 .f32 .rn false 1 3,
    .vpack yes .i8 .f32 .rn false 1 2 3, .vpack yes .e2m1 .i8 .rn false 1 2 3, .vunpk yes .f32 .e2m1 .rn false 0 2,
    .vunpk yes .f16 .e2m1 .rn false 2 1], WellFormed i = false := by decide
theorem test_wf_reduce : ∀ i ∈ [Instr.vredadd yes .e4m3 1 2, .vredmax yes .i4 1 2, .vargmax yes .e2m1 1 2, .vscan yes .add .e5m2 1 2],
    WellFormed i = false := by decide
theorem test_wf_move : ∀ i ∈ [Instr.vperm yes .d 1 2 3, .vshuf yes .d 2 3 4, .vshuf yes .w 3 4 5, .vmovg yes .b 1 2 3, .vmovg yes .h 1 2 3],
    WellFormed i = false := by decide
theorem test_wf_tlbinv : WellFormed (.tlbinv yes .heath 1) = false ∧ WellFormed (.tlbinvAll yes .system) = false := by decide
theorem test_wf_literal : WellFormedIn 1 (.addi yes 1 2 (.lit 1)) = false ∧ WellFormedIn 2 (.addi yes 1 2 (.lit 1)) = true := by decide

/-! ### Words the spec writes out -/

/-- 09 Table 9.10. -/
theorem test_words_control : decodeSlot 0 0 0x050006000010 = .ok (.lset yes 0 2 12) ∧ decodeSlot 0 0 0x060000000034 = .ok (.lrun yes 0 0x34)
    ∧ decodeSlot 0 0 0x072000000000 = .ok (.lbrk ⟨false, 4⟩ 0) := by decide +kernel
/-- 14 Table 14.6. -/
theorem test_words_branch : decodeSlot 0 0 0x01010000003A = .ok (.prep yes 1 (.rel 0x3A))
    ∧ decodeSlot 0 0 0x020900000000 = .ok (.bra ⟨false, 1⟩ 1) := by decide +kernel
/-- 08 Table 8.12. -/
theorem test_words_scalar : decodeSlot 1 0 0x270020000000 = .ok (.movc yes (.read 1 0))
    ∧ decodeSlot 2 0 0x200060000002 = .ok (.movi yes 3 (.int20 2)) ∧ decodeSlot 1 0 0x27000F000423 = .ok (.movc yes (.write 0x23 30)) := by
  decide +kernel
/-- 15 Table 15.4 and 16. -/
theorem test_words_domain : decodeSlot 2 0 0x400280000002 = .ok (.dset yes 20 0 0 2) ∧ decodeSlot 2 0 0x45006A000000 = .ok (.neq yes false 3 20)
    ∧ decodeSlot 2 0 0x46006A000400 = .ok (.nne yes true 3 20) ∧ decodeSlot 2 0 0x4700A20007FD = .ok (.neqo yes true 5 4 (-3))
    ∧ decodeSlot 2 0 0x4B0040020400 = .ok (.nadd yes true 2 0 1) ∧ decodeSlot 2 0 0x520100000404 = .ok (.ndiff yes true 8 4)
    ∧ decodeSlot 2 0 0x490060800400 = .ok (.nlt yes true 3 1) ∧ decodeSlot 2 0 0x559000000000 = .ok (.nckpt ⟨true, 2⟩) := by decide +kernel
/-- 10 Table 10.5. -/
theorem test_words_memory : decodeSlot 4 0 0x0600A1000128 = .ok (.ldv yes ⟨2, .heath⟩ 5 ⟨2, .disp 0⟩)
    ∧ decodeSlot 4 0 0x0F01440001A3 = .ok (.atom yes .add .s .d ⟨3, .heath⟩ 10 8 0) := by decide +kernel
/-- 20 Table 20.5. -/
theorem test_words_tile : decodeSlot 6 0 0x080001014000 = .ok (.mtrn yes none 5 4)
    ∧ decodeSlot 4 0 0x0A0021010009 = .ok (.ldt yes ⟨0, .ctx⟩ 1 ⟨2, .disp 32⟩) := by
  decide +kernel
/-- 13 Table 13.4, 22 and 25. -/
theorem test_words_vector : decodeSlot 5 0 0x050021060010 = .ok (.vfma yes .f32 .rz 1 2 3)
    ∧ decodeSlot 5 0 0x0600C293FA00 = .ok (.vfmaI yes 6 5 (.fp20 0x3FA00)) ∧ decodeSlot 5 0 0x210101000018 = .ok (.vwiden yes .f32 .e4m3 8 2)
    ∧ decodeSlot 5 0 0x2E0144120000 = .ok (.vmask yes .f32 10 8 9) ∧ decodeSlot 5 0 0x270225000000 = .ok (.vargmax yes .f32 17 10)
    ∧ decodeSlot 5 0 0x299061000002 = .ok (.vperm ⟨true, 2⟩ .w 3 2 0) := by decide +kernel
/-- 22 and 25. -/
theorem test_words_wait : decodeSlot 0 0 0x0B000300000D = .ok (.wait yes 6 0 .dd true)
    ∧ decodeSlot 0 0 0x0B8800820000 = .ok (.wait ⟨true, 1⟩ 1 1 .eq false) := by decide +kernel
/-- 17 Table 17.4. -/
theorem test_words_matrix : decodeSlot 6 0 0x010000042800 = .ok (.mma yes (some 2) 0 0 1)
    ∧ decodeSlot 6 0 0x06001C010001 = .ok (.mcvt yes none .e4m3 .rn true 4 7) ∧ decodeSlot 6 0 0x0C001400012C = .ok (.qadd yes none 5 300)
    ∧ decodeSlot 6 0 0x050000000007 = .ok (.mscale yes none 0 7) := by decide +kernel
/-- 17 Table 17.4 and 18 R277. -/
theorem test_words_config : decodeSlot 7 0 0x050004000000 = .ok (.setfmt yes 8) ∧ decodeSlot 7 0 0x060000000022 = .ok (.setfmtI yes (.int20 0x22))
    ∧ decodeSlot 7 0 0x070002000000 = .ok (.setsct yes 4) ∧ decodeSlot 7 0 0x130000000000 = .ok (.rwflush yes) := by decide +kernel
/-- 19 Table 19.4. -/
theorem test_words_engine : decodeSlot 7 0 0x080283000000 = .ok (.cpy yes 20 6) ∧ decodeSlot 7 0 0x0A0185000000 = .ok (.subscr yes 12 10)
    ∧ decodeSlot 7 0 0x0C0000000000 = .ok (.ringack yes 0) ∧ decodeSlot 7 0 0x0D0000000201 = .ok (.bara yes 1)
    ∧ decodeSlot 7 0 0x0E0000000001 = .ok (.barw yes 1) := by decide +kernel
/-- 21 Table 21.5. -/
theorem test_words_bracken : decodeSlot 7 0 0x200141800000 = .ok (.ddvar yes 10 3) ∧ decodeSlot 7 0 0x210002986801 = .ok (.ddapply yes .or 5 12 13)
    ∧ decodeSlot 7 0 0x2200E2104800 = .ok (.ddite yes 4 7 8 9) ∧ decodeSlot 7 0 0x280003146000 = .ok (.ddmask yes 6 10 12)
    ∧ decodeSlot 7 0 0x290000140000 = .ok (.ddref yes 10) := by decide +kernel
/-- 24 Table 24.5. -/
theorem test_words_system : decodeSlot 7 0 0x300000000000 = .ok (.tret yes) ∧ decodeSlot 7 0 0x310000000005 = .ok (.syscall yes 5)
    ∧ decodeSlot 7 0 0x320003800400 = .ok (.tlbinv yes .package 7) ∧ decodeSlot 7 0 0x330000000300 = .ok (.tlbinvAll yes .die)
    ∧ decodeSlot 7 0 0x340000000003 = .ok (.evsig yes 3) ∧ decodeSlot 7 0 0x3500A0000202 = .ok (.movcSysRead yes 5 0x202)
    ∧ decodeSlot 7 0 0x360004800208 = .ok (.movcSysWrite yes 0x208 9) ∧ decodeSlot 7 0 0x370002000000 = .ok (.frmst yes 4)
    ∧ decodeSlot 7 0 0x390001000000 = .ok (.ckill yes 2) := by decide +kernel
/-- 27 Table 27.3. -/
theorem test_words_power : decodeSlot 7 0 0x040000000004 = .ok (.opselI yes 4) ∧ decodeSlot 7 0 0x030001800000 = .ok (.opsel yes 3) := by
  decide +kernel

/-! ### A small state: context 2 of core 9 is running, in a launch of heath 1 -/

/-- The allotment of the core. -/
def al : Allot := ⟨5, 2, 1, 0xFF, 4, 0x400000, 100, 4, 21, 8, 4, 4, 2, 0⟩
/-- The context. -/
def cA : Ctx := { Ctx.reset with
  run := .ready
  pc := 0x100
  g := Vector.ofFn fun i => ⟨BitVec.ofNat 64 (i.val * i.val), i.val % 2 == 1⟩
  a := Vector.ofFn fun i => ⟨BitVec.ofNat 56 (if i.val = 2 then 0x401000 else if i.val = 9 then 0xC00040 else 8 * i.val + 1), false, Vector.replicate 6 8⟩
  sp := 0x15
  d := Vector.ofFn fun i => ⟨BitVec.ofNat 32 i.val, BitVec.ofNat 32 (i.val + 7), 0xFF⟩
  bank := Vector.replicate 1024 0x3F800000
  npe := false
  asid := 3
  thv := 0x80
  ftv := 0x100 }
/-- The core. -/
def kA : Core := { Core.reset with
  step := 95
  current := some 2
  last := 2
  allot := some al
  ctxs := Vector.ofFn fun i => { cA with run := if i.val = 2 then .running else .ready }
  vault := [(0x40, 3), (0x1000, 7), (0x1001, 9), (0x1008, 255), (0x1010, 1)]
  marks := [0x80, 0x100, 0x200] }
/-- The state, committing slot 1 of the bundle at 0x100. -/
def sA : State := { State.reset with
  cyc := 5000
  env := { Env.reset with
    core := 9
    ctx := 2
    slot := 1
    hdr := 0x100
    next := 0x114
    lits := [0x11111111, 0xFFFFFFF0, 3] }
  cores := State.reset.cores.set 9 kA
  heaths := State.reset.heaths.set 1 { Heath.reset with group := some 5, bars := Vector.replicate 4 ⟨3, 2, 100⟩ } }
/-- The same in handler mode. -/
def sH : State := sA.modCur fun t => { t with hm := true }
/-- A nest of three levels on its trip (1, 0, 0). -/
def lpA : Loop := { Loop.clear with
  stages := 3
  run := true
  k := 3
  body := 0x114
  endA := 0x180
  n := #v[3, 2, 1, 0, 0, 0]
  cnt := #v[3, 2, 1, 0, 0, 0]
  s := 3
  idx := #v[1, 0, 0, 0, 0, 0] }
/-- The state inside that nest, after a lower slot has taken a transfer. -/
def sL : State := (sA.modCur fun t => { t with loop := lpA }).modEnv fun e => { e with loop0 := lpA, transfer := some ⟨0x300, 0, true⟩ }

/-! ### Witnesses: for every statement, states and operands that meet the hypotheses of its clauses -/

theorem test_witness_FalseConditionsDoNothing : guardOf (.nop no) = some no ∧ sA.guard no = false ∧ guardOf (.ckill ⟨false, 15⟩ 1) = some ⟨false, 15⟩
    ∧ sA.guard ⟨false, 15⟩ = false ∧ sA.guard yes = true ∧ sA.rdSp 1 = false ∧ sA.rdSp 7 = false := by decide +kernel
theorem test_witness_ScalarResults : sA.guard yes = true ∧ sA.guard ⟨true, 15⟩ = true ∧ sA.rdP 0 = true ∧ sA.rdP 15 = false := by decide +kernel
theorem test_witness_PredicateAndControlMoves : sA.guard yes = true ∧ ((true = true) ↔ sA.g 5 = sA.g 5) ∧ ((false = true) ↔ sA.g 5 ≠ sA.g 5)
    ∧ ((false = true) ↔ (sA.g 5).toInt < (sA.g 5).toInt) ∧ ((true = true) ↔ (sA.g 5).toInt ≤ (sA.g 5).toInt)
    ∧ ((false = true) ↔ (sA.g 5).toInt > (sA.g 5).toInt) ∧ ((true = true) ↔ (sA.g 5).toInt ≥ (sA.g 5).toInt)
    ∧ ((true = true) ↔ (sA.g 1).toNat < (sA.g 2).toNat) ∧ ((true = true) ↔ (sA.g 1).toNat ≤ (sA.g 2).toNat)
    ∧ ((false = true) ↔ (sA.g 1).toNat > (sA.g 2).toNat) ∧ ((false = true) ↔ (sA.g 1).toNat ≥ (sA.g 2).toNat) ∧ (14 : R16).val + 1 < 16 := by
  decide +kernel
theorem test_witness_AddressResults : sA.guard yes = true ∧ sA.cur.hm = false ∧ sA.env.loop0.run = false ∧ sL.env.loop0.run = true
    ∧ sL.env.loop0.advancing = some 0
    ∧ ({ lpA with idx := #v[4, 1, 0, 0, 0, 0] } : Loop).advancing = none := by decide +kernel
theorem test_witness_BranchResults : sA.guard yes = true ∧ sA.env.transfer = none ∧ sL.guard yes = true ∧ sL.env.transfer ≠ none := by decide +kernel
theorem test_witness_LoopFormResults : sA.guard yes = true ∧ sA.cur.hm = false ∧ sA.env.transfer = none
    ∧ sL.cur.loop.run = true ∧ (2 : Lvl).val < sL.cur.loop.k ∧ ¬(3 : Lvl).val < sL.cur.loop.k ∧ sA.cur.loop.trips 0 = 0 ∧ sL.cur.loop.trips 2 ≠ 0 := by
  decide +kernel
theorem test_witness_TripEndAdvances : lpA.run = true ∧ lpA.advancing = some 0
    ∧ ({ lpA with idx := #v[4, 0, 0, 0, 0, 0] } : Loop).advancing = some 1
    ∧ ({ lpA with idx := #v[4, 1, 0, 0, 0, 0] } : Loop).advancing = none := by decide +kernel
theorem test_witness_WaitingAndStoppingForms :
    let ea := (sA.rdA 2).1
    sA.guard yes = true ∧ ea.toNat % 16 = 0 ∧ ea.toNat % 8 = 0 ∧ ea.toNat % 4 = 0 ∧ isScratch ea = true ∧ sA.waitAccess 9 2 ea .eq false = none
    ∧ sA.poisonedLoc (.vault (vaultCore sA.env.core ea) (vaultOfs ea)) 16 = false
    ∧ (let word := memReadN (sA.core (vaultCore sA.env.core ea)).vault (vaultOfs ea) 4
       let val := (sA.g 1).toNat % 2 ^ 32
       ((false = true) ↔ word = val) ∧ ((true = true) ↔ word ≠ val) ∧ ((true = true) ↔ val ≤ word) ∧ ((false = true) ↔ word < val)
       ∧ ((true = true) ↔ word &&& val ≠ 0) ∧ ((false = true) ↔ word / 2 ^ 63 % 2 = 1)) := by decide +kernel
/-- The context with a pending domain effect, a stored constraint and a checkpoint level. -/
def sD (e : DomEff) : State := sA.modCur fun t => { t with
  pendDom := [⟨95, 0x100, e⟩]
  store := [⟨0x45, 1, 2, 0, 0, 0⟩]
  levels := [⟨1, NStat.zero⟩] }
theorem test_witness_DomainReadAndPropagationForms : sA.guard yes = true ∧ sA.cur.hm = false ∧ (20 : R64).val < sA.alloc.domains
    ∧ clamp32 ((sA.g 2).toInt + (-4 : BitVec 10).toInt) ≤ clamp32 ((sA.g 2).toInt + (-4 : BitVec 10).toInt)
    ∧ ((sA.rdD 20).lo.toInt ≤ 22 ∧ 22 ≤ (sA.rdD 20).hi.toInt ∧ (sA.g 2).getLsbD (22 - (sA.rdD 20).lo.toInt).toNat = true)
    ∧ sA.cur.levels.length ≠ 16 ∧ (sD .nrest).guard yes = true ∧ (sD .nrest).cur.hm = false ∧ (sD .nrest).cur.levels ≠ [] := by decide +kernel
theorem test_witness_NarrowingFormResults : sA.guard yes = true ∧ sA.cur.hm = false
    ∧ sA.cur.store.length + sA.cur.pendingRecords ≠ min sA.alloc.store 256
    ∧ ∀ e ∈ ([⟨0x45, 1, 2, 0, 0, 0⟩, ⟨0x46, 1, 2, 0, 0, 0⟩, ⟨0x47, 1, 2, 0, 3, 0⟩, ⟨0x48, 1, 2, 0, 3, 0⟩, ⟨0x49, 1, 2, 0, 0, 0⟩, ⟨0x4A, 1, 2, 0, 0, 0⟩,
        ⟨0x4B, 5, 2, 3, 0, 0⟩, ⟨0x4C, 1, 5, 4, 0, 0⟩, ⟨0x4D, 5, 2, 3, 0, 0⟩, ⟨0x4E, 1, 2, 3, 0, 0⟩, ⟨0x4F, 1, 2, 3, 0, 0⟩, ⟨0x50, 1, 2, 0, 0, 0⟩,
        ⟨0x51, 1, 0, 0, 0, 0xF0⟩, ⟨0x52, 17, 0, 0, 4, 0⟩] : List Constraint),
      (∀ r ∈ e.regs, r.val < sA.alloc.domains) ∧ (narrowVals e sA.rdD).toBool = true := by decide +kernel
theorem test_witness_NarrowingKeepsSolutions :
    (∀ e ∈ ([⟨0x45, 1, 2, 0, 0, 0⟩, ⟨0x4A, 1, 2, 0, 0, 0⟩, ⟨0x4E, 1, 2, 3, 0, 0⟩, ⟨0x4F, 1, 2, 3, 0, 0⟩, ⟨0x50, 1, 2, 0, 0, 0⟩,
        ⟨0x51, 1, 2, 0, 0, 0x20⟩] : List Constraint), ∀ r ∈ e.regs, (sA.rdD r).has 5 = true)
    ∧ ((5 : Int) = 5 ∧ (5 : Int) ≤ 5 ∧ (5 : Int) = min 5 5 ∧ (5 : Int) = max 5 5 ∧ (5 : Int) = |5| ∧ (0x20 : Word).getLsbD 5 = true)
    ∧ (∀ e ∈ ([⟨0x46, 1, 2, 0, 0, 0⟩, ⟨0x47, 1, 2, 0, -1, 0⟩, ⟨0x48, 1, 2, 0, 0, 0⟩, ⟨0x49, 1, 2, 0, 0, 0⟩, ⟨0x4B, 5, 2, 3, 0, 0⟩,
        ⟨0x4C, 1, 5, 4, 0, 0⟩] : List Constraint), ∀ r ∈ e.regs, (sA.rdD r).has r.val = true)
    ∧ ((1 : Int) ≠ 2 ∧ (1 : Int) = 2 + (-1 : BitVec 10).toInt ∧ (1 : Int) ≠ 2 + (0 : BitVec 10).toInt ∧ (1 : Int) < 2 ∧ (5 : Int) = 2 + 3 ∧ (1 : Int) = 5 - 4) := by
  decide +kernel
theorem test_witness_DomainFailuresAndEffects : sA.guard yes = true ∧ sA.cur.hm = false ∧ (20 : R64).val < sA.alloc.domains
    ∧ clamp32 ((sA.g 1).toInt + (0 : BitVec 10).toInt) < clamp32 ((sA.g 2).toInt + (0 : BitVec 10).toInt) ∧ sA.cur.ftv ≠ 0 ∧ sA.cur.episode = none
    ∧ ∀ e ∈ [DomEff.set 20 DomReg.zero, .nclr, .nckpt cA.d ⟨1, NStat.zero⟩, .npop, .nrest, .nprop, .narrow [(3, ⟨4, 6, 7⟩)] none],
        ((sD e).ctx 9 2).episode = none ∧ ((sD e).ctx 9 2).pendDom = ⟨95, 0x100, e⟩ :: [] ∧ 95 ≤ ((sD e).core 9).step
        ∧ ((sD e).ctx 9 2).levels = ⟨1, NStat.zero⟩ :: [] ∧ ((sD e).ctx 9 2).store ≠ [] ∧ ((sD e).ctx 9 2).npe = false
        ∧ (((sD e).ctx 9 2).d[3]).meet ⟨4, 6, 7⟩ ≠ none := by decide +kernel
theorem test_witness_TrapsOfSlotForms : sA.HandlerReady
    ∧ (∀ i ∈ [Instr.tret yes, .tlbinv yes .die 1, .tlbinvAll yes .core, .movcSysRead yes 1 0x202, .movcSysWrite yes 0x208 1, .frmst yes 2, .frmld yes 2,
        .ckill yes 1], guardOf i = some yes ∧ sA.guard yes = true ∧ isPrivileged i = true)
    ∧ (∀ i ∈ [Instr.lset yes 0 1 2, .lclr yes, .aupd yes 2, .dset yes 1 2 3 0, .npop yes, .subscr yes 1 2, .unsub yes 0, .barw yes 3,
        .mma yes none 0 1 2, .mfill yes (some 4) 1 0], guardOf i = some yes ∧ sH.guard yes = true ∧ sH.cur.hm = true ∧ sH.cur.run ≠ .held ∧ sH.forbids i = true)
    ∧ (sA.rdA 1).1.toNat % 8 ≠ 0 ∧ (sA.rdA 1).1.toNat % 4 ≠ 0 ∧ (sA.rdA 1).1.toNat % 16 ≠ 0
    ∧ (sA.ea ⟨1, .disp 0x7FF⟩ 8).1.toNat % 8 ≠ 0 ∧ (sA.ea ⟨1, .disp 3⟩ 64).1.toNat % 64 ≠ 0 ∧ (sA.ea ⟨2, .idx 1⟩ 2).1.toNat % 2 ≠ 0 := by
  unfold State.HandlerReady; decide +kernel
theorem test_witness_LoadAndStoreForms : sA.guard yes = true
    ∧ (∀ m ∈ [Mem.mk 2 (.disp 0), ⟨2, .disp 0x3FF⟩, ⟨9, .idx 8⟩], sA.accessCheck (sA.ea m 8).1 8 false false = none ∧ sA.accessCheck (sA.ea m 8).1 8 true false = none)
    ∧ sA.accessCheck (sA.ea ⟨2, .disp 1⟩ 1).1 1 false false = none
    ∧ sA.accessCheck (sA.ea ⟨2, .disp 2⟩ 64).1 512 false false = none ∧ sA.accessCheck (sA.ea ⟨2, .disp 2⟩ 64).1 512 true false = none
    ∧ sA.accessCheck (sA.rdA 9).1 8 true false = none ∧ sA.accessCheck (sA.rdA 9).1 4 true false = none := by decide +kernel

theorem test_witness_LaneAndTileAccesses : sA.guard yes = true
    ∧ (∀ i ∈ List.range 128, sA.accessCheck ((sA.rdA 2).1 + BitVec.ofNat 56 ((sA.rdW 5).toNat / 2 ^ (32 * i) % 2 ^ 32)) 4 true false = none
        ∧ sA.accessCheck ((sA.rdA 2).1 + BitVec.ofNat 56 ((sA.rdW 5).toNat / 2 ^ (32 * i) % 2 ^ 32)) 4 false false = none)
    ∧ (3 : R16).val < sA.alloc.tiles ∧ shapeOk (sA.rdShape 3) = true
    ∧ sA.accessCheck (sA.ea ⟨2, .disp 1⟩ 64).1 (imageBytes (sA.rdShape 3)) false true = none
    ∧ sA.accessCheck (sA.ea ⟨2, .disp 1⟩ 64).1 (imageBytes (sA.rdShape 3)) true true = none
    ∧ (Fin.ofNat 512 (sA.g 9).toNat).val < sA.alloc.acc
    ∧ sA.accessCheck (sA.ea ⟨2, .disp 1⟩ 64).1 4096 false true = none ∧ sA.accessCheck (sA.ea ⟨2, .disp 1⟩ 64).1 4096 true true = none := by
  decide +kernel
/-- Tile shapes: m0 E4M3, m1 FP32, m2 INT32, m3 MX4, each of 32 rows and columns. -/
def sT : State := sA.modCur fun t => { t with mshp := (((t.mshp.set 1 0x51F1F).set 2 0x71F1F).set 3 0x21F1F) }
theorem test_witness_LaneAndTileAccesses_mx4 : sT.guard yes = true ∧ (3 : R16).val < sT.alloc.tiles ∧ shapeOk (sT.rdShape 3) = true ∧ shTy (sT.rdShape 3) = 2
    ∧ sT.accessCheck (sT.ea ⟨2, .disp 1⟩ 64).1 (shElems (sT.rdShape 3) / 2 + shElems (sT.rdShape 3) / 32) false true = none := by decide +kernel
theorem test_witness_OrderingFormResults : sA.guard yes = true ∧ sA.cur.hm = false ∧ sA.cur.phase[(1 : Fin 4)] ≠ (sA.bar 1).phase
    ∧ sH.guard yes = true ∧ sH.cur.hm = true
    ∧ (let s := sA.modCur fun t => { t with phase := Vector.replicate 4 3 }
       s.guard yes = true ∧ s.cur.hm = false ∧ s.cur.phase[(1 : Fin 4)] = (s.bar 1).phase) := by decide +kernel
/-- An access of one element of 8 bytes. -/
def acc1 (kind : AccKind) (a : Addr) : Access := { Access.make kind (clsMask 0) .ctx (mkElems a 8 0x1122334455667788) with id := 4 }
/-- The context with one access outstanding. -/
def sQ (kind : AccKind) (a : Addr) : State := { sA.modCur fun t => { t with accs := [acc1 kind a] } with
  dies := Vector.replicate 12 ⟨[], [⟨3, 2 ^ 40, 2 ^ 16, 0x301F1⟩]⟩ }
theorem test_witness_AccessesPerform :
    (∀ y ∈ [(AccKind.store, (0x401008 : Addr)), (.store, BitVec.ofNat 56 (2 ^ 40 + 0xFFF8)), (.load false, 0x401008), (.atom .cas .u 5 255, 0x401008)],
      (sQ y.1 y.2).findAcc 9 2 (acc1 y.1 y.2).id = some (acc1 y.1 y.2) ∧ (acc1 y.1 y.2).elems = mkElems y.2 8 0x1122334455667788
      ∧ (acc1 y.1 y.2).kind = y.1 ∧ (sQ y.1 y.2).canPerform 9 2 (acc1 y.1 y.2) 0 = true)
    ∧ isScratch 0x401008 = true ∧ isScratch (BitVec.ofNat 56 (2 ^ 40 + 0xFFF8)) = false
    ∧ (sQ .store (BitVec.ofNat 56 (2 ^ 40 + 0xFFF8))).physCtx 9 2 true (2 ^ 40 + 0xFFF8) = .ok 0x3FFF8
    ∧ (sQ (.load false) 0x401008).poisonedLoc (.vault (vaultCore 9 0x401008) (vaultOfs 0x401008)) 8 = false
    ∧ mkElems (0x401008 : Addr) 8 0x1122334455667788 = [⟨0x401008, 8, 0x1122334455667788, false, 0⟩]
    ∧ mkElems (BitVec.ofNat 56 (2 ^ 40 + 0xFFF8)) 8 0x1122334455667788 = [⟨BitVec.ofNat 56 (2 ^ 40 + 0xFFF8), 8, 0x1122334455667788, false, 0⟩] := by
  decide +kernel
/-- A global word: its load with the L1 empty and with a line of it, and an ATOM by sign. -/
theorem test_witness_AccessesPerform_global :
    let ga := BitVec.ofNat 56 (2 ^ 40 + 0xFFF8)
    isScratch ga = false ∧ (∀ kind ∈ [AccKind.load true, .load false, .atom .max .s 5 0, .atom .cas .s 5 255],
      let a := acc1 kind ga
      let s := sQ kind ga
      s.findAcc 9 2 a.id = some a ∧ a.kind = kind ∧ a.elems = [⟨ga, 8, 0x1122334455667788, false, 0⟩] ∧ s.canPerform 9 2 a 0 = true
      ∧ s.physCtx 9 2 false ga.toNat = .ok 0x3FFF8 ∧ s.physCtx 9 2 true ga.toNat = .ok 0x3FFF8 ∧ s.poisonedLoc (.mem 0x3FFF8) 8 = false
      ∧ 0x3FFF8 % 8 = 0 ∧ s.l1Find 9 0x3FFF8 = none ∧ a.acq = false ∧ a.dest = .none)
    ∧ (∀ x : CtxId, x = 2 → ((sQ (.load false) ga).ctx 9 x).run ≠ .blocked)
    ∧ (let ln : L1Line := ⟨0x3FFF8 / 64, 7, []⟩
       ((sQ (.load false) ga).modCore 9 fun k => { k with l1 := [ln] }).l1Find 9 0x3FFF8 = some ln) := by decide +kernel
theorem test_witness_AccessesPerform_canonical : sA.CanonicalMemory ∧ (sQ .store 0x401008).CanonicalMemory := by
  unfold State.CanonicalMemory; decide +kernel
/-- The core with one result due. -/
def sV (w : Wr) : State := sA.modCore 9 fun k => { k with inflight := [⟨2, 95, w, 5⟩] }
theorem test_witness_ResultsReachTheirRegisters : ∀ w ∈ [Wr.g 63 7 true, .a 15 7 false, .p 15 true, .b 7 0x80 90, .w 0 1, .sp 3, .fmt 0x55, .q 99 1],
    ((sV w).core 9).due = [⟨2, 95, w, 5⟩] ∧ ((sV w).core 9).inflight.count ⟨2, 95, w, 5⟩ = 1 ∧ (∀ id : Fin 3, w ≠ .load id.val) := by decide +kernel
theorem test_witness_ResultsReachTheirRegisters_load (w : Wr) (h : w ∈ [Wr.g 63 7 true, .a 15 7 false, .p 15 true, .b 7 0x80 90, .w 0 1, .sp 3, .fmt 0x55,
    .q 99 1]) : ∀ id, w ≠ .load id := by rintro id rfl; simp at h
theorem test_witness_ControlRegisterNumbers : (0x100 + (15 : R16).val = 0x10F) ∧ (0x208 + (7 : R8).val = 0x20F)
    ∧ (¬(0x100 ≤ 0x110 ∧ 0x110 ≤ 0x10F)) ∧ ¬(0x208 ≤ 0x210 ∧ 0x210 ≤ 0x20F) := by decide
theorem test_witness_VectorForms : sA.guard yes = true ∧ (∀ ty ∈ [VTy.i8, .i16, .i32, .u8, .u16, .u32], ty.inI = true)
    ∧ (∀ ty ∈ [VTy.f32, .f16, .bf16], ty.inF = true) ∧ (0 < 8 ∧ 8 * ([1, 255] : List Nat).length ≤ 4096 ∧ ∀ x ∈ ([1, 255] : List Nat), x < 2 ^ 8)
    ∧ 32 * (List.replicate 128 0).length ≤ 4096 := by decide +kernel
theorem test_witness_MatrixAndAccumulatorForms : sA.guard yes = true ∧ sA.cur.hm = false
    ∧ (∀ opc ∈ [1, 2, 3], sA.cur.cursor = none ∧ stepK sA.rdFmt = some 16
        ∧ sA.newCursor opc 4 0 1 16 = some ⟨opc, 4, 0, 1, 32, 32, 32, 16, 1, 2, 2, 0⟩ ∧ (4 : Q512).val + 0 / 2 < sA.alloc.acc)
    ∧ (let c : Cursor := ⟨1, 99, 0, 1, 32, 32, 32, 16, 1, 2, 2, 1⟩
       let s := sA.modCur fun t => { t with cursor := some c }
       s.guard yes = true ∧ s.cur.hm = false ∧ s.cur.cursor = some c ∧ c.pos ≠ c.count ∧ c.q.val + c.pos / c.nk < s.alloc.acc)
    ∧ (99 : Q512).val < sA.alloc.acc ∧ (stepK sA.rdFmt).isSome = true ∧ (3 : R16).val < sA.alloc.tiles ∧ shapeOk (sA.rdShape 3) = true
    ∧ fmtInt sA.rdFmt = false ∧ shTy (sA.rdShape 3) = 0 ∧ fmtInt 0x166 = true ∧ (stepK 0x166).isSome = true ∧ shTy 0x71F1F = 7 := by decide +kernel
theorem test_witness_IntegerMatrixStepIsExact : fmtInt 0x166 = true ∧ fmtSat 0x166 = false := by decide
theorem test_witness_TileFormResults : sT.guard yes = true ∧ sT.cur.hm = false ∧ sT.tilesOk [0, 1] = true ∧ sT.tilesOk [2, 3] = true
    ∧ sT.tilesOk [3, 3] = true ∧ sT.tilesOk [0, 0] = true ∧ shTy (sT.rdShape 0) ≠ 2 ∧ shRows (sT.rdShape 0) = shCols (sT.rdShape 0)
    ∧ (99 : Q512).val < sT.alloc.acc ∧ shTy (sT.rdShape 0) = Dt.e4m3.code ∧ shRows (sT.rdShape 0) ≤ 32 ∧ shCols (sT.rdShape 0) ≤ 32
    ∧ shTy (sT.rdShape 1) = 5 ∧ shTy (sT.rdShape 2) = 7 ∧ shTy (sT.rdShape 3) = 2 ∧ shCols (sT.rdShape 3) = 32 ∧ shRows (sT.rdShape 3) ≤ 32
    ∧ (mx4Index sT.rdSct []).isSome = true := by decide +kernel

/-- A card in the own vault, at a2. -/
def job1 (kind : JobKind) : Job := ⟨0, kind, 9, 2, 0x401000, none, none, none, 4000, 0x100, [], 0, none, false, false, false⟩
theorem test_witness_FormatAndQueryForms :
    let ea := (sA.rdA 2).1
    let s := { sA with jobs := [job1 .copy] }
    sA.guard yes = true ∧ ea.toNat % 64 = 0 ∧ isScratch ea = true ∧ vaultCore sA.env.core ea = sA.env.core ∧ sA.myJobs false = 0
    ∧ sA.cardOk ea 64 64 = true ∧ ((sA.cardJob ea).any fun j => j.ctx == sA.env.ctx) = false ∧ sA.cur.hm = false
    ∧ s.guard yes = true ∧ s.cardOk ea 64 64 = true ∧ ((s.cardJob ea).any fun j => j.ctx == s.env.ctx) = true := by decide +kernel
theorem test_witness_JobFormsStartJobs :
    let ea := (sA.rdA 2).1
    let s := { sA with jobs := [job1 .icopy] }
    sA.guard yes = true ∧ sA.cardOk ea 64 64 = true ∧ sA.cardBusy ea = false ∧ sA.myJobs true < sA.alloc.queue1 ∧ sA.myJobs false < sA.alloc.queue3
    ∧ s.guard yes = true ∧ s.cardOk ea 64 64 = true ∧ s.cardJob ea ≠ none ∧ s.HandlerReady
    ∧ (let u : Sub := ⟨2, ea.toNat, 0, 0, 0, Vector.replicate 5 0, 1, 0, [], 0, 0, 0, 0, [], [], [], 0, none⟩
       let s := sA.modCore 9 fun k => { k with subs := k.subs.set 3 (some u) }
       s.guard yes = true ∧ s.cardOk ea 64 64 = true ∧ (s.core s.env.core).subs[(3 : Fin 4)] = some u ∧ u.card = ea.toNat ∧ s.HandlerReady) := by
  unfold State.HandlerReady; decide +kernel
/-- A ring of two slots of 64 bytes, declared on ring 1. -/
def rg : RingDecl := ⟨0x3000, 2, 64⟩
/-- Its subscription: runs of 32 bytes, 64 bytes apart, 4 of them. -/
def ub : Sub := ⟨2, 0x402000, 0, BitVec.ofNat 56 (2 ^ 40), BitVec.ofNat 56 (2 ^ 40 + 0x200), #v[0, 0, BitVec.ofNat 64 (32 + 2 ^ 24 * 3), 64, 0], 1, 0,
  [.empty, .empty], 0, 0, 0, 0, [], [], [], 0, none⟩
/-- The core with that subscription. -/
def sU (u : Sub) : State := { sA.modCore 9 fun k => { k with rings := k.rings.set 1 (some rg), subs := k.subs.set 1 (some u) } with
  dies := Vector.replicate 12 ⟨[], [⟨3, 2 ^ 40, 2 ^ 16, 0x301F1⟩]⟩ }
theorem test_witness_RingForms : ∀ y ∈ [(ub, SlotState.full, SlotState.empty), ({ ub with mode := 1 }, .empty, .finished), ({ ub with mode := 2 }, .full, .finished)],
    let u : Sub := { y.1 with slots := [y.2.1, .full] }
    (sU u).guard yes = true ∧ (sU u).cur.hm = false ∧ ((sU u).core 9).subs[(1 : Fin 4)] = some u ∧ u.owner = (sU u).env.ctx ∧ u.ending = none ∧ u.endCode = none
    ∧ ((sU u).core 9).rings[(1 : Fin 4)] = some rg ∧ 0 < rg.n ∧ u.slots.getD u.cursor .empty = y.2.1
    ∧ (y.2.1, y.2.2) = (if u.mode = 0 then (SlotState.full, SlotState.empty) else if u.mode = 1 then (.empty, .finished) else (.full, .finished)) := by
  decide +kernel
/-- The pieces of the next tile a subscription loads, and of the tile it stores. -/
def loads (u : Sub) : List (Nat × Nat × Nat × Nat) := u.pieces (fun run => rg.slotData (u.tile % rg.n) + run * cardLen0 u.im) u.loaded
def stores (u : Sub) (k : Nat) : List (Nat × Nat × Nat × Nat) := u.pieces (fun run => (u.runAddr u.dst k run).toNat) u.put
theorem test_witness_RingForms_loader : ∀ y ∈ [([], false), ([2], false), ([0, 1, 2, 3], true)],
    let u : Sub := { ub with loaded := y.1 }
    u.mode ≠ 1 ∧ u.ending = none ∧ (sU u).loadPaused 9 u = false ∧ u.tile < u.tiles
    ∧ u.slots.getD (u.tile % rg.n) .full = .empty ∧ (sU u).flagDone 9 u rg (u.tile % rg.n) = true ∧ (y.2 = true ↔ loads u = [])
    ∧ ∀ p ∈ loads u, (match (sU u).engLocs 9 u.owner false (u.runAddr u.src u.tile p.2.1 + BitVec.ofNat 56 p.2.2.1) p.2.2.2 with
      | .ok l => l.all fun x => !(sU u).poisonedLoc x 1
      | .error _ => false) = true := by decide +kernel
theorem test_witness_RingForms_storer :
    let u : Sub := { ub with mode := 2, slots := [.finished, .full], ending := some 5 }
    u.mode ≠ 0 ∧ u.ending = some 5 ∧ (sU u).affected ((sU u).core 9).alloc.part = false ∧ u.pulled < u.tiles
    ∧ u.slots.getD (u.pulled % rg.n) .empty = .finished ∧ (sU u).flagDone 9 u rg (u.pulled % rg.n) = true
    ∧ (∀ b < rg.z, (sU u).poisonedLoc (.vault 9 (rg.slotData (u.pulled % rg.n) + b)) 1 = false) := by decide +kernel
theorem test_witness_RingForms_write : ∀ y ∈ [([], false), ([3], false), ([0, 1, 2, 3], true)],
    let u : Sub := { ub with mode := 2, held := [(1, List.replicate 32 7)], put := y.1 }
    u.held = (1, List.replicate 32 7) :: [] ∧ (y.2 = true ↔ stores u 1 = [])
    ∧ ∀ p ∈ stores u 1, (sU u).engLocs 9 u.owner true (u.runAddr u.dst 1 p.2.1 + BitVec.ofNat 56 p.2.2.1) p.2.2.2
        = .ok ((List.range p.2.2.2).map fun i => Loc.mem (0x30240 + p.2.2.1 + i)) := by decide +kernel
theorem test_witness_RingForms_end : ({ ub with acks := 4 } : Sub).endCode = some 1 ∧ ({ ub with ending := some 4 } : Sub).endCode = some 4
    ∧ (∀ i < rg.n, (sU { ub with acks := 4 }).flagDone 9 { ub with acks := 4 } rg i = true)
    ∧ (ub.card % 2 ^ 22 + 0x38 + 8 ≤ rg.o ∨ rg.o + 8 * rg.n ≤ ub.card % 2 ^ 22 + 0x38) := by decide +kernel
theorem test_witness_RingForms_canonical : (sU ub).CanonicalMemory := by unfold State.CanonicalMemory; decide +kernel

/-- A space of group 5 with the positive functions of its variables 0 to 2. -/
def sp0 : Space := ⟨5, 2 ^ 40, 5000, 3, 20, [⟨2, 0, 0, 1, 1⟩, ⟨3, 1, 0, 1, 1⟩, ⟨4, 2, 0, 1, 1⟩], [0, 1, 2], 0, 0, 0, 0, 0, 0, []⟩
/-- An operation of context 2 in entry 2 of its core's queue. -/
def dd0 : DdEntry := ⟨2, 0x21, 0, 0, 2, 3, some 0x2000, 4, 77, false, false, none, 0⟩
/-- The state with that space and operation. -/
def sB (d : DdEntry) : State := { sA.modCore 9 fun k => { k with ddq := k.ddq.set 2 (some d) } with
  spaces := [sp0]
  dies := Vector.replicate 12 ⟨[], [⟨3, 2 ^ 40, 2 ^ 21, 0x2001F5⟩]⟩ }
theorem test_witness_BrackenForms :
    let s := { sA with spaces := [sp0] }
    let ea := (s.rdA 2).1
    s.guard yes = true ∧ s.spaceOf s.env.core = some sp0 ∧ (s.g 1).toNat < sp0.nvars ∧ (s.core 9).freeEntry = some 0
    ∧ ((s.core 9).ddq.toList.filter fun e => (e.map fun q => q.ctx == s.env.ctx).getD false).length < s.alloc.queue2
    ∧ s.cardOk ea 16 (16 + 0) = true ∧ s.cardOk ea 16 (16 + 64) = true ∧ s.cardOk ea 16 (16 + 2 * sp0.nvars) = true
    ∧ ((s.core 9).ddq.toList.any fun e => (e.map fun q => q.ctx == s.env.ctx && q.rcd == some (vaultOfs ea)).getD false) = false := by
  decide +kernel
theorem test_witness_BrackenForms_events :
    (∀ y ∈ [(0x29, [], none), (0x2E, [], none), (0x2B, [], none), (0x29, [0x200020 / 64], some 4)],
      let d : DdEntry := { dd0 with opc := y.1 }
      let s := { sB d with gpoison := y.2.1 }
      let pages := s.poolCheck 9 d.ctx sp0 (d.touched sp0 (ddDo (s.core 9) 9 d (sp0, s.choices, 0)).work.1)
      s.spaceOf 9 = some sp0 ∧ s.offered 9 = some (2, d) ∧ s.inEngine sp0.group = [] ∧ (d.barrier = true ↔ y.1 = 0x2B) ∧ pages = (y.2.2, false)
      ∧ (ddDo (s.core 9) 9 d (sp0, s.choices, 0)).full = false)
    ∧ (let d : DdEntry := { dd0 with accepted := true, result := some (1, 5, 9) }
       ((sB d).core 9).ddq[2] = some d ∧ d.result = some (1, 5, 9) ∧ d.rcd = some 0x2000 ∧ memWf ((sB d).core 9).vault = true)
    ∧ (let d : DdEntry := { dd0 with accepted := true, abandoned := true }
       ((sB d).core 9).ddq[2] = some d ∧ d.abandoned = true ∧ d.accepted = true ∧ ((sB d).ctx 9 d.ctx).run ≠ .halted) := by decide +kernel
theorem test_witness_BrackenForms_earliest : ∀ j : R16, ((sB { dd0 with accepted := true, abandoned := true }).core 9).ddq[j]
    = if j = 2 then some { dd0 with accepted := true, abandoned := true } else none := by decide +kernel
theorem test_witness_DecisionDiagramsEvaluate : ∀ b : Bdd, b = .node 0 (.leaf false) (.node 2 (.leaf true) (.leaf false)) ∨ b = .leaf true ∨ b = .node 1 (.leaf true) (.leaf false) →
    b.ordered := by
  rintro b (rfl | rfl | rfl) <;> simp [Bdd.ordered, Bdd.level]
theorem test_witness_PrivilegedFormResults :
    let ea := (sH.rdA 2).1
    sH.guard yes = true ∧ sH.cur.hm = true ∧ sH.cardOk ea 64 sH.cur.frame.bytes.length = true
    ∧ (let s := sH.modCore 9 fun k => { k with vault := [(0x1007, 0x80)] }
       s.guard yes = true ∧ s.cur.hm = true ∧ s.cardOk ea 64 256 = true ∧ leNat (((s.forwarded ea 256).drop 12).take 4) = 0
       ∧ s.poisonedLoc (.vault s.env.core (vaultOfs ea)) (256 + 0) = false ∧ (Frame.ofBytes (s.forwarded ea 256) (s.forwarded (ea + 256) 0)).isSome = true)
    ∧ (let s := sH.modCur fun t => { t with g := t.g.set 5 ⟨(ctxUnit 9 2).setWidth 64, false⟩ }
       s.guard yes = true ∧ s.cur.hm = true ∧ (s.core s.env.core).allot = some al ∧ (s.g 5).toNat % 2 ^ 20 = (ctxUnit s.env.core s.env.ctx).toNat
       ∧ al.cmask.getLsbD (s.env.core.val % 8) = true ∧ s.env.ctx.val < al.nctx) := by decide +kernel
theorem test_witness_ClockingEvents : sA.guard yes = true ∧ (7 : R8).val = min (sA.g 3).toNat 7 ∧ (4 : R8).val = min (sA.g 2).toNat 7
    ∧ (let s := sA.modCore 9 fun k => { k with opp := ⟨0, 6, 3, true, 5⟩, stretch := 1, split := 1 }
       let k := s.core 9
       k.opp.set = true ∧ k.opp.rem = 0 ∧ (2 : R8) < k.opp.tgt ∧ k.opp.tgt ≤ (3 : R8) ∧ k.stretch = 1 ∧ k.split = 1) := by decide +kernel
/-- The state at a temperature, with a threshold of 50. -/
def sK (t : Int) : State := { sA with
  layout := { Layout.reset with ths := 50 }
  heaths := sA.heaths.map fun (h : Heath) => { h with temp := t }
  mon := { Monitor.reset with capTick := some 5 } }
theorem test_witness_HeatEvents : (sA.heaths[(23 : Fin 24)]).group = none ∧ (sA.heaths[(23 : Fin 24)]).gated = false
    ∧ (sK 51).allHot = true ∧ (sK 51).mon.noMigrate = false ∧ (sK 48).allHot = false ∧ (sK 46).allCool = true ∧ (sK 46).allHot = false
    ∧ (sK 47).allCool = false ∧ (sK 47).allHot = false ∧ (sK 47).mon.capTick ≠ none := by decide +kernel
/-- A partition of heaths 1 and 2. -/
def p0 : Partition := ⟨0x6, 1, true, Vector.replicate 12 0, Vector.replicate 12 0, 2, 0, 0x8, 1000, Vector.replicate 4 0, 0, false, [], none,
  [(3, ⟨5, 4, true⟩), (4, ⟨5, 5, true⟩), (5, ⟨5, 5, false⟩)]⟩
/-- A layout of that partition. -/
def lay0 : Layout := ⟨7, 3500000, 100, 50, [p0], []⟩
theorem test_witness_WatchEvents :
    let s := { sA with layout := lay0 }
    s.part 0 = some p0 ∧ (∀ c : CoreId, p0.heaths.getLsbD (coreHeath c).val = true → (s.core c).beat.misses + 1 < 2) := by decide +kernel
theorem test_witness_WatchEvents_halt :
    let s := { sA with layout := lay0 }.modCore 9 fun k => { k with beat := ⟨Vector.replicate 4 none, false, 1, some 10⟩, freezeLeft := 40, freezeWhy := .domain }
    s.part 0 = some p0 ∧ p0.heaths.getLsbD (coreHeath 9).val = true ∧ (s.core 9).beat.seen = false ∧ s.watchedNow 9 p0.hbi.toNat = true
    ∧ 2 ≤ (s.core 9).beat.misses + 1 ∧ (∀ c : CoreId, c ≠ 9 → (s.core c).beat.misses + 1 < 2) ∧ (s.core 9).stretch = 0 ∧ (s.core 9).splitAt = none ∧ 0 < (s.core 9).freezeLeft
    ∧ (s.core 9).freezeWhy = .domain := by decide +kernel
theorem test_witness_WatchEvents_probes :
    let s := { sA with layout := lay0, probes := [⟨5, 5, 64⟩], probed := [(7, 4899, false)] }
    (s.probed.find? fun e => e.1 == 7) = some (7, 4899, false) ∧ 4899 + s.layout.probe.toNat < s.cyc.toNat ∧ s.probes = (⟨5, 5, 64⟩ : Probe) :: []
    ∧ 8 < s.tqFree ∧ s.HostIdle ∧ s.hub.deferred = [] ∧ memWf s.hmem = true ∧ (⟨5, 6, 63⟩ : Probe).target ≠ (⟨5, 6, 63⟩ : Probe).origin := by
  unfold State.HostIdle State.PortIdle; decide +kernel
/-- The context blocked. -/
def sW (b : Blocks) : State := sA.modCtx 9 2 fun t => { t with run := .blocked, blocks := b, faults := [⟨0x18, 0x1234, 1, 0x100, 3⟩] }
theorem test_witness_WakingAndBarriers :
    (∀ b ∈ [Blocks.mk (some (.sleep 5000)) none, ⟨some (.sleep 5000), some 1⟩, ⟨none, some 1⟩],
      ((sW b).ctx 9 2).run = .blocked ∧ ((sW b).ctx 9 2).stopping = false ∧ ((sW b).ctx 9 2).promiseT = none
      ∧ ((sW b).ctx 9 2).blocks = b ∧ ((sW b).ctx 9 2).phase[(1 : Fin 4)] ≠ (((sW b).heaths[coreHeath 9]).bars[(1 : Fin 4)]).phase
      ∧ (((sW b).heaths[coreHeath 9]).bars[(1 : Fin 4)]).relTick + 4 ≤ (sW b).cyc.toNat ∧ (5000 : Word).toNat ≤ (sW b).cyc.toNat)
    ∧ (let a : Access := { Access.make (.bara 1) 0 .heath unitElem with id := 4, allRel := true }
       let s := sA.modCur fun t => { t with accs := [a] }
       s.findAcc 9 2 a.id = some a ∧ a.kind = .bara 1 ∧ a.elems = unitElem ∧ s.canPerform 9 2 a 0 = true) := by decide +kernel
theorem test_witness_PendingFaultsAreDelivered :
    let s := sW ⟨none, some 1⟩
    let u := s.ctx 9 2
    u.hm = false ∧ u.run = .blocked ∧ u.faults = (⟨0x18, 0x1234, 1, 0x100, 3⟩ : PendFault) :: [] ∧ u.thv ≠ 0 ∧ (s.core 9).markOk u.thv = true
    ∧ fatalCause 0x18 = false ∧ memReadN (s.core 9).ispad u.pc.toNat 2 = 0
    ∧ memReadN ({ s.core 9 with ispad := [(0x100, 2)] } : Core).ispad u.pc.toNat 2 ≠ 0 := by decide +kernel

/-- A copy card of two runs of 16 bytes in the vault. -/
def imCopy : BitVec 512 := BitVec.ofNat 512 (0x400000 + 2 ^ 64 * 0x400100 + 2 ^ 128 * 16)
/-- A code card of 128 bytes from global memory to 0x20000. -/
def imCode : BitVec 512 := BitVec.ofNat 512 (2 ^ 40 + 2 ^ 64 * 0x20000 + 2 ^ 128 * 128)
/-- A card of an invalidation of 128 bytes. -/
def imInv : BitVec 512 := BitVec.ofNat 512 (2 ^ 40 + 2 ^ 64 * 128)
/-- The state with one job. -/
def sJ (j : Job) : State := { sA with
  jobs := [j]
  dies := Vector.replicate 12 ⟨[], [⟨3, 2 ^ 40, 2 ^ 16, 0x301F1⟩]⟩
  gmem := [(0x30000, 1), (0x30041, 2)] }
theorem test_witness_JobsEnd :
    (let j : Job := { job1 .copy with image := some imCopy, status := some 5 }
     (sJ j).job 0 = some j ∧ j.kind = .copy ∧ j.ended = false ∧ j.status = some 5)
    ∧ (let j : Job := { job1 .copy with image := some imCopy, moved := [0, 1] }
       (sJ j).job 0 = some j ∧ j.ended = false ∧ j.status = none ∧ j.image ≠ none ∧ j.allMoved = true)
    ∧ (∀ k ∈ [JobKind.icopy, .icinv], let j : Job := { job1 k with image := some imCode, status := some 255 }
       (sJ j).job 0 = some j ∧ j.kind = k ∧ (sJ j).loadTurn j = true ∧ j.status = some 255) := by decide +kernel
theorem test_witness_JobsEnd_code : ∀ y ∈ [(JobKind.icopy, imCode), (.icinv, imInv)],
    let j : Job := { job1 y.1 with image := some y.2 }
    (sJ j).job 0 = some j ∧ j.kind = y.1 ∧ (sJ j).loadTurn j = true ∧ j.status = none
    ∧ (∀ l < 2, (match (sJ j).engLoc j.core j.ctx false (BitVec.ofNat 56 (cardW j.im 0 + 64 * l)) with
        | .ok (.mem p) => decide (p = 0x30000 + 64 * l)
        | _ => false) = true)
    ∧ (∀ q ∈ (sJ j).jobs, q.core = j.core → q.kind ≠ .copy → q.ended = true ∨ q.id = 0) ∧ memWf ((sJ j).core j.core).ispad = true
    ∧ (y.1 = .icopy → cardW j.im 2 % 2 ^ 32 = 64 * 2) ∧ (y.1 = .icinv → cardW j.im 1 = 64 * 2)
    ∧ (∀ l < 2, (0x30000 + 64 * l) % 64 = 0 ∧ (sJ j).poisonedLoc (.mem (0x30000 + 64 * l)) 64 = false
        ∧ ∀ e ∈ ((sJ j).dies[coreDie j.core]).icache, e.line ≠ (0x30000 + 64 * l) / 64) := by decide +kernel
theorem test_witness_JobsEnd_canonical : (sJ (job1 .copy)).CanonicalMemory := by unfold State.CanonicalMemory; decide +kernel

/-- A walk of page 2^40 in address space 3. -/
def wk : Walk := ⟨1, 3, 2 ^ 24, 55, false, false⟩
/-- Page tables of four levels whose leaf for that page is `leaf`. -/
def ptm (leaf : Nat) : Memory :=
  memWriteN (memWriteN (memWriteN (memWriteN [] 0x8000 8 0xA003) (0xA000 + 128) 8 0xC003) 0xC000 8 0xE003) 0xE000 8 leaf
/-- The state with those walks and tables. -/
def sP (l : List Walk) (leaf : Nat) : State := { sA with
  gmem := ptm leaf
  roots := sA.roots.set 3 0x8000
  hub := { sA.hub with walks := l, tqbase := 0x10000 } }
/-- What that walk finds. -/
def found (leaf : Nat) : Xlat := walkFrom (ptm leaf) (wk.page * 65536) 4 ((sP [wk] leaf).rootOf wk.asid).toNat
theorem test_witness_WalksRepliesAndTrapQueue : (sP [wk] 0x301F1).hub.walks[0]? = some wk ∧ wk.faulted = false ∧ (sP [wk] 0x301F1).walking 0 = true
    ∧ (∀ c x, ((sP [wk] 0x301F1).ctx c x).run ≠ .blocked) ∧ 8 < (sP [wk] 2).tqFree ∧ (sP [wk] 2).HostIdle ∧ (sP [wk] 2).hub.deferred = []
    ∧ ((sP [wk] 2).hub.walks.any fun v => v.asid == wk.asid && v.page == wk.page && v.reported) = false
    ∧ ((sP [wk, { wk with faulted := true, reported := true }] 2).hub.walks.any fun v => v.asid == wk.asid && v.page == wk.page && v.reported) = true := by unfold State.HostIdle State.PortIdle; decide +kernel
theorem test_witness_WalksRepliesAndTrapQueue_ends : found 0x301F1 = .leaf 0x301F1 (2 ^ 40) (2 ^ 16) ∧ found 2 = .fault true ∧ found 0 = .fault false := by
  decide +kernel
theorem test_witness_WalksRepliesAndTrapQueue_reply :
    (∀ w ∈ (sP [wk] 2).hub.walks, ¬((decide (w.asid.toNat = (3 : Fin 96).val) && decide (w.page = (BitVec.ofNat 56 (2 ^ 40)).toNat / 65536)) = true ∧ w.faulted = true))
    ∧ (∃ w ∈ (sP [{ wk with faulted := true }] 2).hub.walks, (decide (w.asid.toNat = (3 : Fin 96).val)
        && decide (w.page = (BitVec.ofNat 56 (2 ^ 40 + 0xFFFF)).toNat / 65536)) = true ∧ w.faulted = true) := by decide +kernel
/-- A trap record that waits. -/
def tr0 : TrapRec := ⟨1, 0x19, 3, 0, 77, 4, 0xABC, 5, 6, 7⟩
theorem test_witness_WalksRepliesAndTrapQueue_queue :
    let s := { sA with hub := { sA.hub with deferred := [{ tr0 with kind := 2 }, tr0], tqbase := 0x10000, tqtail := 1018, tqhead := 0 } }
    s.hub.deferred.find? s.tqRoom = some tr0 ∧ s.HostIdle ∧ memWf s.hmem = true
    ∧ ((1018 : BitVec 32) - s.hub.tqhead).toNat ≤ (s.hub.tqtail - s.hub.tqhead).toNat
    ∧ (s.hub.tqtail - s.hub.tqhead).toNat < ((1019 : BitVec 32) - s.hub.tqhead).toNat := by unfold State.HostIdle State.PortIdle; decide +kernel

/-! ### The dispatcher, the host and the links -/

/-- A record's bytes from its fields: offset and value. -/
def w64 (l : List (Nat × Nat)) : BitVec 512 := BitVec.ofNat 512 (l.foldl (fun a p => a + p.2 * 2 ^ (8 * p.1)) 0)
/-- The fields a record without a job control block begins with. -/
def nojcb (kind : Nat) : List (Nat × Nat) := [(0, kind), (4, 0xFFFFFFFF), (8, 0x8000)]
/-- A SIGNAL. -/
def rSignal (fl vec jcb comp : Nat) : BitVec 512 :=
  w64 [(0, 3), (1, fl), (2, vec), (4, jcb), (8, comp), (0x10, 0x9000), (0x18, 0x1122334455667788)]
/-- A LAUNCH of the image at 2^40. -/
def rLaunch (pool jcb : Nat) : BitVec 512 := w64 [(0, 1), (4, jcb), (8, 0x8000), (0x10, 2 ^ 40), (0x18, pool), (0x28, 0xABCD)]
/-- A WAIT on a word, and one on a job control block. -/
def rWait : BitVec 512 := w64 (nojcb 4 ++ [(0x10, 0x9100), (0x18, 5)])
def rWaitJcb : BitVec 512 := w64 (nojcb 4 ++ [(0x20, 4), (0x24, 1)])
/-- A JCB_INIT, a JCB_RAISE and a COPY of 128 bytes. -/
def rInit : BitVec 512 := w64 (nojcb 5 ++ [(0x10, 3), (0x14, 77)])
def rRaise (n : Nat) : BitVec 512 := w64 (nojcb 6 ++ [(0x10, 3), (0x14, n)])
def rCopy : BitVec 512 := w64 (nojcb 2 ++ [(0x10, 2 ^ 60), (0x18, 2 ^ 60 + 640), (0x20, 128)])
/-- A record of queue 7. -/
def mkR (id : Nat) (b : BitVec 512) (beg head : Bool) (code : Option Nat) (moved : List Nat) : Record :=
  ⟨id, 7, b, code, false, false, moved, beg, head, false⟩
/-- An image header: one heath, one core mask 5, two contexts. -/
def hdr0 : BitVec 2048 :=
  let v := ([(0, 0x3639504B), (4, 1), (6, 256), (8, 8192), (0x10, 0x100), (0x14, 64), (0x18, 0x10), (0x1C, 0x14), (0x28, 1), (0x29, 5), (0x2A, 2), (0x2B, 1),
    (0x2C, 0x10000), (0x30, 16), (0x32, 2), (0x33, 8), (0x34, 16), (0x38, 99), (0x40, 0x1000004)] : List (Nat × Nat)).foldl (fun a p => a + p.2 * 2 ^ (8 * p.1)) 0
  BitVec.ofNat 2048 (v + 2992721979 * 2 ^ (8 * 0xF8))
/-- The state with queue 7 of function 3 and its records; host memory holds the words `hm`, global memory the header `h`. -/
def sR (h : BitVec 2048) (hm : List (Nat × BitVec 512)) (rs : List Record) (cancel : Bool) : State := { sA with
  layout := lay0
  queues := sA.queues.set 7 ⟨0x5000, 9, 2, 6, 1, cancel, false, some 3, 0, true, none⟩
  records := rs
  nextRec := 20
  roots := sA.roots.set 3 0x8000
  gmem := memWriteN (ptm 0x301F1) 0x30000 256 h.toNat
  hmem := hm.foldl (fun m p => memWriteN m p.1 64 p.2.toNat) [(0x9100, 6)]
  heaths := State.reset.heaths
  hub := { sA.hub with vectors := sA.hub.vectors.set 3 ((Vector.replicate 64 ⟨0x9200, 0xDEADBEEF, false, false⟩).set 5 ⟨0x9200, 0xDEADBEEF, true, true⟩) } }
theorem test_witness_QueueEvents_launch :
    let b := rLaunch 0 0xFFFFFFFF
    let s := sR hdr0 [(0x5000 + 128, b)] [] false
    s.headRec 7 = b ∧ s.mayDispatch 7 = true ∧ s.hasWork 7 = true ∧ s.waitingAt 7 = none ∧ recBad (s.queues[(7 : Fin 4096)]).mgmt b = false
    ∧ (s.queues[(7 : Fin 4096)]).cancel = false := by decide +kernel
theorem test_witness_QueueEvents_signal :
    let b := rSignal 0 0 0xFFFFFFFF 0x8000
    let s := sR hdr0 [(0x5000 + 128, b)] [] false
    s.headRec 7 = b ∧ s.mayDispatch 7 = true ∧ s.hasWork 7 = true ∧ s.waitingAt 7 = none ∧ recBad (s.queues[(7 : Fin 4096)]).mgmt b = false
    ∧ (s.queues[(7 : Fin 4096)]).cancel = false := by decide +kernel
theorem test_witness_QueueEvents_bad :
    (let b := rSignal 8 0 0xFFFFFFFF 0x8000
     let s := sR hdr0 [(0x5000 + 128, b)] [] false
     s.headRec 7 = b ∧ s.mayDispatch 7 = true ∧ s.hasWork 7 = true ∧ s.waitingAt 7 = none ∧ (∀ y ∈ s.records, y.id < s.nextRec)
     ∧ recBad (s.queues[(7 : Fin 4096)]).mgmt b = true)
    ∧ (let b := rSignal 0 0 0xFFFFFFFF 0x8000
       let s := sR hdr0 [(0x5000 + 128, b)] [] true
       s.headRec 7 = b ∧ s.mayDispatch 7 = true ∧ s.hasWork 7 = true ∧ s.waitingAt 7 = none ∧ recBad (s.queues[(7 : Fin 4096)]).mgmt b = false
       ∧ (s.queues[(7 : Fin 4096)]).cancel = true ∧ recClean b = false ∧ recJcb b = none)
    ∧ (let b := rSignal 4 0 0xFFFFFFFF 0x8000
       let s := sR hdr0 [(0x5000 + 128, b)] [] true
       s.headRec 7 = b ∧ (s.queues[(7 : Fin 4096)]).cancel = true ∧ recClean b = true ∧ recBad (s.queues[(7 : Fin 4096)]).mgmt b = false) := by decide +kernel
theorem test_witness_RecordsComplete : ∀ y ∈ [(3, rSignal 0 0 0xFFFFFFFF 0), (4, rWait), (4, rWaitJcb), (5, rInit), (2, rCopy)],
    let x := mkR 3 y.2 false false none []
    let s := sR hdr0 [] [x] false
    s.running 3 y.1 = some x ∧ s.HostIdle ∧ memWf s.hmem = true ∧ s.queuePart x.queue = some 0 ∧ 0 < s.layout.parts.length ∧ recJcb x.body = none
    ∧ (y.1 = 4 → s.waitMet x.queue x.body = true) := by unfold State.HostIdle State.PortIdle; decide +kernel
theorem test_witness_RecordsComplete_ends : ∀ y ∈ [(4, mkR 3 rWaitJcb false false (some 2) []), (2, mkR 3 rCopy true false none [0, 1]),
      (2, mkR 3 rCopy true false (some 4) [])],
    let s := sR hdr0 [] [y.2] false
    s.running 3 y.1 = some y.2 ∧ s.HostIdle ∧ memWf s.hmem = true ∧ s.queuePart y.2.queue = some 0 ∧ 0 < s.layout.parts.length ∧ recJcb y.2.body = none
    ∧ (y.2.code = none → y.2.begun = true ∧ ∀ k < recN y.2.body 0x20 8 / 64, k ∈ y.2.moved) := by unfold State.HostIdle State.PortIdle; decide +kernel
theorem test_witness_RecordsComplete_raise : ∀ p ∈ [(7, false, true), (0xFFFFFFFA, false, true), (0xFFFFFFFB, false, false), (7, true, false)],
    let y : Record := { mkR 1 (rLaunch 0 3) true false none [] with posted := p.2.1 }
    let x := mkR 3 (rRaise p.1) false false none []
    let s := sR hdr0 [] [y, x] false
    s.running 3 6 = some x ∧ s.HostIdle ∧ memWf s.hmem = true ∧ s.queuePart x.queue = some 0 ∧ recJcb x.body = none
    ∧ s.producer x (recN x.body 0x10 4) = some y
    ∧ (p.2.2 = true ↔ y.posted = false ∧ (s.jcbOf x.queue (recN x.body 0x10 4)).expect.toNat + recN x.body 0x14 4 < 2 ^ 32) := by
  unfold State.HostIdle State.PortIdle; decide +kernel
theorem test_witness_RecordsComplete_posts : ∀ j ∈ [(3, true), (5, false)],
    let x := mkR 3 (rSignal 0 0 j.1 0x8000) false false none []
    let s := sR hdr0 [] [x] false
    s.running 3 3 = some x ∧ s.queuePart x.queue = some 0 ∧ 0 < s.layout.parts.length ∧ recJcb x.body = some j.1 ∧ s.HostIdle ∧ memWf s.hmem = true
    ∧ recComp x.body ≠ 0 ∧ recIntr x.body = false
    ∧ (j.2 = true ↔ (s.jcbOf x.queue j.1).done.toNat + 1 ≤ (s.jcbOf x.queue j.1).expect.toNat) := by unfold State.HostIdle State.PortIdle; decide +kernel
theorem test_witness_RecordsComplete_jcb : ∀ y ∈ [(4, mkR 3 (w64 [(0, 4), (4, 3), (0x20, 4), (0x24, 1)]) false false (some 2) []),
      (2, mkR 3 (w64 [(0, 2), (4, 3), (0x10, 2 ^ 60), (0x18, 2 ^ 60 + 640), (0x20, 128)]) true false (some 1) [0, 1])],
    let s := sR hdr0 [] [y.2] false
    s.running 3 y.1 = some y.2 ∧ s.queuePart y.2.queue = some 0 ∧ 0 < s.layout.parts.length ∧ recJcb y.2.body = some 3 ∧ y.2.code ≠ none
    ∧ (s.jcbOf y.2.queue 3).done.toNat + 1 ≤ (s.jcbOf y.2.queue 3).expect.toNat := by decide +kernel
theorem test_witness_RecordsComplete_interrupts : ∀ v ∈ [(5, true), (63, false)],
    let x := mkR 3 (rSignal 2 v.1 3 0x8000) false false none []
    let s := sR hdr0 [] [x] false
    s.running 3 3 = some x ∧ recJcb x.body = some 3 ∧ (s.queues[x.queue]).owner = some 3 ∧ recIntr x.body = true ∧ s.hub.resets = []
    ∧ ((s.hub.vectors[(3 : Fin 97)])[recVector x.body]).mask = v.2 ∧ ((s.hub.vectors[(3 : Fin 97)])[recVector x.body]).addr ≠ 0 := by decide +kernel
/-- A group of record 3. -/
def g3 (ph : GroupPhase) (hs : List (Fin 24)) (code : Option Nat) : Group := ⟨3, 3, hdr0, BitVec.ofNat 64 (2 ^ 40), 0, 3, ph, hs, 0, 0, code, none, 0, [], [], [], [], []⟩
/-- The bytes that the header's checksum covers, by eighths. -/
def hdrPart (k : Nat) : List Byte := ((leBytes 0xF8 (hdN hdr0 0 0xF8)).drop (31 * k)).take 31
theorem crc_hdr0 : crc32c (leBytes 0xF8 (hdN hdr0 0 0xF8)) = hdN hdr0 0xF8 4 := by
  have e : leBytes 0xF8 (hdN hdr0 0 0xF8) = hdrPart 0 ++ hdrPart 1 ++ hdrPart 2 ++ hdrPart 3 ++ hdrPart 4 ++ hdrPart 5 ++ hdrPart 6 ++ hdrPart 7 := by
    decide +kernel
  have h0 : (hdrPart 0).foldl crc32Byte 4294967295#32 = 2518426044#32 := by decide +kernel
  have h1 : (hdrPart 1).foldl crc32Byte 2518426044#32 = 2277676800#32 := by decide +kernel
  have h2 : (hdrPart 2).foldl crc32Byte 2277676800#32 = 4009846815#32 := by decide +kernel
  have h3 : (hdrPart 3).foldl crc32Byte 4009846815#32 = 4255286098#32 := by decide +kernel
  have h4 : (hdrPart 4).foldl crc32Byte 4255286098#32 = 3645218360#32 := by decide +kernel
  have h5 : (hdrPart 5).foldl crc32Byte 3645218360#32 = 2657509994#32 := by decide +kernel
  have h6 : (hdrPart 6).foldl crc32Byte 2657509994#32 = 3630210670#32 := by decide +kernel
  have h7 : (hdrPart 7).foldl crc32Byte 3630210670#32 = 1302245316#32 := by decide +kernel
  rw [e]
  unfold crc32c
  simp only [List.foldl_append, h0, h1, h2, h3, h4, h5, h6, h7]
  decide +kernel
theorem header_ok : headerOk hdr0 = true := by
  unfold headerOk
  rw [crc_hdr0]
  decide +kernel
/-- The state with a LAUNCH at the head of queue 7. -/
def sLaunch (pool : Nat) : State := sR hdr0 [] [mkR 3 (rLaunch pool 0xFFFFFFFF) false true none []] false
theorem test_witness_Launches : 
    let x := mkR 3 (rLaunch 0 0xFFFFFFFF) false true none []
    (sLaunch 0).running 3 1 = some x ∧ x.atHead = true ∧ (sLaunch 0).group 3 = none ∧ (sLaunch 0).mayDispatch x.queue = true
    ∧ ((sLaunch 0).queues[x.queue]).frozen = false ∧ x.code = none ∧ (sLaunch 0).imageHeld x = none ∧ (sLaunch 0).admission x = .ok hdr0 := by
  refine ⟨by decide +kernel, by decide, by decide +kernel, by decide +kernel, by decide +kernel, by decide, ?_⟩
  have hr : (sLaunch 0).fnRead 3 (2 ^ 40) 256 = some (leBytes 256 hdr0.toNat) := by decide +kernel
  have hh : BitVec.ofNat 2048 (leNat (leBytes 256 hdr0.toNat)) = hdr0 := by decide +kernel
  have hf : (sLaunch 0).recFn (mkR 3 (rLaunch 0 0xFFFFFFFF) false true none []) = 3 := by decide +kernel
  have hb : recN (mkR 3 (rLaunch 0 0xFFFFFFFF) false true none []).body 0x10 8 = 2 ^ 40 := by decide +kernel
  constructor
  · have hg : (sLaunch 0).groups.find? (fun g => g.record == (mkR 3 (rLaunch 0 0xFFFFFFFF) false true none []).id) = none := by decide +kernel
    have hd : (sLaunch 0).fnHeld 3 (2 ^ 40) 256 = none := by decide +kernel
    unfold State.imageHeld
    simp only [hf, hb, hg, hd, hr, hh, header_ok]
    decide +kernel
  · unfold State.admission
    simp only [hf, hb, hr, hh, header_ok]
    decide +kernel
theorem test_witness_Launches_refused :
    let x := mkR 3 (rLaunch 0 0xFFFFFFFF) false true none []
    let s := sR (hdr0 + 1) [] [x] false
    s.running 3 1 = some x ∧ x.atHead = true ∧ s.group 3 = none ∧ s.mayDispatch x.queue = true ∧ (s.queues[x.queue]).frozen = false ∧ x.code = none
    ∧ s.imageHeld x = none ∧ s.admission x = .error 8 ∧ recJcb x.body = none := by decide +kernel
theorem test_witness_Launches_bind :
    let x := mkR 3 (rLaunch 0 0xFFFFFFFF) false true none []
    let g := g3 .waiting [] none
    let s := { sR hdr0 [] [x] false with groups := [g] }
    s.group 3 = some g ∧ s.record g.record = some x ∧ g.phase = .waiting ∧ s.mayDispatch x.queue = true ∧ (s.queues[x.queue]).frozen = false
    ∧ s.resumeFirst g = false ∧ s.pick g = some [1] ∧ (s.createSpace g x.body).isSome = true ∧ (∀ h ∈ [(1 : Fin 24)], (s.heaths[h]).lost = false)
    ∧ x.code = none ∧ s.imageHeld x = none ∧ (s.fnRead (s.recFn x) (recN x.body 0x10 8) (hdN g.header 8 8)).isSome = true
    ∧ (hdCmask g.header).testBit 2 = true ∧ (hdCmask g.header).testBit 0 = true ∧ hdNctx g.header = 2 := by decide +kernel
/-- A group that finds no heath: those of its partition hold other groups. -/
theorem test_witness_Launches_pick :
    let g := g3 .waiting [] none
    (let s := { sR hdr0 [] [] false with groups := [g], heaths := State.reset.heaths.map fun (h : Heath) => { h with group := some 9 } }
     s.group 3 = some g ∧ s.pick g = none)
    ∧ (let s := { sR hdr0 [] [] false with groups := [g] }
       g.target = [] ∧ s.pick g = some [1]) := by decide +kernel
/-- The contexts of heath 1 all in one state, with nothing in flight. -/
def sE (r : RunState) (stopping : Bool) (loop : Loop) (g : Group) (s : State) : State := { s with
  groups := [g]
  cores := s.cores.map fun (k : Core) => { k with inflight := [], ctxs := k.ctxs.map fun (t : Ctx) => { t with run := r, stopping := stopping, loop := loop } } }
theorem test_witness_Launches_end :
    let x := mkR 3 (rLaunch 0 0xFFFFFFFF) true false none []
    (let s := sE .unloaded false Loop.clear (g3 .bound [1] none) (sR hdr0 [] [x] false)
     s.group 3 = some (g3 .bound [1] none) ∧ (∀ u ∈ (g3 .bound [1] none).ctxs, (s.ctx u.1 u.2).run = .unloaded))
    ∧ (∀ g ∈ [g3 .resident [1] none, g3 .stopping [1] (some 4), g3 .bound [1] (some 5)],
        let s := sE .halted false Loop.clear g (sR hdr0 [] [x] false)
        s.group 3 = some g ∧ s.groupEnded g = true ∧ s.workDone g = true ∧ s.roomFor 3 = true ∧ s.record g.record = some x ∧ recJcb x.body = none
        ∧ recKind x.body = 1 ∧ g.code.getD 1 < 256) := by decide +kernel
theorem test_witness_Preemption :
    (let s := sR hdr0 [(0x5000 + 128, rWaitJcb)] [] false
     s.groups = [] ∧ s.part 0 = some p0 ∧ s.queuePart 7 = some 0 ∧ s.hasWork 7 = true ∧ p0.suspended = false)
    ∧ (∀ st ∈ [StopMode.drain, .checkpoint],
        let g : Group := { g3 .stopping [1] none with stop := some st }
        let s := sE .halted false Loop.clear g (sR hdr0 [] [] false)
        s.group 3 = some g ∧ g.stop ≠ some .kill ∧ s.allStopped g = true ∧ s.workDone g = true
        ∧ (∀ c ∈ g.cores, (s.core c).inflight = [] ∧ ∀ x, (s.ctx c x).accs = [])) := by decide +kernel
theorem test_witness_Preemption_fallback :
    let g : Group := { g3 .stopping [1] none with stop := some .drain, header := BitVec.ofNat 2048 (hdr0.toNat + 2 * 2 ^ (8 * 0x85)) }
    let s := { sE .blocked false lpA g (sR hdr0 [] [] false) with cyc := 175000 }
    s.group 3 = some g ∧ g.stopAt + 175000 ≤ s.cyc.toNat ∧ hdAllows g.header 1 = true
    ∧ (∃ u ∈ g.ctxs, (s.ctx u.1 u.2).stopping = false ∧ (s.ctx u.1 u.2).run ≠ .halted ∧ (s.ctx u.1 u.2).run ≠ .held) := by decide +kernel
/-- A core whose group is being checkpointed: a freeze of the clock holds the stop back, and none lets it come. -/
theorem test_witness_Preemption_stop :
    let g : Group := { g3 .stopping [1] none with id := 5, stop := some .checkpoint }
    let s := (sE .blocked false lpA g (sR hdr0 [] [] false)).modCtx 9 2 fun t => { t with blocks := ⟨some (.sleep 5000), none⟩ }
    let f := s.modCore 9 fun k => { k with freezeLeft := 4, freezeWhy := .domain }
    s.groupStop 9 = some .checkpoint ∧ f.groupStop 9 = some .checkpoint ∧ f.stopWaits 9 .checkpoint = true ∧ s.stopWaits 9 .checkpoint = false
    ∧ (∀ x, (s.ctx 9 x).episode = none ∧ (s.ctx 9 x).fired = none) ∧ (s.ctx 9 0).run = .blocked := by decide +kernel
/-- A saved core. -/
def svc : SavedCore := ⟨0, kA.ctxs, Vector.replicate 16 7, kA.blocks, [(5, 6)], [], [], [], [], Vector.replicate 4 none, Vector.replicate 4 none, Vector.replicate 16 none⟩
theorem test_witness_Preemption_resume :
    let g : Group := { g3 .saved [] none with saved := [(0, svc), (2, svc)] }
    let s := { sR hdr0 [] [] false with groups := [g] }
    s.group 3 = some g ∧ s.launchFirst g = false ∧ s.pick g = some [1] ∧ ([1] : List (Fin 24)).Nodup ∧ (∀ h ∈ [(1 : Fin 24)], (s.heaths[h]).lost = false)
    ∧ ((groupCores [1]).map fun e => 8 * e.1 + e.2.2.val) = [0, 1, 2, 3, 4, 5, 6, 7] := ⟨rfl, by decide +kernel⟩
theorem test_witness_Preemption_resume_image :
    let x := mkR 3 (rLaunch 0 0xFFFFFFFF) false true none []
    let g : Group := { g3 .saved [] none with saved := [(0, svc), (2, svc)] }
    let s := { sR hdr0 [] [x] false with groups := [g] }
    s.group 3 = some g ∧ s.pick g = some [1] ∧ s.record g.record = some x ∧ s.imageHeld x = none := ⟨rfl, by decide +kernel⟩

/-- Host memory with a layout of one partition, of version `v`, at 0x100000. -/
def layImg (v : Nat) : Memory :=
  memWriteN (memWriteN (memWriteN [] 0x100000 9 (0x5459414C + v * 2 ^ 32 + 2 ^ 64)) 0x10000C 4 3500000) 0x100040 64
    (0x6 + 2 ^ 24 + 2 * 2 ^ (8 * 0x16) + 0x8 * 2 ^ (8 * 0x18) + 175000 * 2 ^ (8 * 0x24))
/-- A LAYOUT record of queue 7, which is a management queue here. -/
def rLayout : BitVec 512 := w64 (nojcb 7 ++ [(0x10, 0x100000)])
/-- The state with that record. -/
def sY (v : Nat) : State := { sR hdr0 [] [mkR 3 rLayout false false none []] false with
  hmem := layImg v
  queues := sA.queues.set 7 ⟨0x5000, 9, 2, 6, 1, false, false, some 96, 0, true, none⟩ }
theorem layImg_cells : (layImg 8).all (fun c => decide (c.1 < 0x100080)) = true := by decide +kernel
theorem memRead_beyond (n o : Nat) (h : n ≤ o) : ∀ m : Memory, (m.all fun c => decide (c.1 < n)) = true → memRead m o = 0
  | [], _ => rfl
  | (a, b) :: m, hm => by
    simp only [List.all_cons, Bool.and_eq_true, decide_eq_true_eq] at hm
    simp only [memRead, if_neg (show a ≠ o by omega)]
    exact memRead_beyond n o h m hm.2
theorem layImg_slots : memBytes (layImg 8) (0x100000 + 64 + 64 * 1) 102400 = List.replicate 102400 0 := by
  unfold memBytes
  refine List.eq_replicate_iff.2 ⟨by simp, fun b hb => ?_⟩
  obtain ⟨i, -, rfl⟩ := List.mem_map.1 hb
  exact memRead_beyond 0x100080 _ (by omega) _ layImg_cells
/-- The layout that image holds. -/
def lay8 : Layout := ⟨8, 3500000, 175000, 95, [{ parsePart (memReadN (layImg 8) 0x100040 64) with image := [], meas := none }], List.replicate 102400 0⟩
theorem layoutAt_lay8 : (sY 8).layoutAt 0x100000 = some lay8 := by
  have h0 : memReadN (layImg 8) (0x100000 + 0) 4 = 0x5459414C := by decide +kernel
  have h1 : memReadN (layImg 8) (0x100000 + 8) 1 = 1 := by decide +kernel
  have h2 : memReadN (layImg 8) (0x100000 + 9) 3 = 0 := by decide +kernel
  have h3 : memReadN (layImg 8) (0x100000 + 0x15) 43 = 0 := by decide +kernel
  have h4 : partClean (memReadN (layImg 8) (0x100000 + 64) 64) = true := by decide +kernel
  have h5 : memReadN (layImg 8) (0x100000 + 4) 4 = 8 := by decide +kernel
  have h6 : memReadN (layImg 8) (0x100000 + 0x0C) 4 = 3500000 := by decide +kernel
  have h7 : memReadN (layImg 8) (0x100000 + 0x10) 4 = 0 := by decide +kernel
  have h8 : memReadN (layImg 8) (0x100000 + 0x14) 1 = 0 := by decide +kernel
  have h9 : (sY 8).handlerImage (parsePart (memReadN (layImg 8) (0x100000 + 64) 64)).handler = none := by decide +kernel
  have hm : (sY 8).hmem = layImg 8 := rfl
  unfold State.layoutAt
  simp only [hm, h0, h1, h2, h3, h5, h6, h7, h8, layImg_slots]
  simp [h4, h9, lay8, -List.reduceReplicate]
theorem lay8_ok : (sY 8).layoutOk lay8 = true := by
  have hw : ∀ w : Fin 4, ((parsePart (memReadN (layImg 8) 0x100040 64)).wpath[w]).toNat = 0 := by decide +kernel
  unfold State.layoutOk
  simp only [Bool.and_eq_true]
  refine ⟨⟨?_, ?_⟩, ?_⟩
  · decide +kernel
  · simp only [List.all_eq_true, decide_eq_true_eq]
    rintro e he stop - w -
    have : e = ({ parsePart (memReadN (layImg 8) 0x100040 64) with image := [], meas := none }, 0) := by simpa [lay8, -List.reduceReplicate] using he
    rw [this]
    exact (hw w).trans_le (Nat.zero_le _)
  · decide +kernel
theorem test_witness_LayoutEvents : (sY 8).running 3 7 = some (mkR 3 rLayout false false none []) ∧ (sY 8).commit = none
    ∧ recN rLayout 0x10 8 = 0x100000 ∧ (sY 8).groups = []
    ∧ (let s := { sY 8 with hmem := [] }
       s.running 3 7 = some (mkR 3 rLayout false false none []) ∧ s.commit = none ∧ (s.layoutAt (recN rLayout 0x10 8)).isNone = true
       ∧ recJcb rLayout = none) := by decide +kernel
theorem test_witness_LayoutEvents_tick : ∀ q ∈ [(false, 7168), (true, 7169), (true, 7168)],
    let c : Commit := ⟨lay0, [], some 3, q.1, 5⟩
    let s := { sR hdr0 [] [] false with commit := some c, cyc := BitVec.ofNat 64 q.2 }
    s.commit = some c ∧ (∀ g ∈ s.groups, s.mustLeave g = false) ∧ (∀ p ∈ s.layout.parts, p.suspended = false)
    ∧ (q = (true, 7168) ↔ ¬(c.quiet = false ∨ s.cyc.toNat % 1024 ≠ 0)) := by decide +kernel
theorem test_witness_ResetEvents :
    (let s := { sA with layout := lay0 }
     s.part 0 = some p0 ∧ s.groups = [] ∧ s.commit = none ∧ 8 < s.tqFree ∧ s.HostIdle ∧ s.hub.deferred = []
     ∧ s.records = [] ∧ (∀ w ∈ s.hub.walks, w.asid.toNat ≠ 3) ∧ s.vfWaits 3 = false
     ∧ (3 : Fin 96) ∉ s.hub.resets)
    ∧ (let s := { sA with layout := lay0, hub := { sA.hub with resets := [3] } }
       (3 : Fin 96) ∈ s.hub.resets ∧ s.vfWaits 3 = false)
    ∧ (let s := { sA with layout := lay0, commit := some ⟨{ lay0 with parts := [] }, [], none, false, 0⟩ }
       s.vfWaits 3 = true ∧ (3 : Fin 96) ∉ s.hub.resets) := by unfold State.HostIdle State.PortIdle; decide +kernel
theorem queues_reset (q : Fin 4096) : sA.queues[q] = if q.val = 0 then { Queue.reset with owner := some 96 } else Queue.reset := by
  show State.reset.queues[q.val] = _
  simp only [State.reset, Vector.getElem_set, Vector.getElem_replicate, eq_comm]
theorem test_witness_Links_flush (q : Fin 4096) : (sA.queues[q]).flush = none := by rw [queues_reset]; split <;> rfl
theorem test_witness_StepRunsTheDecodedInstruction_stop (s : State) (c : CoreId) (h : s.groupStop c = none) : s.stopCore c = s := by
  unfold State.stopCore
  rw [h]
theorem test_witness_ResetEvents_queues : (∀ q : Fin 4096, (sA.queues[q]).head = (sA.queues[q]).tail)
    ∧ ({ sA with layout := lay0 } : State).partQueues 0 = [] := by
  refine ⟨fun q => by rw [queues_reset]; split <;> rfl, ?_⟩
  unfold State.partQueues
  rw [List.filter_eq_nil_iff]
  intro q _
  unfold State.queuePart
  simp only [queues_reset]
  split <;> decide
theorem test_witness_WindowWrites :
    let s := sR hdr0 [] [] false
    let r := { s with mon := { s.mon with recovery := true } }
    s.windowOpen 3 0 = true ∧ s.windowOpen 96 0x5FFF8 = true ∧ r.windowOpen 3 0x11010 = false ∧ r.windowOpen 96 0x40000 = true
    ∧ (s.fnQueues 3)[0 / 16]? = some 7 ∧ (s.fnQueues 3)[8 / 16]? = some 7 ∧ (s.queues[(7 : Fin 4096)]).head ≠ (s.queues[(7 : Fin 4096)]).tail
    ∧ memWf s.mon.mailbox = true ∧ (0x10008 + 16 * (63 : R64).val = 0x103F8) ∧ (0x100000000 : Word).getLsbD 32 = true
    ∧ (let t := sR hdr0 [] [] false |>.modQueue 7 fun q => { q with head := q.tail }
       (t.fnQueues 3)[8 / 16]? = some 7 ∧ (t.queues[(7 : Fin 4096)]).head = (t.queues[(7 : Fin 4096)]).tail) := by decide +kernel
theorem test_witness_AttestationAndRecovery :
    (let s := { sA with mon := { sA.mon with forming := some [1, 2, 3] } }
     s.mon.recovery = false ∧ s.mon.forming = some [1, 2, 3])
    ∧ (let s := { sA with mon := { sA.mon with recovery := true } }
       s.mon.recovery = true ∧ verifyImage 1 (memBytes s.mon.mailbox 0 (128 + min (memReadN s.mon.mailbox 0x0C 4) 130944)) = none)
    ∧ (let s := sR hdr0 [] [] false
       ((s.hub.vectors[(3 : Fin 97)])[(63 : R64)]).pend = false ∧ ((s.hub.vectors[(3 : Fin 97)])[(5 : R64)]).pend = true
       ∧ (∀ g ∈ s.hub.resets, g.val ≠ 3) ∧ ((s.hub.vectors[(3 : Fin 97)])[(5 : R64)]).addr ≠ 0 ∧ s.HostIdle ∧ memWf s.hmem = true) := by
  unfold State.HostIdle State.PortIdle; decide +kernel
/-- The bytes of an image of kind 1 and version 0xFFFFFFFF without a body. -/
def imgBytes : List Byte := leBytes 128 (0x474D494B + 2 ^ 32 + 0xFFFFFFFF * 2 ^ 64)
/-- Whether an image verifies is a free value (log 5): it does where the fused version, the key and the signature say so. -/
theorem test_witness_AttestationAndRecovery_image (h : Config.fusedVersion 1 ≤ 0xFFFFFFFF) (k : Config.keyRevoked 0 = false)
    
    (e : edVerify (Config.yarkelKey 0).toNat (sha512Bytes (imgBytes.take 64)) ((imgBytes.drop 0x40).take 64) = true) :
    let s := { sA with mon := { sA.mon with recovery := true, mailbox := memWriteBytes [] 0 imgBytes } }
    s.mon.recovery = true ∧ memBytes s.mon.mailbox 0 (128 + min (memReadN s.mon.mailbox 0x0C 4) 130944) = imgBytes ∧ verifyImage 1 imgBytes ≠ none := by
  refine ⟨rfl, by decide +kernel, ?_⟩
  have hd : imgBytes.take 64 ++ (imgBytes.drop 128).take 0 = imgBytes.take 64 := by decide +kernel
  have h1 : leNat ((imgBytes.drop 0x0C).take 4) = 0 := by decide +kernel
  have h2 : leNat ((imgBytes.drop 5).take 1) = 0 := by decide +kernel
  have h3 : leNat ((imgBytes.drop 8).take 4) = 0xFFFFFFFF := by decide +kernel
  have h5 : leNat ((imgBytes.drop 0).take 4) = 0x474D494B ∧ leNat ((imgBytes.drop 4).take 1) = 1 ∧ leNat ((imgBytes.drop 6).take 2) = 0
      ∧ leNat ((imgBytes.drop 0x10).take 48) = 0 ∧ ((imgBytes.drop 128).take 0).length = 0 ∧ 0 ≤ imageLimit 1 := by decide +kernel
  unfold verifyImage
  simp only [h1, h2, h3, hd, h5, h, k, e]
  simp

/-- The first 248 bytes of a data flit with SEQ 5 that acknowledges 3, by eighths. -/
def flitPart (k : Nat) : List Byte := ((leBytes 248 (5 + 2 ^ 12 * 3 + 2 ^ 24)).drop (31 * k)).take 31
/-- That flit. -/
def flit5 : List Byte := leBytes 248 (5 + 2 ^ 12 * 3 + 2 ^ 24) ++ leBytes 8 11659995574528485309
theorem test_witness_Links_good : flit5.length = 256 ∧ leNat (flit5.take 4) / 2 ^ 28 = 0 ∧ leNat (flit5.take 4) / 2 ^ 24 % 16 = 1
    ∧ crc64 (flit5.take 248) = BitVec.ofNat 64 (leNat (flit5.drop 248)) := by
  have e : flit5.take 248 = flitPart 0 ++ flitPart 1 ++ flitPart 2 ++ flitPart 3 ++ flitPart 4 ++ flitPart 5 ++ flitPart 6 ++ flitPart 7 := by decide +kernel
  have h0 : (flitPart 0).foldl crc64Byte 0 = 17813859899685722904#64 := by decide +kernel
  have h1 : (flitPart 1).foldl crc64Byte 17813859899685722904#64 = 8007761933632422720#64 := by decide +kernel
  have h2 : (flitPart 2).foldl crc64Byte 8007761933632422720#64 = 5926635234505014937#64 := by decide +kernel
  have h3 : (flitPart 3).foldl crc64Byte 5926635234505014937#64 = 12455694326678753464#64 := by decide +kernel
  have h4 : (flitPart 4).foldl crc64Byte 12455694326678753464#64 = 15027230767074090154#64 := by decide +kernel
  have h5 : (flitPart 5).foldl crc64Byte 15027230767074090154#64 = 12609569515952468754#64 := by decide +kernel
  have h6 : (flitPart 6).foldl crc64Byte 12609569515952468754#64 = 2515633903637847209#64 := by decide +kernel
  have h7 : (flitPart 7).foldl crc64Byte 2515633903637847209#64 = 11659995574528485309#64 := by decide +kernel
  refine ⟨by decide +kernel, by decide +kernel, by decide +kernel, ?_⟩
  rw [e]
  unfold crc64
  simp only [List.foldl_append, h0, h1, h2, h3, h4, h5, h6, h7]
  decide +kernel
/-- A port whose last NAK was for 3. -/
def sN (replays : Nat) (last : Option (BitVec 12)) : State := { sA with hub := { sA.hub with ports := sA.hub.ports.set 2 ⟨true, 9, 5, [2, 3, 4, 5, 6].map fun n => (n, flitBytes 1 4 n.toNat (List.replicate 244 0)), replays, last, []⟩ } }
theorem test_witness_Links : ((sN 6 (some 3)).hub.ports[(2 : Fin 9)]).up = true
    ∧ (BitVec.ofNat 12 (leNat (flit5.take 4)) : BitVec 12) = ((sN 6 (some 3)).hub.ports[(2 : Fin 9)]).recvSeq
    ∧ (BitVec.ofNat 12 (leNat (flit5.take 4)) : BitVec 12) ≠ ((sA).hub.ports[(2 : Fin 9)]).recvSeq
    ∧ ¬(flit5.take 255).length = 256
    ∧ ((sN 6 (some 3)).hub.ports[(2 : Fin 9)]).lastNak = some 3 ∧ ((sN 6 (some 3)).hub.ports[(2 : Fin 9)]).replays + 1 < 8
    ∧ 8 ≤ ((sN 7 (some 3)).hub.ports[(2 : Fin 9)]).replays + 1 ∧ ((sN 7 (some 4)).hub.ports[(2 : Fin 9)]).lastNak ≠ some 3 := by decide +kernel
/-- The state whose function 3 may read and write the page at 2^40, or with another leaf there. -/
def sM (leaf : Nat) : State := { sR hdr0 [] [] false with gmem := memWriteN (ptm leaf) 0x30000 8 0x1122334455667788 }
theorem test_witness_HostTransactions : (sM 0x301F1).portUp 0 = true ∧ (3 : BitVec 7).toNat < 96 ∧ memWf (sM 0x301F1).gmem = true
    ∧ (sM 0x301F1).pinnedLoc none (.mem 0x30FF8) = false ∧ (sM 0x301F1).hubPhys 3 .host false (2 ^ 40 + 0xFF8) = .ok 0x30FF8
    ∧ (sM 0x301F1).hubPhys 3 .host true (2 ^ 40 + 0xFF8) = .ok 0x30FF8 ∧ (sM 0x301F1).poisonedLoc (.mem 0x30FF8) 8 = false
    ∧ ((2 ^ 40 + 0xFF8) % 4096 + 8 ≤ 4096 ∧ ¬((2 ^ 40 + 0xFF8) % 4096 + 9 ≤ 4096) ∧ (2 ^ 40 + 0xFFF8) % 65536 + 8 ≤ 65536)
    ∧ ((2 ^ 40 + 0xFF8) % 8 = 0 ∧ (2 ^ 40 + 0xFFC) % 8 ≠ 0)
    ∧ (sM 0x30001).hubPhys 3 .host false (2 ^ 40) = .perm ∧ (sM 0x30001).hubPhys 3 .host true (2 ^ 40) = .perm
    ∧ (sM 0).hubPhys 3 .host false (2 ^ 40) = .page ∧ (sM 0).hubPhys 3 .host true (2 ^ 40) = .page := by decide +kernel
theorem test_witness_HostTransactions_refused :
    (let s := { sM 0x301F1 with pins := [⟨0x30FF8 / 256, false, 9, .system, 2⟩] }
     s.portUp 0 = true ∧ memWf s.gmem = true ∧ s.pinnedLoc none (.mem 0x30FF8) = true ∧ s.hubPhys 3 .host false (2 ^ 40 + 0xFF8) = .ok 0x30FF8)
    ∧ (let s := { sM 0x301F1 with gpoison := [0x30FF8 / 64] }
       s.portUp 0 = true ∧ memWf s.gmem = true ∧ s.pinnedLoc none (.mem 0x30FF8) = false ∧ s.hubPhys 3 .host false (2 ^ 40 + 0xFF8) = .ok 0x30FF8
       ∧ s.poisonedLoc (.mem 0x30FF8) 8 = true) := by decide +kernel
/-- A far copy on peer port 1, of 16 bytes from the vault. -/
def farJob : Job := ⟨0, .copy, 9, 2, 0x402000,
  some (BitVec.ofNat 512 (2 ^ 63 + 5 * 2 ^ 60 + 0x400000 + 2 ^ 64 * (0x400100 + 2 ^ 56) + 2 ^ 128 * 16 + 2 ^ 320 * (2 ^ 31 + 4))), none, none, 4000, 0x100, [], 0, none, false, false, false⟩
/-- The state with that job, a peer entry for the core's partition, and a refused request. -/
def sF : State := { sM 0x301F1 with
  jobs := [farJob]
  hub := { (sM 0x301F1).hub with
    peers := (sM 0x301F1).hub.peers.set 1 [(0, ⟨4, 7⟩)]
    retries := [⟨5000, 2, 3, 0, .mrd 4 (BitVec.ofNat 56 (2 ^ 40)) 8⟩] } }
theorem test_witness_PeerTransactions : sF.peerAccepts 2 3 0 = true ∧ sF.peerAccepts 2 4 0 = false ∧ sF.portUp 2 = true
    ∧ (match sF.linkAt 2 3 0 (BitVec.ofNat 56 (2 ^ 40)) 8 true with
      | .status _ => false
      | _ => true) = true
    ∧ (2 ^ 40 % 4096 + 8 ≤ 4096 ∧ 2 ^ 40 % 8 = 0 ∧ 2 ^ 40 % 4 = 0)
    ∧ sF.job farJob.id = some farJob ∧ farJob.kind = .copy ∧ farJob.image ≠ none ∧ farJob.status = none ∧ farJob.ended = false ∧ 0 ∉ farJob.moved
    ∧ cardFar farJob.im = true ∧ cardPort farJob.im = 1 ∧ sF.holdsNew farJob = false
    ∧ ((sF.hub.peers[(1 : R8)]).find? fun e => e.1 == (sF.core farJob.core).alloc.part) = some (0, ⟨4, 7⟩) ∧ (sF.hub.ports[(2 : Fin 9)]).up = true
    ∧ (match jobElem farJob.im 0 with
      | some (q, lo, len) =>
        let sa := runSrc farJob.im q + BitVec.ofNat 56 lo
        ((cardRegions farJob.im).any fun g => g.covers sa len) && !sF.jobWaits farJob sa len && (match sF.engLocs farJob.core farJob.ctx false sa len with
          | .ok l => l.all fun x => !sF.poisonedLoc x 1
          | .error _ => false)
      | none => false) = true
    ∧ ((3 : BitVec 3) ≠ 0 ∧ (3 : BitVec 3) ≠ 1)
    ∧ (sF.hub.retries.find? fun r => decide (r.tick ≤ sF.cyc.toNat)) = some ⟨5000, 2, 3, 0, .mrd 4 (BitVec.ofNat 56 (2 ^ 40)) 8⟩ := by decide +kernel

/-! ### Encodings, issue and the whole machine -/

theorem test_witness_DecodeAndEncodeAgree : (∀ y ∈ [(0, Instr.lset yes 0 2 12, 0x050006000010), (1, .addi ⟨true, 15⟩ 63 62 (.lit 2), 0x00), (2, .dset yes 20 0 0 2, 0x400280000002),
      (4, .ldv yes ⟨2, .heath⟩ 5 ⟨2, .disp 0⟩, 0x0600A1000128), (5, .vfma yes .f32 .rz 1 2 3, 0x050021060010), (6, .mma yes (some 2) 0 0 1, 0x010000042800),
      (7, .ckill yes 2, 0x390001000000)], WellFormedIn 3 y.2.1 = true ∧ (encode y.2.1).isSome = true ∧ (y.2.2 ≠ 0 → encode y.2.1 = some y.2.2)
        ∧ (y.2.2 ≠ 0 → 3 < 4 ∧ y.2.2 < 2 ^ 48 ∧ decodeSlot (Fin.ofNat 8 y.1) 3 y.2.2 = .ok y.2.1)) := by decide +kernel
/-- The bundle of 08 Table 8.12 where the next step issues it. -/
def sG : State := State.reset.withFetchWord 112 0x2000600000022700200000000600
/-- Its two slots. -/
def bG : Bundle := ⟨[(1, .movc yes (.read 1 0)), (2, .movi yes 3 (.int20 2))], [], false, false, 14⟩
theorem test_witness_StepRunsTheDecodedInstruction : sG.Issuing 0 0 0 bG ∧ (sG.openBundle 0 0 0 bG).held = none := by
  unfold State.Issuing; decide +kernel
theorem test_witness_StepRunsTheDecodedInstruction_input :
    let s := { State.reset with inbox := [(0, .instr (.doorbell 7 9))] }
    s.inbox = (0, .instr (.doorbell 7 9)) :: [] ∧ 0 ≤ s.cyc.toNat ∧ isInput (.doorbell 7 9) = true := by decide +kernel
theorem test_witness_StepRunsTheDecodedInstruction_turn :
    let t := sG.pickEvent.2
    sG.nextInput.isNone = true ∧ sG.forced.isNone = true ∧ sG.pickEvent.1.isNone = true ∧ t.turn = 0 ∧ (t.heaths[coreHeath 0]).gated = false
    ∧ 35 ≤ (t.core 0).clock + (t.core 0).opp.rate := by decide +kernel
/-- Core 0 at the beginning of its cycle in that state. -/
def uG : State := ({ sG with turn := 1 } : State).modCore 0 fun k => { k with clock := k.clock + k.opp.rate - 35 }
theorem test_witness_StepRunsTheDecodedInstruction_cycle : 
    let k := uG.core 0
    k.opp.set = false ∧ k.opp.rem = 0 ∧ k.beat.misses < 2 ∧ k.stretch = 0 ∧ k.freezeLeft = 0 ∧ k.split = 0 ∧ k.splitAt = none ∧ k.due = []
    ∧ (∀ y : CtxId, (k.ctxs[y]).run ≠ .blocked ∧ (k.ctxs[y]).pendDom = [] ∧ (k.ctxs[y]).episode = none ∧ (k.ctxs[y]).faults = [])
    ∧ uG.groupStop 0 = none ∧ uG.Issuing 0 0 0 bG ∧ (uG.openBundle 0 0 0 bG).held = none
    ∧ (match exec (.bundleIssue 0) uG with
      | .next v => decide ((v.core 0).step ≠ k.step)
      | _ => false) = true := by unfold State.Issuing; decide +kernel
theorem test_witness_StepsWithoutABundle : State.reset.issuer 191 = none ∧ (State.reset.core 191).current = none
    ∧ (∀ y : CtxId, ¬(((State.reset.core 191).ctxs[y]).run = .ready ∧ ((State.reset.core 191).ctxs[y]).stopping = false))
    ∧ (let k := (sG.modCore 0 fun k => { k with switching := true }).core 0
       k.current = some 0 ∧ k.switching = true)
    ∧ (let k := (sG.modCtx 0 0 fun t => { t with bubbles := 1 }).core 0
       k.current = some 0 ∧ k.switching = false ∧ 0 < (k.ctxs[(0 : CtxId)]).bubbles)
    ∧ (let k := (((sG.modCtx 0 1 fun t => { t with run := .ready }).modCtx 0 2 fun t => { t with run := .ready, pri := true }).modCore 0 fun k => { k with
          current := none
          last := 2 }).core 0
       k.current = none ∧ k.fresh = false ∧ (∀ y : CtxId, (k.ctxs[y]).priNext = none) ∧ ∃ y : CtxId, (k.ctxs[y]).run = .ready ∧ (k.ctxs[y]).stopping = false) := by
  decide +kernel
/-- A state with start marks and a handler at 0x100. -/
def marked (s : State) : State := (s.modCore 0 fun k => { k with marks := 0x100 :: 0x80 :: k.marks }).modCtx 0 0 fun t => { t with thv := 0x100 }
theorem test_witness_TrapsAtIssue_transfer :
    let s := (marked sG).modCtx 0 0 fun t => { t with transferred := true, pc := 0x90 }
    let u := s.ctx 0 0
    s.issuer 0 = some 0 ∧ u.hm = false ∧ u.thv ≠ 0 ∧ (s.core 0).markOk u.thv = true ∧ u.transferred = true ∧ (s.core 0).markOk u.pc = false := by
  decide +kernel
/-- A bundle whose slot 4 holds an unassigned code, and one whose two slots write p2 (CMP.pair and PNOT). -/
def sIll : State := marked (State.reset.withFetchWord 64 0xFFFFFFFFFFFF1000)
def sTwo : State := marked (State.reset.withFetchWord 112 0x2600418000001D00208400100600)
theorem test_witness_TrapsAtIssue : (∀ s ∈ [sIll, sTwo],
      s.issuer 0 = some 0 ∧ (s.ctx 0 0).hm = false ∧ (s.ctx 0 0).thv ≠ 0 ∧ (s.core 0).markOk (s.ctx 0 0).thv = true ∧ (s.ctx 0 0).transferred = false
      ∧ (s.ctx 0 0).pc.toNat ≠ 0x20000 ∧ (s.ctx 0 0).pc.toNat ≠ 0x40000 ∧ (s.core 0).fetchFrom (s.ctx 0 0).pc.toNat (s.ctx 0 0).pc.toNat = 0
      ∧ 0 ≠ bankEnd (s.ctx 0 0).pc.toNat)
    ∧ (match (sIll.core 0).decodeAt 0 with
      | .illegal _ _ => true
      | _ => false) = true
    ∧ (match (sTwo.core 0).decodeAt 0 with
      | .bundle b => writeConflict b.slots
      | _ => false) = true ∧ (sTwo.ctx 0 0).replay = none := by decide +kernel
theorem test_witness_TrapsAtIssue_fatal :
    let s := sA.modCur fun t => { t with thv := 0 }
    s.guard yes = true ∧ s.cur.hm = false ∧ s.cur.run ≠ .held ∧ s.cur.thv = 0 ∧ 0 < s.tqFree ∧ s.HostIdle ∧ s.hub.deferred = []
    ∧ memWf s.hmem = true ∧ ((s.core 9).allot.map (·.group)) = some (s.core s.env.core).alloc.group := by unfold State.HostIdle State.PortIdle; decide +kernel
/-- Handler mode at a bundle of TRET alone, with a frame that names 0x80. -/
def sRet (valid : Bool) : State := (marked (State.reset.withFetchWord 64 0x3000000000008000)).modCtx 0 0 fun t => { t with
  hm := true
  frame := { t.frame with
    valid := valid
    addr := 0x80
    cause := 0x22
    sr := 3 } }
/-- That bundle. -/
def bRet : Bundle := ⟨[(7, .tret yes)], [], false, false, 8⟩
theorem test_witness_TrapReturnResumesTheFrame : ∀ v : Bool,
    let s := sRet v
    let u := s.ctx 0 0
    s.Issuing 0 0 0 bRet ∧ bRet.yld = false ∧ (s.opening 0 0 0 bRet).guard yes = true ∧ u.hm = true ∧ u.run = .running
    ∧ s.groupStop 0 = none ∧ u.promiseT = none ∧ u.frame.valid = v ∧ u.frame.after = false ∧ (s.core 0).markOk (u.frame.addr.setWidth 64) = true
    ∧ u.frame.cause ≠ 0x15 ∧ u.faults = [] ∧ u.frame.blk = false := by unfold State.Issuing; decide +kernel
theorem test_witness_StepKeepsCanonicalMemory : State.reset.CanonicalMemory ∧ sG.CanonicalMemory := by
  unfold State.CanonicalMemory; decide +kernel

/-! ### Witnesses of further clauses: failures, stops, held and refused work -/

theorem test_witness_NarrowingFormResults_fails : sA.cur.episode = none ∧ (∀ r ∈ (⟨0x49, 9, 1, 0, 0, 0⟩ : Constraint).regs, r.val < sA.alloc.domains)
    ∧ (narrowVals ⟨0x49, 9, 1, 0, 0, 0⟩ sA.rdD).toBool = false := by decide +kernel
theorem test_witness_DomainFailuresAndEffects_dsetm : let x := sA.rdD 20
    ∀ v : Int, ¬(x.lo.toInt ≤ v ∧ v ≤ x.hi.toInt ∧ (64 ≤ v - x.lo.toInt ∨ (sA.g 0).getLsbD (v - x.lo.toInt).toNat = true)) := by
  have h : (sA.rdD 20).lo.toInt = 20 ∧ (sA.rdD 20).hi.toInt = 27 ∧ sA.g 0 = 0 := by decide +kernel
  rintro x v ⟨h1, h2, h3 | h3⟩
  · simp only [x, h.1, h.2.1] at h2 h3; omega
  · simp [x, h.2.2] at h3
/-- A narrowing of d3, which is [3, 10], by these values: one that leaves [4, 6], and one that leaves nothing. -/
def nv : Bool → DomReg := fun b => if b then ⟨4, 6, 7⟩ else ⟨20, 22, 7⟩
theorem test_witness_DomainFailuresAndEffects_narrow : ∀ b : Bool, ∀ rec1 : Option Constraint, rec1 = none ∨ rec1 = some ⟨0x45, 1, 2, 0, 0, 0⟩ →
    let e : DomEff := .narrow ([] ++ (3, nv b) :: []) rec1
    let t := (sD e).ctx 9 2
    t.episode = none ∧ t.pendDom = ⟨95, 0x100, e⟩ :: [] ∧ 95 ≤ ((sD e).core 9).step ∧ t.ftv ≠ 0 ∧ ((sD e).core 9).markOk t.ftv = true
    ∧ (b = true → (t.d[(3 : R64)]).meet (nv b) = some ⟨4, 6, 7⟩ ∧ (8 : Word) ≠ 0 ∧ (t.d.set 3 ⟨4, 6, 7⟩)[(3 : R64)] = ⟨4, 6, 7⟩
        ∧ ∀ r : R64, (8 : Word).getLsbD r.val = true ↔ (t.d.set 3 ⟨4, 6, 7⟩)[r] ≠ t.d[r])
    ∧ (b = false → (t.d[(3 : R64)]).meet (nv b) = none)
    ∧ (let u := ((sD e).modCur fun t => { t with npe := true, ftv := 0 }).ctx 9 2
       u.npe = true ∧ u.store ≠ [] ∧ u.ftv = 0 ∧ u.hm = false ∧ u.run ≠ .held ∧ u.run ≠ .halted ∧ u.thv ≠ 0 ∧ (kA.markOk u.thv) = true
         ∧ u.replay = none) := by
  rintro (_ | _) _ (rfl | rfl) <;> decide +kernel
theorem test_witness_DomainFailuresAndEffects_nprop : let s := (sD .nprop).modCur fun t => { t with store := [] }
    (s.ctx 9 2).pendDom = ⟨95, 0x100, .nprop⟩ :: [] ∧ (s.ctx 9 2).episode = none ∧ (s.ctx 9 2).store = [] := by decide +kernel
/-- The context in an episode. -/
def sEp (e : Episode) (nbud : BitVec 32) : State := (sD .nclr).modCur fun t => { t with episode := some e, nbud := nbud }
theorem test_witness_PropagationEpisodes :
    (∀ cur : Word, cur = 0 ∨ cur = 2 → let e : Episode := ⟨true, 1, 1, 1, 0, cur, 0x100⟩
      ((sEp e 9).ctx 9 2).episode = some e ∧ ((sEp e 9).ctx 9 2).store.length = 1)
    ∧ (let e : Episode := ⟨true, 0, 1, 9, 0, 0, 0x100⟩
       let t := (sEp e 9).ctx 9 2
       t.episode = some e ∧ t.store[0]? = some ⟨0x45, 1, 2, 0, 0, 0⟩ ∧ (e.pass = 1 ∧ e.all = true) ∧ e.used = t.nbud.toNat ∧ t.nbt = false)
    ∧ (let e : Episode := ⟨false, 0, 2, 3, 4, 0, 0x100⟩
       let t := (sEp e 9).ctx 9 2
       let w : Constraint := ⟨0x45, 1, 2, 0, 0, 0⟩
       let ws : List (R64 × DomReg) := [(1, ⟨2, 8, 127⟩), (2, ⟨2, 8, 127⟩)]
       let d := (t.d.set 1 ⟨2, 8, 127⟩).set 2 ⟨2, 8, 127⟩
       t.episode = some e ∧ t.store[0]? = some w ∧ (∃ r ∈ w.regs, e.prev.getLsbD r.val = true) ∧ e.used ≠ t.nbud.toNat
       ∧ (narrowVals w (fun r => t.d[r])).toOption = some ws ∧ (∀ q ∈ ws, (t.d[q.1]).meet q.2 = some d[q.1])
       ∧ (∀ r : R64, r ∉ ws.map Prod.fst → d[r] = t.d[r]) ∧ ∀ r : R64, (6 : Word).getLsbD r.val = true ↔ d[r] ≠ t.d[r]) := by
  refine ⟨by rintro _ (rfl | rfl) <;> decide +kernel, by decide +kernel, by decide +kernel⟩
/-- A re-execution of d9 < d1, which leaves no value, and of one whose relation d1 = d2 meets it halfway; and an episode at its budget. -/
theorem test_witness_PropagationEpisodes_fails :
    let e : Episode := ⟨false, 0, 2, 3, 2, 0, 0x100⟩
    let s := (sEp e 9).modCur fun t => { t with store := [⟨0x49, 9, 1, 0, 0, 0⟩] }
    let t := s.ctx 9 2
    t.episode = some e ∧ t.store[0]? = some ⟨0x49, 9, 1, 0, 0, 0⟩ ∧ (∃ r ∈ (⟨0x49, 9, 1, 0, 0, 0⟩ : Constraint).regs, e.prev.getLsbD r.val = true)
    ∧ e.used ≠ t.nbud.toNat ∧ (∃ r : R64, (match narrowVals ⟨0x49, 9, 1, 0, 0, 0⟩ (fun r => t.d[r]) with
      | .error q => decide (q = r)
      | .ok _ => false) = true) ∧ t.run ≠ .halted ∧ t.ftv ≠ 0 ∧ kA.markOk t.ftv = true
    ∧ (let u := (s.modCur fun t => { t with ftv := 0 }).ctx 9 2
       u.ftv = 0 ∧ u.hm = false ∧ u.run ≠ .held ∧ u.run ≠ .halted ∧ u.thv ≠ 0 ∧ kA.markOk u.thv = true ∧ u.replay = none)
    ∧ (let e : Episode := ⟨true, 0, 1, 9, 0, 0, 0x100⟩
       let t := ((sEp e 9).modCur fun t => { t with nbt := true }).ctx 9 2
       t.episode = some e ∧ t.store[0]? = some ⟨0x45, 1, 2, 0, 0, 0⟩ ∧ (e.pass = 1 ∧ e.all = true) ∧ e.used = t.nbud.toNat ∧ t.nbt = true
       ∧ t.hm = false ∧ t.run ≠ .held ∧ t.run ≠ .halted ∧ t.thv ≠ 0 ∧ kA.markOk t.thv = true) := by decide +kernel
/-- The state whose translation of the page at 2^40, to which a3 points, is `leaf`. -/
def sWt (leaf : Nat) (fail : Option Nat) : State := { sA.modCur (fun t => { t with
    a := t.a.set 3 ⟨BitVec.ofNat 56 (2 ^ 40), false, Vector.replicate 6 0⟩
    waitFail := fail }) with
  dies := Vector.replicate 12 ⟨[], [⟨3, 2 ^ 40, 2 ^ 16, BitVec.ofNat 64 leaf⟩]⟩ }
theorem test_witness_WaitingAndStoppingForms_global : ∀ y ∈ [(0x301F1, none, 0), (2 ^ 40 + 0x1F1, none, 1), (0x30001, none, 2), (0x301F1, some (2 ^ 40 / 65536), 0)],
    let s := sWt y.1 y.2.1
    let ea := (s.rdA 3).1
    s.guard yes = true ∧ ea.toNat % 16 = 0 ∧ isScratch ea = false ∧ s.waitAccess 9 2 ea .eq true = none ∧ s.walkHeld 9 2 ea = false
    ∧ s.cur.waitFail = y.2.1 ∧ s.pinnedLoc (some 9) (.mem 0x30000) = false ∧ s.poisonedLoc (.mem 0x30000) 16 = false ∧ s.HandlerReady
    ∧ (match s.physCtx 9 2 false ea.toNat with
      | .ok pa => decide (y.2.2 = 0 ∧ pa = 0x30000)
      | .page => decide (y.2.2 = 1)
      | .perm => decide (y.2.2 = 2)
      | .held => false) = true := by unfold State.HandlerReady; decide +kernel
/-- CKILL of context 1 of the core, and of an id that names no context. -/
theorem test_witness_PrivilegedFormResults_ckill :
    (let s := sH.modCur fun t => { t with g := t.g.set 5 ⟨(ctxUnit 9 1).setWidth 64, false⟩ }
     s.guard yes = true ∧ s.cur.hm = true ∧ (s.core s.env.core).allot = some al ∧ (s.g 5).toNat % 2 ^ 20 = (ctxUnit 9 1).toNat
     ∧ (s.core 9).allot = some al ∧ al.cmask.getLsbD ((9 : CoreId).val % 8) = true ∧ (1 : CtxId).val < al.nctx
     ∧ ((9, 1) : CoreId × CtxId) ≠ (s.env.core, s.env.ctx))
    ∧ sH.cur.run ≠ .held ∧ ∀ (c : CoreId) (x : CtxId), (sH.g 1).toNat % 2 ^ 20 ≠ (ctxUnit c x).toNat := by
  refine ⟨by decide +kernel, by decide +kernel, fun c x h => ?_⟩
  have h1 : (sH.g 1).toNat % 2 ^ 20 = 1 := by decide +kernel
  have h2 : (ctxUnit c x).toNat = 0x10000 + 4 * c.val + x.val := by
    simp only [ctxUnit, BitVec.toNat_ofNat]
    omega
  omega
/-- The state where the line at 2^40, to which a3 points, may be read. -/
def sPre (pins : List Pin) : State := { (sQ .store 0x401008).modCur (fun t => { t with a := t.a.set 3 ⟨BitVec.ofNat 56 (2 ^ 40), false, Vector.replicate 6 0⟩ }) with
  pins := pins }
theorem test_witness_OrderingFormResults_pref : isScratch (sA.ea ⟨2, .disp 0⟩ 1).1 = true
    ∧ (let s := sA.modCur fun t => { t with a := t.a.set 3 ⟨BitVec.ofNat 56 (2 ^ 40), false, Vector.replicate 6 0⟩ }
       isScratch (s.ea ⟨3, .disp 0⟩ 1).1 = false ∧ (match s.physCtx 9 2 false (s.ea ⟨3, .disp 0⟩ 1).1.toNat with
         | .ok _ => true
         | _ => false) = false)
    ∧ ∀ y ∈ [([], false), ([⟨0x30000 / 256, false, 1, .system, 2⟩], true)],
        let s := sPre y.1
        let ea := (s.ea ⟨3, .disp 0⟩ 1).1
        isScratch ea = false ∧ s.physCtx s.env.core s.env.ctx false ea.toNat = .ok 0x30000 ∧ s.pinnedLoc (some s.env.core) (.mem 0x30000) = y.2 := by
  decide +kernel
theorem test_witness_TileFormResults_fates : sT.HandlerReady ∧ shTy (sT.rdShape 0) ≠ shTy (sT.rdShape 1) ∧ sT.rdShape 1 ≠ sT.rdShape 2
    ∧ ¬(15 : R16).val < sT.alloc.tiles ∧ (∃ j : Fin 16, decodeFp fp32 uOp (sctEntry sT.rdSct j.val) ≠ .fin false 0) := by
  unfold State.HandlerReady; decide +kernel
theorem test_witness_TileFormResults_unusable : let s := sT.modCur fun t => { t with sct := 0 }
    ¬∃ j < 16, ∃ m, m ≠ 0 ∧ decodeFp fp32 uOp (sctEntry s.rdSct j) = .fin false m := by
  have h : ∀ j : Fin 16, decodeFp fp32 uOp (sctEntry (sT.modCur fun t => { t with sct := 0 }).rdSct j.val) = .fin false 0 := by decide +kernel
  rintro s ⟨j, hj, m, hm, e⟩
  rw [h ⟨j, hj⟩] at e
  exact hm (by injection e with _ e; exact e.symm)
/-- The core with a load due whose data has come, failed or is poisoned. -/
def sLd (fail : Option (Addr × BitVec 8)) (poison : Option Addr) (dest : LoadDest) : State :=
  (sA.modCore 9 fun k => { k with inflight := [⟨2, 95, .load 4, 0⟩] }).modCur fun t => { t with accs := [{ acc1 (.load false) 0x401008 with
    elems := [⟨0x401008, 8, 0, true, 255⟩], dest := dest, fail := fail, poison := poison }] }
theorem test_witness_ResultsReachTheirRegisters_access : ∀ y ∈ [(none, none), (some ((0x401008 : Addr), (0x18 : BitVec 8)), none), (none, some (0x401008 : Addr))],
    ∀ dest ∈ [LoadDest.none, .g 5 8 true false, .cpyst 3, .sct, .w 63, .gath 0, .tile 3 0x1F1F, .block 99],
      let s := sLd y.1 y.2 dest
      (s.core 9).due = [] ++ ⟨2, 95, .load 4, 0⟩ :: [] ∧ ((s.findAcc 9 2 4).map fun a => (a.performed, a.fail, a.poison, a.dest)) = some (true, y.1, y.2, dest) := by
  decide +kernel
/-- LDT.mx4 of 32 elements whose scale byte is 0: a table with an entry for it, and one without. -/
theorem test_witness_ResultsReachTheirRegisters_mx4 :
    ((sLd none none (.tileMx4 3 0x2001F 0)).findAcc 9 2 4).map (fun a => decide (a.value / 2 ^ (4 * 32) % 256 = 0)) = some true ∧ shElems 0x2001F / 32 = 1
    ∧ (0x00400000 : BitVec 512).toNat / 2 ^ (32 * 0) % 2 ^ 32 = 0x00400000 ∧ ∀ j < 16, (0x3F800000 : BitVec 512).toNat / 2 ^ (32 * j) % 2 ^ 32 ≠ 0x00400000 := by
  decide +kernel
/-- A subscription card for ring 1. -/
def imSub : Nat := 2 ^ 58 + 2 ^ 40 + 2 ^ 64 * (2 ^ 40 + 0x200) + 2 ^ 128 * (32 + 2 ^ 24 * 3) + 2 ^ 192 * 64 + 2 ^ 320
/-- The core with a SUBSCR or CPY whose card is `im`. -/
def sCd (im : Nat) (dest : LoadDest) (poison : Option Addr) : State :=
  { (sLd none none .none).modCur fun t => { t with accs := [{ acc1 (.load false) 0x401000 with
      elems := (List.range 8).map fun i => ⟨BitVec.ofNat 56 (0x401000 + 8 * i), 8, 0, true, BitVec.ofNat 64 (im / 2 ^ (64 * i))⟩, dest := dest, poison := poison }] } with
    jobs := [{ job1 .copy with image := some 0, promise := some 6000 }] }
/-- The destinations of a card, poisoned or not. -/
def cards : List (LoadDest × Option Addr) :=
  [(.subCard 5 0x401000, none), (.card 5 0, none), (.card 5 1, none), (.subCard 5 0x401000, some 0x401008), (.card 5 0, some 0x401008)]
theorem test_witness_ResultsReachTheirRegisters_cards : (∀ y ∈ cards, ((sCd imSub y.1 y.2).core 9).due = [] ++ ⟨2, 95, .load 4, 0⟩ :: [])
    ∧ ∀ y ∈ cards, (((sCd imSub y.1 y.2).findAcc 9 2 4).map fun a => (a.performed, a.fail, a.poison, a.dest)) = some (true, none, y.2, y.1) := by decide +kernel
theorem test_witness_ResultsReachTheirRegisters_jobs : let s := sCd imSub (.card 5 0) none
    ((s.findAcc 9 2 4).map Access.value) = some imSub ∧ ((s.job 0).map fun q => q.image.isSome) = some true ∧ (s.job 1).isNone = true := by
  decide +kernel
theorem test_witness_ResultsReachTheirRegisters_subscriptions : ∀ y ∈ [(none, some ub), (some rg, some ub), (some rg, none)],
    let k := ((sCd imSub (.subCard 5 0x401000) none).modCore 9 fun k => { k with rings := k.rings.set 1 y.1, subs := k.subs.set 1 y.2 }).core 9
    Fin.ofNat 4 (imSub / 2 ^ 58) = (1 : Fin 4) ∧ k.rings[(1 : Fin 4)] = y.1 ∧ k.subs[(1 : Fin 4)] = y.2 ∧ ∀ i < rg.n, memReadN k.vault (rg.flag i) 4 = 0 := by
  decide +kernel
theorem test_witness_ResultsReachTheirRegisters_subCard : ub.endCode = none ∧ subValid imSub = true ∧ subValid (imSub + 2 ^ 323) = false
    ∧ cardLen0 imSub * cardRuns imSub (imSub / 2 ^ 320 % 8 - 1) ≤ rg.z := by decide +kernel
theorem test_witness_ResultsReachTheirRegisters_clears :
    let s := sA.modCore 9 fun k => { k with inflight := [⟨2, 95, .flags, 5⟩, ⟨2, 95, .cr 0x011 1, 0⟩] }
    (s.core 9).due = [⟨2, 95, .flags, 5⟩] ++ ⟨2, 95, .cr 0x011 1, 0⟩ :: [] ∧ (s.ctx 9 2).accs = [] := by decide +kernel
theorem internT_leaves (l : Nat) (a b : Bool) (w : Work) : internT (.node l (.leaf a) (.leaf b)) w = mkNode l (bit1 a) (bit1 b) (w.1, w.2.1 + 1, w.2.2) := by
  unfold internT
  by_cases h : Config.choose w.2.1 % 2 = 0 <;> simp [h, internT]
/-- A DDNOT of the first variable in a space without room for one node more. -/
def dd1 : DdEntry := { dd0 with opc := 0x26 }
def spFull : Space := { sp0 with hwm := 0 }
def sFull : State := { sB dd1 with spaces := [spFull] }
theorem ddDo_full : ddDo (sFull.core 9) 9 dd1 (spFull, sFull.choices, 0) = ⟨0, 0, 0, [], (spFull, sFull.choices + 1, 0), true⟩ := by
  show ddBuild (.node 0 (.leaf true) (.leaf false)) (spFull, sFull.choices, 0) = _
  unfold ddBuild
  rw [internT_leaves]
  rfl
theorem test_witness_BrackenForms_full : sFull.spaceOf 9 = some spFull ∧ sFull.offered 9 = some (2, dd1) ∧ sFull.inEngine spFull.group = [] ∧ dd1.barrier = false
    ∧ sFull.poolCheck 9 dd1.ctx spFull (dd1.touched spFull (ddDo (sFull.core 9) 9 dd1 (spFull, sFull.choices, 0)).work.1) = (none, false)
    ∧ (ddDo (sFull.core 9) 9 dd1 (spFull, sFull.choices, 0)).full = true := by
  rw [ddDo_full]
  decide +kernel
theorem test_witness_BrackenForms_halted : let d : DdEntry := { dd0 with accepted := true, abandoned := true }
    let s := (sB d).modCur fun t => { t with run := .halted }
    (s.core 9).ddq[2] = some d ∧ d.accepted = true ∧ d.abandoned = true ∧ (s.ctx 9 d.ctx).run = .halted ∧ memWf (s.core 9).vault = true := by decide +kernel
theorem test_witness_WatchEvents_split : kA.splitAt = none := by rfl
theorem test_witness_JobsEnd_far :
    (let j : Job := { farJob with moved := [0, 1], acked := 1 }
     (sJ j).job 0 = some j ∧ ¬(cardFar j.im = true → j.moved.length ≤ j.acked))
    ∧ (let j : Job := { farJob with moved := [0, 1], acked := 2 }
       (sJ j).job 0 = some j ∧ (cardFar j.im = true → j.moved.length ≤ j.acked) ∧ j.status = none ∧ j.image ≠ none ∧ j.allMoved = true) := by decide +kernel
/-- The state with the host port down, and in recovery. -/
def sDown (s : State) : State := { s with hub := { s.hub with ports := s.hub.ports.set 0 ⟨false, 0, 0, [], 0, none, []⟩ } }
def sRec (s : State) : State := { s with mon := { s.mon with recovery := true } }
theorem test_witness_WalksRepliesAndTrapQueue_up : ((sA.hub.ports[(0 : Fin 9)]).up = true ∧ sA.mon.recovery = false)
    ∧ ¬(((sDown sA).hub.ports[(0 : Fin 9)]).up = true ∧ (sDown sA).mon.recovery = false)
    ∧ ¬(((sRec sA).hub.ports[(0 : Fin 9)]).up = true ∧ (sRec sA).mon.recovery = false) := by decide +kernel
theorem test_witness_QueueEvents_aligned :
    let b := rSignal 0 0 0xFFFFFFFF 0x8000
    let s := sR hdr0 [(0x5020 + 128, b)] [] false
    let t := { s with queues := s.queues.set 7 { s.queues[(7 : Fin 4096)] with base := 0x5020 } }
    t.headRec 7 = b ∧ t.mayDispatch 7 = true ∧ t.hasWork 7 = true ∧ t.waitingAt 7 = none ∧ (∀ y ∈ t.records, y.id < t.nextRec) ∧ t.roomFor 3 = true
    ∧ ((t.queues[(7 : Fin 4096)]).base.toNat % 64 != 0) = true ∧ recBad (t.queues[(7 : Fin 4096)]).mgmt b = false := by decide +kernel
theorem test_witness_RecordsComplete_held :
    let x := mkR 3 rCopy false false none []
    let s := { sR hdr0 [] [x] false with commit := some ⟨{ lay0 with parts := [{ p0 with heaths := 0x2 }] }, [], none, false, 0⟩ }
    s.running 3 2 = some x ∧ s.recAffected x = true ∧ (sR hdr0 [] [x] false).recAffected x = false := by decide +kernel
theorem test_witness_LayoutEvents_room : ((sY 8).hub.ports[(0 : Fin 9)]).up = true ∧ (sR hdr0 [] [] false).roomFor 3 = true
    ∧ ∀ p ∈ lay0.parts, p.suspended = false := by decide +kernel
theorem test_witness_ResetEvents_waits : let s := { sA with layout := lay0 }
    (s.hub.ports[(0 : Fin 9)]).up = true ∧ s.mon.recovery = false ∧ s.hub.presets = [] := by decide +kernel
theorem test_witness_AttestationAndRecovery_ports : (sA.hub.ports[(0 : Fin 9)]).up = true ∧ ¬((sDown sA).hub.ports[(0 : Fin 9)]).up = true
    ∧ (let s := { sA with mon := { sA.mon with verifying := true } }
       s.mon.verifying = true ∧ verifyImage 1 (memBytes s.mon.mailbox 0 (128 + min (memReadN s.mon.mailbox 0x0C 4) 130944)) = none) := by decide +kernel
theorem test_witness_Links_waiting :
    let x : Tx := .cpl 3 0 5 0 [1, 2, 3, 4]
    let s := { sA with hub := { sA.hub with ports := sA.hub.ports.set 2 ⟨true, 9, 5, [(8, [])], 0, none, [x]⟩ } }
    let q := s.hub.ports[(2 : Fin 9)]
    q.up = true ∧ q.waiting = [x] ∧ (q.buffer.filter fun b => decide (2048 ≤ ((8 : BitVec 12) - b.1).toNat)).length + x.data.length / 244 + 1 ≤ 256
    ∧ s.hub.hostQ = [] ∧ ((sA.hub.ports[(2 : Fin 9)]).waiting = []) ∧ ((sDown sA).hub.ports[(0 : Fin 9)]).up = false := by decide +kernel
theorem test_witness_Links_hostQ : let s := { sA with hub := { sA.hub with hostQ := [⟨3, 0x9000, [1, 2, 3, 4]⟩] } }
    s.hub.hostQ.length ≤ 256 ∧ (∀ w ∈ s.hub.hostQ, w.data.length < 244) := by decide +kernel
theorem test_witness_HostTransactions_kept : (sM 0x301F1).PortIdle 0 ∧ (sM 0x301F1).mon.recovery = false
    ∧ (∀ i < 8, (sM 0x301F1).pinnedLoc none (.mem (0x30FF8 + i)) = false)
    ∧ ¬(∀ i < 8, ({ sM 0x301F1 with pins := [⟨0x30FF8 / 256, false, 9, .system, 2⟩] } : State).pinnedLoc none (.mem (0x30FF8 + i)) = false)
    ∧ (∀ n ∈ [1, 2, 4, 8, 512], (2 ^ 40 + 0xE00) % 4096 + n ≤ 4096 ∧ (2 ^ 40 + 0xE00) % n = 0) ∧ ¬((2 ^ 40 + 0xE01) % 2 = 0)
    ∧ (sM 2).hubPhys 3 .host false (2 ^ 40) = .held ∧ (sM 2).hubPhys 3 .host true (2 ^ 40) = .held := by
  unfold State.PortIdle; decide +kernel
theorem test_witness_PeerTransactions_write : sF.PortIdle 2 ∧ sF.mon.recovery = false ∧ sF.hubPhys 3 .host true (2 ^ 40) = .ok 0x30000 ∧ memWf sF.gmem = true
    ∧ (∀ i < 4, sF.pinnedLoc none (.mem (0x30000 + i)) = false) ∧ sF.portUp 2 = true := by unfold State.PortIdle; decide +kernel
theorem test_witness_PeerTransactions_retries : ∀ r ∈ [(⟨5000, 0, 3, 0, .mwr 4 (BitVec.ofNat 56 (2 ^ 40)) [1, 2]⟩ : Retry), ⟨5000, 2, 3, 0, .mwr 4 (BitVec.ofNat 56 (2 ^ 40)) [1, 2]⟩,
      ⟨5000, 2, 3, 0, .atom 4 .add .u true (BitVec.ofNat 56 (2 ^ 40)) 1 2⟩],
    let s := { sF with hub := { sF.hub with retries := [⟨5001, 1, 3, 0, .mrd 4 0 8⟩, r] } }
    (s.hub.retries.find? fun r => decide (r.tick ≤ s.cyc.toNat)) = some r ∧ s.portUp r.port = true ∧ r.f.toNat < 96
    ∧ ∀ q ∈ [(⟨5001, 1, 3, 0, .mrd 4 0 8⟩ : Retry)], s.cyc.toNat < q.tick := by decide +kernel
theorem test_witness_StepRunsTheDecodedInstruction_inbox :
    (let s := { State.reset with inbox := [(0, .corrected)] }
     s.inbox = (0, .corrected) :: [] ∧ 0 ≤ s.cyc.toNat ∧ ∀ j, Input.corrected ≠ .instr j)
    ∧ (let s := { State.reset with inbox := [(0, .instr (.droopAlarm 3))], turn := 4 }
       s.inbox = (0, .instr (.droopAlarm 3)) :: [] ∧ isInput (.droopAlarm 3) = true ∧ 0 = s.cyc.toNat ∧ (3 : CoreId).val < s.turn) :=
  ⟨⟨rfl, by decide, fun _ h => nomatch h⟩, by decide +kernel⟩
/-- A bundle whose slots 4 and 6 write block 0: LDQ with g0, and MZERO. -/
def sBlk : State := marked (State.reset.withFetchWord 112 (0x5000 + 2 ^ 16 * ((encode (.ldq yes ⟨0, .ctx⟩ 0 ⟨0, .disp 0⟩)).getD 0) + 2 ^ 64 * ((encode (.mzero yes none 0)).getD 0)))
theorem test_witness_TrapsAtIssue_block : (match (sBlk.core 0).decodeAt 0 with
      | .bundle b => !writeConflict b.slots && (sBlk.openBundle 0 0 0 b).blockConflict
      | _ => false) = true
    ∧ (let s := sTwo.modCtx 0 0 fun t => { t with replay := some [] }
       (s.ctx 0 0).replay ≠ none ∧ (s.ctx 0 0).frame.sr = 0) := by decide +kernel

/-! ### Single steps, their results worked out by hand from the rules -/

/-- The last result an instruction sends from the state. -/
def sent (i : Instr) (s : State) : Option (Nat × Wr) :=
  match exec i s with
  | .next t => (t.core 9).inflight.getLast?.map fun f => (f.due, f.wr)
  | _ => none
/-- The state with g1, g2 and g3 set, g1 tainted. -/
def sX (x y z : Word) : State := sA.modCur fun t => { t with g := ((t.g.set 1 ⟨x, true⟩).set 2 ⟨y, false⟩).set 3 ⟨z, false⟩ }

/-- 09 R100, R101: the sum wraps, and the taint of g1 goes with it. -/
theorem test_add_wraps : sent (.add yes 4 1 2) (sX 0xFFFFFFFFFFFFFFFF 2 0) = some (96, .g 4 1 true) := by decide +kernel
/-- 09 R101: division by 0 gives 0 and the remainder the dividend. -/
theorem test_div_by_zero : (sent (.divs yes 4 2 3) (sX 0 7 0)).map (·.2) = some (.g 4 0 false) := by decide +kernel
theorem test_rem_by_zero : (sent (.rem yes .s 4 2 3) (sX 0 7 0)).map (·.2) = some (.g 4 7 false) := by decide +kernel
/-- 09 Table 9.4: the quotient of -7 by 2 is truncated towards 0, the shift rounds down. -/
theorem test_div_sra : (sent (.divs yes 4 2 3) (sX 0 0xFFFFFFFFFFFFFFF9 2)).map (·.2) = some (.g 4 0xFFFFFFFFFFFFFFFD false)
    ∧ (sent (.sra yes 4 2 3) (sX 0 0xFFFFFFFFFFFFFFF9 1)).map (·.2) = some (.g 4 0xFFFFFFFFFFFFFFFC false) := by decide +kernel
/-- 09 R103: 4 bits of 0xABCD from bit 8, and sign-extended. -/
theorem test_bfx : (sent (.bfx yes .u 4 2 3) (sX 0 0xABCD 0x0408)).map (·.2) = some (.g 4 0xB false)
    ∧ (sent (.bfx yes .s 4 2 3) (sX 0 0xABCD 0x0408)).map (·.2) = some (.g 4 0xFFFFFFFFFFFFFFFB false) := by decide +kernel
/-- 09 R106: `.pair` writes the negation to the next predicate; p0 discards. -/
theorem test_cmp_pair : sent (.cmp yes true .ltu 0 2 3) (sX 0 1 2) = some (96, .p 1 false) := by decide +kernel
/-- 05 R59: a false guard leaves the state as it was. -/
theorem test_guard_false : exec (.add no 4 1 2) sA = .next sA := by rfl
/-- 10 R141: a byte load sign-extends nothing before its result is visible; the store of g1 waits in program order. -/
theorem test_store_waits : (match exec (.st yes .w ⟨0, .ctx⟩ 1 ⟨2, .disp 1⟩) (sX 0x1122334455667788 0 0) with
    | .next t => decide (((t.ctx 9 2).accs.map fun a => a.elems) = [[⟨0x401004, 4, 0x55667788, false, 0⟩]]) && decide ((t.core 9).vault = kA.vault)
    | _ => false) = true := by decide +kernel
/-- 24 R363: TRET outside handler mode enters the handler at cr.thv with cause 0x04. -/
theorem test_privileged_trap : (match exec (.tret yes) sA with
    | .next t => (t.ctx 9 2).hm && decide ((t.ctx 9 2).pc = 0x80) && decide ((t.ctx 9 2).frame.cause = 4) && decide ((t.ctx 9 2).frame.sr = 1)
    | _ => false) = true := by decide +kernel
/-- 15 Table 15.5: d9 in [9, 16] and d1 in [1, 8] with d9 < d1 leave no value: the form fails. -/
theorem test_narrow : (match exec (.nlt yes false 9 1) sA with
    | .next t => t.env.discard && decide ((t.ctx 9 2).nstat.fail = true)
    | _ => false) = true := by decide +kernel
/-- 13 R189: 1.5 + 1.5 = 3 in FP32, lane 0. -/
theorem test_vadd : (match sent (.vadd yes .f32 .rn 4 1 1) (sA.modCur fun t => { t with w := t.w.set 1 0x3FC00000 }) with
    | some (99, .w d v) => decide (d = 4) && decide (laneOf 32 0 v = 0x40400000) && decide (laneOf 32 1 v = 0)
    | _ => false) = true := by decide +kernel
/-- 13 R195: 200 + 100 in U8 saturates to 255. -/
theorem test_viadd_sat : (match sent (.viadd yes .u8 true 4 1 2) (sA.modCur fun t => { t with w := (t.w.set 1 200).set 2 100 }) with
    | some (_, .w _ v) => decide (laneOf 8 0 v = 255)
    | _ => false) = true := by decide +kernel
/-- 09 Table 9.8: the bundle of 08 Table 8.12 runs as the first step after reset: MOVC sends cr.cid to g1, MOVI 2 to g3, and fetch goes on to the end of
the bank, where nothing stands. -/
theorem test_first_step : (match step sG with
    | .next t => decide ((t.core 0).step = 1) && decide (((t.core 0).inflight.map fun f => f.wr).getLast? = some (.g 3 2 false)) && decide ((t.ctx 0 0).pc = 0x20000)
    | _ => false) = true := by decide +kernel
/-- 27 R400: OPSEL to a lower point sets SET and the settling time. -/
theorem test_opsel : (match exec (.opselI yes 4) sA with
    | .next t => decide ((t.core 9).opp = ⟨40, 7, 4, true, 7⟩)
    | _ => false) = true := by decide +kernel
/-- 26 R394: the digest of "abc", as FIPS 180-4 prints its first bytes. -/
theorem test_sha512 : (sha512Bytes [0x61, 0x62, 0x63]).take 4 = [0xdd, 0xaf, 0x35, 0xa1] := by decide +kernel
/-- A number as `n` bytes, the greatest first. -/
def bigBytes (n v : Nat) : List Byte := (leBytes n v).reverse
/-- 26 R394: test 1 of RFC 8032, section 7.1: the signature of the empty message verifies, and not that of another. -/
theorem test_ed25519 :
    let key := leNat (bigBytes 32 0xd75a980182b10ab7d54bfed3c964073a0ee172f3daa62325af021a68f707511a)
    let sig := bigBytes 64 0xe5564300c360ac729086e2cc806e828a84877f1eb8e5d974d873e065224901555fb8821590a33bacc61e39701cf9b46bd25bf5f0595bbe24655141438e7a100b
    edVerify key [] sig = true ∧ edVerify key [0] sig = false := by decide +kernel

end Sys2Proof.Tests
end

section
/-!
The reset state (03 R32, 12 R172, 23 Table 23.4, 24 Table 24.2): what a control register reads at reset, a descriptor of a queue, and
the memories.
-/
namespace Sys2Proof.Machine

/-! ### Reset -/

@[simp] theorem State.core_reset (c : CoreId) : State.reset.core c = Core.reset := by
  simp [State.core, State.reset]
@[simp] theorem State.ctx_reset (c : CoreId) (x : CtxId) : State.reset.ctx c x = Ctx.reset := by
  simp [State.ctx, Core.reset]
@[simp] theorem State.core_modEnv (s : State) (f : Env → Env) (c : CoreId) : (s.modEnv f).core c = s.core c := rfl
@[simp] theorem State.ctx_modEnv (s : State) (f : Env → Env) (c : CoreId) (x : CtxId) : (s.modEnv f).ctx c x = s.ctx c x := rfl

/-- At reset nothing is replayed and no bundle has read a control register: a read finds the register itself. -/
theorem State.rdCr_reset (c : CoreId) (x : CtxId) (n : BitVec 10) :
    (State.reset.modEnv fun e => { e with core := c, ctx := x }).rdCr n
      = (State.reset.modEnv fun e => { e with core := c, ctx := x }).crNow c x n := by
  have hr : (State.reset.modEnv fun e => { e with core := c, ctx := x }).cur.replay = none := by
    simp [State.cur, Ctx.reset]
  simp only [State.rdCr, State.snap, hr]
  rfl

theorem State.awaited_reset (c : CoreId) (x : CtxId) :
    (State.reset.modEnv fun e => { e with core := c, ctx := x }).awaited c x = 0 := by
  rw [State.awaited, State.ctx_modEnv, State.ctx_reset]
  rfl

/-- cr.mshp0 to cr.mshp15 (08 Table 8.11). -/
theorem State.crNow_mshp (s : State) (c : CoreId) (x : CtxId) (k : R16) :
    s.crNow c x (BitVec.ofNat 10 (0x100 + k.val)) = ((s.ctx c x).mshp[k]).setWidth 64 := by
  have hn : (BitVec.ofNat 10 (0x100 + k.val)).toNat = 0x100 + k.val := by
    rw [BitVec.toNat_ofNat]
    omega
  simp only [State.crNow, hn]
  repeat rw [if_neg (by omega)]
  rw [if_pos (by omega)]
  simp only [Nat.add_sub_cancel_left, Fin.ofNat_val_eq_self]

/-- The entries of the scale table (12 R172). -/
theorem State.crNow_sct (s : State) (c : CoreId) (x : CtxId) (k : R16) :
    s.crNow c x (BitVec.ofNat 10 (0x030 + k.val)) = ((s.ctx c x).sct.extractLsb' (32 * k.val) 32).setWidth 64 := by
  have hn : (BitVec.ofNat 10 (0x030 + k.val)).toNat = 0x030 + k.val := by
    rw [BitVec.toNat_ofNat]
    omega
  simp only [State.crNow, hn]
  repeat rw [if_neg (by omega)]
  rw [if_pos (by omega), Nat.add_sub_cancel_left]

/-- cr.tsv0 to cr.tsv7 (24 R364). -/
theorem State.crNow_tsv (s : State) (c : CoreId) (x : CtxId) (k : R8) :
    s.crNow c x (BitVec.ofNat 10 (0x208 + k.val)) = (s.ctx c x).tsv[k] := by
  have hn : (BitVec.ofNat 10 (0x208 + k.val)).toNat = 0x208 + k.val := by
    rw [BitVec.toNat_ofNat]
    omega
  simp only [State.crNow, hn]
  repeat rw [if_neg (by omega)]
  rw [if_pos (by omega)]
  simp only [Nat.add_sub_cancel_left, Fin.ofNat_val_eq_self]

/-- Every entry of the scale table at launch is 1.0 (12 R172). -/
theorem sctLaunch_entry : ∀ k : R16, sctLaunch.extractLsb' (32 * k.val) 32 = 0x3F800000 := by
  decide +kernel

/-- A queue descriptor at reset, whichever function owns it (23 Table 23.4). -/
theorem State.queue_reset (q : Fin 4096) : ∃ o, State.reset.queues[q] = { Queue.reset with owner := o } := by
  have e : State.reset.queues = (Vector.replicate 4096 Queue.reset).set 0 { Queue.reset with owner := some 96 } := rfl
  rw [e, Fin.getElem_fin]
  by_cases hq : 0 = q.val
  · exact ⟨some 96, by simp only [← hq, Vector.getElem_set_self]⟩
  · exact ⟨none, by rw [Vector.getElem_set_ne _ _ hq, Vector.getElem_replicate]; rfl⟩

theorem State.canonicalMemory_reset : State.reset.CanonicalMemory := by
  refine ⟨rfl, rfl, rfl, rfl, fun k hk => ?_, fun g hg => absurd hg List.not_mem_nil⟩
  have e : State.reset.cores.toList = List.replicate 192 Core.reset := Vector.toList_replicate
  rw [e] at hk
  rw [List.eq_of_mem_replicate hk]
  exact ⟨rfl, rfl, rfl⟩

/-- Settles O57: each register, descriptor and memory at reset, through what reads it. -/
theorem resetState : Obligations.ResetState := by
  refine ⟨fun c x => ⟨?_, ?_, fun k => ?_, fun k => ?_, fun k => ?_⟩, fun q => ?_, rfl, rfl, rfl, State.canonicalMemory_reset⟩
  · simp only [State.rdCr_reset, List.forall_mem_cons, State.crNow, State.awaited_reset, State.ctx_modEnv, State.ctx_reset]
    exact ⟨rfl, rfl, rfl, rfl, rfl, rfl, rfl, rfl, rfl, rfl, rfl, rfl, fun _ h => absurd h List.not_mem_nil⟩
  · simp only [State.rdCr_reset, State.crNow, State.ctx_modEnv, State.ctx_reset]
    rfl
  · rw [State.rdCr_reset, State.crNow_mshp, State.ctx_modEnv, State.ctx_reset]
    simp [Ctx.reset]
  · rw [State.rdCr_reset, State.crNow_sct, State.ctx_modEnv, State.ctx_reset]
    exact congrArg (BitVec.setWidth 64) (sctLaunch_entry k)
  · rw [State.rdCr_reset, State.crNow_tsv, State.ctx_modEnv, State.ctx_reset]
    simp [Ctx.reset]
  · obtain ⟨o, h⟩ := State.queue_reset q
    rw [h]
    exact ⟨rfl, rfl, rfl, rfl, rfl, rfl, rfl⟩

end Sys2Proof.Machine
end

section
/-!
Steps without a bundle (03 R34, R36, 09 R123): the selector's rotation, and IDLE_STEP case by case.
-/
namespace Sys2Proof.Machine

/-! ### The selector (03 R34) -/

theorem Ctx.selectable_iff (t : Ctx) : t.selectable = true ↔ t.run = .ready ∧ t.stopping = false := by
  simp [Ctx.selectable]

/-- The order in which the selector asks the contexts after `last`. -/
def rotation (last : CtxId) : List CtxId := [last + 1, last + 2, last + 3, last]

/-- The place of a context in the rotation after `last`. -/
def afterLast (last y : CtxId) : Nat := (y.val + 3 - last.val) % 4

theorem mem_rotation : ∀ last y : CtxId, y ∈ rotation last := by decide

theorem rotation_pairwise : ∀ last : CtxId, (rotation last).Pairwise fun y z => afterLast last y ≤ afterLast last z := by decide

/-- Is the priority bit set of some context that is able to run? -/
def Core.highReady (k : Core) : Bool := (List.finRange 4).any fun x => (k.ctxs[x]).selectable && (k.ctxs[x]).pri

theorem Core.highReady_iff (k : Core) : k.highReady = true ↔ ∃ x : CtxId, (k.ctxs[x]).selectable = true ∧ (k.ctxs[x]).pri = true := by
  simp [Core.highReady]

/-- The selector takes the first in rotation of those able to run with the highest priority. -/
theorem selectFrom_eq_find (k : Core) (last : CtxId) : selectFrom k last
    = (rotation last).find? fun x => (k.ctxs[x]).selectable && (k.ctxs[x]).pri == k.highReady := by
  simp only [selectFrom, rotation, Core.highReady, List.any_filter, List.contains_eq_mem, List.mem_filter, List.mem_finRange,
    true_and, Bool.decide_eq_true]

/-- What the selector finds when some context is able to run: one of the highest priority, the next in rotation of those. -/
theorem selectFrom_of_able {k : Core} (last : CtxId) (h : ∃ y : CtxId, (k.ctxs[y]).selectable = true) :
    ∃ y : CtxId, selectFrom k last = some y ∧ (k.ctxs[y]).selectable = true
      ∧ (∀ z : CtxId, (k.ctxs[z]).selectable = true → (k.ctxs[z]).pri = true → (k.ctxs[y]).pri = true)
      ∧ ∀ z : CtxId, (k.ctxs[z]).selectable = true → (k.ctxs[z]).pri = (k.ctxs[y]).pri → afterLast last y ≤ afterLast last z := by
  let P (x : CtxId) : Bool := (k.ctxs[x]).selectable && (k.ctxs[x]).pri == k.highReady
  have hP (x : CtxId) : P x = true ↔ (k.ctxs[x]).selectable = true ∧ (k.ctxs[x]).pri = k.highReady := by simp [P]
  have hsome : ∃ x, P x = true := by
    cases hh : k.highReady with
    | true =>
      obtain ⟨x, hx, hp⟩ := k.highReady_iff.1 hh
      exact ⟨x, (hP x).2 ⟨hx, hp.trans hh.symm⟩⟩
    | false =>
      obtain ⟨x, hx⟩ := h
      refine ⟨x, (hP x).2 ⟨hx, ?_⟩⟩
      rw [hh, ← Bool.not_eq_true]
      exact fun hp => by simp [k.highReady_iff.2 ⟨x, hx, hp⟩] at hh
  obtain ⟨x, hx⟩ := hsome
  obtain ⟨y, hy⟩ := Option.isSome_iff_exists.1 (List.find?_isSome.2 ⟨x, mem_rotation last x, hx⟩)
  obtain ⟨hPy, as, bs, hl, has⟩ := List.find?_eq_some_iff_append.1 hy
  obtain ⟨hsel, hpri⟩ := (hP y).1 hPy
  refine ⟨y, (selectFrom_eq_find k last).trans hy, hsel, fun z hz hp => hpri.trans (k.highReady_iff.2 ⟨z, hz, hp⟩),
    fun z hz hp => ?_⟩
  have hPz : P z = true := (hP z).2 ⟨hz, hp.trans hpri⟩
  have hzl := mem_rotation last z
  have hord := rotation_pairwise last
  rw [hl] at hzl hord
  rcases List.mem_append.1 hzl with hz | hz
  · exact absurd hPz (by simpa using has z hz)
  · rcases List.mem_cons.1 hz with rfl | hz
    · exact Nat.le_refl _
    · exact (List.pairwise_cons.1 (List.pairwise_append.1 hord).2.1).1 z hz

/-- With nobody able to run the selector finds nobody. -/
theorem selectFrom_eq_none {k : Core} (last : CtxId) (h : ∀ y : CtxId, (k.ctxs[y]).selectable = false) :
    selectFrom k last = none := by
  rw [selectFrom_eq_find, List.find?_eq_none]
  intro y _
  rw [h y, Bool.false_and]
  exact Bool.false_ne_true

theorem Core.select_of_none {k : Core} (h : selectFrom k (if k.fresh then 3 else k.last) = none) :
    k.select = { k with current := none } := by
  simp only [Core.select, h]

theorem Core.select_of_some {k : Core} {y : CtxId} (h : selectFrom k (if k.fresh then 3 else k.last) = some y) :
    k.select = ({ k with current := some y, switching := !k.fresh && y != k.last, last := y, fresh := false } : Core).modCtx y
      fun t => { t with run := .running } := by
  simp only [Core.select, h]

/-- Pending priority writes leave what makes a context selectable. -/
theorem Core.applyPri_selectable (k : Core) (y : CtxId) : (k.applyPri.ctxs[y]).selectable = (k.ctxs[y]).selectable := by
  simp only [Core.applyPri, Fin.getElem_fin, Vector.getElem_map]
  split <;> rfl

/-- Without a pending priority write nothing changes. -/
theorem Core.applyPri_of_none {k : Core} (h : ∀ y : CtxId, (k.ctxs[y]).priNext = none) : k.applyPri = k := by
  have e : k.applyPri.ctxs = k.ctxs := by
    refine Vector.ext fun i hi => ?_
    have hn : k.ctxs[i].priNext = none := h ⟨i, hi⟩
    simp only [Core.applyPri, Vector.getElem_map, hn]
  calc k.applyPri = { k with ctxs := k.applyPri.ctxs } := rfl
    _ = k := by rw [e]

/-! ### IDLE_STEP, case by case -/

/-- A core one step later. -/
def Core.tick (k : Core) : Core := { k with step := k.step + 1 }
@[simp] theorem Core.tick_ctxs (k : Core) : k.tick.ctxs = k.ctxs := rfl
theorem State.ctx_eq (s : State) (c : CoreId) (x : CtxId) : s.ctx c x = (s.core c).ctxs[x] := rfl

/-- A core with a context in place: a switch step, a fetch bubble, or nothing. -/
theorem exec_idleStep_current {s : State} {c : CoreId} {x : CtxId} (hc : (s.core c).current = some x) :
    exec (.idleStep c) s = .next (
      if (s.core c).switching then s.modCore c fun k => Core.tick { k with switching := false }
      else if 0 < ((s.core c).ctxs[x]).bubbles then (s.modCtx c x fun t => { t with bubbles := t.bubbles - 1 }).modCore c Core.tick
      else s) := by
  show execIdleStep c s = _
  simp only [execIdleStep, hc, Option.isNone_some, Bool.false_eq_true, if_false]
  rfl

/-- A core without one selects first. -/
theorem exec_idleStep_selects {s : State} {c : CoreId} {x : CtxId} (hc : (s.core c).current = none)
    (hx : ((s.core c).applyPri.select).current = some x) :
    exec (.idleStep c) s = exec (.idleStep c) (s.modCore c fun k => k.applyPri.select) := by
  show execIdleStep c s = execIdleStep c _
  simp only [execIdleStep, hc, hx, State.core_modCore, Option.isNone_none, Option.isNone_some, Bool.false_eq_true, if_true, if_false]

/-- A core with nobody to run takes an idle step. -/
theorem exec_idleStep_nobody {s : State} {c : CoreId} (hc : (s.core c).current = none)
    (h : ∀ y : CtxId, ((s.core c).ctxs[y]).selectable = false) :
    exec (.idleStep c) s = .next (s.setCore c (s.core c).applyPri.tick) := by
  have hcp : (s.core c).applyPri.current = none := hc
  have hsel : (s.core c).applyPri.select = (s.core c).applyPri := by
    rw [Core.select_of_none (selectFrom_eq_none _ fun y => by rw [Core.applyPri_selectable, h y])]
    exact congrArg (fun o => { (s.core c).applyPri with current := o }) hcp.symm
  calc exec (.idleStep c) s = .next ((s.modCore c fun k => k.applyPri.select).modCore c Core.tick) := by
        show execIdleStep c s = _
        simp only [execIdleStep, hc, State.core_modCore, hsel, hcp, Option.isNone_none, if_true]
        rfl
    _ = .next (s.setCore c (s.core c).applyPri.select.tick) := by rw [State.modCore_modCore]; rfl
    _ = _ := by rw [hsel]

/-- A fetch bubble passes. -/
theorem exec_idleStep_bubble {s : State} {c : CoreId} {x : CtxId} (hc : (s.core c).current = some x)
    (h : (s.core c).switching = false) (hb : 0 < ((s.core c).ctxs[x]).bubbles) :
    Does (.idleStep c) s fun t => t.core c = ((s.core c).modCtx x fun t => { t with bubbles := t.bubbles - 1 }).tick := by
  refine ⟨_, (exec_idleStep_current hc).trans (by rw [h, if_neg Bool.false_ne_true, if_pos hb]), ?_⟩
  dsimp only
  rw [State.core_modCore, State.modCtx, State.core_modCore]

/-- A core whose selector chooses a context: it is in place and runs, after a switch step where it is not the one that ran last,
and else after a fetch bubble at most. -/
theorem exec_idleStep_chosen {s : State} {c : CoreId} {y : CtxId} (hc : (s.core c).current = none) (hf : (s.core c).fresh = false)
    (hp : (s.core c).applyPri = s.core c) (hy : selectFrom (s.core c) (s.core c).last = some y) :
    Does (.idleStep c) s fun t => (t.core c).current = some y ∧ (t.ctx c y).run = .running ∧ (t.core c).switching = false
      ∧ (y ≠ (s.core c).last → (t.core c).step = (s.core c).step + 1)
      ∧ (y = (s.core c).last → ((s.core c).ctxs[y]).bubbles = 0 → (t.core c).step = (s.core c).step) := by
  let k : Core := ({ s.core c with
    current := some y
    switching := y != (s.core c).last
    last := y
    fresh := false } : Core).modCtx y fun t => { t with run := .running }
  have hk : (s.core c).applyPri.select = k := by
    rw [hp, Core.select_of_some (by rw [hf]; exact hy), hf]
    rfl
  have hrun : k.ctxs[y] = { (s.core c).ctxs[y] with run := .running } := Core.ctx_modCtx _ _ _
  have hu : (s.modCore c fun k => k.applyPri.select).core c = k := (s.core_modCore c _).trans hk
  have e := (exec_idleStep_selects (x := y) hc (by rw [hk]; rfl)).trans (exec_idleStep_current (x := y) (by rw [hu]; rfl))
  refine ⟨_, e, ?_⟩
  rw [hu]
  by_cases hl : y = (s.core c).last
  · have hsw : k.switching = false := bne_eq_false_iff_eq.2 hl
    rw [hsw, if_neg Bool.false_ne_true]
    split
    · next hb =>
      rw [hrun] at hb
      simp only [State.ctx_eq, State.core_modCore, State.modCtx, hu, Core.tick_ctxs, Core.ctx_modCtx, hrun]
      exact ⟨rfl, trivial, hsw, fun h => absurd hl h, fun _ h => absurd hb (h ▸ Nat.lt_irrefl 0)⟩
    · simp only [State.ctx_eq, hu, hrun]
      exact ⟨rfl, trivial, hsw, fun h => absurd hl h, fun _ _ => rfl⟩
  · have hsw : k.switching = true := bne_iff_ne.2 hl
    simp only [hsw, if_true, State.ctx_eq, State.core_modCore, hu, Core.tick_ctxs, hrun]
    exact ⟨rfl, trivial, rfl, fun _ => rfl, fun h => absurd h hl⟩

/-- Settles O54: IDLE_STEP case by case, and the choice of the selector along its rotation. -/
theorem stepsWithoutABundle : Obligations.StepsWithoutABundle := by
  intro s c k able after
  have hable (y : CtxId) : able y ↔ (k.ctxs[y]).selectable = true := (Ctx.selectable_iff _).symm
  refine ⟨fun h => ?_, fun hc h => ?_, fun x hc h => ?_, fun x hc h hb => ?_, fun hc hf hp ha => ?_⟩
  · show execBundleIssue c s = _
    rw [execBundleIssue, h]
  · exact exec_idleStep_nobody hc fun y => Bool.eq_false_iff.2 fun hy => h y ((hable y).2 hy)
  · rw [exec_idleStep_current hc, h, if_pos rfl]
    rfl
  · obtain ⟨t, e, ht⟩ := exec_idleStep_bubble hc h hb
    refine ⟨t, e, ?_, ?_⟩
    · rw [ht]
      rfl
    · rw [State.ctx_eq, ht, Core.tick_ctxs, Core.ctx_modCtx]
      rfl
  · obtain ⟨y, hsel, hy, hpri, hord⟩ := selectFrom_of_able k.last (by simpa only [hable] using ha)
    exact ⟨y, (hable y).2 hy, fun z hz => hpri z ((hable z).1 hz), fun z hz => hord z ((hable z).1 hz),
      exec_idleStep_chosen hc hf (Core.applyPri_of_none hp) hsel⟩

end Sys2Proof.Machine
end

section
/-!
Results becoming visible (03 R40 to R42) and writes of control registers (08 R97, 24 R364).
-/
namespace Sys2Proof.Machine

/-! ### Accesses that have performed -/

/-- Every access of the contexts of a core has performed, and the card of each job it reads for is there, or the job has stopped. -/
def State.AllPerformed (s : State) (c : CoreId) : Prop :=
  ∀ y, ∀ b ∈ (s.ctx c y).accs, b.performed = true
    ∧ ∀ d j q, b.dest = .card d j → s.job j = some q → q.image.isSome = true ∨ q.status.isSome = true

theorem State.mem_of_findAcc {s : State} {c : CoreId} {x : CtxId} {id : Nat} {a : Access} (h : s.findAcc c x id = some a) :
    a ∈ (s.ctx c x).accs := List.mem_of_find?_eq_some h

/-- No element of an access that has performed may perform. -/
theorem State.canPerform_of_performed {s : State} {c : CoreId} {x : CtxId} {a : Access} (h : a.performed = true) (k : Nat) :
    s.canPerform c x a k = false := by
  unfold State.canPerform
  cases he : a.elems[k]? with
  | none => rfl
  | some e =>
    have hd : e.done = true := List.all_eq_true.1 h e (List.mem_of_getElem? he)
    simp [hd]

/-- A change of a job that is not there changes nothing. -/
theorem State.modJob_of_none {s : State} {j : Nat} (h : s.job j = none) (f : Job → Job) : s.modJob j f = s := by
  have e : (s.jobs.map fun q => if q.id = j then f q else q) = s.jobs := by
    refine (List.map_congr_left fun q hq => ?_).trans (List.map_id _)
    rw [if_neg fun e => by simpa [e] using List.find?_eq_none.1 h q hq]
    rfl
  rw [State.modJob, e]

/-- A card that is there, or whose job has stopped or is gone, does not arrive again. -/
theorem State.cardArrives_of_done {s : State} {c : CoreId} {x : CtxId} (id : Nat)
    (h : ∀ b ∈ (s.ctx c x).accs, ∀ d j q, b.dest = .card d j → s.job j = some q → q.image.isSome = true ∨ q.status.isSome = true) :
    s.cardArrives c x id = s := by
  unfold State.cardArrives
  cases ha : s.findAcc c x id with
  | none => rfl
  | some a =>
    dsimp only
    split
    · next d j hd =>
      cases hj : s.job j with
      | none => simp [State.jobStop, State.modJob_of_none hj, State.cardRead, hj]
      | some q =>
        have := h a (State.mem_of_findAcc ha) d j q hd hj
        simp [this]
    · rfl

/-- Where every access has performed, an element that is asked to perform does nothing. -/
theorem State.performAcc_of_allPerformed {s : State} {c : CoreId} (h : s.AllPerformed c) (x : CtxId) (id k : Nat) :
    s.performAcc c x id k = s := by
  have hp : s.performIf c x id k = s := by
    unfold State.performIf
    cases ha : s.findAcc c x id with
    | none => rfl
    | some a => simp [State.canPerform_of_performed (h x a (State.mem_of_findAcc ha)).1 k]
  rw [State.performAcc, hp]
  exact State.cardArrives_of_done id fun b hb => (h x b hb).2

theorem State.forceOwn_of_allPerformed {s : State} {c : CoreId} (h : s.AllPerformed c) (x : CtxId) (id : Nat) :
    s.forceOwn c x id = s := by
  unfold State.forceOwn
  dsimp only
  split
  · refine List.foldl_fixed' (fun a => ?_) _
    exact List.foldl_fixed' (State.performAcc_of_allPerformed h x a.id) _
  · rfl

theorem State.forceDue_of_allPerformed {s : State} {c : CoreId} (h : s.AllPerformed c) : s.forceDue c = s := by
  refine List.foldl_fixed' (fun f => ?_) _
  split
  · exact State.forceOwn_of_allPerformed h _ _
  · rfl

/-! ### The first result due -/

theorem Flight.clears_iff (f : Flight) : f.clears = true ↔ ∃ v, f.wr = .cr 0x011 v := by
  unfold Flight.clears
  cases f.wr <;> simp

/-- Writes of cr.vstat come first, then the order of issue. -/
theorem firstDue_eq {pre post : List Flight} {f : Flight} (hpre : ∀ g ∈ pre, g.clears = false)
    (h : f.clears = true ∨ pre = [] ∧ ∀ g ∈ post, g.clears = false) : firstDue (pre ++ f :: post) = some f := by
  have hp : pre.find? Flight.clears = none := List.find?_eq_none.2 fun g hg => by simp [hpre g hg]
  unfold firstDue
  rw [List.find?_append, hp, Option.none_or]
  cases hf : f.clears with
  | true => rw [List.find?_cons_of_pos hf]
  | false =>
    obtain ⟨rfl, hq⟩ := h.resolve_left (by simp [hf])
    rw [List.find?_cons_of_neg (by simp [hf]), List.find?_eq_none.2 fun g hg => by simp [hq g hg]]
    rfl


/-- RESULT_VISIBLE where the data of every result due has come. -/
theorem exec_resultVisible {s : State} {c : CoreId} {f : Flight} {pre post : List Flight} (hs : s.AllPerformed c)
    (hd : (s.core c).due = pre ++ f :: post) (hpre : ∀ g ∈ pre, g.clears = false)
    (hf : f.clears = true ∨ pre = [] ∧ ∀ g ∈ post, g.clears = false)
    (hload : ∀ g ∈ (s.core c).due, ∀ id, g.wr = .load id → ∃ a, s.findAcc c g.ctx id = some a ∧ a.performed = true) :
    exec (.resultVisible c) s = .next ((s.modCore c fun k => { k with inflight := k.inflight.erase f }).applyWr c f) := by
  have hpres : ((s.core c).due.all fun g => s.present c g) = true := by
    refine List.all_eq_true.2 fun g hg => ?_
    unfold State.present
    split
    · next id hw =>
      obtain ⟨a, ha, hp⟩ := hload g hg id hw
      simp only [ha, hp]
    · rfl
  show execResultVisible c s = _
  simp only [execResultVisible, State.forceDue_of_allPerformed hs, hpres, if_true]
  rw [hd, firstDue_eq hpre hf]

/-! ### What a result writes in its core -/

/-- A masked write of a tile, bit by bit; every other tile and every block stays. -/
theorem Core.setTile_spec (k : Core) (x : CtxId) (m : R16) (mask data : BitVec 262144) :
    (∀ i : Nat, ((k.setTile x m mask data).tiles[physTile k.alloc x m]).getLsbD i
      = if mask.getLsbD i then data.getLsbD i else (k.tiles[physTile k.alloc x m]).getLsbD i)
    ∧ (∀ q, q ≠ physTile k.alloc x m → (k.setTile x m mask data).tiles[q] = k.tiles[q])
    ∧ (k.setTile x m mask data).blocks = k.blocks := by
  refine ⟨fun i => ?_, fun q hq => Vector.getElem_set_ne (Fin.isLt _) q.isLt fun e => hq (Fin.ext e.symm), rfl⟩
  have e : (k.setTile x m mask data).tiles[physTile k.alloc x m]
      = (k.tiles[physTile k.alloc x m] &&& ~~~mask) ||| (data &&& mask) := Vector.getElem_set_self _
  rw [e, BitVec.getLsbD_or, BitVec.getLsbD_and, BitVec.getLsbD_and, BitVec.getLsbD_not]
  cases hm : mask.getLsbD i with
  | true => simp
  | false =>
    by_cases hi : i < 262144
    · simp [hi]
    · simp [hi, BitVec.getLsbD_of_ge _ i (Nat.le_of_not_lt hi)]

/-- From `s` to `t` core `c` loses the result `f`, and nothing changes but its tiles, its blocks and the context of the result. -/
def LandsAlone (c : CoreId) (f : Flight) (s t : State) : Prop :=
  t.gmem = s.gmem ∧ (t.core c).vault = (s.core c).vault ∧ (t.core c).inflight = (s.core c).inflight.erase f
  ∧ (∀ y, y ≠ f.ctx → t.ctx c y = s.ctx c y) ∧ ∀ d, d ≠ c → t.core d = s.core d

/-- A change of a core that leaves its vault, its results in flight and all contexts but one. -/
def OnlyContext (x : CtxId) (h : Core → Core) : Prop :=
  ∀ k, (h k).vault = k.vault ∧ (h k).inflight = k.inflight ∧ ∀ y, y ≠ x → (h k).ctxs[y] = k.ctxs[y]

theorem onlyContext_setW (x : CtxId) (d : R64) (v : BitVec 4096) : OnlyContext x fun k => k.setW x d v :=
  fun k => ⟨rfl, rfl, fun _ hy => k.ctx_modCtx_ne (fun t => { t with w := t.w.set d v }) hy⟩
theorem onlyContext_setTile (x : CtxId) (m : R16) (mask data : BitVec 262144) : OnlyContext x fun k => k.setTile x m mask data :=
  fun _ => ⟨rfl, rfl, fun _ _ => rfl⟩
theorem onlyContext_setBlock (x : CtxId) (q : Q512) (v : BitVec 32768) (w : Nat → Bool) :
    OnlyContext x fun k => k.setBlock x q v w :=
  fun _ => ⟨rfl, rfl, fun _ _ => rfl⟩

/-- `u` is `s` without the result `f`, its context changed. -/
def LandsIn (c : CoreId) (f : Flight) (s u : State) : Prop :=
  ∃ h : Ctx → Ctx, u = s.modCore c fun k => { k with inflight := k.inflight.erase f }.modCtx f.ctx h

/-- The result leaves those in flight and its flags are ORed into cr.vstat. -/
def State.landing (s : State) (c : CoreId) (f : Flight) : State :=
  (s.modCore c fun k => { k with inflight := k.inflight.erase f }).modCtx c f.ctx fun t => { t with vstat := t.vstat ||| f.flags }

theorem landsIn_landing (s : State) (c : CoreId) (f : Flight) : LandsIn c f s (s.landing c f) :=
  ⟨fun t => { t with vstat := t.vstat ||| f.flags }, by
    rw [State.landing, State.modCtx, State.modCore_modCore]
    rfl⟩

theorem LandsIn.modCtx {c : CoreId} {f : Flight} {s u : State} (hu : LandsIn c f s u) (g : Ctx → Ctx) :
    LandsIn c f s (u.modCtx c f.ctx g) := by
  obtain ⟨h, rfl⟩ := hu
  refine ⟨g ∘ h, ?_⟩
  rw [State.modCtx, State.modCore_modCore]
  exact congrArg (s.modCore c) (funext fun k => Core.modCtx_modCtx _ _ _ _)

/-- What lands in its core, changed where it may be, lands alone. -/
theorem LandsIn.alone {c : CoreId} {f : Flight} {s u : State} (hu : LandsIn c f s u) {g : Core → Core} (hg : OnlyContext f.ctx g) :
    LandsAlone c f s (u.modCore c g) := by
  obtain ⟨h, rfl⟩ := hu
  obtain ⟨hv, hi, hc⟩ := hg ({ s.core c with inflight := (s.core c).inflight.erase f }.modCtx f.ctx h)
  rw [State.modCore_modCore]
  refine ⟨rfl, by rw [State.core_modCore]; exact hv, by rw [State.core_modCore]; exact hi, fun y hy => ?_,
    fun d hd => State.core_modCore_ne s _ hd⟩
  rw [State.ctx, State.core_modCore]
  exact (hc y hy).trans (Core.ctx_modCtx_ne _ _ hy)

section
variable {c : CoreId} {f : Flight} {s u : State}

/-- The core keeps its tiles, its blocks and its allotment. -/
theorem LandsIn.core (hu : LandsIn c f s u) : (u.core c).tiles = (s.core c).tiles ∧ (u.core c).blocks = (s.core c).blocks
    ∧ (u.core c).alloc = (s.core c).alloc ∧ (u.core c).step = (s.core c).step ∧ (u.core c).vault = (s.core c).vault
    ∧ (u.core c).rings = (s.core c).rings ∧ (u.core c).subs = (s.core c).subs ∧ u.jobs = s.jobs ∧ u.choices = s.choices := by
  obtain ⟨h, rfl⟩ := hu
  rw [State.core_modCore]
  exact ⟨rfl, rfl, rfl, rfl, rfl, rfl, rfl, rfl, rfl⟩

/-- A vector register is written. -/
theorem LandsIn.setW (hu : LandsIn c f s u) (d : R64) (v : BitVec 4096) :
    let t := u.modCore c fun k => k.setW f.ctx d v
    LandsAlone c f s t ∧ t.ctx c f.ctx = { u.ctx c f.ctx with w := (u.ctx c f.ctx).w.set d v }
      ∧ (t.core c).tiles = (s.core c).tiles ∧ (t.core c).blocks = (s.core c).blocks := by
  obtain ⟨ht, hb, -⟩ := hu.core
  refine ⟨hu.alone (onlyContext_setW f.ctx d v), ?_, ?_, ?_⟩
  · rw [State.ctx, State.core_modCore]
    exact Core.ctx_modCtx (u.core c) f.ctx fun t => { t with w := t.w.set d v }
  · rw [State.core_modCore]
    exact ht
  · rw [State.core_modCore]
    exact hb

/-- A tile is written under a mask. -/
theorem LandsIn.setTile (hu : LandsIn c f s u) (m : R16) (mask data : BitVec 262144) :
    let t := u.modCore c fun k => k.setTile f.ctx m mask data
    let p := physTile (s.core c).alloc f.ctx m
    LandsAlone c f s t ∧ t.ctx c f.ctx = u.ctx c f.ctx
      ∧ (∀ i : Nat, ((t.core c).tiles[p]).getLsbD i = if mask.getLsbD i then data.getLsbD i else ((s.core c).tiles[p]).getLsbD i)
      ∧ (∀ q, q ≠ p → (t.core c).tiles[q] = (s.core c).tiles[q]) ∧ (t.core c).blocks = (s.core c).blocks := by
  intro t p
  obtain ⟨ht, hb, ha, -⟩ := hu.core
  obtain ⟨h1, h2, h3⟩ := Core.setTile_spec (u.core c) f.ctx m mask data
  have hc : t.core c = (u.core c).setTile f.ctx m mask data := u.core_modCore c _
  refine ⟨hu.alone (onlyContext_setTile f.ctx m mask data), ?_, ?_⟩
  · rw [State.ctx, hc]
    rfl
  · rw [hc, ← hb, ← ht]
    simp only [p, ← ha]
    exact ⟨h1, h2, h3⟩

/-- A block is written. -/
theorem LandsIn.setBlock (hu : LandsIn c f s u) (q : Q512) (v : BitVec 32768) (w : Nat → Bool) :
    let t := u.modCore c fun k => k.setBlock f.ctx q v w
    LandsAlone c f s t ∧ t.ctx c f.ctx = u.ctx c f.ctx
      ∧ (t.core c).blocks = (s.core c).blocks.set (physBlock (s.core c).alloc f.ctx q.val) v ∧ (t.core c).tiles = (s.core c).tiles := by
  intro t
  obtain ⟨ht, hb, ha, -⟩ := hu.core
  have hc : t.core c = (u.core c).setBlock f.ctx q v w := u.core_modCore c _
  refine ⟨hu.alone (onlyContext_setBlock f.ctx q v w), ?_, ?_, ?_⟩
  · rw [State.ctx, hc]
    rfl
  · rw [hc, ← hb]
    simp only [← ha]
    rfl
  · rw [hc]
    exact ht
end

/-- An access of a context after a result has landed. -/
theorem State.findAcc_landing (s : State) (c : CoreId) (f : Flight) (id : Nat) :
    (s.landing c f).findAcc c f.ctx id = s.findAcc c f.ctx id := by
  rw [State.findAcc, State.landing, State.ctx_modCtx, State.ctx_modCore]
  rfl

/-- A load's result is that of its access. -/
theorem State.applyWr_load {s : State} {c : CoreId} {f : Flight} {n : Nat} {a : Access} (hw : f.wr = .load n)
    (ha : s.findAcc c f.ctx n = some a) :
    (s.modCore c fun k => { k with inflight := k.inflight.erase f }).applyWr c f = (s.landing c f).finishLoad c f.ctx a := by
  have ha' := (s.findAcc_landing c f n).trans ha
  rw [State.landing] at ha' ⊢
  simp only [State.applyWr, hw, ha']

/-! ### OCP images (10 R144) -/

theorem mx4ScaleIndex_eq_some {sct : BitVec 512} {e j : Nat}
    (h : e ≠ 255 ∧ j < 16 ∧ sctEntry sct j = if e = 0 then 0x00400000 else e * 2 ^ 23)
    (hlt : ∀ i < j, ¬(e ≠ 255 ∧ i < 16 ∧ sctEntry sct i = if e = 0 then 0x00400000 else e * 2 ^ 23)) :
    mx4ScaleIndex sct e = some j := by
  obtain ⟨he, hj, hs⟩ := h
  rw [mx4ScaleIndex, if_neg he, List.find?_range_eq_some]
  refine ⟨beq_iff_eq.2 hs, List.mem_range.2 hj, fun i hi => ?_⟩
  rw [Bool.not_eq_true', beq_eq_false_iff_ne]
  exact fun hc => hlt i hi ⟨he, hi.trans hj, hc⟩

theorem mx4ScaleIndex_eq_none {sct : BitVec 512} {e : Nat}
    (h : ∀ i, ¬(e ≠ 255 ∧ i < 16 ∧ sctEntry sct i = if e = 0 then 0x00400000 else e * 2 ^ 23)) :
    mx4ScaleIndex sct e = none := by
  rw [mx4ScaleIndex]
  split
  · rfl
  · next he =>
    refine List.find?_eq_none.2 fun i hi hc => h i ⟨he, List.mem_range.1 hi, beq_iff_eq.1 hc⟩

theorem mx4ScaleIndex_isSome {sct : BitVec 512} {e : Nat}
    (h : ∃ j, e ≠ 255 ∧ j < 16 ∧ sctEntry sct j = if e = 0 then 0x00400000 else e * 2 ^ 23) :
    ∃ j, mx4ScaleIndex sct e = some j := by
  obtain ⟨j, he, hj, hs⟩ := h
  rw [mx4ScaleIndex, if_neg he]
  exact Option.isSome_iff_exists.1 (List.find?_isSome.2 ⟨j, List.mem_range.2 hj, beq_iff_eq.2 hs⟩)

/-- The index nibbles of the blocks, side by side. -/
theorem indexNibbles_eq (ix : Nat → Nat) (n : Nat) :
    (((List.range n).map fun b => some (ix b)).zipIdx.foldl (fun acc p => acc + p.1.getD 0 * 2 ^ (4 * p.2)) 0)
      = ((List.range n).map fun b => ix b * 2 ^ (4 * b)).sum := by
  induction n with
  | zero => rfl
  | succ n ih =>
    rw [List.range_succ, List.map_append, List.map_append, List.zipIdx_append, List.foldl_append, ih, List.sum_append]
    simp

/-- Every scale has its entry: the image. -/
theorem mx4Image_eq_ok {sct : BitVec 512} {elems v : Nat} {ix : Nat → Nat}
    (h : ∀ b < elems / 32, mx4ScaleIndex sct (v / 2 ^ (4 * elems + 8 * b) % 256) = some (ix b)) :
    mx4Image sct elems v = .ok (v % 2 ^ (4 * elems)
      + ((List.range (elems / 32)).map fun b => ix b * 2 ^ (4 * b)).sum * 2 ^ (4 * elems)) := by
  have hm : ((List.range (elems / 32)).map fun b => mx4ScaleIndex sct (v / 2 ^ (4 * elems + 8 * b) % 256))
      = (List.range (elems / 32)).map fun b => some (ix b) :=
    List.map_congr_left fun b hb => h b (List.mem_range.1 hb)
  have hf : ((List.range (elems / 32)).find? fun b =>
      (((List.range (elems / 32)).map fun b => some (ix b)).getD b none).isNone) = none := by
    refine List.find?_eq_none.2 fun b hb => ?_
    simp [List.mem_range.1 hb]
  simp only [mx4Image, hm, hf, indexNibbles_eq]

/-- The first scale without an entry. -/
theorem mx4Image_eq_error {sct : BitVec 512} {elems v b : Nat} (hb : b < elems / 32)
    (h : mx4ScaleIndex sct (v / 2 ^ (4 * elems + 8 * b) % 256) = none)
    (hlt : ∀ i < b, ∃ j, mx4ScaleIndex sct (v / 2 ^ (4 * elems + 8 * i) % 256) = some j) : mx4Image sct elems v = .error b := by
  have hf : ((List.range (elems / 32)).find? fun b =>
      (((List.range (elems / 32)).map fun b => mx4ScaleIndex sct (v / 2 ^ (4 * elems + 8 * b) % 256)).getD b none).isNone) = some b := by
    rw [List.find?_range_eq_some]
    refine ⟨?_, List.mem_range.2 hb, fun i hi => ?_⟩
    · simp [hb, h]
    · obtain ⟨j, hj⟩ := hlt i hi
      simp [hi.trans hb, hj]
  simp only [mx4Image, hf]

/-! ### Subscriptions that start (19 R295) -/

/-- The ring a subscription card names. -/
theorem cardRing_eq (im : Nat) : Fin.ofNat 4 (cardW im 0 / 2 ^ 58) = (Fin.ofNat 4 (im / 2 ^ 58) : Fin 4) := by
  refine Fin.ext ?_
  show im / 2 ^ (64 * 0) % 2 ^ 64 / 2 ^ 58 % 4 = im / 2 ^ 58 % 4
  omega

/-- A subscription that has not ended stays. -/
theorem State.subEnd_of_active {s : State} {c : CoreId} {r : Fin 4} (h : ∀ u, (s.core c).subs[r] = some u → u.endCode = none) :
    s.subEnd c r = s := by
  unfold State.subEnd
  split
  · next u g hu hg => rw [h u hu]
  · rfl

/-- A ring that is not declared has no subscription to leave. -/
theorem State.subEnd_of_noRing {s : State} {c : CoreId} {r : Fin 4} (h : (s.core c).rings[r] = none) : s.subEnd c r = s := by
  unfold State.subEnd
  split
  · next u g hu hg => rw [h] at hg; cases hg
  · rfl

/-- The words of a card, side by side, are the card. -/
theorem cardWords_sum (im n : Nat) :
    (List.range n).foldl (fun acc i => acc + cardW im i * 2 ^ (64 * i)) 0 = im % 2 ^ (64 * n) := by
  induction n with
  | zero => simp [Nat.mod_one]
  | succ n ih =>
    rw [List.range_succ, List.foldl_append, ih, List.foldl_cons, List.foldl_nil, cardW, Nat.mul_succ, Nat.pow_add, Nat.mod_mul,
      Nat.mul_comm (2 ^ (64 * n))]

/-- The subscription that a card starts. -/
def Sub.start (x : CtxId) (card im slots : Nat) : Sub :=
  ⟨x, card, cardW im 0 / 2 ^ 56 % 4, BitVec.ofNat 56 (cardW im 0), BitVec.ofNat 56 (cardW im 1),
    Vector.ofFn fun i : Fin 5 => BitVec.ofNat 64 (cardW im i.val), im / 2 ^ 320 % 8, 0, List.replicate slots .empty, 0, 0, 0, 0, [], [], [],
    0, none⟩

/-- Its walk fields are those of the card. -/
theorem Sub.im_start (x : CtxId) (card im slots : Nat) : (Sub.start x card im slots).im = im % 2 ^ 320 := by
  rw [← cardWords_sum im 5]
  refine List.foldl_ext _ _ _ fun acc i hi => ?_
  have hi : i < 5 := List.mem_range.1 hi
  have hw : cardW im i < 2 ^ 64 := Nat.mod_lt _ (Nat.two_pow_pos 64)
  have e : ((Sub.start x card im slots).words.toList.getD i 0).toNat = cardW im i := by
    rw [List.getD_eq_getElem _ _ (by simpa using hi)]
    show ((Vector.ofFn fun i : Fin 5 => BitVec.ofNat 64 (cardW im i.val)).toList[i]'(by simpa using hi)).toNat = _
    rw [Vector.getElem_toList, Vector.getElem_ofFn, BitVec.toNat_ofNat, Nat.mod_eq_of_lt hw]
  rw [e]

/-- SUBSCR finds a card valid: its fields, the size of its tiles, and the ring, whose every flag is 0. -/
def SubCardOk (vault : Memory) (g : RingDecl) (im : Nat) : Prop :=
  subValid im = true ∧ cardLen0 im * cardRuns im (im / 2 ^ 320 % 8 - 1) ≤ g.z ∧ ∀ i < g.n, memReadN vault (g.flag i) 4 = 0

section
variable {s : State} {c : CoreId} {x : CtxId} {card im : Nat}

theorem State.subRead_of_noRing (h : (s.core c).rings[(Fin.ofNat 4 (im / 2 ^ 58) : Fin 4)] = none) :
    s.subRead c x card im = (1, s) := by
  simp only [State.subRead, cardRing_eq, State.subEnd_of_noRing h, h]

theorem State.subRead_of_active {g : RingDecl} {u : Sub} (h : (s.core c).rings[(Fin.ofNat 4 (im / 2 ^ 58) : Fin 4)] = some g)
    (hu : (s.core c).subs[(Fin.ofNat 4 (im / 2 ^ 58) : Fin 4)] = some u) (he : u.endCode = none) :
    s.subRead c x card im = (2, s) := by
  have hs : s.subEnd c (Fin.ofNat 4 (im / 2 ^ 58)) = s := State.subEnd_of_active fun v hv => by
    rw [hu] at hv
    cases hv
    exact he
  simp only [State.subRead, cardRing_eq, hs, h, hu, Option.isSome_some, if_true]

theorem State.subRead_of_free {g : RingDecl} (h : (s.core c).rings[(Fin.ofNat 4 (im / 2 ^ 58) : Fin 4)] = some g)
    (hu : (s.core c).subs[(Fin.ofNat 4 (im / 2 ^ 58) : Fin 4)] = none) :
    (¬SubCardOk (s.core c).vault g im → s.subRead c x card im = (3, s))
    ∧ (SubCardOk (s.core c).vault g im → s.subRead c x card im = (0, s.modCore c fun k => { k with
        subs := k.subs.set (Fin.ofNat 4 (im / 2 ^ 58) : Fin 4) (some (Sub.start x card im g.n))
        doneSubs := k.doneSubs.filter (· != card) })) := by
  have hs : s.subEnd c (Fin.ofNat 4 (im / 2 ^ 58)) = s := State.subEnd_of_active fun v hv => by
    rw [hu] at hv
    cases hv
  have hb : (((!subValid im) = true ∨ g.z < cardLen0 im * cardRuns im (im / 2 ^ 320 % 8 - 1)
      ∨ (!(List.range g.n).all fun i => memReadN (s.core c).vault (g.flag i) 4 == 0) = true)) ↔ ¬SubCardOk (s.core c).vault g im := by
    rw [SubCardOk, not_and_or, not_and_or, Nat.not_le, Bool.not_eq_true', Bool.not_eq_true', Bool.not_eq_true, ← Bool.not_eq_true (List.all _ _),
      List.all_eq_true]
    simp only [List.mem_range, beq_iff_eq]
  constructor
  · intro hk
    simp only [State.subRead, cardRing_eq, hs, h, hu, Option.isSome_none, Bool.false_eq_true, if_false]
    rw [if_pos (hb.2 hk)]
  · intro hk
    simp only [State.subRead, cardRing_eq, hs, h, hu, Option.isSome_none, Bool.false_eq_true, if_false]
    rw [if_neg fun hc => hb.1 hc hk]
    rfl
end

/-! ### The destinations of a load -/

/-- The access leaves those of its context. -/
def State.retire (s : State) (c : CoreId) (x : CtxId) (a : Access) : State :=
  s.modCtx c x fun t => { t with accs := t.accs.filter fun b => b.id != a.id }

section
variable {s : State} {c : CoreId} {x : CtxId} {a : Access}

theorem State.finishLoad_of_fail {e : Addr × BitVec 8} (h : a.fail = some e) : s.finishLoad c x a
    = (s.retire c x a).pend c x e.2 (e.1.setWidth 64) 0 (a.hdr.setWidth 56) a.slot := by
  simp only [State.finishLoad, h]
  rfl

theorem State.finishLoad_of_poison {g : Addr} (hf : a.fail = none) (hp : a.poison = some g)
    (hs : ∀ d card, a.dest ≠ .subCard d card) (hc : ∀ d j, a.dest ≠ .card d j) : s.finishLoad c x a
    = (s.retire c x a).pend c x 0x1A (g.setWidth 64) 0 (a.hdr.setWidth 56) a.slot := by
  simp only [State.finishLoad, hf, hp]
  rfl

theorem State.finishLoad_tileMx4_ok {m : R16} {sh : BitVec 20} {sct : BitVec 512} {img : Nat} (hf : a.fail = none) (hp : a.poison = none)
    (hd : a.dest = .tileMx4 m sh sct) (hi : mx4Image sct (shElems sh) a.value = .ok img) : s.finishLoad c x a
    = (s.retire c x a).modCore c fun k => k.setTile x m (byteMask (imageBytes sh)) (BitVec.ofNat 262144 img) := by
  simp only [State.finishLoad, hf, hp, hd, hi]
  rfl

theorem State.finishLoad_tileMx4_error {m : R16} {sh : BitVec 20} {sct : BitVec 512} {b : Nat} {e : Elem} (hf : a.fail = none)
    (hp : a.poison = none) (hd : a.dest = .tileMx4 m sh sct) (hi : mx4Image sct (shElems sh) a.value = .error b)
    (he : a.elems[0]? = some e) : s.finishLoad c x a
    = (s.retire c x a).pend c x 0x11 (BitVec.ofNat 64 (e.a.toNat + shElems sh / 2 + b)) 0 (a.hdr.setWidth 56) a.slot := by
  simp only [State.finishLoad, hf, hp, hd, hi, he, Option.map_some, Option.getD_some]
  rfl

theorem State.finishLoad_subCard {d : R64} {card : Nat} (hf : a.fail = none) (hp : a.poison = none) (hd : a.dest = .subCard d card) :
    s.finishLoad c x a = ((s.retire c x a).subRead c x card a.value).2.modCtx c x fun t =>
      t.setG d (BitVec.ofNat 64 ((s.retire c x a).subRead c x card a.value).1) false := by
  simp only [State.finishLoad, hf, hp, hd]
  rfl
end

/-- A change that changes nothing. -/
theorem State.modCtx_id (s : State) (c : CoreId) (x : CtxId) : s.modCtx c x id = s :=
  s.modCore_id c _ (by simp [Core.modCtx])

/-! ### Results that write a register of their context -/

/-- What a result does to its context, where it changes nothing else; `step` is the step of the core. -/
def Wr.register (w : Wr) (step : Nat) : Option (Ctx → Ctx) :=
  match w with
  | .g d v taint => some fun t => t.setG d v taint
  | .a d v taint => some fun t => { t with a := t.a.set d { t.a[d] with v := v, taint := taint } }
  | .stride d j v => some fun t => { t with a := t.a.set d { t.a[d] with stride := (t.a[d]).stride.set j v } }
  | .p d v => some fun t => if d = 0 then t else { t with p := t.p.set d v }
  | .sp v => some fun t => { t with sp := v }
  | .b d v n => some fun t => { t with b := t.b.set d ⟨v, n⟩ }
  | .cr n v => some fun t => t.crWrite n v
  | .fmt v => some fun t => { t with fmt := v, fmtAt := some step, cursor := none, noRewrite := false }
  | .dom d v => some fun t => t.setG d v false
  | .flags => some id
  | .w _ _ | .tile _ _ _ | .q _ _ | .acc _ _ | .load _ => none

theorem State.applyWr_register {s : State} {c : CoreId} {f : Flight} {g : Ctx → Ctx} (h : f.wr.register (s.core c).step = some g) :
    (s.modCore c fun k => { k with inflight := k.inflight.erase f }).applyWr c f = (s.landing c f).modCtx c f.ctx g := by
  obtain ⟨-, -, -, hstep, -⟩ := (landsIn_landing s c f).core
  rw [← hstep] at h
  cases hw : f.wr <;> rw [hw] at h <;> simp only [Wr.register, Option.some.injEq, reduceCtorEq] at h <;> subst h
  case flags =>
    rw [State.modCtx_id]
    simp only [State.applyWr, hw]
    rfl
  all_goals
    simp only [State.applyWr, hw]
    rfl

/-! ### Writes of control registers (08 R97, 24 R364) -/

section
variable {t : Ctx} {n : BitVec 10} {v : Word}

theorem Ctx.crWrite_mshp {m : R16} (h : n.toNat = 0x100 + m.val) : t.crWrite n v = t.setShape m (v.setWidth 20) := by
  simp only [Ctx.crWrite, h]
  repeat rw [if_neg (by omega)]
  rw [if_pos (by omega)]
  simp only [Nat.add_sub_cancel_left, Fin.ofNat_val_eq_self]

theorem Ctx.crWrite_tsv {j : R8} (h : n.toNat = 0x208 + j.val) : t.crWrite n v = { t with tsv := t.tsv.set j v } := by
  simp only [Ctx.crWrite, h]
  repeat rw [if_neg (by omega)]
  rw [if_pos (by omega)]
  simp only [Nat.add_sub_cancel_left, Fin.ofNat_val_eq_self]

/-- The registers whose access is not a plain write. -/
theorem Ctx.crWrite_named : (n.toNat = 0x001 → t.crWrite n v = { t with priNext := some (v.getLsbD 0) })
    ∧ (n.toNat = 0x011 → t.crWrite n v = { t with vstat := t.vstat &&& ~~~(v.setWidth 7) })
    ∧ (n.toNat = 0x020 → t.crWrite n v = { t with nbud := v.setWidth 32 })
    ∧ (n.toNat = 0x022 → t.crWrite n v = { t with nbt := v.getLsbD 1, npe := v.getLsbD 0 })
    ∧ (n.toNat = 0x023 → t.crWrite n v = { t with ftv := v }) := by
  refine ⟨fun h => ?_, fun h => ?_, fun h => ?_, fun h => ?_, fun h => ?_⟩ <;> (simp only [Ctx.crWrite, h]; rfl)

/-- cr.tepc (24 Table 24.4). -/
theorem Ctx.crWrite_tepc (h : n.toNat = 0x205) : t.crWrite n v = { t with frame := { t.frame with
    addr := (v.setWidth 45).setWidth 56
    after := false
    sr := 0
    pt := false
    py := false
    pact := 0
    blk := false
    rwe := 0
    snaps := []
    p0 := none
    cursor := none } } := by
  simp only [Ctx.crWrite, h]
  rfl

/-- Every other number keeps its register. -/
theorem Ctx.crWrite_other (h1 : n.toNat ≠ 0x001) (h2 : n.toNat ≠ 0x011) (h3 : n.toNat ≠ 0x020) (h4 : n.toNat ≠ 0x022)
    (h5 : n.toNat ≠ 0x023) (h6 : ¬(0x100 ≤ n.toNat ∧ n.toNat ≤ 0x10F)) (h7 : n.toNat ≠ 0x205)
    (h8 : ¬(0x208 ≤ n.toNat ∧ n.toNat ≤ 0x20F)) : t.crWrite n v = t := by
  simp only [Ctx.crWrite, h1, h2, h3, h4, h5, h6, h7, h8, if_false]
end

/-- Settles O18: the first result due lands alone, by its write and, for a load, by its destination. -/
theorem resultsReachTheirRegisters : Obligations.ResultsReachTheirRegisters := by
  refine ⟨?_, ?_⟩
  · intro s c f pre post k x clears hdue hpre hf hload hall base out setG onCore setTile setBlock
    have hclear (g : Flight) : g.clears = false ↔ ¬clears g := by rw [← Bool.not_eq_true, Flight.clears_iff]
    have hexec := exec_resultVisible hall hdue (fun g hg => (hclear g).2 (hpre g hg))
      (hf.imp (Flight.clears_iff f).2 fun h => ⟨h.1, fun g hg => (hclear g).2 (h.2 g hg)⟩) hload
    have land {t : State} (h : (s.modCore c fun k => { k with inflight := k.inflight.erase f }).applyWr c f = t) :
        exec (.resultVisible c) s = .next t := hexec.trans (congrArg _ h)
    have hbase : LandsIn c f s base := landsIn_landing s c f
    have hw : (base.ctx c x).w = (s.ctx c x).w := by
      rw [State.ctx_modCtx, State.ctx_modCore]
      rfl
    obtain ⟨htiles, hblocks, halloc, hstep, hvault, hrings, hsubs, hjobs, hchoices⟩ := hbase.core
    have reg {g : Ctx → Ctx} (h : f.wr.register k.step = some g) : out base g := land (State.applyWr_register h)
    refine ⟨fun d v tn h => reg (by rw [h]; rfl), fun d v h => reg (by rw [h]; rfl), fun d v tn h => reg (by rw [h]; rfl),
      fun d j v h => reg (by rw [h]; rfl), fun d v h => reg (by rw [h]; rfl), fun v h => reg (by rw [h]; rfl),
      fun d v n h => reg (by rw [h]; rfl), fun n v h => reg (by rw [h]; rfl), fun h => reg (by rw [h]; rfl),
      fun v h => reg (by rw [h]; rfl), fun d v h => ?_, fun m mask data h => ?_, fun q v h => ?_, fun q op h => ?_, fun n a h ha => ?_⟩
    · rw [← hw]
      exact ⟨_, land (by simp only [State.applyWr, h]; rfl), hbase.setW d v⟩
    · exact ⟨_, land (by simp only [State.applyWr, h]; rfl), hbase.setTile m mask data⟩
    · exact ⟨_, land (by simp only [State.applyWr, h]; rfl), hbase.setBlock q v _⟩
    · intro r
      have hr : op.apply ((base.core c).blocks[physBlock (base.core c).alloc x q.val]) = r := by
        simp only [hblocks, halloc, r, k]
      obtain ⟨h1, h2, h3⟩ := (hbase.modCtx fun t => { t with vstat := t.vstat ||| r.2 }).setBlock q r.1 op.whole
      refine ⟨_, land (t := (base.modCtx c x fun t => { t with vstat := t.vstat ||| r.2 }).modCore c fun k => k.setBlock x q r.1 op.whole) ?_,
        h1, h2.trans (State.ctx_modCtx _ _ _ _), h3⟩
      rw [State.modCtx, State.modCore_modCore, ← hr]
      simp only [State.applyWr, h]
      exact State.modCore_modCore _ c _ _
    · have hfin {t : State} (e : base.finishLoad c f.ctx a = t) : exec (.resultVisible c) s = .next t :=
        land ((State.applyWr_load h ha).trans e)
      have hgone := hbase.modCtx fun t => { t with accs := t.accs.filter fun b => b.id != a.id }
      obtain ⟨gtiles, gblocks, galloc, gstep, gvault, grings, gsubs, gjobs, gchoices⟩ := hgone.core
      intro gone pends
      refine ⟨fun e he => hfin (State.finishLoad_of_fail he), fun g hf hp hs hc => hfin (State.finishLoad_of_poison hf hp hs hc),
        fun g hf hp => ⟨fun d card hd => ?_, fun d j hd => ?_⟩, fun hf hp => ⟨fun hd => ?_, fun d n sgn tn hd => ?_,
          fun d hd => ?_, fun hd => ?_, fun d hd => ?_, fun m sh hd => ?_, fun m sh sct hd => ?_, fun d j hd => ?_,
          fun d card hd => ?_, fun q hd => ?_⟩⟩
      · exact hfin (by simp only [State.finishLoad, hf, hp, hd]; rfl)
      · exact ⟨(State.freeWord _).1, hfin (by simp only [State.finishLoad, hf, hp, hd]; rfl)⟩
      · exact hfin (by simp only [State.finishLoad, hf, hp, hd]; exact (State.modCtx_id _ _ _).symm)
      · exact hfin (by simp only [State.finishLoad, hf, hp, hd]; rfl)
      · exact hfin (by simp only [State.finishLoad, hf, hp, hd]; rfl)
      · rw [← gstep]
        exact hfin (by simp only [State.finishLoad, hf, hp, hd]; rfl)
      · have hgw : (gone.ctx c x).w = (s.ctx c x).w := by
          rw [State.ctx_modCtx]
          exact hw
        rw [← hgw]
        refine ⟨_, hfin (t := gone.modCore c fun k => k.setW x d (BitVec.ofNat 4096 a.value)) ?_, ?_⟩
        · rcases hd with hd | hd <;> (simp only [State.finishLoad, hf, hp, hd]; rfl)
        · obtain ⟨h1, h2, -⟩ := hgone.setW d (BitVec.ofNat 4096 a.value)
          exact ⟨h1, h2⟩
      · exact ⟨_, hfin (by simp only [State.finishLoad, hf, hp, hd]; rfl), hgone.setTile m _ _⟩
      · intro E scale hit
        refine ⟨fun ix hix => ?_, fun e b he hb hno hlt => ?_⟩
        · exact ⟨_, hfin (State.finishLoad_tileMx4_ok hf hp hd (mx4Image_eq_ok fun b hb =>
            mx4ScaleIndex_eq_some (hix b hb).1 (hix b hb).2)), hgone.setTile m _ _⟩
        · refine hfin (State.finishLoad_tileMx4_error hf hp hd (mx4Image_eq_error hb (mx4ScaleIndex_eq_none hno) fun i hi => ?_) he)
          exact mx4ScaleIndex_isSome (hlt i hi)
      · exact hfin (by simp only [State.finishLoad, hf, hp, hd]; rfl)
      · intro im r status
        have hread {n : Nat} {t : State} (e : gone.subRead c x card im = (n, t)) :
            base.finishLoad c f.ctx a = t.modCtx c x (setG d (BitVec.ofNat 64 n) false) := by
          rw [State.finishLoad_subCard hf hp hd]
          exact congrArg (fun p : Nat × State => p.2.modCtx c x (setG d (BitVec.ofNat 64 p.1) false)) e
        refine ⟨fun hr => hfin (hread (State.subRead_of_noRing (grings ▸ hr))), fun g hr => ⟨fun u hu he => ?_, fun hu => ?_⟩⟩
        · exact hfin (hread (State.subRead_of_active (grings ▸ hr) (gsubs ▸ hu) he))
        · intro ok
          obtain ⟨hbad, hok⟩ := State.subRead_of_free (x := x) (card := card) (grings ▸ hr) (gsubs ▸ hu)
          rw [gvault] at hbad hok
          exact ⟨fun hn => hfin (hread (hbad hn)), fun h => ⟨Sub.start x card im g.n, rfl, rfl, rfl, rfl, rfl, rfl, Sub.im_start x card im g.n, rfl,
            hfin (hread (hok h))⟩⟩
      · exact ⟨_, hfin (by simp only [State.finishLoad, hf, hp, hd]; rfl), hgone.setBlock q _ _⟩
  · intro t n v u k
    obtain ⟨h1, h2, h3, h4, h5⟩ := Ctx.crWrite_named (t := t) (n := n) (v := v)
    refine ⟨h1, h2, h3, h4, h5, fun m h => ?_, fun h => ?_, fun j h => Ctx.crWrite_tsv h, fun ⟨h1, h2, h3, h4, h5, h6, h7, h8⟩ =>
      Ctx.crWrite_other h1 h2 h3 h4 h5 h6 h7 h8⟩
    · simp only [u, Ctx.crWrite_mshp h]
      exact ⟨rfl, rfl⟩
    · rw [show u = _ from Ctx.crWrite_tepc h]
      refine ⟨?_, rfl, rfl, rfl, rfl, rfl, rfl⟩
      rw [BitVec.toNat_setWidth, BitVec.toNat_setWidth]
      omega

end Sys2Proof.Machine
end

section
/-!
What the watch of a core looks at, and the operations of ports, walks, pins and blocked WAITs, which leave it.
-/
namespace Sys2Proof.Machine

/-! ### What the watch of a core looks at -/

/-- Where a context stands, and the cause in its frame. -/
def Ctx.watch (t : Ctx) : RunState × BitVec 8 := (t.run, t.frame.cause)
/-- What holds a core, its beat, its launch, and where its contexts stand. -/
def Core.watch (k : Core) :=
  ((k.stretch, k.splitAt, k.freezeLeft, k.freezeWhy), (k.beat, k.allot, k.current), k.ctxs.map Ctx.watch)
/-- The same of every core, with CYC. -/
def State.watch (s : State) := (s.cyc, s.cores.map Core.watch)

/-- From `s` to `t` memory keeps its bytes and no core changes in what its watch looks at. -/
structure Steady (s t : State) : Prop where
  watch : t.watch = s.watch
  gmem : t.gmem = s.gmem

theorem Steady.refl (s : State) : Steady s s := ⟨rfl, rfl⟩
theorem Steady.trans {s t u : State} (h : Steady s t) (h' : Steady t u) : Steady s u :=
  ⟨h'.watch.trans h.watch, h'.gmem.trans h.gmem⟩
/-- A change of fields that the watch does not look at. -/
theorem Steady.of_fields {s t : State} (hy : t.cyc = s.cyc) (hc : t.cores = s.cores) (hg : t.gmem = s.gmem) : Steady s t :=
  ⟨by rw [State.watch, State.watch, hy, hc], hg⟩

theorem Steady.foldl {α : Type} {f : State → α → State} (h : ∀ s a, Steady s (f s a)) (l : List α) (s : State) :
    Steady s (l.foldl f s) := by
  induction l generalizing s with
  | nil => exact Steady.refl s
  | cons a l ih => exact (h s a).trans (ih (f s a))

theorem watch_foldl {α : Type} {f : State → α → State} (h : ∀ s a, (f s a).watch = s.watch) (l : List α) (s : State) :
    (l.foldl f s).watch = s.watch := by
  induction l generalizing s with
  | nil => rfl
  | cons a l ih => exact (ih (f s a)).trans (h s a)

/-- A vector with one entry replaced, seen through a map that does not tell the two apart. -/
theorem map_set_of_eq {α β : Type} {n : Nat} (v : Vector α n) (g : α → β) {i : Nat} (hi : i < n) {a : α} (h : g a = g v[i]) :
    (v.set i a).map g = v.map g := by
  refine Vector.ext fun j hj => ?_
  rw [Vector.getElem_map, Vector.getElem_map, Vector.getElem_set]
  split
  · next e =>
    subst e
    exact h
  · rfl

theorem Core.watch_modCtx (k : Core) (x : CtxId) {f : Ctx → Ctx} (h : (f k.ctxs[x]).watch = (k.ctxs[x]).watch) :
    (k.modCtx x f).watch = k.watch := by
  have e : (k.modCtx x f).ctxs.map Ctx.watch = k.ctxs.map Ctx.watch := map_set_of_eq _ _ x.isLt h
  unfold Core.watch
  rw [e]
  rfl

theorem steady_setCore (s : State) (c : CoreId) {k : Core} (h : k.watch = (s.core c).watch) : Steady s (s.setCore c k) := by
  have e : (s.setCore c k).cores.map Core.watch = s.cores.map Core.watch := map_set_of_eq _ _ c.isLt h
  refine ⟨?_, rfl⟩
  unfold State.watch
  rw [e]
  rfl
theorem steady_modCore (s : State) (c : CoreId) {f : Core → Core} (h : ∀ k, (f k).watch = k.watch) : Steady s (s.modCore c f) :=
  steady_setCore s c (h _)
theorem steady_modCtx (s : State) (c : CoreId) (x : CtxId) {f : Ctx → Ctx} (h : ∀ t, (f t).watch = t.watch) :
    Steady s (s.modCtx c x f) :=
  steady_modCore s c fun k => k.watch_modCtx x (h _)

/-- What is steady of one core. -/
theorem watch_core {s t : State} (h : t.watch = s.watch) (c : CoreId) : (t.core c).watch = (s.core c).watch := by
  have e : t.cores.map Core.watch = s.cores.map Core.watch := congrArg Prod.snd h
  have h := congrArg (fun v => v[c]) e
  rw [Fin.getElem_fin, Fin.getElem_fin, Vector.getElem_map, Vector.getElem_map] at h
  exact h

/-! ### Ports and records of the trap queue -/

theorem State.emitFlit_eq (s : State) (p : Fin 9) : ∃ n o q, s.emitFlit p = { s with
    choices := n
    hub := { s.hub with
      out := o
      ports := q } } := ⟨_, _, _, rfl⟩
theorem State.emit_eq (s : State) (p : Fin 9) (x : Tx) : ∃ n o q, s.emit p x = { s with
    choices := n
    hub := { s.hub with
      out := o
      ports := q } } := by
  unfold State.emit
  generalize List.range x.flits = l
  have h : ∀ (l : List Nat) (s : State), ∃ n o q, l.foldl (fun s _ => s.emitFlit p) s = { s with
      choices := n
      hub := { s.hub with
        out := o
        ports := q } } := by
    intro l
    induction l with
    | nil => exact fun s => ⟨s.choices, s.hub.out, s.hub.ports, rfl⟩
    | cons a l ih =>
      intro s
      obtain ⟨n, o, q, e⟩ := s.emitFlit_eq p
      obtain ⟨n', o', q', e'⟩ := ih (s.emitFlit p)
      exact ⟨n', o', q', by rw [List.foldl_cons, e', e]⟩
  obtain ⟨n, o, q, e⟩ := h l (s.modHub fun h => { h with out := h.out ++ [.tx p x] })
  exact ⟨n, o, q, e⟩

/-- A device write to host memory leaves and performs. -/
theorem State.hostSend_eq (s : State) (w : HostWrite) : ∃ n o q, s.hostSend w = { s with
    choices := n
    hmem := memWriteBytes s.hmem w.a w.data
    hub := { s.hub with
      out := o
      ports := q } } := by
  obtain ⟨n, o, q, e⟩ := ({ s.draw.2 with hmem := memWriteBytes s.hmem w.a w.data } : State).emit_eq 0
    (.mwr w.f 0 (BitVec.ofNat 10 s.draw.1) (BitVec.ofNat 64 w.a) w.data)
  exact ⟨n, o, q, e⟩

theorem steady_hostWrite (s : State) (f : BitVec 7) (a : Nat) (data : List Byte) : Steady s (s.hostWrite f a data) := by
  unfold State.hostWrite
  split
  · obtain ⟨n, o, q, e⟩ := s.hostSend_eq ⟨f, a, data⟩
    rw [e]
    exact ⟨rfl, rfl⟩
  · exact ⟨rfl, rfl⟩
theorem steady_interrupt (s : State) (f : Fin 97) (v : R64) : Steady s (s.interrupt f v) := by
  unfold State.interrupt
  dsimp only
  split_ifs
  · exact Steady.refl s
  · exact ⟨rfl, rfl⟩
  · exact Steady.refl s
  · exact steady_hostWrite s _ _ _
  · exact ⟨rfl, rfl⟩
theorem steady_tqWrite (s : State) (r : TrapRec) : Steady s (s.tqWrite r) :=
  (steady_hostWrite s _ _ _).trans ⟨rfl, rfl⟩
theorem steady_trapRecord (s : State) (r : TrapRec) : Steady s (s.trapRecord r) := by
  unfold State.trapRecord
  split_ifs
  · exact ⟨rfl, rfl⟩
  · exact steady_tqWrite s r
  · exact ⟨rfl, rfl⟩

/-! ### Walks, pins and the tests of blocked WAITs -/

theorem steady_walkCtx (s : State) (c : CoreId) (x : CtxId) (a : Addr) : Steady s (s.walkCtx c x a) := by
  obtain ⟨l, w, e⟩ := s.walkCtx_eq c x a
  rw [e]
  exact (steady_modCore s c (f := fun k => { k with tlb := l }) fun _ => rfl).trans ⟨rfl, rfl⟩
theorem steady_l1Drop (s : State) (c : CoreId) : Steady s (s.l1Drop c) := steady_modCore s c fun _ => rfl
theorem steady_observeWord (s : State) (c : CoreId) (a : Addr) (cc : Wc) : Steady s (s.observeWord c a cc) := by
  unfold State.observeWord
  dsimp only
  split
  · exact steady_l1Drop s c
  · exact Steady.refl s
theorem steady_settleBlocks (s : State) (c : CoreId) (x : CtxId) : Steady s (s.settleBlocks c x) :=
  steady_modCtx s c x fun _ => rfl
theorem steady_pend (s : State) (c : CoreId) (x : CtxId) (cause : BitVec 8) (faddr info : Word) (o : Addr) (k : R8) :
    Steady s (s.pend c x cause faddr info o k) := steady_modCtx s c x fun _ => rfl
theorem steady_wakeTest (s : State) (c : CoreId) (x : CtxId) : Steady s (s.wakeTest c x) := by
  unfold State.wakeTest
  dsimp only
  split
  · exact Steady.refl s
  · split
    · next a cc dw v hb =>
      split
      · refine (steady_observeWord s c a cc).trans (Steady.trans ?_ (steady_settleBlocks _ c x))
        exact steady_modCtx _ c x fun _ => rfl
      · exact steady_pend s c x _ _ _ _ _
      · exact steady_pend s c x _ _ _ _ _
      · exact steady_walkCtx s c x a
      · exact Steady.refl s
    · exact Steady.refl s
theorem steady_retest (s : State) (l : Loc) (n : Nat) : Steady s (s.retest l n) := by
  unfold State.retest
  generalize allCtx = ps
  refine Steady.foldl (fun s p => ?_) ps s
  dsimp only
  split
  · exact Steady.refl s
  · split
    · split
      · split_ifs
        · exact steady_wakeTest s p.1 p.2
        · exact Steady.refl s
        · exact steady_wakeTest s p.1 p.2
        · exact Steady.refl s
      · exact Steady.refl s
    · exact Steady.refl s
theorem steady_retestAll (s : State) : Steady s s.retestAll := by
  unfold State.retestAll
  generalize allCtx = l
  exact Steady.foldl (fun s p => steady_wakeTest s p.1 p.2) l s

theorem steady_endPins (s : State) (p : Pin → Bool) : Steady s (s.endPins p) := ⟨rfl, rfl⟩
theorem steady_endPinsHalted (s : State) (g : Nat) : Steady s (s.endPinsHalted g) := by
  unfold State.endPinsHalted
  split
  · exact steady_endPins s _
  · exact Steady.refl s
theorem steady_endPinsScope (s : State) (c : CoreId) (sc : Scope) : Steady s (s.endPinsScope c sc) := by
  unfold State.endPinsScope
  dsimp only
  split
  · exact steady_endPins s _
  · refine Steady.trans ?_ (steady_retestAll _)
    exact Steady.of_fields rfl rfl rfl

end Sys2Proof.Machine
end

section
/-!
Accesses that perform leave what the watch of a core looks at (03 R51).
-/
namespace Sys2Proof.Machine

/-! ### Accesses that perform -/

theorem steady_mscCtx (s : State) (c : CoreId) (x : CtxId) (w : Bool) (a : Addr) (n : Nat) : Steady s (s.mscCtx c x w a n) := by
  unfold State.mscCtx
  split
  · exact Steady.refl s
  · obtain ⟨l, e⟩ := s.mscTouch_eq (s.core c).alloc.part (s.xlatCtx c x) a.toNat n w
    rw [e]
    exact Steady.of_fields rfl rfl rfl
theorem Core.watch_l1 (k : Core) (l : List L1Line) : ({ k with l1 := l } : Core).watch = k.watch := rfl
theorem steady_l1Fill (s : State) (c : CoreId) (line : Nat) : Steady s (s.l1Fill c line) := by
  unfold State.l1Fill
  exact steady_modCore s c fun k => k.watch_l1 _
theorem steady_fillCtx (s : State) (c : CoreId) (x : CtxId) (a : Addr) (p : Nat) : Steady s (s.fillCtx c x a p) :=
  (steady_mscCtx s c x false a 1).trans (steady_l1Fill _ c _)
theorem steady_l1Read (s : State) (c : CoreId) (x : CtxId) (a : Addr) (p n : Nat) : Steady s (s.l1Read c x a p n).2 := by
  unfold State.l1Read
  extract_lets miss
  have hm (s : State) : Steady s (miss s).2 := steady_fillCtx s c x a p
  split
  · exact hm s
  · split
    · exact Steady.of_fields rfl rfl rfl
    · exact Steady.trans (t := s.draw.2) ⟨rfl, rfl⟩ (hm s.draw.2)
theorem steady_updAcc (s : State) (c : CoreId) (x : CtxId) (id : Nat) (f : Access → Access) : Steady s (s.updAcc c x id f) :=
  steady_modCtx s c x fun _ => rfl
theorem steady_sweep (s : State) (c : CoreId) (x : CtxId) : Steady s (s.sweep c x) := steady_modCtx s c x fun _ => rfl
theorem steady_makePin (s : State) (c : CoreId) (x : CtxId) (line : Nat) (sc : Scope) : Steady s (s.makePin c x line sc) := by
  unfold State.makePin
  extract_lets heath mine n old kept
  split
  · exact Steady.refl s
  · exact Steady.of_fields rfl rfl rfl
theorem steady_pinAtom (s : State) (c : CoreId) (x : CtxId) (a : Access) (line : Nat) : Steady s (s.pinAtom c x a line) := by
  unfold State.pinAtom
  split
  · exact Steady.refl s
  · dsimp only
    refine (steady_makePin s c x line a.scope).trans ?_
    split
    · split
      · exact (steady_endPinsHalted _ _).trans (steady_endPins _ _)
      · exact steady_endPins _ _
    · exact Steady.refl _
theorem steady_tlbRemove (s : State) (c : CoreId) (sc : Scope) (asid : BitVec 7) (w : Option Word) :
    Steady s (s.tlbRemove c sc asid w) := by
  unfold State.tlbRemove
  dsimp only
  have h : ∀ (P : CoreId → Bool) (l : List CoreId), Steady s (l.foldl (fun s d =>
      if P d then s.modCore d fun k => { k with tlb := k.tlb.filter (tlbKeep asid w) } else s) s) := fun P l => by
    refine Steady.foldl (fun s d => ?_) l s
    split
    · exact steady_modCore s d fun _ => rfl
    · exact Steady.refl s
  split
  · exact h _ _
  · exact (h _ _).trans (Steady.of_fields rfl rfl rfl)

/-- A write at a place changes memory or a vault, and no core in what its watch looks at. -/
theorem watch_coreWrite (s : State) (c : CoreId) (l : Loc) (n v : Nat) : (s.coreWrite c l n v).watch = s.watch := by
  unfold State.coreWrite
  refine (steady_retest _ l n).watch.trans ?_
  cases l with
  | vault d o =>
    dsimp only [State.writeLoc]
    have h := steady_modCore s d (f := fun k => { k with vault := memWriteN k.vault o n v, vpoison := clearPoison k.vpoison o n })
      fun _ => rfl
    exact h.watch
  | mem p =>
    have h : Steady (s.writeLoc (.mem p) n v) ((s.writeLoc (.mem p) n v).modCore c fun k => { k with l1 := l1Write k.l1 p n v }) :=
      steady_modCore _ c fun _ => rfl
    exact h.watch
theorem steady_healSector (s : State) (l : Loc) (ws : List (Nat × Nat)) (a : Nat) : Steady s (s.healSector l ws a) := by
  unfold State.healSector
  split
  · exact Steady.refl s
  · split
    · exact Steady.of_fields rfl rfl rfl
    · exact Steady.refl s

/-- What a load reads at a place: the point of coherence, or through the L1; and what that changes. -/
def State.loadRead (s : State) (c : CoreId) (x : CtxId) (e : Elem) (l : Loc) (poc : Bool) : Option Nat × State :=
  match l, poc with
  | .mem p, false => s.l1Read c x e.a p e.n
  | _, _ => (if s.poisonedLoc l e.n then none else some (s.readLoc l e.n), s.mscCtx c x false e.a e.n)

theorem steady_loadRead (s : State) (c : CoreId) (x : CtxId) (e : Elem) (l : Loc) (poc : Bool) :
    Steady s (s.loadRead c x e l poc).2 := by
  unfold State.loadRead
  split
  · exact steady_l1Read s c x _ _ _
  · exact steady_mscCtx s c x _ _ _

section
variable {s : State} {c : CoreId} {x : CtxId} {a : Access} {k : Nat} {e : Elem}

/-- An element of a load whose address has a place. -/
theorem State.performElem_load {l : Loc} {poc : Bool} (he : a.elems[k]? = some e) (h : a.kind = .load poc)
    (hl : s.loc c x false e.a = some l) : s.performElem c x a k =
      match (s.loadRead c x e l poc).1 with
      | none => (s.loadRead c x e l poc).2.updAcc c x a.id fun b => { b.setDone k 0 with poison := some (granuleAddr e.a) }
      | some v =>
        let t := (s.loadRead c x e l poc).2.updAcc c x a.id fun b => b.setDone k (BitVec.ofNat 64 v)
        match a.dest with
        | .cpyst _ => if v = 0 then t else t.observeWord c e.a .ne
        | _ => if a.acq && wideScope a.scope then t.l1Drop c else t := by
  simp only [State.performElem, he, h, hl]
  rfl

/-- An element of a store whose address has a place. -/
theorem State.performElem_store {l : Loc} (he : a.elems[k]? = some e) (h : a.kind = .store) (hl : s.loc c x true e.a = some l) :
    s.performElem c x a k =
      let t := (s.mscCtx c x true e.a e.n).updAcc c x a.id fun b => b.setDone k 0
      let u := (t.coreWrite c l e.n e.data.toNat).healSector l (a.written k) e.a.toNat
      (if a.acq then u.endPinsScope c a.scope else u).sweep c x := by
  simp only [State.performElem, he, h, hl]
end

/-- An element of a load takes its data. -/
theorem watch_performLoad {s : State} {c : CoreId} {x : CtxId} {a : Access} {k : Nat} {e : Elem} (he : a.elems[k]? = some e)
    {poc : Bool} (h : a.kind = .load poc) : (s.performElem c x a k).watch = s.watch := by
  cases hl : s.loc c x false e.a with
  | none =>
    simp only [State.performElem, he, h, hl]
    exact (steady_updAcc s c x _ _).watch
  | some l =>
    have h2 := steady_loadRead s c x e l poc
    rw [State.performElem_load he h hl]
    split
    · exact (h2.trans (steady_updAcc _ c x _ _)).watch
    · next v hv =>
      have h3 := h2.trans (steady_updAcc (s.loadRead c x e l poc).2 c x a.id fun b => b.setDone k (BitVec.ofNat 64 v))
      dsimp only
      split
      · split
        · exact h3.watch
        · exact (h3.trans (steady_observeWord _ c _ _)).watch
      · split
        · exact (h3.trans (steady_l1Drop _ c)).watch
        · exact h3.watch

/-- An element of a store performs. -/
theorem watch_performStore {s : State} {c : CoreId} {x : CtxId} {a : Access} {k : Nat} {e : Elem} (he : a.elems[k]? = some e)
    (h : a.kind = .store) : (s.performElem c x a k).watch = s.watch := by
  cases hl : s.loc c x true e.a with
  | none =>
    simp only [State.performElem, he, h, hl]
    refine ((steady_updAcc _ c x _ _).trans (steady_sweep _ c x)).watch.trans ?_
    split
    · rfl
    · exact (steady_pend s c x _ _ _ _ _).watch
  | some l =>
    rw [State.performElem_store he h hl]
    extract_lets t u
    have ht : Steady s t := (steady_mscCtx s c x _ _ _).trans (steady_updAcc _ c x _ _)
    have hu : u.watch = s.watch :=
      (steady_healSector _ l _ _).watch.trans ((watch_coreWrite t c l _ _).trans ht.watch)
    refine (steady_sweep _ c x).watch.trans (Eq.trans ?_ hu)
    split
    · exact (steady_endPinsScope u c _).watch
    · rfl

/-- An ATOM performs. -/
theorem watch_performAtom {s : State} {c : CoreId} {x : CtxId} {a : Access} {k : Nat} {e : Elem} (he : a.elems[k]? = some e)
    {op : AtOp} {sg : Sg} {v cmp : Word} (h : a.kind = .atom op sg v cmp) : (s.performElem c x a k).watch = s.watch := by
  cases hl : s.loc c x true e.a with
  | none =>
    simp only [State.performElem, he, h, hl]
    exact (steady_updAcc s c x _ _).watch
  | some l =>
    cases hp : s.poisonedLoc l e.n with
    | true =>
      simp only [State.performElem, he, h, hl, hp, if_true]
      exact (steady_updAcc s c x _ _).watch
    | false =>
      have ht (w : Word) : Steady s ((s.mscCtx c x true e.a e.n).updAcc c x a.id fun b => b.setDone k w) :=
        (steady_mscCtx s c x _ _ _).trans (steady_updAcc _ c x _ _)
      have hw (t : State) (r : Option Nat) : (match r with
          | some w => t.coreWrite c l e.n w
          | none => t).watch = t.watch := by
        cases r with
        | none => rfl
        | some w => exact watch_coreWrite t c l _ _
      simp only [State.performElem, he, h, hl, hp, Bool.false_eq_true, if_false]
      cases l with
      | vault d o => exact (hw _ _).trans (ht _).watch
      | mem p => exact (steady_pinAtom _ c x a _).watch.trans ((hw _ _).trans (ht _).watch)

/-- An element of an access performs; no core changes in what its watch looks at. -/
theorem watch_performElem (s : State) (c : CoreId) (x : CtxId) (a : Access) (k : Nat) : (s.performElem c x a k).watch = s.watch := by
  cases he : a.elems[k]? with
  | none => simp only [State.performElem, he]
  | some e =>
    have hu (f : Access → Access) := steady_updAcc s c x a.id f
    cases hk : a.kind with
    | load poc => exact watch_performLoad he hk
    | store => exact watch_performStore he hk
    | atom op sg v cmp => exact watch_performAtom he hk
    | fence obs =>
      simp only [State.performElem, he, hk]
      refine ((steady_endPinsScope _ c _).trans (steady_sweep _ c x)).watch.trans ?_
      split
      · exact ((hu _).trans (steady_l1Drop _ c)).watch
      · exact (hu _).watch
    | release =>
      simp only [State.performElem, he, hk]
      exact ((hu _).trans (steady_sweep _ c x)).watch
    | bara b =>
      simp only [State.performElem, he, hk]
      have h : Steady (s.updAcc c x a.id fun b => b.setDone k 0) ((s.updAcc c x a.id fun b => b.setDone k 0).arrive c b) := ⟨rfl, rfl⟩
      exact ((hu _).trans (h.trans (steady_sweep _ c x))).watch
    | evsig v =>
      simp only [State.performElem, he, hk]
      exact ((hu _).trans ((steady_interrupt _ _ v).trans (steady_sweep _ c x))).watch
    | tlbinv sc w =>
      simp only [State.performElem, he, hk]
      have h (s : State) : Steady s (s.modCore c fun k => { k with tlbAck := true }) := steady_modCore s c fun _ => rfl
      exact ((hu _).trans ((steady_tlbRemove _ c sc _ w).trans ((h _).trans (steady_sweep _ c x)))).watch

theorem watch_performIf (s : State) (c : CoreId) (x : CtxId) (id k : Nat) : (s.performIf c x id k).watch = s.watch := by
  unfold State.performIf
  split
  · rfl
  · split
    · exact (steady_wakeTest _ c x).watch.trans (watch_performElem s c x _ k)
    · rfl

theorem steady_modJob (s : State) (id : Nat) (f : Job → Job) : Steady s (s.modJob id f) := ⟨rfl, rfl⟩
theorem steady_clearRange (s : State) (j : Job) : Steady s (s.clearRange j) := by
  unfold State.clearRange
  split
  · exact steady_modCore s _ fun _ => rfl
  · exact Steady.refl s
theorem steady_cardRead (s : State) (id : Nat) (im : BitVec 512) : Steady s (s.cardRead id im) := by
  unfold State.cardRead
  split
  · exact Steady.refl s
  · next j0 hj =>
    extract_lets t j pr u
    have hu : Steady s u := (steady_modJob s id _).trans (steady_modJob t id _)
    split_ifs
    · exact hu.trans (steady_modJob u _ _)
    · exact hu.trans (steady_clearRange u j)
    · exact hu
theorem steady_cardArrives (s : State) (c : CoreId) (x : CtxId) (id : Nat) : Steady s (s.cardArrives c x id) := by
  unfold State.cardArrives
  split
  · exact Steady.refl s
  · split
    · split_ifs
      · exact Steady.refl s
      · exact (steady_modJob s _ _).trans (steady_modJob _ _ _)
      · exact steady_cardRead s _ _
    · exact Steady.refl s
theorem watch_performAcc (s : State) (c : CoreId) (x : CtxId) (id k : Nat) : (s.performAcc c x id k).watch = s.watch :=
  (steady_cardArrives _ c x id).watch.trans (watch_performIf s c x id k)

theorem watch_performAll (s : State) (c : CoreId) (x : CtxId) (id : Nat) (l : List Nat) :
    (l.foldl (fun s k => s.performAcc c x id k) s).watch = s.watch := watch_foldl (fun s k => watch_performAcc s c x id k) l s
theorem watch_forceOwn (s : State) (c : CoreId) (x : CtxId) (id : Nat) : (s.forceOwn c x id).watch = s.watch := by
  unfold State.forceOwn
  extract_lets ids todo
  clear_value todo
  split
  · refine watch_foldl ?_ _ _
    intro s a
    exact watch_performAll s c x a.id _
  · rfl

/-- Own-vault loads that are due take their data; no core changes in what its watch looks at. -/
theorem watch_forceDue (s : State) (c : CoreId) : (s.forceDue c).watch = s.watch := by
  unfold State.forceDue
  refine watch_foldl (fun s f => ?_) (s.core c).due s
  split
  · exact watch_forceOwn s c _ _
  · rfl

end Sys2Proof.Machine
end

section
/-!
Operations that stop work leave the contexts at rest where they stand (21 R338, 23 R351, 24 R362).
-/
namespace Sys2Proof.Machine

/-! ### Bracken operations and records of contexts that stop -/

theorem steady_chargeExact (s : State) (c : CoreId) (x : CtxId) (w den : Nat) : Steady s (s.chargeExact c x w den) := by
  obtain ⟨f, hf, e⟩ := s.chargeExact_eq c x w den
  rw [e]
  have hw (t : Ctx) : (f t).watch = t.watch := by
    have h : (f t).unpaid.watch = t.unpaid.watch := congrArg Ctx.watch (hf t)
    exact h
  exact (steady_modCtx s c x hw).trans (Steady.of_fields rfl rfl rfl)
theorem steady_ddDone (s : State) (c : CoreId) (d : DdEntry) : Steady s (s.ddDone c d) := by
  have h : Steady s (s.modCtx c d.ctx fun t => { t with doneWide := true }) := steady_modCtx s c d.ctx fun _ => rfl
  exact h.trans (steady_chargeExact _ _ _ _ _)
theorem Core.watch_putRecord (k : Core) (o : Nat) (st : BitVec 8) (res aux : Word) : (k.putRecord o st res aux).watch = k.watch := rfl
/-- A core that drops an entry of its queue with its record written. -/
def Core.retire (k : Core) (e : R16) (o : Nat) (st : BitVec 8) (res aux : Word) : Core :=
  { k.putRecord o st res aux with
    ddq := k.ddq.set e none
    doneDds := o :: k.doneDds.filter (· != o) }
theorem Core.watch_retire (k : Core) (e : R16) (o : Nat) (st : BitVec 8) (res aux : Word) : (k.retire e o st res aux).watch = k.watch := by
  rw [← k.watch_putRecord o st res aux]
  unfold Core.watch
  dsimp only [Core.retire]
theorem State.ddEnd_eq (s : State) (c : CoreId) (e : R16) (d : DdEntry) (o : Nat) (st : BitVec 8) (res aux : Word) :
    s.ddEnd c e d o st res aux = (s.modCore c fun k => k.retire e o st res aux).ddDone c d := rfl
theorem steady_ddEnd (s : State) (c : CoreId) (e : R16) (d : DdEntry) (o : Nat) (st : BitVec 8) (res aux : Word) :
    Steady s (s.ddEnd c e d o st res aux) := by
  rw [State.ddEnd_eq]
  exact (steady_modCore s c fun k => k.watch_retire e o st res aux).trans (steady_ddDone _ c d)
theorem steady_countOps (s : State) (c : CoreId) (n : Nat) : Steady s (s.countOps c n) := by
  unfold State.countOps
  split
  · exact Steady.of_fields rfl rfl rfl
  · exact Steady.refl s
theorem steady_setEntry (s : State) (c : CoreId) (e : R16) (d : Option DdEntry) : Steady s (s.setEntry c e d) :=
  steady_modCore s c fun _ => rfl
theorem steady_ddDrop (s : State) (c : CoreId) (e : R16) (d : DdEntry) : Steady s (s.ddDrop c e d) := by
  unfold State.ddDrop
  refine Steady.trans ?_ (steady_setEntry _ c e none)
  split
  · next o ho =>
    refine Steady.trans ?_ (steady_countOps _ c 1)
    exact steady_modCore s c fun k => k.watch_putRecord o 5 0 0
  · exact Steady.refl s
theorem steady_ddDiscard (s : State) (c : CoreId) (e : R16) (d : DdEntry) : Steady s (s.ddDiscard c e d) := by
  unfold State.ddDiscard
  split
  · exact (steady_ddDrop s c e d).trans (steady_retest _ _ _)
  · exact steady_ddDrop s c e d
theorem steady_ddComplete (s : State) (c : CoreId) (e : R16) : Steady s (s.ddComplete c e) := by
  unfold State.ddComplete
  split
  · exact Steady.refl s
  · split
    · exact (steady_ddEnd s c e _ _ _ _ _).trans (steady_retest _ _ _)
    · exact Steady.refl s
theorem steady_ddHalt (s : State) (c : CoreId) (x : CtxId) : Steady s (s.ddHalt c x) := by
  unfold State.ddHalt
  refine Steady.trans ?_ (steady_modCtx _ c x fun _ => rfl)
  refine Steady.foldl (fun s e => ?_) _ s
  split
  · exact steady_ddDiscard s c _ _
  · exact Steady.refl s
theorem steady_ddFinish (s : State) (c : CoreId) (x : CtxId) : Steady s (s.ddFinish c x) := by
  unfold State.ddFinish
  refine Steady.trans ?_ (steady_ddHalt _ c x)
  refine Steady.foldl (fun s e => ?_) _ s
  split_ifs
  · exact steady_ddDiscard s c _ _
  · exact steady_ddComplete s c _
  · exact Steady.refl s
theorem steady_ddAbandoned (s : State) (c : CoreId) (e : R16) (d : DdEntry) : Steady s (s.ddAbandoned c e d) :=
  (steady_setEntry s c e _).trans (steady_pend _ c d.ctx _ _ _ _ _)
theorem steady_ddSettle (s : State) (c : CoreId) (x : CtxId) : Steady s (s.ddSettle c x) := by
  unfold State.ddSettle
  refine Steady.foldl (fun s e => ?_) _ s
  split_ifs
  · exact (steady_ddDrop s c _ _).trans (Steady.of_fields rfl rfl rfl)
  · exact steady_ddAbandoned s c _ _
  · split
    · exact (steady_ddEnd s c _ _ _ _ _ _).trans (Steady.of_fields rfl rfl rfl)
    · exact Steady.refl s
theorem Ctx.watch_interrupt (t : Ctx) : t.interrupt.watch = t.watch := by
  unfold Ctx.interrupt
  split <;> rfl
theorem steady_saveRecord (s : State) (c : CoreId) (x : CtxId) : Steady s (s.saveRecord c x).2 := Steady.of_fields rfl rfl rfl
theorem steady_saveOthers (s : State) (g : Nat) : Steady s (s.saveOthers g) := by
  unfold State.saveOthers
  generalize allCtx = l
  refine Steady.foldl (fun s u => ?_) l s
  obtain ⟨c, x⟩ := u
  dsimp only
  generalize (s.inGroup g c && _) = b
  cases b
  · exact Steady.refl s
  · have h : Steady s (s.modCtx c x Ctx.interrupt) := steady_modCtx s c x Ctx.watch_interrupt
    have h := (h.trans (steady_ddSettle _ c x)).trans (steady_saveRecord _ c x)
    refine h.trans ?_
    exact Steady.of_fields rfl rfl rfl
theorem steady_failGroup (s : State) (g code : Nat) : Steady s (s.failGroup g code) := Steady.of_fields rfl rfl rfl
theorem Core.watch_completeFmt (k : Core) (x : CtxId) : (k.completeFmt x).watch = k.watch := rfl

/-! ### Contexts at rest -/

/-- A context that is Unloaded, Halted, or held by a fatal trap. -/
def Ctx.AtRest (t : Ctx) : Prop := t.run = .unloaded ∨ t.run = .halted ∨ t.run = .held

theorem Ctx.AtRest.not_ready {t : Ctx} (h : t.AtRest) (hr : t.run = .ready) : False := by
  rcases h with h | h | h <;> exact absurd (hr.symm.trans h) (by decide)
theorem Ctx.AtRest.not_running {t : Ctx} (h : t.AtRest) (hr : t.run = .running) : False := by
  rcases h with h | h | h <;> exact absurd (hr.symm.trans h) (by decide)

/-- Where a context of a core stands, by the view of its core. -/
theorem Core.watch_ctx {k j : Core} (h : k.watch = j.watch) (x : CtxId) : (k.ctxs[x]).watch = (j.ctxs[x]).watch := by
  have e : k.ctxs.map Ctx.watch = j.ctxs.map Ctx.watch := congrArg (fun w => w.2.2) h
  have h := congrArg (fun v => v[x]) e
  rw [Fin.getElem_fin, Fin.getElem_fin, Vector.getElem_map, Vector.getElem_map] at h
  exact h
theorem Steady.ctx {s t : State} (h : Steady s t) (c : CoreId) (x : CtxId) : (t.ctx c x).watch = (s.ctx c x).watch :=
  Core.watch_ctx (watch_core h.watch c) x
theorem Steady.beat {s t : State} (h : Steady s t) (c : CoreId) : (t.core c).beat = (s.core c).beat :=
  congrArg (fun w => w.2.1.1) (watch_core h.watch c)
theorem Steady.cyc {s t : State} (h : Steady s t) : t.cyc = s.cyc := congrArg Prod.fst h.watch

theorem Ctx.AtRest.of_watch {t u : Ctx} (h : t.watch = u.watch) (hu : u.AtRest) : t.AtRest := by
  have e : t.run = u.run := congrArg Prod.fst h
  unfold Ctx.AtRest
  rw [e]
  exact hu

/-- The context a selector finds is Ready. -/
theorem selectFrom_ready {k : Core} {last y : CtxId} (h : selectFrom k last = some y) : (k.ctxs[y]).run = .ready := by
  rw [selectFrom_eq_find] at h
  have hy := List.find?_some h
  rw [Bool.and_eq_true] at hy
  exact ((Ctx.selectable_iff _).1 hy.1).1

/-- A switch point leaves where a context at rest stands. -/
theorem Core.watch_select {k : Core} {x : CtxId} (h : (k.ctxs[x]).AtRest) : (k.select.ctxs[x]).watch = (k.ctxs[x]).watch := by
  cases hs : selectFrom k (if k.fresh then 3 else k.last) with
  | none => rw [Core.select_of_none hs]
  | some y =>
    have hne : x ≠ y := fun e => by
      have hr := selectFrom_ready hs
      rw [← e] at hr
      exact h.not_ready hr
    rw [Core.select_of_some hs, Core.ctx_modCtx_ne _ _ hne]
theorem Core.watch_applyPri (k : Core) (x : CtxId) : (k.applyPri.ctxs[x]).watch = (k.ctxs[x]).watch := by
  simp only [Core.applyPri, Fin.getElem_fin, Vector.getElem_map]
  split <;> rfl
theorem Core.watch_switchPoint {k : Core} {x : CtxId} (h : (k.ctxs[x]).AtRest) :
    (k.switchPoint.ctxs[x]).watch = (k.ctxs[x]).watch := by
  have hp := k.watch_applyPri x
  let j : Core := match k.applyPri.current with
    | some x => k.applyPri.modCtx x fun (t : Ctx) => if t.run = RunState.running then { t with run := .ready } else t
    | none => k.applyPri
  have hj : (j.ctxs[x]).watch = (k.ctxs[x]).watch := by
    refine Eq.trans ?_ hp
    dsimp only [j]
    split
    · next y hy =>
      by_cases e : x = y
      · subst e
        rw [Core.ctx_modCtx, if_neg (h.of_watch hp).not_running]
      · rw [Core.ctx_modCtx_ne _ _ e]
    · rfl
  have hs := Core.watch_select (k := { j with current := none, splitAt := none }) (x := x) (h.of_watch hj)
  exact hs.trans hj
theorem Core.beat_switchPoint (k : Core) : k.switchPoint.beat = k.beat := by
  have h (k : Core) : k.select.beat = k.beat := by
    unfold Core.select
    split <;> rfl
  refine (h _).trans ?_
  dsimp only
  split <;> rfl

/-! ### Steps that leave the contexts at rest where they stand -/

/-- Where each context of core `c` at rest stands is kept. -/
def KeepsRest (c : CoreId) (s t : State) : Prop := ∀ x : CtxId, (s.ctx c x).AtRest → (t.ctx c x).watch = (s.ctx c x).watch

theorem KeepsRest.trans {c : CoreId} {s t u : State} (h : KeepsRest c s t) (h' : KeepsRest c t u) : KeepsRest c s u :=
  fun x hx => (h' x (hx.of_watch (h x hx))).trans (h x hx)
theorem Steady.keepsRest {s t : State} (h : Steady s t) (c : CoreId) : KeepsRest c s t := fun x _ => h.ctx c x
theorem keepsRest_modCore {c : CoreId} {s : State} {f : Core → Core}
    (h : ∀ x : CtxId, ((s.core c).ctxs[x]).AtRest → ((f (s.core c)).ctxs[x]).watch = ((s.core c).ctxs[x]).watch) :
    KeepsRest c s (s.modCore c f) := by
  intro x hx
  rw [State.ctx_eq, State.core_modCore]
  exact h x hx
theorem keepsRest_switchPoint (c : CoreId) (s : State) : KeepsRest c s (s.modCore c Core.switchPoint) :=
  keepsRest_modCore fun _ => Core.watch_switchPoint

/-- From `s` to `t` memory and CYC are kept, and on the cores of `D` the beat, the contexts at rest, and that no context is in place. -/
structure Calm (D : Set CoreId) (s t : State) : Prop where
  gmem : t.gmem = s.gmem
  cyc : t.cyc = s.cyc
  beat : ∀ c ∈ D, (t.core c).beat = (s.core c).beat
  empty : ∀ c ∈ D, (s.core c).current = none → (t.core c).current = none
  rest : ∀ c ∈ D, KeepsRest c s t

theorem Steady.current {s t : State} (h : Steady s t) (c : CoreId) : (t.core c).current = (s.core c).current :=
  congrArg (fun w => w.2.1.2.2) (watch_core h.watch c)
theorem Steady.calm {s t : State} (h : Steady s t) (D : Set CoreId) : Calm D s t :=
  ⟨h.gmem, h.cyc, fun c _ => h.beat c, fun c _ hc => (h.current c).trans hc, fun c _ => h.keepsRest c⟩
theorem Calm.trans {D : Set CoreId} {s t u : State} (h : Calm D s t) (h' : Calm D t u) : Calm D s u :=
  ⟨h'.gmem.trans h.gmem, h'.cyc.trans h.cyc, fun c hc => (h'.beat c hc).trans (h.beat c hc),
    fun c hc e => h'.empty c hc (h.empty c hc e), fun c hc => (h.rest c hc).trans (h'.rest c hc)⟩
theorem Calm.foldl {α : Type} {D : Set CoreId} {f : State → α → State} (h : ∀ s a, Calm D s (f s a)) (l : List α) (s : State) :
    Calm D s (l.foldl f s) := by
  induction l generalizing s with
  | nil => exact (Steady.refl s).calm D
  | cons a l ih => exact (h s a).trans (ih (f s a))

/-- A change of one core, with what it must keep where that core is of `D`. -/
theorem calm_modCore {D : Set CoreId} {s : State} {c : CoreId} {f : Core → Core}
    (h : c ∈ D → (f (s.core c)).beat = (s.core c).beat ∧ ((s.core c).current = none → (f (s.core c)).current = none)
      ∧ KeepsRest c s (s.modCore c f)) : Calm D s (s.modCore c f) := by
  have hk {d : CoreId} (e : d ≠ c) : (s.modCore c f).core d = s.core d := s.core_modCore_ne f e
  refine ⟨rfl, rfl, fun d hd => ?_, fun d hd => ?_, fun d hd => ?_⟩
  · rcases eq_or_ne d c with rfl | e
    · rw [State.core_modCore, (h hd).1]
    · rw [hk e]
  · rcases eq_or_ne d c with rfl | e
    · rw [State.core_modCore]
      exact (h hd).2.1
    · rw [hk e]
      exact id
  · rcases eq_or_ne d c with rfl | e
    · exact (h hd).2.2
    · exact fun x _ => by rw [State.ctx_eq, hk e, State.ctx_eq]
/-- A change of a core outside `D`. -/
theorem calm_modCore_of_notMem {D : Set CoreId} {c : CoreId} (h : c ∉ D) (s : State) (f : Core → Core) : Calm D s (s.modCore c f) :=
  calm_modCore fun hc => absurd hc h

/-! ### The kill of a context and of the rest of a group -/

theorem Core.watch_foldl {α : Type} {f : Core → α → Core} (h : ∀ k a, (f k a).watch = k.watch) (l : List α) (k : Core) :
    (l.foldl f k).watch = k.watch := by
  induction l generalizing k with
  | nil => rfl
  | cons a l ih => exact (ih (f k a)).trans (h k a)

theorem steady_killWork (s : State) (c : CoreId) (x : CtxId) : Steady s (s.killWork c x) := by
  unfold State.killWork
  extract_lets g recs s1 s2 s3 s4
  refine Steady.trans ?_ (steady_endPins s4 _)
  have h1 : Steady s s2 := Steady.of_fields rfl rfl rfl
  have h2 : Steady s2 s3 := by
    refine steady_modCore s2 c fun k => ?_
    have h := Core.watch_foldl (fun k a => k.watch_putRecord a 5 0 0) recs k
    rw [← h]
    rfl
  have h3 : Steady s3 s4 := Steady.of_fields rfl rfl rfl
  exact (h1.trans h2).trans h3

/-- A context killed: Halted, with nothing left of what it ran. -/
def Ctx.killed (t : Ctx) : Ctx := { t with
  run := .halted
  hm := false
  accs := t.accs.filterMap Access.afterKill
  pendDom := []
  episode := none
  faults := []
  blocks := ⟨none, none⟩
  promiseT := none
  replay := none
  fired := none
  frame := Frame.empty }

/-- The kill of a context that is not at rest. -/
theorem calm_killCtx {s : State} {c : CoreId} {x : CtxId} (h : ¬(s.ctx c x).AtRest) (D : Set CoreId) : Calm D s (s.killCtx c x) := by
  unfold State.killCtx
  extract_lets s1 was s2 s3
  have hw : Steady s s1 := steady_killWork s c x
  clear_value s1
  have hx : ¬(s1.ctx c x).AtRest := fun hr => h (hr.of_watch (hw.ctx c x).symm)
  have h2 : Calm D s1 s2 := by
    refine calm_modCore (f := fun k => k.modCtx x Ctx.killed) fun _ => ⟨rfl, fun h => h, keepsRest_modCore fun y hy => ?_⟩
    have hne : y ≠ x := fun e => hx (by rw [State.ctx_eq, ← e]; exact hy)
    rw [Core.ctx_modCtx_ne _ _ hne]
  have h3 : Calm D s2 s3 := by
    dsimp only [s3]
    split
    · next hwas =>
      refine calm_modCore fun _ => ⟨Core.beat_switchPoint _, fun hc => ?_, keepsRest_switchPoint c s2⟩
      have hs : (s1.core c).current = some x := by simpa [was] using hwas
      have hc' : (s1.core c).current = none := by
        have e : (s2.core c).current = (s1.core c).current := by
          show ((s1.modCore c fun k => k.modCtx x Ctx.killed).core c).current = _
          rw [State.core_modCore]
          rfl
        rw [← e]
        exact hc
      exact absurd (hs.symm.trans hc') (by simp)
    · exact (Steady.refl s2).calm D
  refine ((hw.calm D).trans h2).trans (h3.trans ?_)
  split
  · exact (steady_endPinsHalted s3 _).calm D
  · exact (Steady.refl s3).calm D

/-- The contexts of the group that still run stop. -/
theorem calm_stopGroup (s : State) (g : Nat) (D : Set CoreId) : Calm D s (s.stopGroup g) := by
  unfold State.stopGroup
  refine Calm.trans ?_ ((steady_endPinsHalted _ g).calm D)
  refine Calm.foldl (fun s c => ?_) _ s
  split
  · refine Calm.foldl (fun s x => ?_) _ s
    dsimp only
    split
    · exact (Steady.refl s).calm D
    · next h => exact calm_killCtx h D
  · exact (Steady.refl s).calm D

end Sys2Proof.Machine
end

section
/-!
The heartbeat watch and the wait-for probe (03 R49 to R53).
-/
namespace Sys2Proof.Machine

/-! ### A context held by a heartbeat halt -/

theorem calm_modCtx_of_notMem {D : Set CoreId} {c : CoreId} (h : c ∉ D) (s : State) (x : CtxId) (f : Ctx → Ctx) :
    Calm D s (s.modCtx c x f) :=
  calm_modCore_of_notMem h s fun k => k.modCtx x f
theorem State.ctx_modCtx_ne (s : State) (c : CoreId) {x y : CtxId} (f : Ctx → Ctx) (h : y ≠ x) : (s.modCtx c x f).ctx c y = s.ctx c y := by
  rw [State.ctx_eq, State.modCtx, State.core_modCore, Core.ctx_modCtx_ne _ _ h]
  rfl

theorem Ctx.cause_of_watch {t : Ctx} {r : RunState} {b : BitVec 8} (h : t.watch = (r, b)) : t.frame.cause = b := congrArg Prod.snd h

/-- A fatal trap holds its context; where it was in place, its core selects another. -/
theorem State.fatalHold_steps (s : State) (c : CoreId) (x : CtxId) (faddr info : Word) : ∃ u v : State,
    Steady (s.modCtx c x fun t => { t with run := .held }) u
    ∧ (v = u ∨ v = u.modCore c Core.switchPoint) ∧ Steady v (s.fatalHold c x faddr info) := by
  unfold State.fatalHold
  extract_lets was s1
  have h1 := steady_saveRecord s1 c x
  split
  next a s2 e =>
  rw [e] at h1
  extract_lets t al r s3 s4
  refine ⟨s2, s3, h1, ?_, (steady_trapRecord s3 r).trans (Steady.of_fields rfl rfl rfl)⟩
  dsimp only [s3]
  split
  · exact .inr rfl
  · exact .inl rfl

theorem calm_fatalHold {D : Set CoreId} {c : CoreId} (h : c ∉ D) (s : State) (x : CtxId) (faddr info : Word) :
    Calm D s (s.fatalHold c x faddr info) := by
  obtain ⟨u, v, hu, hv, ht⟩ := s.fatalHold_steps c x faddr info
  refine (calm_modCtx_of_notMem h s x _).trans ((hu.calm D).trans (Calm.trans ?_ (ht.calm D)))
  rcases hv with rfl | rfl
  · exact (Steady.refl _).calm D
  · exact calm_modCore_of_notMem h u _
theorem keepsRest_fatalHold (s : State) (c : CoreId) (x : CtxId) (faddr info : Word) :
    KeepsRest c (s.modCtx c x fun t => { t with run := .held }) (s.fatalHold c x faddr info) := by
  obtain ⟨u, v, hu, hv, ht⟩ := s.fatalHold_steps c x faddr info
  refine (hu.keepsRest c).trans (KeepsRest.trans ?_ (ht.keepsRest c))
  rcases hv with rfl | rfl
  · exact (Steady.refl _).keepsRest c
  · exact keepsRest_switchPoint c u

theorem State.dueFrame_cause (s : State) (c : CoreId) (x : CtxId) (cause : BitVec 8) (faddr info : Word) :
    (s.dueFrame c x cause faddr info).cause = cause := by
  unfold State.dueFrame
  extract_lets t f0 f
  have hf : f.cause = cause := by
    dsimp only [f]
    split <;> rfl
  split
  · rw [(f.withBlocks_point _).1, hf]
  · exact hf

theorem State.holdFrame_eq (s : State) (c : CoreId) (x : CtxId) (fr : Frame) : ∃ f : Ctx → Ctx,
    (∀ t, (f t).watch = (t.run, fr.cause)) ∧ s.holdFrame c x fr = s.modCtx c x f := ⟨_, fun _ => rfl, rfl⟩

/-- What the halt of a core does to a context that was allotted: its operations' formats complete, its frame names cause 0x21, and
it is held. -/
def State.heartbeatHold (s : State) (c : CoreId) (x : CtxId) : State :=
  let t := s.ctx c x
  let d := s.freeWord
  let s := d.2.modCore c fun k => k.completeFmt x
  let s := if t.run = .held ∨ t.hm then s.modCtx c x fun t => { t with frame := { t.frame with cause := 0x21 } }
    else s.holdFrame c x (s.dueFrame c x 0x21 d.1 0)
  let f := (s.ctx c x).frame
  if t.run = .held then s else s.fatalHold c x f.faddr f.info

/-- The steps of it: a change of the context alone, which gives its frame the cause, then the hold where it was not held. -/
theorem State.heartbeatHold_steps (s : State) (c : CoreId) (x : CtxId) : ∃ (u : State) (f : Ctx → Ctx) (a b : Word),
    Steady s u ∧ (f (u.ctx c x)).watch = ((s.ctx c x).run, 0x21)
    ∧ s.heartbeatHold c x = if (s.ctx c x).run = .held then u.modCtx c x f else (u.modCtx c x f).fatalHold c x a b := by
  have hu : Steady s (s.freeWord.2.modCore c fun k => k.completeFmt x) :=
    Steady.trans (t := s.freeWord.2) (Steady.of_fields rfl rfl rfl) (steady_modCore _ c fun k => k.watch_completeFmt x)
  unfold State.heartbeatHold
  extract_lets t d u v f
  have hrun : (u.ctx c x).run = t.run := congrArg Prod.fst (hu.ctx c x)
  have hv : ∃ f : Ctx → Ctx, (f (u.ctx c x)).watch = (t.run, 0x21) ∧ v = u.modCtx c x f := by
    dsimp only [v]
    split
    · exact ⟨fun t => { t with frame := { t.frame with cause := 0x21 } }, congrArg (·, 0x21) hrun, rfl⟩
    · obtain ⟨g, hg, e⟩ := u.holdFrame_eq c x (u.dueFrame c x 0x21 d.1 0)
      exact ⟨g, by rw [hg, hrun, State.dueFrame_cause], e⟩
  obtain ⟨g, hg, e⟩ := hv
  exact ⟨u, g, f.faddr, f.info, hu, hg, by rw [e]⟩

theorem calm_heartbeatHold {D : Set CoreId} {c : CoreId} (h : c ∉ D) (s : State) (x : CtxId) : Calm D s (s.heartbeatHold c x) := by
  obtain ⟨u, f, a, b, hu, -, e⟩ := s.heartbeatHold_steps c x
  have hf := (hu.calm D).trans (calm_modCtx_of_notMem h u x f)
  rw [e]
  split
  · exact hf
  · exact hf.trans (calm_fatalHold h _ x a b)

/-- The context is held with cause 0x21, and the others at rest stay where they stand. -/
theorem watch_heartbeatHold (s : State) (c : CoreId) (x : CtxId) : ((s.heartbeatHold c x).ctx c x).watch = (.held, 0x21)
    ∧ ∀ y ≠ x, (s.ctx c y).AtRest → ((s.heartbeatHold c x).ctx c y).watch = (s.ctx c y).watch := by
  obtain ⟨u, f, a, b, hu, hf, e⟩ := s.heartbeatHold_steps c x
  have hx : ((u.modCtx c x f).ctx c x).watch = ((s.ctx c x).run, 0x21) := by rw [State.ctx_modCtx, hf]
  have hy : ∀ y ≠ x, ((u.modCtx c x f).ctx c y).watch = (s.ctx c y).watch := fun y hy => by
    rw [State.ctx_modCtx_ne _ _ _ hy]
    exact hu.ctx c y
  rw [e]
  generalize u.modCtx c x f = v at hx hy
  split
  · next hr => exact ⟨by rw [hx, hr], fun y h _ => hy y h⟩
  · have hk := keepsRest_fatalHold v c x a b
    constructor
    · have hc : (v.ctx c x).frame.cause = 0x21 := congrArg Prod.snd hx
      have hw : ((v.modCtx c x fun t => { t with run := .held }).ctx c x).watch = (.held, 0x21) := by
        rw [State.ctx_modCtx]
        exact Prod.ext rfl hc
      rw [hk x (.inr (.inr (congrArg Prod.fst hw))), hw]
    · intro y hne hr
      have hn := v.ctx_modCtx_ne c (fun t => { t with run := .held }) hne
      rw [hk y (by rw [hn]; exact hr.of_watch (hy y hne)), hn, hy y hne]

theorem watch_heartbeatHolds (c : CoreId) (l : List CtxId) (s : State) :
    (∀ x ∈ l, ((l.foldl (fun s x => s.heartbeatHold c x) s).ctx c x).watch = (.held, 0x21))
    ∧ ∀ y ∉ l, (s.ctx c y).AtRest → ((l.foldl (fun s x => s.heartbeatHold c x) s).ctx c y).watch = (s.ctx c y).watch := by
  induction l generalizing s with
  | nil => exact ⟨fun _ h => absurd h List.not_mem_nil, fun _ _ _ => rfl⟩
  | cons a l ih =>
    obtain ⟨hin, hout⟩ := ih (s.heartbeatHold c a)
    obtain ⟨ha, hne⟩ := watch_heartbeatHold s c a
    rw [List.foldl_cons]
    constructor
    · intro x hx
      by_cases hl : x ∈ l
      · exact hin x hl
      · obtain rfl : x = a := (List.mem_cons.1 hx).resolve_right hl
        rw [hout x hl (.inr (.inr (congrArg Prod.fst ha))), ha]
    · intro y hy hr
      obtain ⟨hya, hyl⟩ := not_or.1 (List.mem_cons.not.1 hy)
      have hw := hne y hya hr
      rw [hout y hyl (hr.of_watch hw), hw]

/-! ### The halt of a core (03 R51) -/

/-- Each context of the list becomes Halted. -/
theorem watch_haltAll (c : CoreId) (l : List CtxId) (s : State) :
    (∀ x ∈ l, ((l.foldl (fun s x => s.modCtx c x fun t => { t with run := .halted, episode := none }) s).ctx c x).watch
      = (.halted, (s.ctx c x).frame.cause))
    ∧ ∀ y ∉ l, ((l.foldl (fun s x => s.modCtx c x fun t => { t with run := .halted, episode := none }) s).ctx c y).watch
      = (s.ctx c y).watch := by
  induction l generalizing s with
  | nil => exact ⟨fun _ h => absurd h List.not_mem_nil, fun _ _ => rfl⟩
  | cons a l ih =>
    obtain ⟨hin, hout⟩ := ih (s.modCtx c a fun t => { t with run := .halted, episode := none })
    rw [List.foldl_cons]
    constructor
    · intro x hx
      by_cases ha : x = a
      · subst ha
        by_cases hl : x ∈ l
        · rw [hin x hl, State.ctx_modCtx]
        · rw [hout x hl, State.ctx_modCtx]
          rfl
      · rw [hin x ((List.mem_cons.1 hx).resolve_left ha), State.ctx_modCtx_ne _ _ _ ha]
    · intro y hy
      obtain ⟨hya, hyl⟩ := not_or.1 (List.mem_cons.not.1 hy)
      rw [hout y hyl, State.ctx_modCtx_ne _ _ _ hya]

theorem mem_live (s : State) (c : CoreId) (x : CtxId) :
    x ∈ (List.finRange 4).filter (fun x => (s.ctx c x).run != .unloaded) ↔ (s.ctx c x).run ≠ .unloaded := by
  simp

/-- The halt of a core is calm on every other one. -/
theorem calm_heartbeatHalt {D : Set CoreId} {c : CoreId} (h : c ∉ D) (s : State) : Calm D s (s.heartbeatHalt c) := by
  unfold State.heartbeatHalt
  extract_lets g live s1 s2 s3 s4 s5 s6
  have h1 : Calm D s s1 := (Steady.foldl (fun s x => steady_modCtx s c x Ctx.watch_interrupt) live s).calm D
  have h2 : Calm D s1 s2 := calm_modCore_of_notMem h s1 _
  have h3 : Calm D s2 s3 := (Steady.foldl (fun s x => steady_ddFinish s c x) live s2).calm D
  have h4 : Calm D s3 s4 := Calm.foldl (fun s x => calm_heartbeatHold h s x) live s3
  have h5 : Calm D s4 s5 := ((steady_saveOthers s4 g).calm D).trans
    (Calm.foldl (fun s x => calm_modCtx_of_notMem h s x _) live _)
  have h6 : Calm D s5 s6 := calm_modCore_of_notMem h s5 _
  have h7 : Calm D s6 ((s6.failGroup g 5).stopGroup g) := ((steady_failGroup s6 g 5).calm D).trans (calm_stopGroup _ g D)
  exact (h1.trans h2).trans ((h3.trans h4).trans ((h5.trans h6).trans h7))

/-- A core that is halted has no context in place; every context that was allotted is Halted with cause 0x21. -/
theorem heartbeatHalt_halts (s : State) (c : CoreId) : ((s.heartbeatHalt c).core c).current = none ∧ ∀ x : CtxId,
    ((s.ctx c x).run = .unloaded → ((s.heartbeatHalt c).ctx c x).run = .unloaded)
    ∧ ((s.ctx c x).run ≠ .unloaded → ((s.heartbeatHalt c).ctx c x).watch = (.halted, 0x21)) := by
  unfold State.heartbeatHalt
  extract_lets g live s1 s2 s3 s4 s5 s6
  have hlive : ∀ x, x ∈ live ↔ (s.ctx c x).run ≠ .unloaded := mem_live s c
  clear_value live
  have h1 : Steady s s1 := Steady.foldl (fun s x => steady_modCtx s c x Ctx.watch_interrupt) live s
  have h2 : ∀ x, s2.ctx c x = s1.ctx c x := fun x => by rw [State.ctx_eq, State.core_modCore]; rfl
  have h3 : Steady s2 s3 := Steady.foldl (fun s x => steady_ddFinish s c x) live s2
  have hw3 (x : CtxId) : (s3.ctx c x).watch = (s.ctx c x).watch := by
    rw [h3.ctx c x, h2 x, h1.ctx c x]
  obtain ⟨h4in, h4out⟩ : (∀ x ∈ live, (s4.ctx c x).watch = (.held, 0x21))
    ∧ ∀ y ∉ live, (s3.ctx c y).AtRest → (s4.ctx c y).watch = (s3.ctx c y).watch := watch_heartbeatHolds c live s3
  have h4 := steady_saveOthers s4 g
  obtain ⟨h5in, h5out⟩ : (∀ x ∈ live, (s5.ctx c x).watch = (.halted, ((s4.saveOthers g).ctx c x).frame.cause))
    ∧ ∀ y ∉ live, (s5.ctx c y).watch = ((s4.saveOthers g).ctx c y).watch := watch_haltAll c live (s4.saveOthers g)
  have h6 : s6.core c = { s5.core c with current := none, switching := false } := s5.core_modCore c _
  have h6x (x : CtxId) : s6.ctx c x = s5.ctx c x := by
    rw [State.ctx_eq, h6]
    rfl
  have h7 : Calm Set.univ s6 ((s6.failGroup g 5).stopGroup g) :=
    ((steady_failGroup s6 g 5).calm _).trans (calm_stopGroup _ g _)
  generalize (s6.failGroup g 5).stopGroup g = t at h7
  have h7x : KeepsRest c s6 t := h7.rest c (Set.mem_univ c)
  refine ⟨h7.empty c (Set.mem_univ c) (by rw [h6]), fun x => ⟨fun hx => ?_, fun hx => ?_⟩⟩
  · have hl : x ∉ live := fun h => (hlive x).1 h hx
    have hr3 : (s3.ctx c x).run = .unloaded := (congrArg Prod.fst (hw3 x)).trans hx
    have hw6 : (s6.ctx c x).watch = (s3.ctx c x).watch := by
      rw [h6x x, h5out x hl, h4.ctx c x, h4out x hl (.inl hr3)]
    have hr6 : (s6.ctx c x).run = .unloaded := (congrArg Prod.fst hw6).trans hr3
    exact (congrArg Prod.fst (h7x x (.inl hr6))).trans hr6
  · have hl := (hlive x).2 hx
    have hc : ((s4.saveOthers g).ctx c x).frame.cause = 0x21 := Ctx.cause_of_watch ((h4.ctx c x).trans (h4in x hl))
    have hw6 : (s6.ctx c x).watch = (.halted, 0x21) := by rw [h6x x, h5in x hl, hc]
    have hr6 : (s6.ctx c x).run = .halted := congrArg Prod.fst hw6
    rw [h7x x (.inr (.inl hr6)), hw6]

/-! ### The end of an interval (03 R50) -/

/-- The misses of a core at the end of an interval of `i` ticks. -/
def State.missesNow (s : State) (c : CoreId) (i : Nat) : Nat :=
  if (s.core c).beat.seen then 0
  else if s.watchedNow c i then (s.core c).beat.misses + 1 else (s.core c).beat.misses
/-- Its beat taken. -/
def State.takeBeat (s : State) (c : CoreId) (i : Nat) : State :=
  s.modCore c fun k => { k with beat := { k.beat with
    seen := false
    misses := s.missesNow c i } }
/-- What the end of an interval does to one core. -/
def State.intervalStep (i : Nat) (s : State) (c : CoreId) : State :=
  if 2 ≤ s.missesNow c i && !(s.takeBeat c i).haltWaits c then (s.takeBeat c i).heartbeatHalt c else s.takeBeat c i
/-- The cores of a partition. -/
def Partition.coreList (q : Partition) : List CoreId := (List.finRange 192).filter fun c => q.heaths.getLsbD (coreHeath c).val

theorem Partition.mem_coreList (q : Partition) (c : CoreId) : c ∈ q.coreList ↔ q.heaths.getLsbD (coreHeath c).val = true := by
  simp [Partition.coreList]
theorem Partition.nodup_coreList (q : Partition) : q.coreList.Nodup := (List.nodup_finRange 192).filter _

theorem exec_heartbeatIntervalEnd {s : State} {p : Fin 24} {q : Partition} (h : s.part p.val = some q) :
    exec (.heartbeatIntervalEnd p) s = .next (q.coreList.foldl (State.intervalStep q.hbi.toNat) s) := by
  show execHeartbeatIntervalEnd p s = _
  unfold execHeartbeatIntervalEnd
  rw [h]
  rfl

theorem State.missesNow_congr {s t : State} {c : CoreId} (hy : t.cyc = s.cyc) (hk : t.core c = s.core c) (i : Nat) :
    t.missesNow c i = s.missesNow c i := by
  unfold State.missesNow State.watchedNow
  rw [hy, hk]
theorem State.intervalStepquiet {s : State} {c : CoreId} {i : Nat} (h : s.missesNow c i < 2) : s.intervalStep i c = s.takeBeat c i := by
  have hn : ¬2 ≤ s.missesNow c i := Nat.not_le.2 h
  simp only [State.intervalStep, hn, decide_false, Bool.false_and, Bool.false_eq_true, if_false]

theorem State.fields_of_cores {s t : State} (e : { t with cores := s.cores } = s) : t.cyc = s.cyc ∧ t.gmem = s.gmem := by
  have hy := congrArg State.cyc e
  have hg := congrArg State.gmem e
  exact ⟨hy, hg⟩

/-- Cores without a second miss: their beats are taken, and nothing else changes. -/
theorem interval_quiet (i : Nat) (l : List CoreId) (s : State) (hd : l.Nodup) (hq : ∀ c ∈ l, s.missesNow c i < 2) :
    { l.foldl (State.intervalStep i) s with cores := s.cores } = s
    ∧ (∀ c ∈ l, (l.foldl (State.intervalStep i) s).core c = { s.core c with beat := { (s.core c).beat with
        seen := false
        misses := s.missesNow c i } })
    ∧ ∀ c ∉ l, (l.foldl (State.intervalStep i) s).core c = s.core c := by
  induction l generalizing s with
  | nil => exact ⟨rfl, fun _ h => absurd h List.not_mem_nil, fun _ _ => rfl⟩
  | cons a l ih =>
    obtain ⟨ha, hl⟩ := List.nodup_cons.1 hd
    have hne {c : CoreId} (h : c ≠ a) : (s.takeBeat a i).core c = s.core c := s.core_modCore_ne _ h
    have hm {c : CoreId} (h : c ≠ a) : (s.takeBeat a i).missesNow c i = s.missesNow c i := State.missesNow_congr (s := s) (t := s.takeBeat a i) rfl (hne h) i
    have hla {c : CoreId} (h : c ∈ l) : c ≠ a := fun e => ha (e ▸ h)
    rw [List.foldl_cons, State.intervalStepquiet (hq a List.mem_cons_self)]
    obtain ⟨h1, hin, hout⟩ := ih (s.takeBeat a i) hl fun c hc => by
      rw [hm (hla hc)]
      exact hq c (List.mem_cons_of_mem a hc)
    refine ⟨congrArg (fun u => { u with cores := s.cores }) h1, fun c hc => ?_, fun c hc => ?_⟩
    · rcases List.mem_cons.1 hc with rfl | hc
      · rw [hout c ha]
        exact s.core_modCore c _
      · rw [hin c hc, hne (hla hc), hm (hla hc)]
    · obtain ⟨hca, hcl⟩ := not_or.1 (List.mem_cons.not.1 hc)
      rw [hout c hcl, hne hca]

/-! ### A second miss (03 R51) -/

/-- A step that is calm on a core does not make the watch count a miss there. -/
theorem Calm.missesNow_le {D : Set CoreId} {s t : State} (h : Calm D s t) {c : CoreId} (hc : c ∈ D) (i : Nat) :
    t.missesNow c i ≤ s.missesNow c i := by
  have hw : t.watchedNow c i = true → s.watchedNow c i = true := by
    unfold State.watchedNow
    dsimp only
    rw [h.beat c hc, h.cyc]
    rw [Bool.and_eq_true, Bool.and_eq_true]
    refine And.imp_right fun ht => ?_
    rw [List.any_eq_true] at ht ⊢
    obtain ⟨u, hu, hr⟩ := ht
    obtain ⟨x, hx, rfl⟩ := List.getElem_of_mem hu
    have hx4 : x < 4 := by simpa using hx
    refine ⟨s.ctx c ⟨x, hx4⟩, by simp [State.ctx], ?_⟩
    by_contra hn
    have hs : (s.ctx c ⟨x, hx4⟩).run = .unloaded ∨ (s.ctx c ⟨x, hx4⟩).run = .halted := by
      simp only [Bool.and_eq_true, bne_iff_ne, ne_eq] at hn
      tauto
    have hk := h.rest c hc ⟨x, hx4⟩ (hs.imp_right .inl)
    have e : (t.ctx c ⟨x, hx4⟩).run = (s.ctx c ⟨x, hx4⟩).run := congrArg Prod.fst hk
    have hr' : (t.ctx c ⟨x, hx4⟩).run ≠ .unloaded ∧ (t.ctx c ⟨x, hx4⟩).run ≠ .halted := by
      simpa [State.ctx] using hr
    rw [e] at hr'
    tauto
  unfold State.missesNow
  rw [h.beat c hc]
  split_ifs with h1 h2 h3
  · exact Nat.le_refl _
  · exact Nat.le_refl _
  · exact absurd (hw h2) h3
  · exact Nat.le_succ _
  · exact Nat.le_refl _

/-- A core in a freeze of its own domain work does not wait with its halt. -/
theorem State.haltWaits_of_domain {s : State} {c : CoreId} (h1 : (s.core c).stretch = 0) (h2 : (s.core c).splitAt = none)
    (h3 : 0 < (s.core c).freezeLeft) (h4 : (s.core c).freezeWhy = .domain) : s.haltWaits c = false := by
  have hw := congrArg Prod.fst (watch_core (watch_forceDue s c) c)
  obtain ⟨e1, e2, e3, e4⟩ : ((s.forceDue c).core c).stretch = (s.core c).stretch ∧ ((s.forceDue c).core c).splitAt = (s.core c).splitAt
    ∧ ((s.forceDue c).core c).freezeLeft = (s.core c).freezeLeft ∧ ((s.forceDue c).core c).freezeWhy = (s.core c).freezeWhy := by
    simpa [Core.watch] using hw
  unfold State.haltWaits
  dsimp only
  rw [e1, e2, e3, e4, h1, h2, h4, if_pos h3]
  rfl

/-- A core whose second miss comes is halted at once; the others of its partition have none. -/
theorem interval_halts {i : Nat} {l : List CoreId} {s : State} {c : CoreId} (hd : l.Nodup) (hc : c ∈ l)
    (hm : 2 ≤ s.missesNow c i) (hq : ∀ d ∈ l, d ≠ c → s.missesNow d i < 2) (h1 : (s.core c).stretch = 0) (h2 : (s.core c).splitAt = none)
    (h3 : 0 < (s.core c).freezeLeft) (h4 : (s.core c).freezeWhy = .domain) :
    let t := l.foldl (State.intervalStep i) s
    t.gmem = s.gmem ∧ (t.core c).current = none ∧ ∀ x : CtxId, ((s.ctx c x).run = .unloaded → (t.ctx c x).run = .unloaded)
      ∧ ((s.ctx c x).run ≠ .unloaded → (t.ctx c x).watch = (.halted, 0x21)) := by
  obtain ⟨pre, post, rfl⟩ := List.append_of_mem hc
  obtain ⟨hpre, hcp, hdisj⟩ := List.nodup_append.1 hd
  obtain ⟨hcpost, hpost⟩ := List.nodup_cons.1 hcp
  have hcpre : c ∉ pre := fun h => hdisj c h c List.mem_cons_self rfl
  rw [List.foldl_append, List.foldl_cons]
  obtain ⟨e1, -, hout⟩ := interval_quiet i pre s hpre fun d hd => hq d (List.mem_append_left _ hd) fun e => hcpre (e ▸ hd)
  generalize pre.foldl (State.intervalStep i) s = s1 at e1 hout
  obtain ⟨hy1, hg1⟩ := State.fields_of_cores e1
  have hk1 : s1.core c = s.core c := hout c hcpre
  have hk2 : (s1.takeBeat c i).core c = { s1.core c with beat := { (s1.core c).beat with
      seen := false
      misses := s1.missesNow c i } } := s1.core_modCore c _
  have hstep : s1.intervalStep i c = (s1.takeBeat c i).heartbeatHalt c := by
    have hw : (s1.takeBeat c i).haltWaits c = false := by
      apply State.haltWaits_of_domain <;> rw [hk2, hk1] <;> assumption
    have hm1 : 2 ≤ s1.missesNow c i := by rwa [State.missesNow_congr hy1 hk1]
    simp only [State.intervalStep, hm1, hw, decide_true, Bool.not_false, Bool.and_self, if_true]
  obtain ⟨hcur, hctx⟩ := heartbeatHalt_halts (s1.takeBeat c i) c
  have hcalm : Calm {c}ᶜ s1 ((s1.takeBeat c i).heartbeatHalt c) :=
    (calm_modCore_of_notMem (by simp) s1 _).trans (calm_heartbeatHalt (by simp) _)
  rw [hstep]
  generalize (s1.takeBeat c i).heartbeatHalt c = s2 at hcur hctx hcalm
  obtain ⟨e3, -, hout3⟩ := interval_quiet i post s2 hpost fun d hd => by
    have hne : d ≠ c := fun e => hcpost (e ▸ hd)
    refine Nat.lt_of_le_of_lt (hcalm.missesNow_le (c := d) (by simpa using hne) i) ?_
    rw [State.missesNow_congr hy1 (hout d fun h => hdisj d h d (List.mem_cons_of_mem c hd) rfl)]
    exact hq d (List.mem_append_right _ (List.mem_cons_of_mem c hd)) hne
  have hk3 := hout3 c hcpost
  have hx2 (x : CtxId) : (s1.takeBeat c i).ctx c x = s.ctx c x := by
    rw [State.ctx_eq, hk2, hk1]
    rfl
  refine ⟨(State.fields_of_cores e3).2.trans (hcalm.gmem.trans hg1), by rw [hk3]; exact hcur, fun x => ?_⟩
  rw [State.ctx_eq, State.ctx_eq, hk3, ← State.ctx_eq, ← State.ctx_eq, ← hx2 x]
  exact hctx x

/-! ### The wait-for probe (03 R53) -/

theorem State.HostIdle.room {s : State} (h : s.HostIdle) : (s.hub.ports[(0 : Fin 9)]).room 1 = true ∧ s.hub.hostQ.isEmpty = true := by
  obtain ⟨⟨hup, hw, hb⟩, hq⟩ := h
  refine ⟨?_, by rw [hq]; rfl⟩
  rw [Port.room, hup, hw, Bool.true_and, List.isEmpty_nil, Bool.true_and, decide_eq_true_iff]
  omega

/-- The first byte of a record of the trap queue is its kind. -/
theorem TrapRec.kind_byte (k : BitVec 8) (a b c d : Nat) :
    BitVec.ofNat 8 (k.toNat + a * 2 ^ 8 + b * 2 ^ 16 + c * 2 ^ 24 + d * 2 ^ 32) = k := by
  refine BitVec.eq_of_toNat_eq ?_
  rw [BitVec.toNat_ofNat]
  have := k.isLt
  omega

/-- The place of the next record of the trap queue. -/
def State.tqPlace (s : State) : Nat := s.hub.tqbase.toNat + 64 * (s.hub.tqtail.toNat % 1024)
/-- A record is a device write at that place, with its kind first; TQTAIL moves on. -/
theorem State.tqWrite_steps (s : State) (r : TrapRec) : ∃ l,
    s.tqWrite r = (s.hostWrite 127 s.tqPlace (r.kind :: l)).modHub fun h => { h with tqtail := h.tqtail + 1 } := by
  rw [← TrapRec.kind_byte r.kind r.cause.toNat r.vf.toNat r.part.toNat r.unit.toNat]
  exact ⟨_, rfl⟩

/-- On an idle host port a record is written at once. -/
theorem State.tqWrite_eq {s : State} (h : s.HostIdle) (r : TrapRec) : ∃ n o q l, s.tqWrite r = { s with
    choices := n
    hmem := memWriteBytes s.hmem s.tqPlace (r.kind :: l)
    hub := { s.hub with
      out := o
      ports := q
      tqtail := s.hub.tqtail + 1 } } := by
  obtain ⟨hr, hq⟩ := h.room
  obtain ⟨l, e⟩ := s.tqWrite_steps r
  obtain ⟨n, o, q, es⟩ := s.hostSend_eq ⟨127, s.tqPlace, r.kind :: l⟩
  refine ⟨n, o, q, l, ?_⟩
  rw [e, State.hostWrite, hr, hq, Bool.and_self, if_pos rfl, es]
  rfl

/-- A record that finds room in the trap queue, with none before it, is written at once. -/
theorem State.trapRecord_eq {s : State} {r : TrapRec} (hr : s.tqRoom r = true) (h : s.HostIdle) (hd : s.hub.deferred = []) :
    s.trapRecord r = s.tqWrite r := by
  have hroom : s.roomFor 1 = true := by rw [State.roomFor, h.2]; rfl
  rw [State.trapRecord, hr, hroom, hd]
  rfl

/-- A blocked unit sends its probes once. -/
theorem exec_probeSend {s : State} {u : BitVec 20} {since : Nat} (h : (s.probed.find? fun e => e.1 == u) = some (u, since, false))
    (hl : since + s.layout.probe.toNat < s.cyc.toNat) : exec (.probeSend u) s = .next { s with
      probes := s.probes ++ (s.awaits u).map fun v => ⟨u, BitVec.ofNat 20 v, 1⟩
      probed := s.probed.map fun (x : BitVec 20 × Nat × Bool) => if x.1 = u then (u, x.2.1, true) else x } := by
  show execProbeSend u s = _
  rw [execProbeSend, h]
  dsimp only
  rw [if_neg (by simp; exact hl)]

/-- The entry of a unit, after the mark that its probes are sent. -/
theorem find?_map_sent {u : BitVec 20} {since : Nat} {b : Bool} (l : List (BitVec 20 × Nat × Bool))
    (h : (l.find? fun e => e.1 == u) = some (u, since, b)) :
    ((l.map fun x => if x.1 = u then (u, x.2.1, true) else x).find? fun e => e.1 == u) = some (u, since, true) := by
  induction l with
  | nil => exact absurd h (by simp)
  | cons a l ih =>
    rw [List.map_cons, List.find?_cons]
    rw [List.find?_cons] at h
    by_cases ha : a.1 = u
    · rw [beq_iff_eq.2 ha] at h
      obtain rfl : a = (u, since, b) := Option.some.inj h
      simp
    · rw [beq_false_of_ne ha] at h
      rw [if_neg ha, beq_false_of_ne ha]
      exact ih h

/-- A probe that comes back to its initiator is reported in a record of kind 3. -/
theorem exec_probeReceive_origin {s : State} {p : Probe} {rest : List Probe} (hs : s.probes = p :: rest) (hp : p.target = p.origin)
    (hf : 8 < s.tqFree) (hi : s.HostIdle) (hd : s.hub.deferred = []) : Does .probeReceive s fun t =>
      t.probes = rest ∧ t.hub.tqtail = s.hub.tqtail + 1 ∧ t.cores = s.cores ∧ t.gmem = s.gmem
      ∧ (memWf s.hmem = true → memReadN t.hmem (s.hub.tqbase.toNat + 64 * (s.hub.tqtail.toNat % 1024)) 1 = 3) := by
  let u : State := { s with probes := rest }
  let r : TrapRec := ⟨3, 0, (u.unitOwner p.origin).1, (u.unitOwner p.origin).2, p.origin, u.cyc,
    BitVec.ofNat 64 (p.origin.toNat + p.hops * 2 ^ 32), 0, 0, 0⟩
  have e : exec .probeReceive s = .next (u.trapRecord r) := by
    show execProbeReceive s = _
    rw [execProbeReceive, hs]
    dsimp only
    rw [if_pos hp]
  have hroom : u.tqRoom r = true := decide_eq_true hf
  obtain ⟨n, o, q, l, ew⟩ := State.tqWrite_eq (s := u) hi r
  refine ⟨_, e, ?_⟩
  rw [State.trapRecord_eq hroom hi hd, ew]
  refine ⟨rfl, rfl, rfl, rfl, fun hw => ?_⟩
  have hb : memRead (memWriteBytes s.hmem s.tqPlace (r.kind :: l)) s.tqPlace = 3 := by
    rw [memRead_memWriteBytes hw, if_pos ⟨Nat.le_refl _, Nat.lt_add_of_pos_right (Nat.succ_pos _)⟩, Nat.sub_self]
    rfl
  show (memRead (memWriteBytes s.hmem s.tqPlace (r.kind :: l)) s.tqPlace).toNat + 256 * 0 = 3
  rw [hb]
  rfl

/-- Any other probe that comes to a unit is forwarded to what the unit awaits, up to 64 hops. -/
theorem exec_probeReceive_other {s : State} {p : Probe} {rest : List Probe} (hs : s.probes = p :: rest) (hp : p.target ≠ p.origin) :
    exec .probeReceive s = .next { s with probes := rest ++ (if p.hops < 64
      then (s.awaits p.target).map (fun v => ⟨p.origin, BitVec.ofNat 20 v, p.hops + 1⟩) else []) } := by
  show execProbeReceive s = _
  rw [execProbeReceive, hs]
  dsimp only
  rw [if_neg hp]
  by_cases h : p.hops < 64
  · rw [if_neg (Nat.not_le.2 h), if_pos h]
    rfl
  · rw [if_pos (Nat.not_lt.1 h), if_neg h, List.append_nil]

/-- Settles O35: the beats along the partition's cores, the halt stage by stage (no step of it moves a context at rest), and the
probes. -/
theorem watchEvents : Obligations.WatchEvents := by
  refine ⟨fun s p q hq => ?_, fun s u since p rest => ⟨fun h hl => ?_, fun hs => ⟨fun hp => ?_, fun hp hf hi hd => ?_⟩⟩⟩
  · intro inPart misses
    have he := exec_heartbeatIntervalEnd hq
    have hmem (c : CoreId) : c ∈ q.coreList ↔ inPart c := q.mem_coreList c
    refine ⟨fun h => ⟨_, he, ?_⟩, fun c hc hm hother h1 h2 h3 h4 => ⟨_, he, ?_⟩⟩
    · obtain ⟨e, hin, hout⟩ := interval_quiet q.hbi.toNat q.coreList s q.nodup_coreList fun c hc => h c ((hmem c).1 hc)
      exact ⟨e, fun c hc => hin c ((hmem c).2 hc), fun c hc => hout c fun h => hc ((hmem c).1 h)⟩
    · obtain ⟨hg, hcur, hx⟩ := interval_halts q.nodup_coreList ((hmem c).2 hc) hm (fun d hd => hother d ((hmem d).1 hd)) h1 h2 h3 h4
      refine ⟨hg, hcur, fun x => ⟨(hx x).1, fun hr => ?_⟩⟩
      have hw := (hx x).2 hr
      exact ⟨congrArg Prod.fst hw, Ctx.cause_of_watch hw⟩
  · exact ⟨_, exec_probeSend h hl, rfl, rfl, find?_map_sent s.probed h⟩
  · exact exec_probeReceive_other hs hp
  · exact exec_probeReceive_origin hs hp hf hi hd

end Sys2Proof.Machine
end

section
/-!
Slot words (05 R58 to R66): what a word carries in its opcode, its guard and its low 35 bits, and when a reader of one of its
fields finds a given value there.
-/
namespace Sys2Proof

/-! ### Words by opcode, guard and low bits -/

/-- The word of an opcode, a guard and the bits [34:0]. -/
def slotWord (opc : Nat) (gd : Guard) (low : Nat) : Nat := opc * 2 ^ 40 + encGd gd + low

/-- A word carries a guard and the bits [34:0]. -/
def Carries (w : Nat) (gd : Guard) (low : Nat) : Prop := fGd w = gd ∧ fld w 0 35 = low

theorem encGd_fGd (w : Nat) : encGd (fGd w) = fld w 35 5 * 2 ^ 35 := by
  have h : fld w 39 1 = 0 ∨ fld w 39 1 = 1 := by
    have := fld_lt w 39 1
    omega
  rcases h with h | h <;> simp only [encGd, fGd, h] <;> simp only [fld] at h ⊢ <;> simp <;> omega

theorem fGd_of_fld {w : Nat} {gd : Guard} (h : fld w 35 5 * 2 ^ 35 = encGd gd) : fGd w = gd := by
  obtain ⟨n, p⟩ := gd
  have hp : fld w 35 4 = p.val := by
    cases n <;> simp only [encGd, fld] at h ⊢ <;> simp at h <;> omega
  have hn : fld w 39 1 = if n then 1 else 0 := by
    cases n <;> simp only [encGd, fld] at h ⊢ <;> simp at h ⊢ <;> omega
  simp only [fGd, hp, hn, Fin.eta]
  cases n <;> rfl

theorem encGd_lt (gd : Guard) : ∃ n, n < 32 ∧ encGd gd = n * 2 ^ 35 := by
  obtain ⟨n, p⟩ := gd
  refine ⟨(if n then 1 else 0) * 16 + p.val, ?_, ?_⟩ <;> cases n <;> simp [encGd] <;> omega

theorem slotWord_of_carries {w low : Nat} {gd : Guard} (hw : w < 2 ^ 48) (h : Carries w gd low) :
    slotWord (fOpc w) gd low = w := by
  obtain ⟨rfl, rfl⟩ := h
  rw [slotWord, encGd_fGd]
  simp only [fOpc, fld]
  omega

theorem fOpc_slotWord {opc low : Nat} (gd : Guard) (ho : opc < 256) (hl : low < 2 ^ 35) : fOpc (slotWord opc gd low) = opc := by
  obtain ⟨n, hn, e⟩ := encGd_lt gd
  simp only [fOpc, fld, slotWord, e]
  omega

theorem carries_slotWord {low : Nat} (opc : Nat) (gd : Guard) (hl : low < 2 ^ 35) : Carries (slotWord opc gd low) gd low := by
  obtain ⟨n, hn, e⟩ := encGd_lt gd
  refine ⟨fGd_of_fld ?_, ?_⟩ <;> simp only [fld, slotWord, e] <;> omega

/-! ### Codes of modifiers -/

theorem Scope.ofCode_eq_some {n : Nat} {x : Scope} : Scope.ofCode n = some x ↔ n = x.code := by
  refine ⟨fun h => ?_, by rintro rfl; cases x <;> rfl⟩
  unfold Scope.ofCode at h
  split at h <;> cases h <;> rfl

theorem Sg.ofCode_eq_some {n : Nat} {x : Sg} : Sg.ofCode n = some x ↔ n = x.code := by
  refine ⟨fun h => ?_, by rintro rfl; cases x <;> rfl⟩
  unfold Sg.ofCode at h
  split at h <;> cases h <;> rfl

theorem Rm.ofCode_eq_some {n : Nat} {x : Rm} : Rm.ofCode n = some x ↔ n = x.code := by
  refine ⟨fun h => ?_, by rintro rfl; cases x <;> rfl⟩
  unfold Rm.ofCode at h
  split at h <;> cases h <;> rfl

theorem Cc.ofCode_eq_some {n : Nat} {x : Cc} : Cc.ofCode n = some x ↔ n = x.code := by
  refine ⟨fun h => ?_, by rintro rfl; cases x <;> rfl⟩
  unfold Cc.ofCode at h
  split at h <;> cases h <;> rfl

theorem Fc.ofCode_eq_some {n : Nat} {x : Fc} : Fc.ofCode n = some x ↔ n = x.code := by
  refine ⟨fun h => ?_, by rintro rfl; cases x <;> rfl⟩
  unfold Fc.ofCode at h
  split at h <;> cases h <;> rfl

theorem Wc.ofCode_eq_some {n : Nat} {x : Wc} : Wc.ofCode n = some x ↔ n = x.code := by
  refine ⟨fun h => ?_, by rintro rfl; cases x <;> rfl⟩
  unfold Wc.ofCode at h
  split at h <;> cases h <;> rfl

theorem MSize.ofCode_eq_some {n : Nat} {x : MSize} : MSize.ofCode n = some x ↔ n = x.code := by
  refine ⟨fun h => ?_, by rintro rfl; cases x <;> rfl⟩
  unfold MSize.ofCode at h
  split at h <;> cases h <;> rfl

theorem LaneW.ofCode_eq_some {n : Nat} {x : LaneW} : LaneW.ofCode n = some x ↔ n = x.code := by
  refine ⟨fun h => ?_, by rintro rfl; cases x <;> rfl⟩
  unfold LaneW.ofCode at h
  split at h <;> cases h <;> rfl

theorem VTy.ofCode_eq_some {n : Nat} {x : VTy} : VTy.ofCode n = some x ↔ n = x.code := by
  refine ⟨fun h => ?_, by rintro rfl; cases x <;> rfl⟩
  unfold VTy.ofCode at h
  split at h <;> cases h <;> rfl

theorem ScanOp.ofCode_eq_some {n : Nat} {x : ScanOp} : ScanOp.ofCode n = some x ↔ n = x.code := by
  refine ⟨fun h => ?_, by rintro rfl; cases x <;> rfl⟩
  unfold ScanOp.ofCode at h
  split at h <;> cases h <;> rfl

theorem AtOp.ofCode_eq_some {n : Nat} {x : AtOp} : AtOp.ofCode n = some x ↔ n = x.code := by
  refine ⟨fun h => ?_, by rintro rfl; cases x <;> rfl⟩
  unfold AtOp.ofCode at h
  split at h <;> cases h <;> rfl

theorem BoolOp.ofCode_eq_some {n : Nat} {x : BoolOp} : BoolOp.ofCode n = some x ↔ n = x.code := by
  refine ⟨fun h => ?_, by rintro rfl; cases x <;> rfl⟩
  unfold BoolOp.ofCode at h
  split at h <;> cases h <;> rfl

theorem Dt.ofCode_eq_some {n : Nat} {x : Dt} : Dt.ofCode n = some x ↔ n = x.code := by
  refine ⟨fun h => ?_, by rintro rfl; cases x <;> rfl⟩
  unfold Dt.ofCode at h
  split at h <;> cases h <;> rfl

/-! ### Readers of fields -/

section
variable {α β : Type} {x : β}

theorem must_bind {p : Bool} {e : Illegal} {f : Unit → Dec β} : (must p e >>= f) = .ok x ↔ p = true ∧ f () = .ok x := by
  cases p <;> simp [must, bind, Except.bind]

theorem getOr_bind {o : Option α} {e : Illegal} {f : α → Dec β} : (getOr o e >>= f) = .ok x ↔ ∃ y, o = some y ∧
    f y = .ok x := by
  cases o <;> simp [getOr, bind, Except.bind]

theorem pure_eq_ok {y : β} : (pure y : Dec β) = .ok x ↔ y = x := by
  simp [pure, Except.pure]

theorem reg16_bind {r : R64} {f : R16 → Dec β} : (reg16 r >>= f) = .ok x ↔ ∃ d : R16, r.val = d.val ∧ f d = .ok x := by
  unfold reg16
  split
  · next h => exact ⟨fun e => ⟨_, rfl, e⟩, fun ⟨d, hd, e⟩ => by rwa [← Fin.ext (a := ⟨r.val, h⟩) hd] at e⟩
  · next h => exact ⟨nofun, fun ⟨d, hd, _⟩ => absurd (hd ▸ d.isLt) h⟩

theorem lvl6_bind {n : Nat} {f : Lvl → Dec β} : (lvl6 n >>= f) = .ok x ↔ ∃ l : Lvl, n = l.val ∧ f l = .ok x := by
  unfold lvl6
  split
  · next h => exact ⟨fun e => ⟨_, rfl, e⟩, fun ⟨l, hl, e⟩ => by rwa [← Fin.ext (a := ⟨n, h⟩) hl] at e⟩
  · next h => exact ⟨nofun, fun ⟨l, hl, _⟩ => absurd (hl ▸ l.isLt) h⟩

/-- An immediate names no literal word beyond the first `litc` (05 Table 5.7). -/
def Imm.Within (litc : Nat) (v : Imm) : Prop := ∀ k, Machine.immLit v = some k → k.val < litc

theorem fImm_eq_ok {litc w : Nat} {v : Imm} : fImm litc w = .ok v ↔ fld w 0 23 = encImm v ∧ v.Within litc := by
  have hk : fld w 0 23 = fld w 20 3 * 2 ^ 20 + fld w 0 20 := by
    simp only [fld]
    omega
  have hv : fld w 0 20 < 2 ^ 20 := fld_lt w 0 20
  rw [hk]
  unfold fImm
  generalize fld w 20 3 = kind at *
  generalize fld w 0 20 = n at *
  constructor
  · intro h
    dsimp only at h
    split at h
    · cases h
      exact ⟨by simp only [encImm, BitVec.toNat_ofNat]; omega, nofun⟩
    · cases h
      exact ⟨by simp only [encImm, BitVec.toNat_ofNat]; omega, nofun⟩
    iterate 3
      · split at h
        · next hn =>
          cases h
          refine ⟨by simp only [encImm]; omega, fun k hk => ?_⟩
          cases hk
          exact hn.2
        · cases h
    · split at h
      · cases h
        exact ⟨by simp only [encImm], nofun⟩
      · cases h
    · cases h
      exact ⟨by simp only [encImm, BitVec.toNat_ofNat]; omega, nofun⟩
    · cases h
  · rintro ⟨h, hl⟩
    cases v with
    | int20 b =>
      have hb := b.isLt
      obtain ⟨rfl, rfl⟩ : kind = 0 ∧ n = b.toNat := by
        simp only [encImm] at h
        omega
      simp
    | fp20 b =>
      have hb := b.isLt
      obtain ⟨rfl, rfl⟩ : kind = 1 ∧ n = b.toNat := by
        simp only [encImm] at h
        omega
      simp
    | lit k =>
      have hkl := hl k rfl
      obtain ⟨rfl, rfl⟩ : kind = 2 + k.val ∧ n = 0 := by
        simp only [encImm] at h
        omega
      fin_cases k <;> exact if_pos ⟨rfl, hkl⟩
    | cb m =>
      obtain ⟨rfl, rfl⟩ : kind = 5 ∧ n = m.val := by
        simp only [encImm] at h
        omega
      simp
    | high b =>
      have hb := b.isLt
      obtain ⟨rfl, rfl⟩ : kind = 6 ∧ n = b.toNat := by
        simp only [encImm] at h
        omega
      simp

theorem fImm_bind {litc w : Nat} {f : Imm → Dec β} :
    (fImm litc w >>= f) = .ok x ↔ ∃ v, (fld w 0 23 = encImm v ∧ v.Within litc) ∧ f v = .ok x := by
  simp only [← fImm_eq_ok]
  cases fImm litc w <;> simp [bind, Except.bind]

theorem fOs_bind {w : Nat} {f : Os → Dec β} : (fOs w >>= f) = .ok x ↔ ∃ os, fld w 4 7 * 2 ^ 4 = encOs os ∧ f os = .ok x := by
  simp only [fOs, bind_assoc, getOr_bind, Scope.ofCode_eq_some, pure_bind]
  constructor
  · rintro ⟨sc, h, e⟩
    refine ⟨_, ?_, e⟩
    simp only [encOs, fld] at h ⊢
    omega
  · rintro ⟨⟨cls, sc⟩, h, e⟩
    have hs : sc.code < 6 := by cases sc <;> decide
    have hc : (⟨fld w 7 4, fld_lt w 7 4⟩ : R16) = cls := Fin.ext (by
      simp only [encOs, fld] at h ⊢
      omega)
    refine ⟨sc, ?_, by rw [hc]; exact e⟩
    simp only [encOs, fld] at h ⊢
    omega

theorem fMem_bind {w : Nat} {f : Mem → Dec β} :
    (fMem w >>= f) = .ok x ↔ ∃ m : Mem, ((fA w).val = m.base.val ∧ fld w 11 12 * 2 ^ 11 = encOfs m.ofs) ∧ f m = .ok x := by
  have hx : fld w 22 1 = 0 ∨ fld w 22 1 = 1 := by
    have := fld_lt w 22 1
    omega
  simp only [fMem, bind_assoc, reg16_bind]
  constructor
  · rintro ⟨a, ha, e⟩
    rcases hx with hx | hx
    · rw [hx] at e
      refine ⟨_, ⟨ha, ?_⟩, e⟩
      simp only [encOfs, BitVec.toNat_ofNat, fld] at hx ⊢
      omega
    · rw [hx, if_neg (by decide), bind_assoc] at e
      obtain ⟨h0, e⟩ := must_bind.1 e
      refine ⟨_, ⟨ha, ?_⟩, e⟩
      simp only [encOfs, fld, beq_iff_eq] at hx h0 ⊢
      omega
  · rintro ⟨⟨a, o⟩, ⟨ha, ho⟩, e⟩
    refine ⟨a, ha, ?_⟩
    cases o with
    | disp d =>
      have hd := d.isLt
      have h0 : fld w 22 1 = 0 := by
        simp only [encOfs, fld] at ho ⊢
        omega
      have hv : BitVec.ofNat 11 (fld w 11 11) = d := BitVec.eq_of_toNat_eq (by
        simp only [encOfs, BitVec.toNat_ofNat, fld] at ho ⊢
        omega)
      rw [h0, hv]
      exact e
    | idx r =>
      have h1 : fld w 22 1 = 1 ∧ fld w 11 5 = 0 := by
        simp only [encOfs, fld] at ho ⊢
        omega
      have hv : (⟨fld w 16 6, fld_lt w 16 6⟩ : R64) = r := Fin.ext (by
        simp only [encOfs, fld] at ho ⊢
        omega)
      rw [h1.1, h1.2, hv]
      exact e

theorem fSp_bind {w : Nat} {f : Option R8 → Dec β} :
    (fSp w >>= f) = .ok x ↔ ∃ sp, fld w 10 4 * 2 ^ 10 = encSp sp ∧ f sp = .ok x := by
  have hx : fld w 13 1 = 0 ∨ fld w 13 1 = 1 := by
    have := fld_lt w 13 1
    omega
  unfold fSp
  constructor
  · intro e
    rcases hx with hx | hx
    · rw [hx] at e
      by_cases h0 : fld w 10 3 = 0
      · rw [h0] at e
        refine ⟨_, ?_, e⟩
        simp only [encSp, fld] at hx h0 ⊢
        omega
      · rw [if_neg (by decide), if_neg (by simpa using h0)] at e
        cases e
    · rw [hx] at e
      refine ⟨_, ?_, e⟩
      simp only [encSp, reg8, fld] at hx ⊢
      omega
  · rintro ⟨sp, h, e⟩
    cases sp with
    | none =>
      have h0 : fld w 13 1 = 0 ∧ fld w 10 3 = 0 := by
        simp only [encSp, fld] at h ⊢
        omega
      rw [h0.1, h0.2]
      exact e
    | some k =>
      have h1 : fld w 13 1 = 1 := by
        simp only [encSp, fld] at h ⊢
        omega
      have hk : reg8 w 10 = k := Fin.ext (by
        simp only [encSp, reg8, fld] at h ⊢
        omega)
      rw [h1, hk]
      exact e

end

end Sys2Proof
end

section
/-!
The low 35 bits of a slot word by format (05 R60 to R66), and the words each shape of a form reads. In each lemma `key` says how
the low bits of the form's word fall into the fields that its reader looks at.
-/
namespace Sys2Proof

/-! ### The low bits by format -/

/-- Bits [34:0] of format R (and formats N and E, and the typed and conversion classes of S5). -/
def lowR (d a b c m : Nat) : Nat := d * 2 ^ 29 + a * 2 ^ 23 + b * 2 ^ 17 + c * 2 ^ 11 + m

/-- Bits [34:0] of format I. -/
def lowI (d a : Nat) (v : Imm) : Nat := d * 2 ^ 29 + a * 2 ^ 23 + encImm v

/-- Bits [34:0] of format M. -/
def lowM (d : Nat) (m : Mem) (os : Os) (size : Nat) : Nat := d * 2 ^ 29 + m.base.val * 2 ^ 23 + encOfs m.ofs + encOs os + size

/-- Bits [34:0] of ATOM (10 Table 10.4). -/
def lowAtom (op : AtOp) (sg : Sg) (sz : MSize) (os : Os) (d a c : Nat) : Nat :=
  d * 2 ^ 29 + a * 2 ^ 23 + op.code * 2 ^ 19 + sg.code * 2 ^ 18 + c * 2 ^ 11 + encOs os + sz.code

/-- Bits [34:0] of format X. -/
def lowX (sp : Option R8) (q a b d m : Nat) : Nat := q * 2 ^ 26 + a * 2 ^ 22 + b * 2 ^ 18 + d * 2 ^ 14 + encSp sp + m

/-- Bits [34:0] of format B. -/
def lowB (bt low : Nat) : Nat := bt * 2 ^ 32 + low

theorem encR_eq (opc : Nat) (gd : Guard) (d a b c m : Nat) : encR opc gd d a b c m = slotWord opc gd (lowR d a b c m) := by
  simp only [encR, slotWord, lowR]
  omega

theorem encI_eq (opc : Nat) (gd : Guard) (d a : Nat) (v : Imm) : encI opc gd d a v = slotWord opc gd (lowI d a v) := by
  simp only [encI, slotWord, lowI]
  omega

theorem encM_eq (opc : Nat) (gd : Guard) (d : Nat) (m : Mem) (os : Os) (size : Nat) :
    encM opc gd d m os size = slotWord opc gd (lowM d m os size) := by
  simp only [encM, slotWord, lowM]
  omega

theorem encX_eq (opc : Nat) (gd : Guard) (sp : Option R8) (q a b d m : Nat) :
    encX opc gd sp q a b d m = slotWord opc gd (lowX sp q a b d m) := by
  simp only [encX, slotWord, lowX]
  omega

theorem encB_eq (opc : Nat) (gd : Guard) (bt low : Nat) : encB opc gd bt low = slotWord opc gd (lowB bt low) := by
  simp only [encB, slotWord, lowB]
  omega

theorem Sg.code_lt (x : Sg) : x.code < 2 := by cases x <;> decide
theorem Rm.code_lt (x : Rm) : x.code < 4 := by cases x <;> decide
theorem Cc.code_lt (x : Cc) : x.code < 10 := by cases x <;> decide
theorem Fc.code_lt (x : Fc) : x.code < 7 := by cases x <;> decide
theorem Wc.code_lt (x : Wc) : x.code < 6 := by cases x <;> decide
theorem MSize.code_lt (x : MSize) : x.code < 7 := by cases x <;> decide
theorem LaneW.code_lt (x : LaneW) : x.code < 4 := by cases x <;> decide
theorem VTy.code_lt (x : VTy) : x.code < 15 := by cases x <;> decide
theorem ScanOp.code_lt (x : ScanOp) : x.code < 3 := by cases x <;> decide
theorem AtOp.code_lt (x : AtOp) : x.code < 8 := by cases x <;> decide
theorem BoolOp.code_lt (x : BoolOp) : x.code < 8 := by cases x <;> decide
theorem Dt.code_lt (x : Dt) : x.code < 7 := by cases x <;> decide
theorem Scope.code_lt (x : Scope) : x.code < 6 := by cases x <;> decide
theorem bit1_lt (k : Bool) : bit1 k < 2 := by cases k <;> decide

theorem encImm_lt (v : Imm) : encImm v < 2 ^ 23 := by
  cases v <;> simp only [encImm] <;> omega

theorem encOs_eq (os : Os) : ∃ n, n < 2 ^ 7 ∧ encOs os = n * 2 ^ 4 := by
  have := os.scope.code_lt
  exact ⟨os.cls.val * 2 ^ 3 + os.scope.code, by omega, by simp only [encOs]; omega⟩

theorem encOfs_eq (o : Ofs) : ∃ n, n < 2 ^ 12 ∧ encOfs o = n * 2 ^ 11 := by
  cases o with
  | disp d => exact ⟨d.toNat, by omega, rfl⟩
  | idx r => exact ⟨2 ^ 11 + r.val * 2 ^ 5, by omega, by simp only [encOfs]; omega⟩

theorem encSp_eq (sp : Option R8) : ∃ n, n < 2 ^ 4 ∧ encSp sp = n * 2 ^ 10 := by
  cases sp with
  | none => exact ⟨0, by omega, by simp [encSp]⟩
  | some k => exact ⟨2 ^ 3 + k.val, by omega, by simp only [encSp]; omega⟩

/-! ### What each shape of a form reads -/

section
variable {w lo n : Nat}

theorem flag_iff {k : Bool} : (fld w lo 1 == 1) = k ↔ fld w lo 1 = bit1 k := by
  have := fld_lt w lo 1
  cases k
  · simp [bit1]
    omega
  · simp [bit1]

theorem ofNat_fld_iff {v : BitVec n} : BitVec.ofNat n (fld w lo n) = v ↔ fld w lo n = v.toNat := by
  rw [← BitVec.toNat_inj, BitVec.toNat_ofNat, Nat.mod_eq_of_lt (fld_lt w lo n)]

end

section
variable {litc w size scope : Nat} {i : Instr}

theorem sNone_iff {k : Guard → Instr} : sNone w k = .ok i ↔ ∃ g, Carries w g (lowR 0 0 0 0 0) ∧ k g = i := by
  simp only [sNone, must_bind, pure_eq_ok, beq_iff_eq, Carries, lowR]
  grind

theorem sNop_iff : sNop w = .ok i ↔ ∃ g, Carries w g (lowR 0 0 0 0 0) ∧ .nop g = i := sNone_iff
theorem sDAB_iff {k : Guard → R64 → R64 → R64 → Instr} : sDAB w k = .ok i ↔
    ∃ g d a b, Carries w g (lowR d.val a.val b.val 0 0) ∧ k g d a b = i := by
  have key (d a b : R64) : fld w 0 35 = lowR d.val a.val b.val 0 0 ↔
      fld w 0 17 = 0 ∧ fD w = d ∧ fA w = a ∧ fB w = b := by
    simp only [lowR, Fin.ext_iff, fA, fB, fD, fld]
    omega
  simp only [sDAB, must_bind, pure_eq_ok, beq_iff_eq, Carries, key]
  grind

theorem sDABsg_iff {k : Guard → Sg → R64 → R64 → R64 → Instr} : sDABsg w k = .ok i ↔
    ∃ g sg d a b, Carries w g (lowR d.val a.val b.val 0 sg.code) ∧ k g sg d a b = i := by
  have key (sg : Sg) (d a b : R64) : fld w 0 35 = lowR d.val a.val b.val 0 sg.code ↔
      fld w 1 16 = 0 ∧ fld w 0 1 = sg.code ∧ fD w = d ∧ fA w = a ∧ fB w = b := by
    have := sg.code_lt
    simp only [lowR, Fin.ext_iff, fA, fB, fD, fld]
    omega
  simp only [sDABsg, must_bind, getOr_bind, Sg.ofCode_eq_some, pure_eq_ok, beq_iff_eq, Carries, key]
  grind

theorem sDA_iff {k : Guard → R64 → R64 → Instr} : sDA w k = .ok i ↔
    ∃ g d a, Carries w g (lowR d.val a.val 0 0 0) ∧ k g d a = i := by
  have key (d a : R64) : fld w 0 35 = lowR d.val a.val 0 0 0 ↔
      fld w 0 23 = 0 ∧ fD w = d ∧ fA w = a := by
    simp only [lowR, Fin.ext_iff, fA, fD, fld]
    omega
  simp only [sDA, must_bind, pure_eq_ok, beq_iff_eq, Carries, key]
  grind

theorem sA_iff {k : Guard → R64 → Instr} : sA w k = .ok i ↔
    ∃ g a, Carries w g (lowR 0 a.val 0 0 0) ∧ k g a = i := by
  have key (a : R64) : fld w 0 35 = lowR 0 a.val 0 0 0 ↔
      (fld w 0 23 = 0 ∧ fld w 29 6 = 0) ∧ fA w = a := by
    simp only [lowR, Fin.ext_iff, fA, fld]
    omega
  simp only [sA, must_bind, pure_eq_ok, beq_iff_eq, Bool.and_eq_true, Carries, key]
  grind

theorem sD_iff {k : Guard → R64 → Instr} : sD w k = .ok i ↔
    ∃ g d, Carries w g (lowR d.val 0 0 0 0) ∧ k g d = i := by
  have key (d : R64) : fld w 0 35 = lowR d.val 0 0 0 0 ↔
      fld w 0 29 = 0 ∧ fD w = d := by
    simp only [lowR, Fin.ext_iff, fD, fld]
    omega
  simp only [sD, must_bind, pure_eq_ok, beq_iff_eq, Carries, key]
  grind

theorem sB_iff {k : Guard → R64 → Instr} : sB w k = .ok i ↔
    ∃ g b, Carries w g (lowR 0 0 b.val 0 0) ∧ k g b = i := by
  have key (b : R64) : fld w 0 35 = lowR 0 0 b.val 0 0 ↔
      (fld w 0 17 = 0 ∧ fld w 23 12 = 0) ∧ fB w = b := by
    simp only [lowR, Fin.ext_iff, fB, fld]
    omega
  simp only [sB, must_bind, pure_eq_ok, beq_iff_eq, Bool.and_eq_true, Carries, key]
  grind

theorem sPPP_iff {k : Guard → R16 → R16 → R16 → Instr} : sPPP w k = .ok i ↔
    ∃ g d a b, Carries w g (lowR d.val a.val b.val 0 0) ∧ k g d a b = i := by
  have key (d a b : R16) : fld w 0 35 = lowR d.val a.val b.val 0 0 ↔
      fld w 0 17 = 0 ∧ (fD w).val = d.val ∧ (fA w).val = a.val ∧ (fB w).val = b.val := by
    simp only [lowR, fA, fB, fD, fld]
    omega
  simp only [sPPP, must_bind, reg16_bind, pure_eq_ok, beq_iff_eq, Carries, key]
  grind

theorem sDAI_iff {k : Guard → R64 → R64 → Imm → Instr} : sDAI litc w k = .ok i ↔
    ∃ g d a v, Carries w g (lowI d.val a.val v) ∧ v.Within litc ∧ k g d a v = i := by
  have key (d a : R64) (v : Imm) : fld w 0 35 = lowI d.val a.val v ↔
      fld w 0 23 = encImm v ∧ fD w = d ∧ fA w = a := by
    have := encImm_lt v
    simp only [lowI, Fin.ext_iff, fA, fD, fld]
    omega
  simp only [sDAI, fImm_bind, pure_eq_ok, Carries, key]
  grind

theorem sDI_iff {k : Guard → R64 → Imm → Instr} : sDI litc w k = .ok i ↔
    ∃ g d v, Carries w g (lowI d.val 0 v) ∧ v.Within litc ∧ k g d v = i := by
  have key (d : R64) (v : Imm) : fld w 0 35 = lowI d.val 0 v ↔
      fld w 23 6 = 0 ∧ fld w 0 23 = encImm v ∧ fD w = d := by
    have := encImm_lt v
    simp only [lowI, Fin.ext_iff, fD, fld]
    omega
  simp only [sDI, must_bind, fImm_bind, pure_eq_ok, beq_iff_eq, Carries, key]
  grind

theorem sI_iff {k : Guard → Imm → Instr} : sI litc w k = .ok i ↔
    ∃ g v, Carries w g (lowI 0 0 v) ∧ v.Within litc ∧ k g v = i := by
  have key (v : Imm) : fld w 0 35 = lowI 0 0 v ↔
      fld w 23 12 = 0 ∧ fld w 0 23 = encImm v := by
    have := encImm_lt v
    simp only [lowI, fld]
    omega
  simp only [sI, must_bind, fImm_bind, pure_eq_ok, beq_iff_eq, Carries, key]
  grind

theorem sBT_iff {k : Guard → R8 → Instr} : sBT w k = .ok i ↔
    ∃ g b, Carries w g (lowB b.val 0) ∧ k g b = i := by
  have key (b : R8) : fld w 0 35 = lowB b.val 0 ↔
      fld w 0 32 = 0 ∧ reg8 w 32 = b := by
    simp only [lowB, Fin.ext_iff, reg8, fld]
    omega
  simp only [sBT, must_bind, pure_eq_ok, beq_iff_eq, Carries, key]
  grind

theorem sNDA_iff {k : Guard → Bool → R64 → R64 → Instr} : sNDA w k = .ok i ↔
    ∃ g k1 d a, Carries w g (lowR d.val a.val 0 0 (bit1 k1 * 2 ^ 10)) ∧ k g k1 d a = i := by
  have key (k1 : Bool) (d a : R64) : fld w 0 35 = lowR d.val a.val 0 0 (bit1 k1 * 2 ^ 10) ↔
      (fld w 11 12 = 0 ∧ fld w 0 10 = 0) ∧ (fld w 10 1 == 1) = k1 ∧ fD w = d ∧ fA w = a := by
    have := bit1_lt k1
    simp only [lowR, flag_iff, Fin.ext_iff, fA, fD]
    simp only [fld]
    omega
  simp only [sNDA, must_bind, pure_eq_ok, beq_iff_eq, Bool.and_eq_true, Carries, key]
  grind

theorem sNDAo_iff {k : Guard → Bool → R64 → R64 → BitVec 10 → Instr} : sNDAo w k = .ok i ↔
    ∃ g k1 d a o, Carries w g (lowR d.val a.val 0 0 (bit1 k1 * 2 ^ 10 + o.toNat)) ∧ k g k1 d a o = i := by
  have key (k1 : Bool) (d a : R64) (o : BitVec 10) : fld w 0 35 = lowR d.val a.val 0 0 (bit1 k1 * 2 ^ 10 + o.toNat) ↔
      fld w 11 12 = 0 ∧ (fld w 10 1 == 1) = k1 ∧ fD w = d ∧ fA w = a ∧ BitVec.ofNat 10 (fld w 0 10) = o := by
    have := bit1_lt k1
    simp only [lowR, flag_iff, ofNat_fld_iff, Fin.ext_iff, fA, fD]
    simp only [fld]
    omega
  simp only [sNDAo, must_bind, pure_eq_ok, beq_iff_eq, Carries, key]
  grind

theorem sNDAB_iff {k : Guard → Bool → R64 → R64 → R64 → Instr} : sNDAB w k = .ok i ↔
    ∃ g k1 d a b, Carries w g (lowR d.val a.val b.val 0 (bit1 k1 * 2 ^ 10)) ∧ k g k1 d a b = i := by
  have key (k1 : Bool) (d a b : R64) : fld w 0 35 = lowR d.val a.val b.val 0 (bit1 k1 * 2 ^ 10) ↔
      (fld w 11 6 = 0 ∧ fld w 0 10 = 0) ∧ (fld w 10 1 == 1) = k1 ∧ fD w = d ∧ fA w = a ∧ fB w = b := by
    have := bit1_lt k1
    simp only [lowR, flag_iff, Fin.ext_iff, fA, fB, fD]
    simp only [fld]
    omega
  simp only [sNDAB, must_bind, pure_eq_ok, beq_iff_eq, Bool.and_eq_true, Carries, key]
  grind

theorem sMem_iff {k : Guard → MSize → Os → R64 → Mem → Instr} : sMem w k = .ok i ↔
    ∃ g sz os d m, Carries w g (lowM d.val m os sz.code) ∧ k g sz os d m = i := by
  have key (sz : MSize) (os : Os) (d : R64) (m : Mem) : fld w 0 35 = lowM d.val m os sz.code ↔
      ((fA w).val = m.base.val ∧ fld w 11 12 * 2 ^ 11 = encOfs m.ofs) ∧ fld w 4 7 * 2 ^ 4 = encOs os ∧ fld w 0 4 = sz.code ∧
        fD w = d := by
    have := sz.code_lt
    obtain ⟨p, _, ep⟩ := encOs_eq os
    obtain ⟨n, _, en⟩ := encOfs_eq m.ofs
    simp only [lowM, ep, en, Fin.ext_iff, fA, fD, fld]
    omega
  simp only [sMem, getOr_bind, MSize.ofCode_eq_some, fOs_bind, fMem_bind, pure_eq_ok, Carries, key]
  grind

theorem sMemI_iff {k : Guard → Os → R64 → Mem → Instr} (hs : size < 16) : sMemI size w k = .ok i ↔
    ∃ g os d m, Carries w g (lowM d.val m os size) ∧ k g os d m = i := by
  have key (os : Os) (d : R64) (m : Mem) : fld w 0 35 = lowM d.val m os size ↔
      ((fA w).val = m.base.val ∧ fld w 11 12 * 2 ^ 11 = encOfs m.ofs) ∧ fld w 4 7 * 2 ^ 4 = encOs os ∧ fld w 0 4 = size ∧
        fD w = d := by
    obtain ⟨p, _, ep⟩ := encOs_eq os
    obtain ⟨n, _, en⟩ := encOfs_eq m.ofs
    simp only [lowM, ep, en, Fin.ext_iff, fA, fD, fld]
    omega
  simp only [sMemI, must_bind, fOs_bind, fMem_bind, pure_eq_ok, beq_iff_eq, Carries, key]
  grind

theorem sTile_iff {k : Guard → Os → R16 → Mem → Instr} : sTile w k = .ok i ↔
    ∃ g os d m, Carries w g (lowM d.val m os 9) ∧ k g os d m = i := by
  have key (os : Os) (d : R16) (m : Mem) : fld w 0 35 = lowM d.val m os 9 ↔
      (fD w).val = d.val ∧ ((fA w).val = m.base.val ∧ fld w 11 12 * 2 ^ 11 = encOfs m.ofs) ∧ fld w 4 7 * 2 ^ 4 = encOs os ∧
        fld w 0 4 = 9 := by
    obtain ⟨p, _, ep⟩ := encOs_eq os
    obtain ⟨n, _, en⟩ := encOfs_eq m.ofs
    simp only [lowM, ep, en, fA, fD, fld]
    omega
  simp only [sTile, must_bind, reg16_bind, fOs_bind, fMem_bind, pure_eq_ok, beq_iff_eq, Carries, key]
  grind

theorem sLane_iff {k : Guard → MSize → Os → R64 → R16 → R64 → Instr} : sLane w k = .ok i ↔
    ∃ g sz os d a x, Carries w g (lowM d.val ⟨a, .idx x⟩ os sz.code) ∧ k g sz os d a x = i := by
  have key (sz : MSize) (os : Os) (d : R64) (a : R16) (x : R64) : fld w 0 35 = lowM d.val ⟨a, .idx x⟩ os sz.code ↔
      (fld w 22 1 = 1 ∧ fld w 11 5 = 0) ∧ (fA w).val = a.val ∧ fld w 4 7 * 2 ^ 4 = encOs os ∧ fld w 0 4 = sz.code ∧ fD w = d ∧
        (⟨fld w 16 6, fld_lt w 16 6⟩ : R64) = x := by
    have := sz.code_lt
    obtain ⟨p, _, ep⟩ := encOs_eq os
    simp only [lowM, ep, Fin.ext_iff, encOfs, fA, fD, fld]
    omega
  simp only [sLane, must_bind, getOr_bind, MSize.ofCode_eq_some, reg16_bind, fOs_bind, pure_eq_ok, beq_iff_eq,
    Bool.and_eq_true, Carries, key]
  grind

theorem sFence_iff {k : Guard → Scope → R64 → Instr} : sFence w k = .ok i ↔
    ∃ g sc d, Carries w g (lowR d.val 0 0 0 (sc.code * 16)) ∧ k g sc d = i := by
  have key (sc : Scope) (d : R64) : fld w 0 35 = lowR d.val 0 0 0 (sc.code * 16) ↔
      (fld w 7 22 = 0 ∧ fld w 0 4 = 0) ∧ fld w 4 3 = sc.code ∧ fD w = d := by
    have := sc.code_lt
    simp only [lowR, Fin.ext_iff, fD, fld]
    omega
  simp only [sFence, must_bind, getOr_bind, Scope.ofCode_eq_some, pure_eq_ok, beq_iff_eq, Bool.and_eq_true, Carries, key]
  grind

theorem sVrm_iff {k : Guard → VTy → Rm → R64 → R64 → R64 → Instr} : sVrm w k = .ok i ↔
    ∃ g ty rm d a b, Carries w g (lowR d.val a.val b.val 0 (rm.code * 16 + ty.code)) ∧ k g ty rm d a b = i := by
  have key (ty : VTy) (rm : Rm) (d a b : R64) : fld w 0 35 = lowR d.val a.val b.val 0 (rm.code * 16 + ty.code) ↔
      fld w 6 11 = 0 ∧ fld w 0 4 = ty.code ∧ fld w 4 2 = rm.code ∧ fD w = d ∧ fA w = a ∧ fB w = b := by
    have := ty.code_lt
    have := rm.code_lt
    simp only [lowR, Fin.ext_iff, fA, fB, fD, fld]
    omega
  simp only [sVrm, fTy, fRm, must_bind, getOr_bind, VTy.ofCode_eq_some, Rm.ofCode_eq_some, pure_eq_ok, beq_iff_eq, Carries, key]
  grind

theorem sVab_iff {k : Guard → VTy → R64 → R64 → R64 → Instr} : sVab w k = .ok i ↔
    ∃ g ty d a b, Carries w g (lowR d.val a.val b.val 0 (0 + ty.code)) ∧ k g ty d a b = i := by
  have key (ty : VTy) (d a b : R64) : fld w 0 35 = lowR d.val a.val b.val 0 (0 + ty.code) ↔
      fld w 4 13 = 0 ∧ fld w 0 4 = ty.code ∧ fD w = d ∧ fA w = a ∧ fB w = b := by
    have := ty.code_lt
    simp only [lowR, Fin.ext_iff, fA, fB, fD, fld]
    omega
  simp only [sVab, fTy, must_bind, getOr_bind, VTy.ofCode_eq_some, pure_eq_ok, beq_iff_eq, Carries, key]
  grind

theorem sVa_iff {k : Guard → VTy → R64 → R64 → Instr} : sVa w k = .ok i ↔
    ∃ g ty d a, Carries w g (lowR d.val a.val 0 0 (0 + ty.code)) ∧ k g ty d a = i := by
  have key (ty : VTy) (d a : R64) : fld w 0 35 = lowR d.val a.val 0 0 (0 + ty.code) ↔
      fld w 4 19 = 0 ∧ fld w 0 4 = ty.code ∧ fD w = d ∧ fA w = a := by
    have := ty.code_lt
    simp only [lowR, Fin.ext_iff, fA, fD, fld]
    omega
  simp only [sVa, fTy, must_bind, getOr_bind, VTy.ofCode_eq_some, pure_eq_ok, beq_iff_eq, Carries, key]
  grind

theorem sVsat_iff {k : Guard → VTy → Bool → R64 → R64 → R64 → Instr} : sVsat w k = .ok i ↔
    ∃ g ty s d a b, Carries w g (lowR d.val a.val b.val 0 (bit1 s * 64 + ty.code)) ∧ k g ty s d a b = i := by
  have key (ty : VTy) (s : Bool) (d a b : R64) : fld w 0 35 = lowR d.val a.val b.val 0 (bit1 s * 64 + ty.code) ↔
      (fld w 7 10 = 0 ∧ fld w 4 2 = 0) ∧ fld w 0 4 = ty.code ∧ (fld w 6 1 == 1) = s ∧ fD w = d ∧ fA w = a ∧ fB w = b := by
    have := ty.code_lt
    have := bit1_lt s
    simp only [lowR, flag_iff, Fin.ext_iff, fA, fB, fD]
    simp only [fld]
    omega
  simp only [sVsat, fTy, must_bind, getOr_bind, VTy.ofCode_eq_some, pure_eq_ok, beq_iff_eq, Bool.and_eq_true, Carries, key]
  grind

theorem sVcv_iff {k : Guard → VTy → VTy → Rm → Bool → R64 → R64 → Instr} : sVcv w k = .ok i ↔
    ∃ g dt st rm s d a, Carries w g (lowR d.val a.val 0 0 (dt.code * 2 ^ 7 + st.code * 2 ^ 3 + rm.code * 2 + bit1 s)) ∧
      k g dt st rm s d a = i := by
  have key (dt st : VTy) (rm : Rm) (s : Bool) (d a : R64) :
    fld w 0 35 = lowR d.val a.val 0 0 (dt.code * 2 ^ 7 + st.code * 2 ^ 3 + rm.code * 2 + bit1 s) ↔
      fld w 11 12 = 0 ∧ fld w 7 4 = dt.code ∧ fld w 3 4 = st.code ∧ fld w 1 2 = rm.code ∧ (fld w 0 1 == 1) = s ∧ fD w = d ∧
        fA w = a := by
    have := dt.code_lt
    have := st.code_lt
    have := rm.code_lt
    have := bit1_lt s
    simp only [lowR, flag_iff, Fin.ext_iff, fA, fD]
    simp only [fld]
    omega
  simp only [sVcv, fRm, must_bind, getOr_bind, VTy.ofCode_eq_some, Rm.ofCode_eq_some, pure_eq_ok, beq_iff_eq, Carries, key]
  grind

theorem sVlw_iff {k : Guard → LaneW → R64 → R64 → R64 → Instr} : sVlw w k = .ok i ↔
    ∃ g lw d a b, Carries w g (lowR d.val a.val b.val 0 lw.code) ∧ k g lw d a b = i := by
  have key (lw : LaneW) (d a b : R64) : fld w 0 35 = lowR d.val a.val b.val 0 lw.code ↔
      fld w 2 15 = 0 ∧ fld w 0 2 = lw.code ∧ fD w = d ∧ fA w = a ∧ fB w = b := by
    have := lw.code_lt
    simp only [lowR, Fin.ext_iff, fA, fB, fD, fld]
    omega
  simp only [sVlw, must_bind, getOr_bind, LaneW.ofCode_eq_some, pure_eq_ok, beq_iff_eq, Carries, key]
  grind

theorem sMma_iff {k : Guard → Option R8 → Q512 → R16 → R16 → Instr} : sMma w k = .ok i ↔
    ∃ g sp q a b, Carries w g (lowX sp q.val a.val b.val 0 0) ∧ k g sp q a b = i := by
  have key (sp : Option R8) (q : Q512) (a b : R16) : fld w 0 35 = lowX sp q.val a.val b.val 0 0 ↔
      (fld w 14 4 = 0 ∧ fld w 0 10 = 0) ∧ fld w 10 4 * 2 ^ 10 = encSp sp ∧ fQ w = q ∧ fMa w = a ∧ fMb w = b := by
    obtain ⟨r, _, er⟩ := encSp_eq sp
    simp only [lowX, er, Fin.ext_iff, fQ, fMa, fMb, fld]
    omega
  simp only [sMma, must_bind, fSp_bind, pure_eq_ok, beq_iff_eq, Bool.and_eq_true, Carries, key]
  grind

theorem sMDA_iff {k : Guard → Option R8 → R16 → R16 → Instr} : sMDA w k = .ok i ↔
    ∃ g sp d a, Carries w g (lowX sp 0 a.val 0 d.val 0) ∧ k g sp d a = i := by
  have key (sp : Option R8) (d a : R16) : fld w 0 35 = lowX sp 0 a.val 0 d.val 0 ↔
      ((fld w 26 9 = 0 ∧ fld w 18 4 = 0) ∧ fld w 0 10 = 0) ∧ fld w 10 4 * 2 ^ 10 = encSp sp ∧ fMd w = d ∧ fMa w = a := by
    obtain ⟨r, _, er⟩ := encSp_eq sp
    simp only [lowX, er, Fin.ext_iff, fMa, fMd, fld]
    omega
  simp only [sMDA, must_bind, fSp_bind, pure_eq_ok, beq_iff_eq, Bool.and_eq_true, Carries, key]
  grind

theorem sQQ_iff {k : Guard → Option R8 → Q512 → Q512 → Instr} : sQQ w k = .ok i ↔
    ∃ g sp q s, Carries w g (lowX sp q.val 0 0 0 s.val) ∧ k g sp q s = i := by
  have key (sp : Option R8) (q s : Q512) : fld w 0 35 = lowX sp q.val 0 0 0 s.val ↔
      (fld w 14 12 = 0 ∧ fld w 9 1 = 0) ∧ fld w 10 4 * 2 ^ 10 = encSp sp ∧ fQ w = q ∧ (⟨fld w 0 9, fld_lt w 0 9⟩ :
        Q512) = s := by
    obtain ⟨r, _, er⟩ := encSp_eq sp
    simp only [lowX, er, Fin.ext_iff, fQ, fld]
    omega
  simp only [sQQ, must_bind, fSp_bind, pure_eq_ok, beq_iff_eq, Bool.and_eq_true, Carries, key]
  grind

theorem sEDA_iff {k : Guard → R64 → R16 → Instr} : sEDA w k = .ok i ↔
    ∃ g d a, Carries w g (lowR d.val a.val 0 0 0) ∧ k g d a = i := by
  have key (d : R64) (a : R16) : fld w 0 35 = lowR d.val a.val 0 0 0 ↔
      fld w 0 23 = 0 ∧ (fA w).val = a.val ∧ fD w = d := by
    simp only [lowR, Fin.ext_iff, fA, fD, fld]
    omega
  simp only [sEDA, must_bind, reg16_bind, pure_eq_ok, beq_iff_eq, Carries, key]
  grind

theorem sEA_iff {k : Guard → R16 → Instr} : sEA w k = .ok i ↔
    ∃ g a, Carries w g (lowR 0 a.val 0 0 0) ∧ k g a = i := by
  have key (a : R16) : fld w 0 35 = lowR 0 a.val 0 0 0 ↔
      (fld w 0 23 = 0 ∧ fld w 29 6 = 0) ∧ (fA w).val = a.val := by
    simp only [lowR, fA, fld]
    omega
  simp only [sEA, must_bind, reg16_bind, pure_eq_ok, beq_iff_eq, Bool.and_eq_true, Carries, key]
  grind

theorem sEF_iff {k : Guard → Fin 4 → Instr} (hs : scope < 8) : sEF scope w k = .ok i ↔
    ∃ g r, Carries w g (lowR 0 0 0 0 (scope * 256 + r.val)) ∧ k g r = i := by
  have key (r : Fin 4) : fld w 0 35 = lowR 0 0 0 0 (scope * 256 + r.val) ↔
      fld w 11 24 = 0 ∧ fld w 8 3 = scope ∧ fld w 2 6 = 0 ∧ (⟨fld w 0 2, fld_lt w 0 2⟩ : Fin 4) = r := by
    simp only [lowR, Fin.ext_iff, fld]
    omega
  simp only [sEF, must_bind, pure_eq_ok, beq_iff_eq, Carries, key]
  grind

theorem sEABC_iff {k : Guard → R16 → R64 → R64 → Instr} : sEABC w k = .ok i ↔
    ∃ g a b c, Carries w g (lowR 0 a.val b.val c.val 0) ∧ k g a b c = i := by
  have key (a : R16) (b c : R64) : fld w 0 35 = lowR 0 a.val b.val c.val 0 ↔
      (fld w 29 6 = 0 ∧ fld w 0 11 = 0) ∧ (fA w).val = a.val ∧ fB w = b ∧ fC w = c := by
    simp only [lowR, Fin.ext_iff, fA, fB, fC, fld]
    omega
  simp only [sEABC, must_bind, reg16_bind, pure_eq_ok, beq_iff_eq, Bool.and_eq_true, Carries, key]
  grind

/-- Bits [31:0] of PREP by its target (05 R66). -/
def Target.low : Target → Nat
  | .rel o => o.toNat
  | .ind a => 2 ^ 31 + a.val * 2 ^ 23

theorem sPrep_iff : sPrep w = .ok i ↔ ∃ g b t, Carries w g (lowB b.val t.low) ∧ .prep g b t = i := by
  have key (b : R8) (t : Target) : fld w 0 35 = lowB b.val t.low ↔ fld w 29 2 = 0 ∧ reg8 w 32 = b ∧
      (fld w 31 1 = 0 ∧ fld w 23 6 = 0 ∧ .rel (BitVec.ofNat 23 (fld w 0 23)) = t ∨
        fld w 31 1 ≠ 0 ∧ fld w 0 23 = 0 ∧ .ind (fA w) = t) := by
    cases t with
    | rel o =>
      simp only [Target.rel.injEq, reduceCtorEq, and_false, or_false, ofNat_fld_iff, Fin.ext_iff, reg8, lowB, Target.low]
      simp only [fld]
      omega
    | ind a =>
      simp only [Target.ind.injEq, reduceCtorEq, and_false, false_or, Fin.ext_iff, reg8, fA, lowB, Target.low, fld]
      omega
  simp only [sPrep, must_bind, beq_iff_eq, Carries, key]
  split <;> simp only [must_bind, pure_eq_ok, beq_iff_eq] <;> grind

end

end Sys2Proof
end

section
/-!
The rows of the slots' maps that share no shape with another row (08 Tables 8.3 to 8.10): the words each reads.
-/
namespace Sys2Proof

section
variable {litc w : Nat} {i : Instr}

theorem decodeS0_lset (ho : fOpc w = 0x05) : decodeS0 litc w = .ok i ↔
    ∃ g l st a, Carries w g (lowR 0 a.val 0 0 (st.val * 8 + l.val)) ∧ .lset g l st a = i := by
  have key (l : Lvl) (st : R8) (a : R64) : fld w 0 35 = lowR 0 a.val 0 0 (st.val * 8 + l.val) ↔
      (fld w 6 17 = 0 ∧ fld w 29 6 = 0) ∧ fld w 0 3 = l.val ∧ reg8 w 3 = st ∧ fA w = a := by
    simp only [lowR, Fin.ext_iff, fA, reg8, fld]
    omega
  simp only [decodeS0, ho, must_bind, lvl6_bind, pure_eq_ok, beq_iff_eq, Bool.and_eq_true, Carries, key]
  grind

theorem decodeS0_lrun (ho : fOpc w = 0x06) : decodeS0 litc w = .ok i ↔
    ∃ g k o, Carries w g (lowB k.val o.toNat) ∧ .lrun g k o = i := by
  have key (k : Lvl) (o : BitVec 23) : fld w 0 35 = lowB k.val o.toNat ↔
      fld w 23 9 = 0 ∧ fld w 32 3 = k.val ∧ BitVec.ofNat 23 (fld w 0 23) = o := by
    simp only [lowB, ofNat_fld_iff]
    simp only [fld]
    omega
  simp only [decodeS0, ho, must_bind, lvl6_bind, pure_eq_ok, beq_iff_eq, Carries, key]
  grind

theorem decodeS0_lbrk (ho : fOpc w = 0x07) : decodeS0 litc w = .ok i ↔
    ∃ g l, Carries w g (lowR 0 0 0 0 l.val) ∧ .lbrk g l = i := by
  have key (l : Lvl) : fld w 0 35 = lowR 0 0 0 0 l.val ↔
      fld w 3 32 = 0 ∧ fld w 0 3 = l.val := by
    simp only [lowR, fld]
    omega
  simp only [decodeS0, ho, must_bind, lvl6_bind, pure_eq_ok, beq_iff_eq, Carries, key]
  grind

theorem decodeS0_lidx (ho : fOpc w = 0x08) : decodeS0 litc w = .ok i ↔
    ∃ g d l, Carries w g (lowR d.val 0 0 0 l.val) ∧ .lidx g d l = i := by
  have key (d : R64) (l : Lvl) : fld w 0 35 = lowR d.val 0 0 0 l.val ↔
      fld w 3 26 = 0 ∧ fld w 0 3 = l.val ∧ fD w = d := by
    simp only [lowR, Fin.ext_iff, fD, fld]
    omega
  simp only [decodeS0, ho, must_bind, lvl6_bind, pure_eq_ok, beq_iff_eq, Carries, key]
  grind

theorem decodeS0_wait (ho : fOpc w = 0x0B) : decodeS0 litc w = .ok i ↔
    ∃ g a b c dw, Carries w g (lowR 0 a.val b.val 0 (bit1 dw * 8 + c.code)) ∧ .wait g a b c dw = i := by
  have key (a : R16) (b : R64) (c : Wc) (dw : Bool) : fld w 0 35 = lowR 0 a.val b.val 0 (bit1 dw * 8 + c.code) ↔
      (fld w 4 13 = 0 ∧ fld w 29 6 = 0) ∧ (fA w).val = a.val ∧ fld w 0 3 = c.code ∧ fB w = b ∧ (fld w 3 1 == 1) = dw := by
    have := c.code_lt
    have := bit1_lt dw
    simp only [lowR, flag_iff, Fin.ext_iff, fA, fB]
    simp only [fld]
    omega
  simp only [decodeS0, ho, must_bind, getOr_bind, Wc.ofCode_eq_some, reg16_bind, pure_eq_ok, beq_iff_eq, Bool.and_eq_true,
    Carries, key]
  grind

theorem decodeS0_trap (ho : fOpc w = 0x10) : decodeS0 litc w = .ok i ↔
    ∃ g n, Carries w g (lowI 0 0 (.int20 (n.setWidth 20))) ∧ .trap g n = i := by
  have key (n : BitVec 8) : fld w 0 35 = lowI 0 0 (.int20 (n.setWidth 20)) ↔
      fld w 23 12 = 0 ∧ fld w 8 15 = 0 ∧ BitVec.ofNat 8 (fld w 0 8) = n := by
    simp only [lowI, ofNat_fld_iff, encImm, BitVec.toNat_setWidth]
    simp only [fld]
    omega
  simp only [decodeS0, ho, must_bind, pure_eq_ok, beq_iff_eq, Carries, key]
  grind

theorem decodeScalar_sel (ho : fOpc w = 0x1C) : decodeScalar litc w = .ok i ↔
    ∃ g d a b c, Carries w g (lowR d.val a.val b.val c.val 0) ∧ .sel g d a b c = i := by
  have key (d a b : R64) (c : R16) : fld w 0 35 = lowR d.val a.val b.val c.val 0 ↔
      fld w 0 11 = 0 ∧ (fC w).val = c.val ∧ fD w = d ∧ fA w = a ∧ fB w = b := by
    simp only [lowR, Fin.ext_iff, fA, fB, fC, fD, fld]
    omega
  simp only [decodeScalar, ho, must_bind, reg16_bind, pure_eq_ok, beq_iff_eq, Carries, key]
  grind

theorem decodeScalar_cmp (ho : fOpc w = 0x1D) : decodeScalar litc w = .ok i ↔
    ∃ g pr cc d a b, Carries w g (lowR d.val a.val b.val 0 (bit1 pr * 16 + cc.code)) ∧ .cmp g pr cc d a b = i := by
  have key (pr : Bool) (cc : Cc) (d : R16) (a b : R64) : fld w 0 35 = lowR d.val a.val b.val 0 (bit1 pr * 16 + cc.code) ↔
      fld w 5 12 = 0 ∧ (fD w).val = d.val ∧ fld w 0 4 = cc.code ∧ (fld w 4 1 == 1) = pr ∧ fA w = a ∧ fB w = b := by
    have := bit1_lt pr
    have := cc.code_lt
    simp only [lowR, flag_iff, Fin.ext_iff, fA, fB, fD]
    simp only [fld]
    omega
  simp only [decodeScalar, ho, must_bind, getOr_bind, Cc.ofCode_eq_some, reg16_bind, pure_eq_ok, beq_iff_eq, Carries, key]
  grind

theorem decodeScalar_ext (ho : fOpc w = 0x1E) : decodeScalar litc w = .ok i ↔
    ∃ g sg sz d a, Carries w g (lowR d.val a.val 0 0 (sg.code * 4 + sz.code)) ∧ .ext g sg sz d a = i := by
  have key (sg : Sg) (sz : LaneW) (d a : R64) : fld w 0 35 = lowR d.val a.val 0 0 (sg.code * 4 + sz.code) ↔
      fld w 3 20 = 0 ∧ fld w 2 1 = sg.code ∧ fld w 0 2 = sz.code ∧ fD w = d ∧ fA w = a := by
    have := sg.code_lt
    have := sz.code_lt
    simp only [lowR, Fin.ext_iff, fA, fD, fld]
    omega
  simp only [decodeScalar, ho, must_bind, getOr_bind, Sg.ofCode_eq_some, LaneW.ofCode_eq_some, pure_eq_ok, beq_iff_eq,
    Carries, key]
  grind

theorem decodeScalar_pnot (ho : fOpc w = 0x26) : decodeScalar litc w = .ok i ↔
    ∃ g d a, Carries w g (lowR d.val a.val 0 0 0) ∧ .pnot g d a = i := by
  have key (d a : R16) : fld w 0 35 = lowR d.val a.val 0 0 0 ↔
      fld w 0 23 = 0 ∧ (fD w).val = d.val ∧ (fA w).val = a.val := by
    simp only [lowR, fA, fD, fld]
    omega
  simp only [decodeScalar, ho, must_bind, reg16_bind, pure_eq_ok, beq_iff_eq, Carries, key]
  grind

theorem decodeS2_dset (ho : fOpc w = 0x40) : decodeS2 litc w = .ok i ↔
    ∃ g d a b k, Carries w g (lowR d.val a.val b.val 0 k.toNat) ∧ .dset g d a b k = i := by
  have key (d a b : R64) (k : BitVec 10) : fld w 0 35 = lowR d.val a.val b.val 0 k.toNat ↔
      fld w 10 7 = 0 ∧ fD w = d ∧ fA w = a ∧ fB w = b ∧ BitVec.ofNat 10 (fld w 0 10) = k := by
    simp only [lowR, ofNat_fld_iff, Fin.ext_iff, fA, fB, fD]
    simp only [fld]
    omega
  simp only [decodeS2, ho, must_bind, pure_eq_ok, beq_iff_eq, Carries, key]
  grind

theorem decodeS2_ndiff (ho : fOpc w = 0x52) : decodeS2 litc w = .ok i ↔
    ∃ g k d n, Carries w g (lowR d.val 0 0 0 (bit1 k * 2 ^ 10 + n.toNat)) ∧ .ndiff g k d n = i := by
  have key (k : Bool) (d : R64) (n : BitVec 10) : fld w 0 35 = lowR d.val 0 0 0 (bit1 k * 2 ^ 10 + n.toNat) ↔
      fld w 11 18 = 0 ∧ (fld w 10 1 == 1) = k ∧ fD w = d ∧ BitVec.ofNat 10 (fld w 0 10) = n := by
    have := bit1_lt k
    simp only [lowR, flag_iff, ofNat_fld_iff, Fin.ext_iff, fD]
    simp only [fld]
    omega
  simp only [decodeS2, ho, must_bind, pure_eq_ok, beq_iff_eq, Carries, key]
  grind

theorem decodeS3_aset (ho : fOpc w = 0x01) : decodeS3 litc w = .ok i ↔
    ∃ g d v, Carries w g (lowI d.val 0 v) ∧ v.Within litc ∧ .aset g d v = i := by
  have key (d : R16) (v : Imm) : fld w 0 35 = lowI d.val 0 v ↔
      fld w 23 6 = 0 ∧ (fD w).val = d.val ∧ fld w 0 23 = encImm v := by
    have := encImm_lt v
    simp only [lowI, fD, fld]
    omega
  simp only [decodeS3, ho, must_bind, reg16_bind, fImm_bind, pure_eq_ok, beq_iff_eq, Carries, key]
  grind

theorem decodeS3_aadd (ho : fOpc w = 0x02) : decodeS3 litc w = .ok i ↔
    ∃ g d a b, Carries w g (lowR d.val a.val b.val 0 0) ∧ .aadd g d a b = i := by
  have key (d a : R16) (b : R64) : fld w 0 35 = lowR d.val a.val b.val 0 0 ↔
      fld w 0 17 = 0 ∧ (fD w).val = d.val ∧ (fA w).val = a.val ∧ fB w = b := by
    simp only [lowR, Fin.ext_iff, fA, fB, fD, fld]
    omega
  simp only [decodeS3, ho, must_bind, reg16_bind, pure_eq_ok, beq_iff_eq, Carries, key]
  grind

theorem decodeS3_aupd (ho : fOpc w = 0x03) : decodeS3 litc w = .ok i ↔
    ∃ g d, Carries w g (lowR d.val 0 0 0 0) ∧ .aupd g d = i := by
  have key (d : R16) : fld w 0 35 = lowR d.val 0 0 0 0 ↔
      fld w 0 29 = 0 ∧ (fD w).val = d.val := by
    simp only [lowR, fD, fld]
    omega
  simp only [decodeS3, ho, must_bind, reg16_bind, pure_eq_ok, beq_iff_eq, Carries, key]
  grind

theorem decodeS3_amov (ho : fOpc w = 0x04) : decodeS3 litc w = .ok i ↔
    ∃ g d a, Carries w g (lowR d.val a.val 0 0 0) ∧ .amov g d a = i := by
  have key (d : R16) (a : R64) : fld w 0 35 = lowR d.val a.val 0 0 0 ↔
      fld w 0 23 = 0 ∧ (fD w).val = d.val ∧ fA w = a := by
    simp only [lowR, Fin.ext_iff, fA, fD, fld]
    omega
  simp only [decodeS3, ho, must_bind, reg16_bind, pure_eq_ok, beq_iff_eq, Carries, key]
  grind

theorem decodeS3_aget (ho : fOpc w = 0x05) : decodeS3 litc w = .ok i ↔
    ∃ g d a, Carries w g (lowR d.val a.val 0 0 0) ∧ .aget g d a = i := by
  have key (d : R64) (a : R16) : fld w 0 35 = lowR d.val a.val 0 0 0 ↔
      fld w 0 23 = 0 ∧ (fA w).val = a.val ∧ fD w = d := by
    simp only [lowR, Fin.ext_iff, fA, fD, fld]
    omega
  simp only [decodeS3, ho, must_bind, reg16_bind, pure_eq_ok, beq_iff_eq, Carries, key]
  grind

theorem decodeS3_akset (ho : fOpc w = 0x06) : decodeS3 litc w = .ok i ↔
    ∃ g d j v, Carries w g (lowI d.val j.val v) ∧ v.Within litc ∧ .akset g d j v = i := by
  have key (d : R16) (j : Lvl) (v : Imm) : fld w 0 35 = lowI d.val j.val v ↔
      (fD w).val = d.val ∧ fld w 0 23 = encImm v ∧ (fA w).val = j.val := by
    have := encImm_lt v
    simp only [lowI, fA, fD, fld]
    omega
  simp only [decodeS3, ho, reg16_bind, lvl6_bind, fImm_bind, pure_eq_ok, Carries, key]
  grind

theorem decodeS3_akmov (ho : fOpc w = 0x07) : decodeS3 litc w = .ok i ↔
    ∃ g d j b, Carries w g (lowR d.val j.val b.val 0 0) ∧ .akmov g d j b = i := by
  have key (d : R16) (j : Lvl) (b : R64) : fld w 0 35 = lowR d.val j.val b.val 0 0 ↔
      fld w 0 17 = 0 ∧ (fD w).val = d.val ∧ (fA w).val = j.val ∧ fB w = b := by
    simp only [lowR, Fin.ext_iff, fA, fB, fD, fld]
    omega
  simp only [decodeS3, ho, must_bind, reg16_bind, lvl6_bind, pure_eq_ok, beq_iff_eq, Carries, key]
  grind

theorem decodeS3_akget (ho : fOpc w = 0x08) : decodeS3 litc w = .ok i ↔
    ∃ g d a j, Carries w g (lowR d.val a.val j.val 0 0) ∧ .akget g d a j = i := by
  have key (d : R64) (a : R16) (j : Lvl) : fld w 0 35 = lowR d.val a.val j.val 0 0 ↔
      fld w 0 17 = 0 ∧ (fA w).val = a.val ∧ (fB w).val = j.val ∧ fD w = d := by
    simp only [lowR, Fin.ext_iff, fA, fB, fD, fld]
    omega
  simp only [decodeS3, ho, must_bind, reg16_bind, lvl6_bind, pure_eq_ok, beq_iff_eq, Carries, key]
  grind

theorem decodeS4_atom (ho : fOpc w = 0x0F) : decodeS4 w = .ok i ↔
    ∃ g op sg sz os d a c, Carries w g (lowAtom op sg sz os d.val a.val c.val) ∧ .atom g op sg sz os d a c = i := by
  have key (op : AtOp) (sg : Sg) (sz : MSize) (os : Os) (d : R64) (a : R16) (c : R64) :
    fld w 0 35 = lowAtom op sg sz os d.val a.val c.val ↔
      (fld w 22 1 = 0 ∧ fld w 17 1 = 0) ∧ (fA w).val = a.val ∧ fld w 4 7 * 2 ^ 4 = encOs os ∧ fld w 19 3 = op.code ∧
        fld w 18 1 = sg.code ∧
        fld w 0 4 = sz.code ∧ fD w = d ∧ fC w = c := by
    have := op.code_lt
    have := sg.code_lt
    have := sz.code_lt
    obtain ⟨p, _, ep⟩ := encOs_eq os
    simp only [lowAtom, ep, Fin.ext_iff, fA, fC, fD, fld]
    omega
  simp only [decodeS4, ho, must_bind, getOr_bind, AtOp.ofCode_eq_some, Sg.ofCode_eq_some, MSize.ofCode_eq_some, reg16_bind,
    fOs_bind, pure_eq_ok, beq_iff_eq, Bool.and_eq_true, Carries, key]
  grind

theorem decodeS4_pref (ho : fOpc w = 0x12) : decodeS4 w = .ok i ↔
    ∃ g os m, Carries w g (lowM 0 m os 0) ∧ .pref g os m = i := by
  have key (os : Os) (m : Mem) : fld w 0 35 = lowM 0 m os 0 ↔
      fld w 29 6 = 0 ∧ ((fA w).val = m.base.val ∧ fld w 11 12 * 2 ^ 11 = encOfs m.ofs) ∧ fld w 4 7 * 2 ^ 4 = encOs os ∧
        fld w 0 4 = 0 := by
    obtain ⟨p, _, ep⟩ := encOs_eq os
    obtain ⟨n, _, en⟩ := encOfs_eq m.ofs
    simp only [lowM, ep, en, fA, fld]
    omega
  simp only [decodeS4, ho, must_bind, fOs_bind, fMem_bind, pure_eq_ok, beq_iff_eq, Carries, key]
  grind

theorem decodeS5_vcmp (ho : fOpc w = 0x14) : decodeS5 litc w = .ok i ↔
    ∃ g fc ty d a b, Carries w g (lowR d.val a.val b.val 0 (fc.code * 128 + ty.code)) ∧ .vcmp g fc ty d a b = i := by
  have key (fc : Fc) (ty : VTy) (d a b : R64) : fld w 0 35 = lowR d.val a.val b.val 0 (fc.code * 128 + ty.code) ↔
      (fld w 10 7 = 0 ∧ fld w 4 3 = 0) ∧ fld w 7 3 = fc.code ∧ fld w 0 4 = ty.code ∧ fD w = d ∧ fA w = a ∧ fB w = b := by
    have := fc.code_lt
    have := ty.code_lt
    simp only [lowR, Fin.ext_iff, fA, fB, fD, fld]
    omega
  simp only [decodeS5, ho, fTy, must_bind, getOr_bind, Fc.ofCode_eq_some, VTy.ofCode_eq_some, pure_eq_ok, beq_iff_eq,
    Bool.and_eq_true, Carries, key]
  grind

theorem decodeS5_vsel (ho : fOpc w = 0x15) : decodeS5 litc w = .ok i ↔
    ∃ g d a b c, Carries w g (lowR d.val a.val b.val c.val 0) ∧ .vsel g d a b c = i := by
  have key (d a b c : R64) : fld w 0 35 = lowR d.val a.val b.val c.val 0 ↔
      fld w 0 11 = 0 ∧ fD w = d ∧ fA w = a ∧ fB w = b ∧ fC w = c := by
    simp only [lowR, Fin.ext_iff, fA, fB, fC, fD, fld]
    omega
  simp only [decodeS5, ho, must_bind, pure_eq_ok, beq_iff_eq, Carries, key]
  grind

theorem decodeS5_vwiden (ho : fOpc w = 0x21) : decodeS5 litc w = .ok i ↔
    ∃ g dt st d a, Carries w g (lowR d.val a.val 0 0 (dt.code * 2 ^ 7 + st.code * 2 ^ 3 + Rm.rn.code * 2 + bit1 false)) ∧
      .vwiden g dt st d a = i := by
  have key (dt st : VTy) (d a : R64) : fld w 0 35 = lowR d.val a.val 0 0 (dt.code * 2 ^ 7 + st.code * 2 ^ 3 + Rm.rn.code * 2 + bit1 false) ↔
      (fld w 11 12 = 0 ∧ fld w 0 3 = 0) ∧ fld w 7 4 = dt.code ∧ fld w 3 4 = st.code ∧ fD w = d ∧ fA w = a := by
    have := dt.code_lt
    have := st.code_lt
    simp only [lowR, Fin.ext_iff, Rm.code, bit1, Bool.false_eq_true, if_false, fA, fD, fld]
    omega
  simp only [decodeS5, ho, must_bind, getOr_bind, VTy.ofCode_eq_some, pure_eq_ok, beq_iff_eq, Bool.and_eq_true, Carries, key]
  grind

theorem decodeS5_vpack (ho : fOpc w = 0x23) : decodeS5 litc w = .ok i ↔
    ∃ g dt st rm s d a b, Carries w g (lowR d.val a.val b.val 0 (dt.code * 2 ^ 7 + st.code * 2 ^ 3 + rm.code * 2 + bit1 s)) ∧
      .vpack g dt st rm s d a b = i := by
  have key (dt st : VTy) (rm : Rm) (s : Bool) (d a b : R64) :
    fld w 0 35 = lowR d.val a.val b.val 0 (dt.code * 2 ^ 7 + st.code * 2 ^ 3 + rm.code * 2 + bit1 s) ↔
      fld w 11 6 = 0 ∧ fld w 7 4 = dt.code ∧ fld w 3 4 = st.code ∧ fld w 1 2 = rm.code ∧ (fld w 0 1 == 1) = s ∧ fD w = d ∧
        fA w = a ∧ fB w = b := by
    have := dt.code_lt
    have := st.code_lt
    have := rm.code_lt
    have := bit1_lt s
    simp only [lowR, flag_iff, Fin.ext_iff, fA, fB, fD]
    simp only [fld]
    omega
  simp only [decodeS5, ho, fRm, must_bind, getOr_bind, VTy.ofCode_eq_some, Rm.ofCode_eq_some, pure_eq_ok, beq_iff_eq,
    Carries, key]
  grind

theorem decodeS5_vscan (ho : fOpc w = 0x28) : decodeS5 litc w = .ok i ↔
    ∃ g op ty d a, Carries w g (lowR d.val a.val 0 0 (op.code * 128 + ty.code)) ∧ .vscan g op ty d a = i := by
  have key (op : ScanOp) (ty : VTy) (d a : R64) : fld w 0 35 = lowR d.val a.val 0 0 (op.code * 128 + ty.code) ↔
      (fld w 10 13 = 0 ∧ fld w 4 3 = 0) ∧ fld w 7 3 = op.code ∧ fld w 0 4 = ty.code ∧ fD w = d ∧ fA w = a := by
    have := op.code_lt
    have := ty.code_lt
    simp only [lowR, Fin.ext_iff, fA, fD, fld]
    omega
  simp only [decodeS5, ho, fTy, must_bind, getOr_bind, ScanOp.ofCode_eq_some, VTy.ofCode_eq_some, pure_eq_ok, beq_iff_eq,
    Bool.and_eq_true, Carries, key]
  grind

theorem decodeS5_vbcast (ho : fOpc w = 0x2A) : decodeS5 litc w = .ok i ↔
    ∃ g lw d a, Carries w g (lowR d.val a.val 0 0 lw.code) ∧ .vbcast g lw d a = i := by
  have key (lw : LaneW) (d a : R64) : fld w 0 35 = lowR d.val a.val 0 0 lw.code ↔
      fld w 2 21 = 0 ∧ fld w 0 2 = lw.code ∧ fD w = d ∧ fA w = a := by
    have := lw.code_lt
    simp only [lowR, Fin.ext_iff, fA, fD, fld]
    omega
  simp only [decodeS5, ho, must_bind, getOr_bind, LaneW.ofCode_eq_some, pure_eq_ok, beq_iff_eq, Carries, key]
  grind

theorem decodeS6_mzero (ho : fOpc w = 0x04) : decodeS6 w = .ok i ↔
    ∃ g sp q, Carries w g (lowX sp q.val 0 0 0 0) ∧ .mzero g sp q = i := by
  have key (sp : Option R8) (q : Q512) : fld w 0 35 = lowX sp q.val 0 0 0 0 ↔
      (fld w 14 12 = 0 ∧ fld w 0 10 = 0) ∧ fld w 10 4 * 2 ^ 10 = encSp sp ∧ fQ w = q := by
    obtain ⟨r, _, er⟩ := encSp_eq sp
    simp only [lowX, er, Fin.ext_iff, fQ, fld]
    omega
  simp only [decodeS6, ho, must_bind, fSp_bind, pure_eq_ok, beq_iff_eq, Bool.and_eq_true, Carries, key]
  grind

theorem decodeS6_mscale (ho : fOpc w = 0x05) : decodeS6 w = .ok i ↔
    ∃ g sp q n, Carries w g (lowX sp q.val 0 0 0 n.val) ∧ .mscale g sp q n = i := by
  have key (sp : Option R8) (q : Q512) (n : Cb) : fld w 0 35 = lowX sp q.val 0 0 0 n.val ↔
      fld w 14 12 = 0 ∧ fld w 10 4 * 2 ^ 10 = encSp sp ∧ fQ w = q ∧ fCb w = n := by
    obtain ⟨r, _, er⟩ := encSp_eq sp
    simp only [lowX, er, Fin.ext_iff, fQ, fCb, fld]
    omega
  simp only [decodeS6, ho, must_bind, fSp_bind, pure_eq_ok, beq_iff_eq, Carries, key]
  grind

theorem decodeS6_mcvt (ho : fOpc w = 0x06) : decodeS6 w = .ok i ↔
    ∃ g sp dt rm s d q, Carries w g (lowX sp q.val 0 0 d.val (dt.code * 8 + rm.code * 2 + bit1 s)) ∧
      .mcvt g sp dt rm s d q = i := by
  have key (sp : Option R8) (dt : Dt) (rm : Rm) (s : Bool) (d : R16) (q : Q512) :
    fld w 0 35 = lowX sp q.val 0 0 d.val (dt.code * 8 + rm.code * 2 + bit1 s) ↔
      (fld w 18 8 = 0 ∧ fld w 6 4 = 0) ∧ fld w 10 4 * 2 ^ 10 = encSp sp ∧ fld w 3 3 = dt.code ∧ fld w 1 2 = rm.code ∧
        (fld w 0 1 == 1) = s ∧ fMd w = d ∧ fQ w = q := by
    obtain ⟨r, _, er⟩ := encSp_eq sp
    have := dt.code_lt
    have := rm.code_lt
    have := bit1_lt s
    simp only [lowX, er, flag_iff, Fin.ext_iff, fQ, fMd]
    simp only [fld]
    omega
  simp only [decodeS6, ho, fRm, must_bind, getOr_bind, Dt.ofCode_eq_some, Rm.ofCode_eq_some, fSp_bind, pure_eq_ok,
    beq_iff_eq, Bool.and_eq_true, Carries, key]
  grind

theorem decodeS6_mcvtMx4 (ho : fOpc w = 0x07) : decodeS6 w = .ok i ↔
    ∃ g sp rm s d q, Carries w g (lowX sp q.val 0 0 d.val (rm.code * 2 + bit1 s)) ∧ .mcvtMx4 g sp rm s d q = i := by
  have key (sp : Option R8) (rm : Rm) (s : Bool) (d : R16) (q : Q512) :
    fld w 0 35 = lowX sp q.val 0 0 d.val (rm.code * 2 + bit1 s) ↔
      (fld w 18 8 = 0 ∧ fld w 3 7 = 0) ∧ fld w 10 4 * 2 ^ 10 = encSp sp ∧ fld w 1 2 = rm.code ∧ (fld w 0 1 == 1) = s ∧
        fMd w = d ∧ fQ w = q := by
    obtain ⟨r, _, er⟩ := encSp_eq sp
    have := rm.code_lt
    have := bit1_lt s
    simp only [lowX, er, flag_iff, Fin.ext_iff, fQ, fMd]
    simp only [fld]
    omega
  simp only [decodeS6, ho, fRm, must_bind, getOr_bind, Rm.ofCode_eq_some, fSp_bind, pure_eq_ok, beq_iff_eq, Bool.and_eq_true,
    Carries, key]
  grind

theorem decodeS6_mbias (ho : fOpc w = 0x0A) : decodeS6 w = .ok i ↔
    ∃ g sp q a, Carries w g (lowX sp q.val a.val 0 0 0) ∧ .mbias g sp q a = i := by
  have key (sp : Option R8) (q : Q512) (a : R16) : fld w 0 35 = lowX sp q.val a.val 0 0 0 ↔
      (fld w 14 8 = 0 ∧ fld w 0 10 = 0) ∧ fld w 10 4 * 2 ^ 10 = encSp sp ∧ fQ w = q ∧ fMa w = a := by
    obtain ⟨r, _, er⟩ := encSp_eq sp
    simp only [lowX, er, Fin.ext_iff, fQ, fMa, fld]
    omega
  simp only [decodeS6, ho, must_bind, fSp_bind, pure_eq_ok, beq_iff_eq, Bool.and_eq_true, Carries, key]
  grind

theorem decodeS6_mred (ho : fOpc w = 0x0B) : decodeS6 w = .ok i ↔
    ∃ g sp d q, Carries w g (lowX sp q.val 0 0 d.val 0) ∧ .mred g sp d q = i := by
  have key (sp : Option R8) (d : R16) (q : Q512) : fld w 0 35 = lowX sp q.val 0 0 d.val 0 ↔
      (fld w 18 8 = 0 ∧ fld w 0 10 = 0) ∧ fld w 10 4 * 2 ^ 10 = encSp sp ∧ fMd w = d ∧ fQ w = q := by
    obtain ⟨r, _, er⟩ := encSp_eq sp
    simp only [lowX, er, Fin.ext_iff, fQ, fMd, fld]
    omega
  simp only [decodeS6, ho, must_bind, fSp_bind, pure_eq_ok, beq_iff_eq, Bool.and_eq_true, Carries, key]
  grind

theorem decodeS6_mfill (ho : fOpc w = 0x0E) : decodeS6 w = .ok i ↔
    ∃ g sp d n, Carries w g (lowX sp 0 0 0 d.val n.val) ∧ .mfill g sp d n = i := by
  have key (sp : Option R8) (d : R16) (n : Cb) : fld w 0 35 = lowX sp 0 0 0 d.val n.val ↔
      fld w 18 17 = 0 ∧ fld w 10 4 * 2 ^ 10 = encSp sp ∧ fMd w = d ∧ fCb w = n := by
    obtain ⟨r, _, er⟩ := encSp_eq sp
    simp only [lowX, er, Fin.ext_iff, fMd, fCb, fld]
    omega
  simp only [decodeS6, ho, must_bind, fSp_bind, pure_eq_ok, beq_iff_eq, Carries, key]
  grind

theorem decodeS7_opselI (ho : fOpc w = 0x04) : decodeS7 litc w = .ok i ↔
    ∃ g n, Carries w g (lowI 0 0 (.int20 (BitVec.ofNat 20 n.val))) ∧ .opselI g n = i := by
  have key (n : R8) : fld w 0 35 = lowI 0 0 (.int20 (BitVec.ofNat 20 n.val)) ↔
      fld w 23 12 = 0 ∧ fld w 3 20 = 0 ∧ reg8 w 0 = n := by
    simp only [lowI, Fin.ext_iff, encImm, BitVec.toNat_ofNat, reg8, fld]
    omega
  simp only [decodeS7, ho, must_bind, pure_eq_ok, beq_iff_eq, Carries, key]
  grind

theorem decodeS7_barq (ho : fOpc w = 0x0F) : decodeS7 litc w = .ok i ↔
    ∃ g d b, Carries w g (lowR d.val 0 0 0 b.val) ∧ .barq g d b = i := by
  have key (d : R64) (b : Fin 4) : fld w 0 35 = lowR d.val 0 0 0 b.val ↔
      fld w 8 21 = 0 ∧ fld w 2 6 = 0 ∧ fD w = d ∧ (⟨fld w 0 2, fld_lt w 0 2⟩ : Fin 4) = b := by
    simp only [lowR, Fin.ext_iff, fD, fld]
    omega
  simp only [decodeS7, ho, must_bind, pure_eq_ok, beq_iff_eq, Carries, key]
  grind

theorem decodeS7_ddapply (ho : fOpc w = 0x21) : decodeS7 litc w = .ok i ↔
    ∃ g bo a b c, Carries w g (lowR 0 a.val b.val c.val bo.code) ∧ .ddapply g bo a b c = i := by
  have key (bo : BoolOp) (a : R16) (b c : R64) : fld w 0 35 = lowR 0 a.val b.val c.val bo.code ↔
      (fld w 29 6 = 0 ∧ fld w 8 3 = 0) ∧ (fA w).val = a.val ∧ fld w 3 5 = 0 ∧ fld w 0 3 = bo.code ∧ fB w = b ∧ fC w = c := by
    have := bo.code_lt
    simp only [lowR, Fin.ext_iff, fA, fB, fC, fld]
    omega
  simp only [decodeS7, ho, must_bind, getOr_bind, BoolOp.ofCode_eq_some, reg16_bind, pure_eq_ok, beq_iff_eq,
    Bool.and_eq_true, Carries, key]
  grind

theorem decodeS7_ddite (ho : fOpc w = 0x22) : decodeS7 litc w = .ok i ↔
    ∃ g a d b c, Carries w g (lowR d.val a.val b.val c.val 0) ∧ .ddite g a d b c = i := by
  have key (a : R16) (d b c : R64) : fld w 0 35 = lowR d.val a.val b.val c.val 0 ↔
      fld w 0 11 = 0 ∧ (fA w).val = a.val ∧ fD w = d ∧ fB w = b ∧ fC w = c := by
    simp only [lowR, Fin.ext_iff, fA, fB, fC, fD, fld]
    omega
  simp only [decodeS7, ho, must_bind, reg16_bind, pure_eq_ok, beq_iff_eq, Carries, key]
  grind

theorem decodeS7_ddnot (ho : fOpc w = 0x26) : decodeS7 litc w = .ok i ↔
    ∃ g a b, Carries w g (lowR 0 a.val b.val 0 0) ∧ .ddnot g a b = i := by
  have key (a : R16) (b : R64) : fld w 0 35 = lowR 0 a.val b.val 0 0 ↔
      (fld w 29 6 = 0 ∧ fld w 0 17 = 0) ∧ (fA w).val = a.val ∧ fB w = b := by
    simp only [lowR, Fin.ext_iff, fA, fB, fld]
    omega
  simp only [decodeS7, ho, must_bind, reg16_bind, pure_eq_ok, beq_iff_eq, Bool.and_eq_true, Carries, key]
  grind

theorem decodeS7_syscall (ho : fOpc w = 0x31) : decodeS7 litc w = .ok i ↔
    ∃ g n, Carries w g (lowR 0 0 0 0 n.toNat) ∧ .syscall g n = i := by
  have key (n : BitVec 8) : fld w 0 35 = lowR 0 0 0 0 n.toNat ↔
      fld w 8 27 = 0 ∧ BitVec.ofNat 8 (fld w 0 8) = n := by
    simp only [lowR, ofNat_fld_iff]
    simp only [fld]
    omega
  simp only [decodeS7, ho, must_bind, pure_eq_ok, beq_iff_eq, Carries, key]
  grind

theorem decodeS7_tlbinv (ho : fOpc w = 0x32) : decodeS7 litc w = .ok i ↔
    ∃ g sc a, Carries w g (lowR 0 a.val 0 0 (sc.code * 256)) ∧ .tlbinv g sc a = i := by
  have key (sc : Scope) (a : R64) : fld w 0 35 = lowR 0 a.val 0 0 (sc.code * 256) ↔
      ((fld w 29 6 = 0 ∧ fld w 11 12 = 0) ∧ fld w 0 8 = 0) ∧ fld w 8 3 = sc.code ∧ fA w = a := by
    have := sc.code_lt
    simp only [lowR, Fin.ext_iff, fA, fld]
    omega
  simp only [decodeS7, ho, must_bind, getOr_bind, Scope.ofCode_eq_some, pure_eq_ok, beq_iff_eq, Bool.and_eq_true, Carries, key]
  grind

theorem decodeS7_tlbinvAll (ho : fOpc w = 0x33) : decodeS7 litc w = .ok i ↔
    ∃ g sc, Carries w g (lowR 0 0 0 0 (sc.code * 256)) ∧ .tlbinvAll g sc = i := by
  have key (sc : Scope) : fld w 0 35 = lowR 0 0 0 0 (sc.code * 256) ↔
      (fld w 11 24 = 0 ∧ fld w 0 8 = 0) ∧ fld w 8 3 = sc.code := by
    have := sc.code_lt
    simp only [lowR, fld]
    omega
  simp only [decodeS7, ho, must_bind, getOr_bind, Scope.ofCode_eq_some, pure_eq_ok, beq_iff_eq, Bool.and_eq_true, Carries, key]
  grind

theorem decodeS7_evsig (ho : fOpc w = 0x34) : decodeS7 litc w = .ok i ↔
    ∃ g v, Carries w g (lowR 0 0 0 0 v.val) ∧ .evsig g v = i := by
  have key (v : Fin 64) : fld w 0 35 = lowR 0 0 0 0 v.val ↔
      fld w 8 27 = 0 ∧ fld w 6 2 = 0 ∧ (⟨fld w 0 6, fld_lt w 0 6⟩ : Fin 64) = v := by
    simp only [lowR, Fin.ext_iff, fld]
    omega
  simp only [decodeS7, ho, must_bind, pure_eq_ok, beq_iff_eq, Carries, key]
  grind

theorem decodeS7_movcSysRead (ho : fOpc w = 0x35) : decodeS7 litc w = .ok i ↔
    ∃ g d cr, Carries w g (lowR d.val 0 0 0 cr.toNat) ∧ .movcSysRead g d cr = i := by
  have key (d : R64) (cr : BitVec 10) : fld w 0 35 = lowR d.val 0 0 0 cr.toNat ↔
      fld w 10 19 = 0 ∧ fD w = d ∧ BitVec.ofNat 10 (fld w 0 10) = cr := by
    simp only [lowR, ofNat_fld_iff, Fin.ext_iff, fD]
    simp only [fld]
    omega
  simp only [decodeS7, ho, must_bind, pure_eq_ok, beq_iff_eq, Carries, key]
  grind

theorem decodeS7_movcSysWrite (ho : fOpc w = 0x36) : decodeS7 litc w = .ok i ↔
    ∃ g cr a, Carries w g (lowR 0 a.val 0 0 cr.toNat) ∧ .movcSysWrite g cr a = i := by
  have key (cr : BitVec 10) (a : R64) : fld w 0 35 = lowR 0 a.val 0 0 cr.toNat ↔
      (fld w 10 13 = 0 ∧ fld w 29 6 = 0) ∧ BitVec.ofNat 10 (fld w 0 10) = cr ∧ fA w = a := by
    simp only [lowR, ofNat_fld_iff, Fin.ext_iff, fA]
    simp only [fld]
    omega
  simp only [decodeS7, ho, must_bind, pure_eq_ok, beq_iff_eq, Bool.and_eq_true, Carries, key]
  grind

theorem decodeScalar_movc (ho : fOpc w = 0x27) : decodeScalar litc w = .ok i ↔
    (∃ g d cr, Carries w g (lowR d.val 0 0 0 cr.toNat) ∧ .movc g (.read d cr) = i) ∨
      ∃ g cr a, Carries w g (lowR 0 a.val 0 0 (2 ^ 10 + cr.toNat)) ∧ .movc g (.write cr a) = i := by
  have read (d : R64) (cr : BitVec 10) : fld w 0 35 = lowR d.val 0 0 0 cr.toNat ↔
      fld w 11 12 = 0 ∧ fld w 10 1 = 0 ∧ fld w 23 6 = 0 ∧ fD w = d ∧ BitVec.ofNat 10 (fld w 0 10) = cr := by
    simp only [lowR, ofNat_fld_iff, Fin.ext_iff, fD]
    simp only [fld]
    omega
  have write (cr : BitVec 10) (a : R64) : fld w 0 35 = lowR 0 a.val 0 0 (2 ^ 10 + cr.toNat) ↔
      fld w 11 12 = 0 ∧ fld w 10 1 ≠ 0 ∧ fld w 29 6 = 0 ∧ BitVec.ofNat 10 (fld w 0 10) = cr ∧ fA w = a := by
    simp only [lowR, ofNat_fld_iff, Fin.ext_iff, fA]
    simp only [fld]
    omega
  simp only [decodeScalar, ho, must_bind, beq_iff_eq, Carries, read, write]
  split <;> simp only [must_bind, pure_eq_ok, beq_iff_eq] <;> grind

end

end Sys2Proof
end

section
/-!
What a slot's map reads from a word is what the word spells: row by row, the reader's fields are those the encoder writes.
-/
namespace Sys2Proof

/-! ### Rows of the maps -/

/-- The immediate of a form, if it has one, names no literal word beyond the first `litc`. -/
def LitsIn (litc : Nat) (i : Instr) : Prop := ∀ v, Machine.immOf i = some v → v.Within litc

theorem wellFormedIn_iff {litc : Nat} {i : Instr} : WellFormedIn litc i = true ↔ WellFormed i = true ∧ LitsIn litc i := by
  unfold WellFormedIn LitsIn Imm.Within
  cases Machine.immOf i with
  | none => simp
  | some v => cases h : Machine.immLit v <;> simp [h]

/-- A word is the word of a form that names no literal word beyond the first `litc`. -/
def Spells (litc w : Nat) (i : Instr) : Prop := encode i = some w ∧ LitsIn litc i

section
variable {litc w opc low : Nat} {g : Guard} {i : Instr}

theorem slotWord_eq (hw : w < 2 ^ 48) (ho : fOpc w = opc) (hc : Carries w g low) : slotWord opc g low = w :=
  ho ▸ slotWord_of_carries hw hc

theorem encode_prep (g : Guard) (b : R8) (t : Target) : encode (.prep g b t) = some (slotWord 1 g (lowB b.val t.low)) := by
  cases t <;> exact congrArg some (encB_eq ..)

theorem encode_atom (g : Guard) (op : AtOp) (sg : Sg) (sz : MSize) (os : Os) (d : R64) (a : R16) (c : R64) :
    encode (.atom g op sg sz os d a c) = some (slotWord 0x0F g (lowAtom op sg sz os d.val a.val c.val)) := by
  show some _ = some _
  simp only [encR, slotWord, lowAtom, Option.some.injEq]
  omega

theorem encode_ret (g : Guard) : encode (.ret g) = some (slotWord 4 g (lowR 0 0 0 0 0)) := congrArg some (encB_eq ..)

theorem spells_of_decodeScalar (hw : w < 2 ^ 48) (h : decodeScalar litc w = .ok i) : Spells litc w i := by
  have h' := h
  unfold decodeScalar at h'
  split at h'
  case h_42 => cases h'
  case h_40 ho =>
    rcases (decodeScalar_movc ho).1 h with ⟨g, d, cr, hc, rfl⟩ | ⟨g, cr, a, hc, rfl⟩
    · exact ⟨congrArg some ((encR_eq ..).trans (slotWord_eq hw ho hc)), nofun⟩
    · exact ⟨congrArg some ((encR_eq ..).trans (slotWord_eq hw ho hc)), nofun⟩
  all_goals
    next ho =>
    revert h h'
    simp only [ho, decodeScalar_sel, decodeScalar_cmp, decodeScalar_ext, decodeScalar_pnot, sNop_iff, sDAB_iff, sDABsg_iff,
      sDA_iff, sD_iff,
      sPPP_iff, sDAI_iff, sDI_iff, forall_exists_index, and_imp]
    intros
    subst_vars
    refine ⟨?_, fun v hv => ?_⟩
    · show some _ = some _
      simp only [encR_eq, encI_eq, slotWord_eq hw ho ‹Carries w _ _›]
    · cases hv <;> assumption

theorem spells_of_decodeS0 (hw : w < 2 ^ 48) (h : decodeS0 litc w = .ok i) : Spells litc w i := by
  have h' := h
  unfold decodeS0 at h'
  split at h'
  case h_19 => cases h'
  case h_2 ho =>
    obtain ⟨g, b, t, hc, rfl⟩ := sPrep_iff.1 h'
    exact ⟨(encode_prep g b t).trans (congrArg some (slotWord_eq hw ho hc)), nofun⟩
  case h_5 ho =>
    obtain ⟨g, hc, rfl⟩ := sNone_iff.1 h'
    exact ⟨(encode_ret g).trans (congrArg some (slotWord_eq hw ho hc)), nofun⟩
  all_goals
    next ho =>
    revert h h'
    simp only [ho, decodeS0_lset, decodeS0_lrun, decodeS0_lbrk, decodeS0_lidx, decodeS0_wait, decodeS0_trap, sNop_iff,
      sBT_iff, sNone_iff, sA_iff, sI_iff, forall_exists_index, and_imp]
    intros
    subst_vars
    refine ⟨?_, fun v hv => ?_⟩
    · show some _ = some _
      simp only [encR_eq, encI_eq, encB_eq, slotWord_eq hw ho ‹Carries w _ _›]
    · cases hv <;> assumption

theorem spells_of_decodeS2 (hw : w < 2 ^ 48) (h : decodeS2 litc w = .ok i) : Spells litc w i := by
  have h' := h
  unfold decodeS2 at h'
  split at h'
  case h_25 => exact spells_of_decodeScalar hw h'
  all_goals
    next ho =>
    revert h h'
    simp only [ho, decodeS2_dset, decodeS2_ndiff, sDA_iff, sNDA_iff, sNDAo_iff, sNDAB_iff, sNone_iff, forall_exists_index,
      and_imp]
    intros
    subst_vars
    refine ⟨?_, fun v hv => ?_⟩
    · show some _ = some _
      simp only [encR_eq, slotWord_eq hw ho ‹Carries w _ _›]
    · cases hv

theorem spells_of_decodeS3 (hw : w < 2 ^ 48) (h : decodeS3 litc w = .ok i) : Spells litc w i := by
  have h' := h
  unfold decodeS3 at h'
  split at h'
  case h_10 => cases h'
  all_goals
    next ho =>
    revert h h'
    simp only [ho, decodeS3_aset, decodeS3_aadd, decodeS3_aupd, decodeS3_amov, decodeS3_aget, decodeS3_akset, decodeS3_akmov,
      decodeS3_akget, sNop_iff, forall_exists_index, and_imp]
    intros
    subst_vars
    refine ⟨?_, fun v hv => ?_⟩
    · show some _ = some _
      simp only [encR_eq, encI_eq, slotWord_eq hw ho ‹Carries w _ _›]
    · cases hv <;> assumption

theorem spells_of_decodeS4 (hw : w < 2 ^ 48) (h : decodeS4 w = .ok i) : Spells litc w i := by
  have h' := h
  unfold decodeS4 at h'
  split at h'
  case h_20 => cases h'
  case h_16 ho =>
    obtain ⟨g, op, sg, sz, os, d, a, c, hc, rfl⟩ := (decodeS4_atom ho).1 h
    exact ⟨(encode_atom g op sg sz os d a c).trans (congrArg some (slotWord_eq hw ho hc)), nofun⟩
  all_goals
    next ho =>
    revert h h'
    simp only [ho, decodeS4_pref, sNop_iff, sMem_iff, sMemI_iff (show 8 < 16 by decide), sMemI_iff (show 10 < 16 by decide),
      sLane_iff, sTile_iff, sFence_iff, forall_exists_index,
      and_imp]
    intros
    subst_vars
    refine ⟨?_, fun v hv => ?_⟩
    · show some _ = some _
      simp only [encR_eq, encM_eq, slotWord_eq hw ho ‹Carries w _ _›]
    · cases hv

theorem spells_of_decodeS5 (hw : w < 2 ^ 48) (h : decodeS5 litc w = .ok i) : Spells litc w i := by
  have h' := h
  unfold decodeS5 at h'
  split at h'
  case h_48 => cases h'
  all_goals
    next ho =>
    revert h h'
    simp only [ho, decodeS5_vcmp, decodeS5_vsel, decodeS5_vwiden, decodeS5_vpack, decodeS5_vscan, decodeS5_vbcast, sNop_iff,
      sVrm_iff,
      sDAI_iff, sVab_iff, sVa_iff, sVsat_iff, sDAB_iff, sVcv_iff, sVlw_iff, sDI_iff, forall_exists_index, and_imp]
    intros
    subst_vars
    refine ⟨?_, fun v hv => ?_⟩
    · show some _ = some _
      simp only [encR_eq, encI_eq, encV, encC, slotWord_eq hw ho ‹Carries w _ _›]
    · cases hv <;> assumption

theorem spells_of_decodeS6 (hw : w < 2 ^ 48) (h : decodeS6 w = .ok i) : Spells litc w i := by
  have h' := h
  unfold decodeS6 at h'
  split at h'
  case h_16 => cases h'
  all_goals
    next ho =>
    revert h h'
    simp only [ho, decodeS6_mzero, decodeS6_mscale, decodeS6_mcvt, decodeS6_mcvtMx4, decodeS6_mbias, decodeS6_mred,
      decodeS6_mfill,
      sNop_iff, sMma_iff, sMDA_iff, sQQ_iff, forall_exists_index, and_imp]
    intros
    subst_vars
    refine ⟨?_, fun v hv => ?_⟩
    · show some _ = some _
      simp only [encR_eq, encX_eq, slotWord_eq hw ho ‹Carries w _ _›]
    · cases hv

theorem spells_of_decodeS7 (hw : w < 2 ^ 48) (h : decodeS7 litc w = .ok i) : Spells litc w i := by
  have h' := h
  unfold decodeS7 at h'
  split at h'
  case h_46 => cases h'
  case h_2 ho =>
    obtain ⟨g, b, t, hc, rfl⟩ := sPrep_iff.1 h'
    exact ⟨(encode_prep g b t).trans (congrArg some (slotWord_eq hw ho hc)), nofun⟩
  all_goals
    next ho =>
    revert h h'
    simp only [ho, decodeS7_opselI, decodeS7_barq, decodeS7_ddapply, decodeS7_ddite, decodeS7_ddnot, decodeS7_syscall,
      decodeS7_tlbinv,
      decodeS7_tlbinvAll, decodeS7_evsig, decodeS7_movcSysRead, decodeS7_movcSysWrite, sNop_iff, sBT_iff, sA_iff,
      sI_iff, sEA_iff, sEDA_iff, sEF_iff (show 0 < 8 by decide), sEF_iff (show 2 < 8 by decide), sNone_iff, sDA_iff,
        sEABC_iff, sB_iff, forall_exists_index, and_imp,
      Nat.zero_mul, Nat.zero_add]
    intros
    subst_vars
    refine ⟨?_, fun v hv => ?_⟩
    · show some _ = some _
      simp only [encR_eq, encI_eq, encB_eq, slotWord_eq hw ho ‹Carries w _ _›]
    · cases hv <;> assumption

end

end Sys2Proof
end

section
/-!
A word that spells a form is read back in the slot that holds the form; decoding and encoding agree (05 R58 to R66, 08 R91).
-/
namespace Sys2Proof

/-! ### Words that spell a form -/

theorem lowR_lt {d a b c m : Nat} (hd : d < 64) (ha : a < 64) (hb : b < 64) (hc : c < 64) (hm : m < 2 ^ 11) :
    lowR d a b c m < 2 ^ 35 := by
  simp only [lowR]
  omega

theorem lowI_lt {d a : Nat} (v : Imm) (hd : d < 64) (ha : a < 64) : lowI d a v < 2 ^ 35 := by
  have := encImm_lt v
  simp only [lowI]
  omega

theorem lowM_lt {d size : Nat} (m : Mem) (os : Os) (hd : d < 64) (hs : size < 16) : lowM d m os size < 2 ^ 35 := by
  obtain ⟨p, _, ep⟩ := encOs_eq os
  obtain ⟨n, _, en⟩ := encOfs_eq m.ofs
  simp only [lowM, ep, en]
  omega

theorem lowAtom_lt {d a c : Nat} (op : AtOp) (sg : Sg) (sz : MSize) (os : Os) (hd : d < 64) (ha : a < 64) (hc : c < 64) :
    lowAtom op sg sz os d a c < 2 ^ 35 := by
  have := op.code_lt
  have := sg.code_lt
  have := sz.code_lt
  obtain ⟨p, _, ep⟩ := encOs_eq os
  simp only [lowAtom, ep]
  omega

theorem lowX_lt {q a b d m : Nat} (sp : Option R8) (hq : q < 512) (ha : a < 16) (hb : b < 16) (hd : d < 16) (hm : m < 2 ^ 10) :
    lowX sp q a b d m < 2 ^ 35 := by
  obtain ⟨r, _, er⟩ := encSp_eq sp
  simp only [lowX, er]
  omega

theorem lowB_lt {bt low : Nat} (hb : bt < 8) (hl : low < 2 ^ 32) : lowB bt low < 2 ^ 35 := by
  simp only [lowB]
  omega

theorem Target.low_lt (t : Target) : t.low < 2 ^ 32 := by
  cases t <;> simp only [Target.low] <;> omega

theorem toNat_le {n : Nat} (v : BitVec n) : v.toNat ≤ 2 ^ n - 1 := by
  omega

theorem carries_of_slotWord {opc low w : Nat} {g : Guard} (h : slotWord opc g low = w) (ho : opc < 256) (hl : low < 2 ^ 35) :
    fOpc w = opc ∧ Carries w g low := by
  subst h
  exact ⟨fOpc_slotWord g ho hl, carries_slotWord opc g hl⟩

section
variable {litc w : Nat} {i : Instr}

theorem decodeS0_of_spells (h : Spells litc w i) (hs : homeSlot i = 0) : decodeS0 litc w = .ok i := by
  obtain ⟨he, hl⟩ := h
  cases i
  case prep g b t =>
    obtain ⟨ho, hc⟩ := carries_of_slotWord (Option.some.inj ((encode_prep g b t).symm.trans he)) (by decide) (lowB_lt b.isLt t.low_lt)
    simp only [decodeS0, ho]
    exact sPrep_iff.2 ⟨g, b, t, hc, rfl⟩
  case ret g =>
    obtain ⟨ho, hc⟩ := carries_of_slotWord (Option.some.inj ((encode_ret g).symm.trans he)) (by decide) (by decide)
    simp only [decodeS0, ho]
    exact sNone_iff.2 ⟨g, hc, rfl⟩
  case nop | bra | call | lset | lrun | lbrk | lidx | lclr | spset | wait | sleepu | yield | halt | trap | hbeat =>
    have he : some _ = some w := he
    simp only [encR_eq, encI_eq, encB_eq, Option.some.injEq] at he
    obtain ⟨ho, hc⟩ := carries_of_slotWord he (by decide) (by grind [lowR_lt, lowI_lt, lowB_lt, toNat_le, bit1_lt, Wc.code_lt])
    simp only [↓decodeS0_lset, ↓decodeS0_lrun, ↓decodeS0_lbrk, ↓decodeS0_lidx, ↓decodeS0_wait, ↓decodeS0_trap, decodeS0, ho,
      sNop_iff, sBT_iff, sNone_iff, sA_iff]
    repeat apply Exists.intro
    exact ⟨hc, rfl⟩
  case sleepuI g v =>
    have he : some _ = some w := he
    simp only [encI_eq, Option.some.injEq] at he
    obtain ⟨ho, hc⟩ := carries_of_slotWord he (by decide) (lowI_lt v (by omega) (by omega))
    simp only [decodeS0, ho, sI_iff]
    repeat apply Exists.intro
    exact ⟨hc, hl v rfl, rfl⟩
  all_goals cases hs

theorem decodeScalar_of_spells (h : Spells litc w i) (hs : homeSlot i = 1) : decodeScalar litc w = .ok i := by
  obtain ⟨he, hl⟩ := h
  cases i
  case movc g m =>
    cases m with
    | read d cr =>
      obtain ⟨ho, hc⟩ := carries_of_slotWord (Option.some.inj ((congrArg some (encR_eq ..)).symm.trans he)) (by decide)
        (lowR_lt d.isLt (by decide) (by decide) (by decide) (by omega))
      exact (decodeScalar_movc ho).2 (.inl ⟨g, d, cr, hc, rfl⟩)
    | write cr a =>
      obtain ⟨ho, hc⟩ := carries_of_slotWord (Option.some.inj ((congrArg some (encR_eq ..)).symm.trans he)) (by decide)
        (lowR_lt (by decide) a.isLt (by decide) (by decide) (by omega))
      exact (decodeScalar_movc ho).2 (.inr ⟨g, cr, a, hc, rfl⟩)
  case add | sub | mul | mulh | divs | divn | rem | and | or | xor | andn | shl | shr | sra | rot | clz | popc | min | max
      | sel | cmp | ext | mov | bfx | bfi | pand | por | pxor | pnot | rdtime =>
    have he : some _ = some w := he
    simp only [encR_eq, Option.some.injEq] at he
    obtain ⟨ho, hc⟩ := carries_of_slotWord he (by decide) (by grind [lowR_lt, bit1_lt, Sg.code_lt, Cc.code_lt, LaneW.code_lt])
    simp only [↓decodeScalar_sel, ↓decodeScalar_cmp, ↓decodeScalar_ext, ↓decodeScalar_pnot, decodeScalar, ho, sDAB_iff,
      sDABsg_iff, sDA_iff, sD_iff, sPPP_iff]
    repeat apply Exists.intro
    exact ⟨hc, rfl⟩
  case addi g d a v | muli g d a v | andi g d a v | ori g d a v | xori g d a v | shli g d a v | shri g d a v | srai g d a v
      | movi g d v =>
    have he : some _ = some w := he
    simp only [encI_eq, Option.some.injEq] at he
    obtain ⟨ho, hc⟩ := carries_of_slotWord he (by decide) (lowI_lt v (by omega) (by omega))
    simp only [decodeScalar, ho, sDAI_iff, sDI_iff]
    repeat apply Exists.intro
    exact ⟨hc, hl v rfl, rfl⟩
  all_goals cases hs <;> cases he

theorem decodeS2_of_spells (h : Spells litc w i) (hs : homeSlot i = 2) : decodeS2 litc w = .ok i := by
  obtain ⟨he, hl⟩ := h
  cases i
  case dset | dsetm | dlo | dhi | dcnt | neq | nne | neqo | nneo | nlt | nle | nadd | nsub | nmul | nmin | nmax | nabs | nin
      | ndiff | nprop | nclr | nckpt | nrest | npop =>
    have he : some _ = some w := he
    simp only [encR_eq, Option.some.injEq] at he
    obtain ⟨ho, hc⟩ := carries_of_slotWord he (by decide) (by grind [lowR_lt, toNat_le, bit1_lt])
    simp only [↓decodeS2_dset, ↓decodeS2_ndiff, decodeS2, ho, sDA_iff, sNDA_iff, sNDAo_iff, sNDAB_iff, sNone_iff]
    repeat apply Exists.intro
    exact ⟨hc, rfl⟩
  all_goals cases hs

theorem decodeS3_of_spells (h : Spells litc w i) (hs : homeSlot i = 3) : decodeS3 litc w = .ok i := by
  obtain ⟨he, hl⟩ := h
  cases i
  case aadd | aupd | amov | aget | akmov | akget =>
    have he : some _ = some w := he
    simp only [encR_eq, Option.some.injEq] at he
    obtain ⟨ho, hc⟩ := carries_of_slotWord he (by decide) (by grind [lowR_lt])
    simp only [↓decodeS3_aadd, ↓decodeS3_aupd, ↓decodeS3_amov, ↓decodeS3_aget, ↓decodeS3_akmov, ↓decodeS3_akget, ho]
    repeat apply Exists.intro
    exact ⟨hc, rfl⟩
  case aset g d v | akset g d j v =>
    have he : some _ = some w := he
    simp only [encI_eq, Option.some.injEq] at he
    obtain ⟨ho, hc⟩ := carries_of_slotWord he (by decide) (lowI_lt v (by omega) (by omega))
    simp only [↓decodeS3_aset, ↓decodeS3_akset, ho]
    repeat apply Exists.intro
    exact ⟨hc, hl v rfl, rfl⟩
  all_goals cases hs

theorem decodeS4_of_spells (h : Spells litc w i) (hs : homeSlot i = 4) : decodeS4 w = .ok i := by
  obtain ⟨he, hl⟩ := h
  cases i
  case atom g op sg sz os d a c =>
    obtain ⟨ho, hc⟩ := carries_of_slotWord (Option.some.inj ((encode_atom g op sg sz os d a c).symm.trans he)) (by decide)
      (lowAtom_lt op sg sz os d.isLt (Nat.lt_trans a.isLt (by decide)) c.isLt)
    exact (decodeS4_atom ho).2 ⟨g, op, sg, sz, os, d, a, c, hc, rfl⟩
  case ld | st | ldc | lda | stl | ldv | stv | gath | scat | ldt | ldtMx4 | stt | ldq | stq | fence | fenceE | pref =>
    have he : some _ = some w := he
    simp only [encR_eq, encM_eq, Option.some.injEq] at he
    obtain ⟨ho, hc⟩ := carries_of_slotWord he (by decide) (by grind [lowR_lt, lowM_lt, MSize.code_lt, Scope.code_lt])
    simp only [↓decodeS4_pref, decodeS4, ho, sMem_iff, sMemI_iff (show 8 < 16 by decide), sMemI_iff (show 10 < 16 by decide),
      sLane_iff, sTile_iff, sFence_iff]
    repeat apply Exists.intro
    exact ⟨hc, rfl⟩
  all_goals cases hs

theorem decodeS5_of_spells (h : Spells litc w i) (hs : homeSlot i = 5) : decodeS5 litc w = .ok i := by
  obtain ⟨he, hl⟩ := h
  cases i
  case vadd | vsub | vmul | vfma | vfms | vmin | vmax | vabs | vneg | vrcp | vrsq | vsqrt | vexp2 | vlog2 | vsin | vcos
      | vtanh | vcmp | vsel | viadd | visub | vimul | vimad | vand | vor | vxor | vshl | vshr | vsra | vcvt | vwiden | vnarr
      | vpack | vunpk | vredadd | vredmax | vargmax | vscan | vperm | vbcast | vshuf | vmovg | vmask =>
    have he : some _ = some w := he
    simp only [encV, encC, encR_eq, Option.some.injEq] at he
    obtain ⟨ho, hc⟩ := carries_of_slotWord he (by decide) (by grind [lowR_lt, bit1_lt, VTy.code_lt, Rm.code_lt, Fc.code_lt,
        ScanOp.code_lt, LaneW.code_lt])
    simp only [↓decodeS5_vcmp, ↓decodeS5_vsel, ↓decodeS5_vwiden, ↓decodeS5_vpack, ↓decodeS5_vscan, ↓decodeS5_vbcast, decodeS5,
      ho, sVrm_iff, sVab_iff, sVa_iff, sVsat_iff, sDAB_iff, sVcv_iff, sVlw_iff]
    repeat apply Exists.intro
    exact ⟨hc, rfl⟩
  case vaddI g d a v | vfmaI g d a v | vbcastI g d v =>
    have he : some _ = some w := he
    simp only [encI_eq, Option.some.injEq] at he
    obtain ⟨ho, hc⟩ := carries_of_slotWord he (by decide) (lowI_lt v (by omega) (by omega))
    simp only [decodeS5, ho, sDAI_iff, sDI_iff]
    repeat apply Exists.intro
    exact ⟨hc, hl v rfl, rfl⟩
  all_goals cases hs

theorem decodeS6_of_spells (h : Spells litc w i) (hs : homeSlot i = 6) : decodeS6 w = .ok i := by
  obtain ⟨he, hl⟩ := h
  cases i
  case scaleByProduct => cases he
  case mma | mmaTa | mmaTb | mzero | mscale | mcvt | mcvtMx4 | mtrn | mcpy | mbias | mred | qadd | qcpy | mfill =>
    have he : some _ = some w := he
    simp only [encX_eq, Option.some.injEq] at he
    obtain ⟨ho, hc⟩ := carries_of_slotWord he (by decide) (by grind [lowX_lt, bit1_lt, Dt.code_lt, Rm.code_lt])
    simp only [↓decodeS6_mzero, ↓decodeS6_mscale, ↓decodeS6_mcvt, ↓decodeS6_mcvtMx4, ↓decodeS6_mbias, ↓decodeS6_mred,
      ↓decodeS6_mfill, decodeS6, ho, sMma_iff, sMDA_iff, sQQ_iff]
    repeat apply Exists.intro
    exact ⟨hc, rfl⟩
  all_goals cases hs

theorem decodeS7_of_spells (h : Spells litc w i) (hs : homeSlot i = 7) : decodeS7 litc w = .ok i := by
  obtain ⟨he, hl⟩ := h
  cases i
  case opsel | opselI | setfmt | setsct | cpy | cpyst | subscr | unsub | ringack | bara | barw | barq | icopy | icinv
      | ifence | rwflush | ddvar | ddapply | ddite | ddrestr | ddexist | dduniv | ddnot | ddcount | ddmask | ddref | ddunref
      | ddgc | ddord | ddswap | ddstat | tret | syscall | tlbinv | tlbinvAll | evsig | movcSysRead | movcSysWrite | frmst
      | frmld | ckill =>
    have he : some _ = some w := he
    simp only [encR_eq, encI_eq, Option.some.injEq] at he
    obtain ⟨ho, hc⟩ := carries_of_slotWord he (by decide) (by grind [lowR_lt, lowI_lt, toNat_le, BoolOp.code_lt, Scope.code_lt])
    simp only [↓decodeS7_opselI, ↓decodeS7_barq, ↓decodeS7_ddapply, ↓decodeS7_ddite, ↓decodeS7_ddnot, ↓decodeS7_syscall,
      ↓decodeS7_tlbinv, ↓decodeS7_tlbinvAll, ↓decodeS7_evsig, ↓decodeS7_movcSysRead, ↓decodeS7_movcSysWrite, decodeS7, ho,
      sA_iff, sEA_iff, sEDA_iff, sEF_iff (show 0 < 8 by decide), sEF_iff (show 2 < 8 by decide), sNone_iff, sDA_iff, sEABC_iff,
      sB_iff, Nat.zero_mul, Nat.zero_add]
    repeat apply Exists.intro
    exact ⟨hc, rfl⟩
  case setfmtI g v =>
    have he : some _ = some w := he
    simp only [encI_eq, Option.some.injEq] at he
    obtain ⟨ho, hc⟩ := carries_of_slotWord he (by decide) (lowI_lt v (by omega) (by omega))
    simp only [decodeS7, ho, sI_iff]
    repeat apply Exists.intro
    exact ⟨hc, hl v rfl, rfl⟩
  all_goals cases hs

/-- The map of a slot reads from a word nothing but what the word spells. -/
theorem spells_of_decodeMap {k : Fin 8} (hw : w < 2 ^ 48) (h : decodeMap k litc w = .ok i) : Spells litc w i :=
  match k, h with
  | 0, h => spells_of_decodeS0 hw h
  | 1, h => spells_of_decodeScalar hw h
  | 2, h => spells_of_decodeS2 hw h
  | 3, h => spells_of_decodeS3 hw h
  | 4, h => spells_of_decodeS4 hw h
  | 5, h => spells_of_decodeS5 hw h
  | 6, h => spells_of_decodeS6 hw h
  | 7, h => spells_of_decodeS7 hw h

/-- The map of the slot that holds a form reads it from its word. -/
theorem decodeMap_of_spells {k : Fin 8} (h : Spells litc w i) (hs : homeSlot i = k) : decodeMap k litc w = .ok i :=
  match k, hs with
  | 0, hs => decodeS0_of_spells h hs
  | 1, hs => decodeScalar_of_spells h hs
  | 2, hs => decodeS2_of_spells h hs
  | 3, hs => decodeS3_of_spells h hs
  | 4, hs => decodeS4_of_spells h hs
  | 5, hs => decodeS5_of_spells h hs
  | 6, hs => decodeS6_of_spells h hs
  | 7, hs => decodeS7_of_spells h hs

theorem decodeSlot_eq_ok {k : Fin 8} : decodeSlot k litc w = .ok i ↔ decodeMap k litc w = .ok i ∧ WellFormed i = true := by
  simp only [decodeSlot]
  cases decodeMap k litc w with
  | error e => simp [bind, Except.bind]
  | ok j =>
    show (must (WellFormed j) .badCode >>= fun _ => pure j) = _ ↔ _
    rw [must_bind, pure_eq_ok, Except.ok.injEq]
    exact ⟨fun ⟨h, e⟩ => ⟨e, e ▸ h⟩, fun ⟨e, h⟩ => ⟨e ▸ h, e⟩⟩

end

/-- Settles O51: what the map of a slot reads is what the word spells, and what a word spells is read in the home slot. -/
theorem decodeAndEncodeAgree : Obligations.DecodeAndEncodeAgree := by
  refine ⟨fun litc w i hwf he => ?_, fun k litc w i _ hw h => ?_⟩
  · obtain ⟨hf, hl⟩ := wellFormedIn_iff.1 hwf
    exact decodeSlot_eq_ok.2 ⟨decodeMap_of_spells ⟨he, hl⟩ rfl, hf⟩
  · obtain ⟨hm, hf⟩ := decodeSlot_eq_ok.1 h
    obtain ⟨he, hl⟩ := spells_of_decodeMap hw hm
    exact ⟨he, wellFormedIn_iff.2 ⟨hf, hl⟩⟩

end Sys2Proof
end

section
/-!
False conditions (05 R59, 17 R248): every slot form is a guarded slot, by itself or through the operation it shares with others; a
matrix form also asks its stage predicate.
-/
namespace Sys2Proof.Machine

section
variable {gd : Guard} {s : State} (h : s.guard gd = false)
include h

theorem alu2_of_not_guard (d a b : R64) (f : Word → Word → Word) : alu2 gd d a b f s = .next s :=
  slotDo_of_not_guard h ..
theorem aluI_of_not_guard (d a : R64) (v : Imm) (f : Word → Word → Word) : aluI gd d a v f s = .next s :=
  slotDo_of_not_guard h ..
theorem alu1_of_not_guard (d a : R64) (f : Word → Word) : alu1 gd d a f s = .next s :=
  slotDo_of_not_guard h ..
theorem pred2_of_not_guard (d a b : R16) (f : Bool → Bool → Bool) : pred2 gd d a b f s = .next s :=
  slotDo_of_not_guard h ..
theorem vecDo_of_not_guard (f : State → State) : vecDo gd f s = .next s :=
  slotDo_of_not_guard h ..
theorem vec1_of_not_guard (ty : VTy) (d a : R64) (f : Nat → Nat × BitVec 7) : vec1 gd ty d a f s = .next s :=
  vecDo_of_not_guard h ..
theorem vec2_of_not_guard (ty : VTy) (d a b : R64) (f : Nat → Nat → Nat × BitVec 7) : vec2 gd ty d a b f s = .next s :=
  vecDo_of_not_guard h ..
theorem vec3_of_not_guard (ty : VTy) (d a b : R64) (f : Nat → Nat → Nat → Nat × BitVec 7) : vec3 gd ty d a b f s = .next s :=
  vecDo_of_not_guard h ..
theorem vecBits_of_not_guard (d a b : R64) (f : BitVec 4096 → BitVec 4096 → BitVec 4096) : vecBits gd d a b f s = .next s :=
  vecDo_of_not_guard h ..
theorem vecSpecial_of_not_guard (n : Nat) (ty : VTy) (d a : R64) : vecSpecial gd n ty d a s = .next s :=
  slotDo_of_not_guard h ..
theorem matDo_of_not_guard (sp : Option R8) (cls : State → EClass) (f : State → State) : matDo gd sp cls f s = .next s :=
  slotDo_of_not_guard h ..
theorem domDo_of_not_guard (regs : List R64) (f : State → State) : domDo gd regs f s = .next s :=
  slotDo_of_not_guard h ..
theorem narrowForm_of_not_guard (k : Bool) (e : Constraint) : narrowForm gd k e s = .next s :=
  domDo_of_not_guard h ..

/-- A slot form whose guard is false does nothing. -/
theorem exec_of_not_guard {i : Instr} (hi : guardOf i = some gd) : exec i s = .next s := by
  unfold exec
  cases i <;> cases hi <;> dsimp only
  case add | sub | mul | mulh | divs | divn | rem | and | or | xor | andn | shl | shr | sra | rot | min | max | sel | bfx => exact alu2_of_not_guard h ..
  case addi | muli | andi | ori | xori | shli | shri | srai => exact aluI_of_not_guard h ..
  case clz | popc | ext | mov => exact alu1_of_not_guard h ..
  case pand | por | pxor => exact pred2_of_not_guard h ..
  case vsel | vmask | vcvt | vwiden | vnarr | vpack | vunpk | vredadd | vredmax | vscan | vargmax | vperm | vbcast
      | vbcastI | vshuf | vmovg => exact vecDo_of_not_guard h ..
  case vaddI | vabs | vneg => exact vec1_of_not_guard h ..
  case vadd | vsub | vmul | vfmaI | vmin | vmax | vcmp | viadd | visub | vimul | vshl | vshr | vsra => exact vec2_of_not_guard h ..
  case vfma | vfms | vimad => exact vec3_of_not_guard h ..
  case vand | vor | vxor => exact vecBits_of_not_guard h ..
  case vrcp | vrsq | vsqrt | vexp2 | vlog2 | vsin | vcos | vtanh => exact vecSpecial_of_not_guard h ..
  case mma | mmaTa | mmaTb | mzero | mscale | scaleByProduct | qadd | qcpy | mbias | mcvt | mcvtMx4 | mtrn | mcpy | mred
      | mfill => exact matDo_of_not_guard h ..
  case dset | dsetm | dlo | dhi | dcnt | nprop | nclr | nckpt | nrest | npop => exact domDo_of_not_guard h ..
  case neq | nne | neqo | nneo | nlt | nle | nadd | nsub | nmul | nmin | nmax | nabs | nin | ndiff => exact narrowForm_of_not_guard h ..
  all_goals exact slotDo_of_not_guard h ..

end

/-- A matrix form whose stage predicate is false does nothing. -/
theorem matDo_of_not_stage {gd : Guard} {k : R8} {s : State} (h : s.rdSp k = false) (cls : State → EClass) (f : State → State) :
    matDo gd (some k) cls f s = .next s := by
  simp [matDo, slotDo, h]

/-- Settles O1: a slot form is a guarded slot; the matrix forms ask their stage predicate inside it. -/
theorem falseConditionsDoNothing : Obligations.FalseConditionsDoNothing := by
  refine ⟨fun i gd s hi hg => exec_of_not_guard hg hi, fun s gd k q r a b n n2 dt rm sat _ hk => ?_⟩
  have off (cls : State → EClass) (f : State → State) : matDo gd (some k) cls f s = .next s := matDo_of_not_stage hk cls f
  simp only [List.forall_mem_cons]
  exact ⟨off _ _, off _ _, off _ _, off _ _, off _ _, off _ _, off _ _, off _ _, off _ _, off _ _, off _ _, off _ _, off _ _,
    off _ _, off _ _, fun _ h => absurd h List.not_mem_nil⟩

end Sys2Proof.Machine
end

section
/-!
The slots of a bundle that decodes (05 R58): each holds a slot form, one that has a word.
-/
namespace Sys2Proof

theorem leNat_lt (l : List Byte) : leNat l < 2 ^ (8 * l.length) := by
  induction l with
  | nil => exact Nat.one_pos
  | cons b bs ih =>
    have hb := b.isLt
    have hp : 2 ^ (8 * (b :: bs).length) = 256 * 2 ^ (8 * bs.length) := by
      rw [List.length_cons, Nat.mul_succ, Nat.pow_add, Nat.mul_comm]
    simp only [leNat]
    omega

theorem decodeSlots_cons {litc len ofs : Nat} {k : Fin 8} {ks : List (Fin 8)} {bytes : List Byte} {xs : List (Fin 8 × Instr)}
    (h : decodeSlots litc len (k :: ks) ofs bytes = .ok xs) :
    ∃ i rest, decodeSlot k litc (leNat (bytes.take 6)) = .ok i ∧ decodeSlots litc len ks (ofs + 6) (bytes.drop 6) = .ok rest
      ∧ xs = (k, i) :: rest := by
  simp only [decodeSlots] at h
  split at h
  · cases h
  · next i hi =>
    split at h
    · cases h
    · split at h
      · cases h
      · next rest hr =>
        cases h
        exact ⟨i, rest, hi, hr, rfl⟩

/-- Every slot of a bundle that decodes holds a slot form, which is one that has a word. -/
theorem encode_of_decodeSlots {litc len : Nat} {ks : List (Fin 8)} : ∀ {ofs : Nat} {bytes : List Byte} {xs : List (Fin 8 × Instr)},
    decodeSlots litc len ks ofs bytes = .ok xs → ∀ y ∈ xs, ∃ w, encode y.2 = some w := by
  induction ks with
  | nil =>
    intro ofs bytes xs h y hy
    cases h
    cases hy
  | cons k ks ih =>
    intro ofs bytes xs h y hy
    obtain ⟨i, rest, hi, hr, rfl⟩ := decodeSlots_cons h
    rcases List.mem_cons.1 hy with rfl | hy
    · have hw : leNat (bytes.take 6) < 2 ^ 48 :=
        (leNat_lt _).trans_le (Nat.pow_le_pow_right Nat.two_pos (Nat.mul_le_mul_left 8 (List.length_take_le 6 bytes)))
      exact ⟨_, (spells_of_decodeMap hw (decodeSlot_eq_ok.1 hi).1).1⟩
    · exact ih hr y hy

theorem encode_of_decodeBundle {bytes : List Byte} {b : Bundle} (h : decodeBundle bytes = .bundle b) :
    ∀ y ∈ b.slots, ∃ w, encode y.2 = some w := by
  simp only [decodeBundle] at h
  repeat' split at h
  all_goals cases h
  next hd _ _ => exact encode_of_decodeSlots hd

end Sys2Proof
end

section
/-!
The commit of the slots (05 R70): in a bundle of which no match has fired, every slot has its own meaning.
-/
namespace Sys2Proof.Machine

theorem slotExec_eq_exec {i : Instr} {w : Nat} (h : encode i = some w) (s : State) : slotExec i s = exec i s := by
  unfold slotExec exec
  cases i <;> dsimp only
  all_goals exact nomatch (show none = some w from h)

theorem s6Guard_encX {opc : Nat} {gd : Guard} {sp : Option R8} {q a b d m w : Nat} (h : w = encX opc gd sp q a b d m)
    (hq : q < 512) (ha : a < 16) (hb : b < 16) (hd : d < 16) (hm : m < 2 ^ 10) : fGd w = gd ∧ (fSp w).toOption.getD none = sp := by
  have hc := carries_slotWord opc gd (lowX_lt sp hq ha hb hd hm)
  rw [← encX_eq, ← h] at hc
  obtain ⟨hg, hl⟩ := hc
  refine ⟨hg, ?_⟩
  have hs : fSp w = .ok sp := by
    have : (fSp w >>= pure) = .ok sp := fSp_bind.2 ⟨sp, by
      obtain ⟨n, hn, e⟩ := encSp_eq sp
      simp only [lowX, fld] at hl ⊢
      omega, rfl⟩
    simpa using this
  rw [hs]
  rfl

/-- The guard and the stage predicate of an MMA are read back from its word. -/
theorem s6Guard_mma (gd : Guard) (sp : Option R8) (q : Q512) (a b : R16) :
    s6Guard (.mma gd sp q a b) = (gd, sp) ∧ s6Guard (.mmaTa gd sp q a b) = (gd, sp) ∧ s6Guard (.mmaTb gd sp q a b) = (gd, sp) := by
  have h (opc : Nat) {w : Nat} (hw : w = encX opc gd sp q a b 0 0) : (fGd w, (fSp w).toOption.getD none) = (gd, sp) :=
    Prod.ext_iff.2 (s6Guard_encX hw q.isLt a.isLt b.isLt (by decide) (by decide))
  exact ⟨h _ rfl, h _ rfl, h _ rfl⟩

/-- An S6 slot in its own place has its own meaning. -/
theorem s6Exec_self {i : Instr} {w : Nat} (h : encode i = some w) (s : State) : s6Exec i i s = exec i s := by
  cases hk : mmaKey i with
  | none =>
    unfold s6Exec
    rw [hk]
    exact slotExec_eq_exec h s
  | some k =>
    cases i
    case mma gd sp q a b =>
      show matDo (s6Guard (.mma gd sp q a b)).1 (s6Guard (.mma gd sp q a b)).2 _ _ s = _
      rw [(s6Guard_mma gd sp q a b).1]
      rfl
    case mmaTa gd sp q a b =>
      show matDo (s6Guard (.mmaTa gd sp q a b)).1 (s6Guard (.mmaTa gd sp q a b)).2 _ _ s = _
      rw [(s6Guard_mma gd sp q a b).2.1]
      rfl
    case mmaTb gd sp q a b =>
      show matDo (s6Guard (.mmaTb gd sp q a b)).1 (s6Guard (.mmaTb gd sp q a b)).2 _ _ s = _
      rw [(s6Guard_mma gd sp q a b).2.2]
      rfl
    all_goals exact nomatch hk

/-- What a slot does alone in the state of its commit. -/
def slotAlone (y : Fin 8 × Instr) (s : State) : State :=
  commitForm y.2 y.2 false (fun s => match exec y.2 s with
    | .next t => t
    | _ => s) (s.modEnv fun e => { e with slot := y.1 })

theorem runSlots_cons (y : Fin 8 × Instr) (ys : List (Fin 8 × Instr)) (s : State) :
    runSlots (y :: ys) s = if s.env.stopped || s.env.discard then s else runSlots ys (slotAlone y s) := rfl

theorem commitSlot_of_ne {y : Fin 8 × Instr} {w : Nat} (he : encode y.2 = some w) (h : y.1 ≠ 6) (s : State) :
    commitSlot y.2 y s = slotAlone y s := by
  simp only [commitSlot, slotAlone, if_neg h, slotExec_eq_exec he] <;> rfl

theorem commitForm_congr {orig op : Instr} {m : Bool} {f g : State → State} {s : State} (h : f s = g s) :
    commitForm orig op m f s = commitForm orig op m g s := by
  simp only [commitForm, h]

theorem commitSlot_of_unfired {y : Fin 8 × Instr} {w : Nat} (he : encode y.2 = some w) {s : State} (h : s.cur.fired = none) :
    commitSlot y.2 y s = slotAlone y s := by
  by_cases h6 : y.1 = 6
  · have hu : (s.modEnv fun e => { e with slot := y.1 }).cur.fired = none := h
    simp only [commitSlot, slotAlone, if_pos h6, State.s6Op, hu, s6Exec_self he]
    refine commitForm_congr ?_
    cases exec y.2 (s.modEnv fun e => { e with slot := y.1 }) with
    | next t => simp only [hu, Option.isSome_none, Bool.false_eq_true, if_false, ite_self]
    | _ => rfl
  · exact commitSlot_of_ne he h6 s

theorem commitAll_eq_runSlots {l : List (Fin 8 × Instr)} (he : ∀ y ∈ l, ∃ w, encode y.2 = some w) (h6 : ∀ y ∈ l, y.1 ≠ 6) (s : State) :
    commitAll l s = runSlots l s := by
  induction l generalizing s with
  | nil => rfl
  | cons y ys ih =>
    obtain ⟨w, hw⟩ := he y List.mem_cons_self
    rw [runSlots_cons, commitAll, commitSlot_of_ne hw (h6 y List.mem_cons_self)]
    simp only [ih (fun z hz => he z (List.mem_cons_of_mem y hz)) fun z hz => h6 z (List.mem_cons_of_mem y hz)]

/-- Where no match has fired and only the first slot may be S6, the slots of a bundle have their own meanings. -/
theorem commitAll_of_unfired {l : List (Fin 8 × Instr)} (he : ∀ y ∈ l, ∃ w, encode y.2 = some w) (h6 : ∀ y ∈ l.tail, y.1 ≠ 6)
    {s : State} (h : (∀ y ∈ l, y.1 ≠ 6) ∨ s.cur.fired = none) : commitAll l s = runSlots l s := by
  cases l with
  | nil => rfl
  | cons y ys =>
    obtain h | h := h
    · exact commitAll_eq_runSlots he h s
    · obtain ⟨w, hw⟩ := he y List.mem_cons_self
      rw [runSlots_cons, commitAll, commitSlot_of_unfired hw h]
      simp only [commitAll_eq_runSlots (fun z hz => he z (List.mem_cons_of_mem y hz)) h6]

end Sys2Proof.Machine
end

section
/-!
A bundle that nothing holds (03 Table 3.7): none of its WAITs and FRMLDs waits for an access.
-/
namespace Sys2Proof.Machine

section
variable {o : State} {k : Fin 8} {gd : Guard} {r : R16}

/-- The bundle in `env`, at its slot `k`. -/
def State.atSlot (o : State) (k : Fin 8) : State := o.modEnv fun e => { e with slot := k }

theorem head_map_ne_none {α β : Type} {l : List α} {f : α → β} {n : Nat} {p q : Bool} (hn : 0 < n)
    (h : (p && q && decide (n ≤ l.length)) = true) : l.head?.map f ≠ none := by
  intro e
  rw [Option.map_eq_none_iff, List.head?_eq_none_iff] at e
  rw [e] at h
  simp at h
  omega

/-- A FRMLD that is not held waits for no access. -/
theorem State.frmldWait_of_not_held (h : o.held = none) (hy : (k, .frmld gd r) ∈ o.env.slots)
    (hg : (o.atSlot k).guard (fGd ((encode (.frmld gd r)).getD 0)) = true) : (o.atSlot k).frmldWait = none := by
  have hf := List.findSome?_eq_none_iff.1 (Option.map_eq_none_iff.1 h) _ hy
  dsimp only at hf
  split at hf
  · cases hf
  · split at hf
    · next hn => exact absurd hg (Bool.eq_false_iff.1 (Bool.not_eq_true' _ ▸ hn))
    · split at hf
      · next hl => exact absurd hf (head_map_ne_none (by decide) hl)
      · exact Option.map_eq_none_iff.1 hf

/-- The test of a WAIT that is not held is not held. -/
theorem State.waitTest_of_not_held {v : R64} {cc : Wc} {dw : Bool} (h : o.held = none) (hy : (k, .wait gd r v cc dw) ∈ o.env.slots)
    (hg : (o.atSlot k).guard (fGd ((encode (.wait gd r v cc dw)).getD 0)) = true) :
    (o.atSlot k).waitTest o.env.core o.env.ctx ((o.atSlot k).rdA r).1 cc dw ((o.atSlot k).g v) ≠ .held := by
  have hf := List.findSome?_eq_none_iff.1 (Option.map_eq_none_iff.1 h) _ hy
  intro hw
  dsimp only at hf
  split at hf
  · cases hf
  · split at hf
    · next hn => exact absurd hg (Bool.eq_false_iff.1 (Bool.not_eq_true' _ ▸ hn))
    · split at hf
      · next hl => exact absurd hf (head_map_ne_none (by decide) hl)
      · exact nomatch (if_pos hw).symm.trans hf

theorem State.sameBytes_of_waitTest {s : State} {c : CoreId} {x : CtxId} {a : Addr} {cc : Wc} {dw : Bool} {v : Word}
    (h : s.waitTest c x a cc dw v ≠ .held) :
    ((s.ctx c x).accs.any fun b => b.elems.any fun f => !f.done && f.n != 0 && s.sameBytes c x (waitElem a cc dw) f) = false := by
  by_contra hc
  exact h (if_pos (Bool.of_not_eq_false hc))

end

section
variable {s : State} {c : CoreId} {x : CtxId} {a : Nat} {b : Bundle}

/-- A fold all of whose steps leave the start as it is gives the start. -/
theorem foldl_of_fixed {α β : Type} {f : β → α → β} {l : List α} {s : β} (h : ∀ y ∈ l, f s y = s) : l.foldl f s = s := by
  induction l with
  | nil => rfl
  | cons y ys ih =>
    rw [List.foldl_cons, h y List.mem_cons_self]
    exact ih fun z hz => h z (List.mem_cons_of_mem y hz)

/-- Where nothing holds the bundle, no own-vault access must perform before it. -/
theorem State.beforeWaits_of_not_held (h : (s.openBundle c x a b).held = none) : s.beforeWaits (s.openBundle c x a b) = s := by
  unfold State.beforeWaits
  refine foldl_of_fixed fun y hy => ?_
  obtain ⟨k, i⟩ := y
  dsimp only
  split
  · rfl
  · next hg =>
    have hg : ((s.openBundle c x a b).atSlot k).guard (fGd ((encode i).getD 0)) = true :=
      Bool.not_eq_false _ ▸ fun h => hg (Bool.not_eq_true' _ ▸ h)
    split
    · next gd r =>
      exact foldl_of_fixed fun q hq => if_neg (List.find?_eq_none.1 (State.frmldWait_of_not_held h hy hg) q hq)
    · next gd r v cc dw =>
      exact foldl_of_fixed fun q hq =>
        if_neg (List.any_eq_false.1 (State.sameBytes_of_waitTest (State.waitTest_of_not_held h hy hg)) q hq)
    · rfl

end

end Sys2Proof.Machine
end

section
/-!
The issue of a bundle that nothing holds (05 R69 to R73).
-/
namespace Sys2Proof.Machine

section
variable {s : State} {c : CoreId} {x : CtxId} {a : Nat} {b : Bundle}

theorem State.rewriteP0_of_noRewrite {l : Loop} (h : s.cur.noRewrite = true) : s.rewriteP0 l = s := by
  unfold State.rewriteP0
  rw [h, Bool.or_true, Bool.true_or]
  rfl

theorem State.replaceS6_of_unfired (h : s.cur.fired = none) (hr : s.env.repl = none) : s.replaceS6 = s := by
  unfold State.replaceS6
  rw [h]
  show { s with env := { s.env with repl := none } } = s
  rw [← hr]

theorem State.openBundle_slots (h : (s.ctx c x).replay = none) : (s.openBundle c x a b).env.slots = b.slots := by
  show (if (s.ctx c x).replay.isSome then _ else b.slots) = b.slots
  rw [h]
  rfl

/-- A context that may issue at its program counter, where no trap comes before, issues the bundle there. -/
theorem State.issue_bundle (hpc : if (s.ctx c x).transferred then (s.core c).markOk (s.ctx c x).pc = true
      else (s.ctx c x).pc.toNat ≠ 0x20000 ∧ (s.ctx c x).pc.toNat ≠ 0x40000)
    (hf : (s.core c).fetchFrom (s.ctx c x).pc.toNat (s.ctx c x).pc.toNat = a) (ha : a ≠ bankEnd (s.ctx c x).pc.toNat) :
    s.issue c x = match (s.core c).decodeAt a with
      | .pad => s
      | .illegal o _ => s.takeTrap c x (Frame.make (BitVec.ofNat 64 a) 0 0x01 (BitVec.ofNat 64 (a + o)) 0) (BitVec.ofNat 64 a) 0
      | .bundle b => s.issueBundle c x a b := by
  simp only [State.issue, hf]
  cases ht : (s.ctx c x).transferred with
  | true =>
    rw [ht, if_pos rfl] at hpc
    simp only [hpc, Bool.not_true, Bool.and_false, Bool.false_and, Bool.false_eq_true, if_false, if_neg ha] <;> rfl
  | false =>
    rw [ht, if_neg Bool.false_ne_true] at hpc
    simp only [hpc.1, hpc.2, decide_false, Bool.false_and, Bool.false_eq_true, if_false, if_neg ha] <;> rfl

theorem State.cur_opening : (s.opening c x a b).cur = { s.ctx c x with
    lastHdr := BitVec.ofNat 64 a
    transferred := false
    noRewrite := (s.ctx c x).noRewrite && !b.rwf } :=
  State.ctx_modCtx (s.openBundle c x a b) c x _

/-- The state in which the slots of the bundle commit, once the stage has taken its S6 slot. -/
def State.staged (s : State) (c : CoreId) (x : CtxId) (a : Nat) (b : Bundle) : State :=
  if (s.opening c x a b).env.slots.any fun y => y.1 == 6 then ((s.opening c x a b).rewriteP0 (s.ctx c x).loop).replaceS6
  else s.opening c x a b

theorem State.issueBundle_of_free (hc : s.conflicts c x a b = false) (hh : (s.openBundle c x a b).held = none) :
    s.issueBundle c x a b = (commitAll (s.staged c x a b).env.slots (s.staged c x a b)).closing c x b := by
  unfold State.issueBundle
  simp only [hc, State.beforeWaits_of_not_held hh, hh, Bool.false_eq_true, if_false, Option.isSome_none] <;> rfl

/-- The stage takes no S6 slot of a bundle whose RWF bit is clear, in a context that takes none. -/
theorem State.staged_of_unfired (hr : (s.ctx c x).replay = none) (h : (∀ y ∈ b.slots, y.1 ≠ 6)
      ∨ (s.ctx c x).fired = none ∧ (s.ctx c x).noRewrite = true ∧ b.rwf = false) :
    s.staged c x a b = s.opening c x a b := by
  unfold State.staged
  split
  · next h6 =>
    obtain ⟨y, hy, h6⟩ := List.any_eq_true.1 h6
    obtain h | ⟨hu, hn, hx⟩ := h
    · exact absurd (beq_iff_eq.1 h6) (h y (State.openBundle_slots hr ▸ hy))
    · rw [State.rewriteP0_of_noRewrite (by rw [State.cur_opening, hn, hx]; rfl)]
      exact State.replaceS6_of_unfired (by rw [State.cur_opening]; exact hu) rfl
  · rfl

theorem exec_bundleIssue_of_issuer (hi : s.issuer c = some x) : exec (.bundleIssue c) s = .next (s.issue c x) := by
  show Host.Outcome.next (match s.issuer c with
    | some x => s.issue c x
    | none => s) = _
  rw [hi]

/-- A bundle that nothing holds commits the meanings of its slots in order, and takes one step. -/
theorem exec_bundleIssue_of_issuing (h : s.Issuing c x a b) (hh : (s.openBundle c x a b).held = none) :
    exec (.bundleIssue c) s = .next ((runSlots b.slots (s.opening c x a b)).closing c x b) := by
  obtain ⟨hi, hr, hpc, hf, ha, hd, hw, hb, h6, hrw⟩ := h
  have hs : (s.opening c x a b).env.slots = b.slots := State.openBundle_slots hr
  have hc : s.conflicts c x a b = false := by simp only [State.conflicts, hw, hb, Bool.or_false, Bool.and_false]
  have hu : (∀ y ∈ b.slots, y.1 ≠ 6) ∨ (s.opening c x a b).cur.fired = none := hrw.imp id fun h => by
    rw [State.cur_opening]
    exact h.1
  calc exec (.bundleIssue c) s
      = .next (s.issue c x) := exec_bundleIssue_of_issuer hi
    _ = .next (s.issueBundle c x a b) := by rw [State.issue_bundle hpc hf ha, hd]
    _ = .next ((runSlots b.slots (s.opening c x a b)).closing c x b) := by
        rw [State.issueBundle_of_free hc hh, State.staged_of_unfired hr hrw, hs,
          commitAll_of_unfired (encode_of_decodeBundle hd) h6 hu]

end

end Sys2Proof.Machine
end

section
/-!
The turn of a core that nothing holds or stops: no settling, stretch, halt, freeze or waking comes before its bundle.
-/
namespace Sys2Proof.Machine

section
variable {s : State} {c : CoreId} {x : CtxId} {a : Nat} {b : Bundle}

theorem State.issuer_eq_some (h : s.issuer c = some x) : (s.core c).current = some x ∧ (s.ctx c x).run = .running
    ∧ (s.core c).switching = false ∧ (s.ctx c x).bubbles = 0 ∧ (s.core c).due = [] ∧ s.frozen c = none := by
  unfold State.issuer at h
  dsimp only at h
  split at h
  · cases h
  · next y hy =>
    split at h
    · next hc =>
      cases h
      obtain ⟨hr, hs, hb, hd, hf, -⟩ := hc
      exact ⟨hy, hr, by simpa using hs, hb, hd, by simpa using hf⟩
    · cases h

theorem State.settleTick_of_settled (hs : (s.core c).opp.set = false) (hr : (s.core c).opp.rem = 0) : s.settleTick c = s := by
  have h0 : (s.modOpp c fun o => { o with rem := if o.rem = 0 then 0 else o.rem - 1 }) = s :=
    s.modCore_id c _ (by simp only [hr, if_pos]; rw [← hr])
  have h1 : (s.modOpp c fun o => if o.set && o.rem == 0 then { o with set := false, cur := o.tgt } else o) = s :=
    s.modCore_id c _ (by simp only [hs, Bool.false_and, Bool.false_eq_true, if_false])
  unfold State.settleTick
  dsimp only
  rw [h0]
  exact h1

theorem State.stretchTick_of_unstretched (h : (s.core c).stretch = 0) : s.stretchTick c = s := by
  unfold State.stretchTick
  rw [h, if_neg (by decide)]
  refine s.modCore_id c _ ?_
  show { s.core c with stretch := (s.core c).stretch - 1 } = s.core c
  rw [show (s.core c).stretch - 1 = (s.core c).stretch by omega]

theorem State.coreCycle_of_free (hs : (s.core c).opp.set = false) (hr : (s.core c).opp.rem = 0) (hm : (s.core c).beat.misses < 2)
    (hx : (s.core c).stretch = 0) (hz : (s.core c).freezeLeft = 0) (hstop : s.stopCore c = s) : s.coreCycle c = s.coreStep c := by
  unfold State.coreCycle
  rw [State.settleTick_of_settled hs hr, State.stretchTick_of_unstretched hx]
  have hb : ¬(2 ≤ (s.core c).beat.misses ∧ s.haltWaits c = false) := fun h => Nat.not_le.2 hm h.1
  simp only [if_neg hb, hstop, hx, hz, Nat.lt_irrefl, if_false]

/-- No context of the core has anything to do at the start of its step. -/
def Ctx.Quiet (t : Ctx) : Prop := t.run ≠ .blocked ∧ t.pendDom = [] ∧ t.episode = none ∧ t.faults = []

theorem State.results_of_none (h : (s.core c).due = []) (n : Nat) : s.results c n = s := by
  cases n with
  | zero => rfl
  | succ n => exact if_pos h

theorem State.domains_of_quiet (h : (s.ctx c x).Quiet) (n : Nat) : s.domains c x n = s := by
  obtain ⟨-, hp, he, -⟩ := h
  cases n with
  | zero => rfl
  | succ n =>
    have : s.domDue c x = false := by simp only [State.domDue, he, hp, List.any_nil]
    simp only [State.domains, this, Bool.false_eq_true, if_false]

theorem execBarwWake_of_quiet (h : (s.ctx c x).Quiet) : execBarwWake c x s = .next s := by
  unfold execBarwWake
  dsimp only
  split
  · next hb _ => exact absurd hb h.1
  · rfl

theorem State.stepStart_of_quiet (hd : (s.core c).due = []) (hz : (s.core c).freezeLeft = 0) (h : ∀ y, (s.ctx c y).Quiet) :
    s.stepStart c = s := by
  have hb : (List.finRange 4).foldl (fun s x => after (execBarwWake c x s) s) s = s :=
    foldl_of_fixed fun y _ => by rw [execBarwWake_of_quiet (h y)]; rfl
  have hw : s.wakeAll c = s := foldl_of_fixed fun y _ => if_neg fun e => (h y).1 e.1
  have he : (List.finRange 4).foldl (fun s x => s.domains c x (2 * (s.ctx c x).pendDom.length + 2)) s = s :=
    foldl_of_fixed fun y _ => State.domains_of_quiet (h y) _
  have hf : (List.finRange 4).foldl (fun s x => if (s.ctx c x).faults = [] then s else after (execPendingTrapDelivery c x s) s) s = s :=
    foldl_of_fixed fun y _ => if_pos (h y).2.2.2
  unfold State.stepStart
  simp only [hb, hw, State.results_of_none hd, hd, he, hz, hf, ne_eq, not_true_eq_false, if_false, Nat.lt_irrefl]

theorem State.stepBody_of_issuer {v : State} (h : s.issuer c = some x) (hv : exec (.bundleIssue c) s = .next v)
    (hn : (v.core c).step ≠ (s.core c).step) : s.stepBody c = v := by
  obtain ⟨hc, -, hs, hb, -, -⟩ := State.issuer_eq_some h
  have hi : execIdleStep c s = .next s :=
    (exec_idleStep_current hc).trans (by rw [hs, if_neg Bool.false_ne_true, ← State.ctx_eq, hb, if_neg (Nat.lt_irrefl 0)])
  have hv : execBundleIssue c s = .next v := hv
  unfold State.stepBody
  simp only [hi, hv, after, ne_eq, not_true_eq_false, if_false, hn, not_false_eq_true, if_true]

theorem State.coreStep_of_issuer {v : State} (h : s.issuer c = some x) (hv : exec (.bundleIssue c) s = .next v)
    (hn : (v.core c).step ≠ (s.core c).step) (hp : (s.core c).split = 0) (ha : (s.core c).splitAt = none)
    (hz : (s.core c).freezeLeft = 0) (hq : ∀ y, (s.ctx c y).Quiet) : s.coreStep c = v := by
  obtain ⟨-, -, -, -, hd, hf⟩ := State.issuer_eq_some h
  unfold State.coreStep
  simp only [ha, Option.isSome_none, Bool.false_eq_true, if_false, State.stepStart_of_quiet hd hz hq, hf,
    State.stepBody_of_issuer h hv hn, if_neg hn, hp, if_true]

/-- Time goes on at the turn of a core whose clock begins a cycle: the core has a cycle. -/
theorem State.timeStep_of_turn (ht : s.turn = c.val) (hg : (s.heaths[coreHeath c]).gated = false)
    (hk : 35 ≤ (s.core c).clock + (s.core c).opp.rate) :
    s.timeStep = ({ s with turn := c.val + 1 }.modCore c fun k => { k with clock := k.clock + k.opp.rate - 35 }).coreCycle c := by
  have hlt : s.turn < 192 := ht ▸ c.isLt
  have hc : (⟨s.turn, hlt⟩ : CoreId) = c := Fin.ext ht
  unfold State.timeStep
  rw [dif_pos hlt, hc]
  unfold State.coreTurn
  simp only [hg, Bool.false_eq_true, if_false]
  exact if_neg (Nat.not_lt.2 hk)

end

end Sys2Proof.Machine
end

section
/-!
What a step does: an input that has come, or the passing of time.
-/
namespace Sys2Proof.Machine


section
variable {s : State}

theorem step_of_input {i : Instr} {t : State} (h : s.nextInput = some (.instr i, t)) (hi : isInput i = true) : step s = exec i t := by
  unfold step
  rw [h]
  exact if_pos hi

theorem State.nextInput_cons {t : Nat} {i : Input} {rest : List (Nat × Input)} (h : s.inbox = (t, i) :: rest) (hc : s.comes t i = true) :
    s.nextInput = some (i, { s with inbox := rest }) := by
  unfold State.nextInput
  rw [h]
  exact if_pos hc

theorem step_of_time {t : State} (hi : s.nextInput = none) (hf : s.forced = none) (hp : s.pickEvent = (none, t)) :
    step s = .next t.timeStep := by
  unfold step
  rw [hi, hf, hp]

end

theorem State.comes_instr {s : State} {t : Nat} {i : Instr}
    (h : t < s.cyc.toNat ∨ t = s.cyc.toNat ∧ ∀ d, i = .droopAlarm d → d.val < s.turn) : s.comes t (.instr i) = true := by
  obtain h | ⟨rfl, h⟩ := h
  · simp only [State.comes, decide_eq_true h, Bool.true_or]
  · have hi : (match Input.instr i with
        | .instr (.droopAlarm c) => decide (c.val < s.turn)
        | _ => true) = true := by
      split
      · next c hc => exact decide_eq_true (h c (Input.instr.inj hc))
      · rfl
    simp only [State.comes, beq_self_eq_true, Bool.true_and, Bool.or_eq_true]
    exact .inr hi

theorem State.comes_of_le {s : State} {t : Nat} {i : Input} (h : t ≤ s.cyc.toNat) (hi : ∀ j, i ≠ .instr j) : s.comes t i = true := by
  cases i with
  | instr j => exact absurd rfl (hi j)
  | _ => rcases Nat.lt_or_eq_of_le h with h | h <;> simp [State.comes, h]

theorem step_of_other_input {s t : State} {i : Input} (h : s.nextInput = some (i, t)) (hi : ∀ j, i ≠ .instr j) :
    step s = .next (t.input i) := by
  unfold step
  rw [h]
  cases i with
  | instr j => exact absurd rfl (hi j)
  | _ => rfl

/-- Settles O53: inputs come first; the slots of a bundle that nothing holds have their own meanings; and the cycle of a core that
nothing holds or stops is that bundle's issue. -/
theorem stepRunsTheDecodedInstruction : Obligations.StepRunsTheDecodedInstruction := by
  intro s c x a b
  refine ⟨fun t i rest hb hi ht => ?_, fun t i rest hb ht hi => ?_, exec_bundleIssue_of_issuing, ?_⟩
  · exact step_of_input (State.nextInput_cons hb (State.comes_instr ht)) hi
  · exact step_of_other_input (State.nextInput_cons hb (State.comes_of_le ht hi)) hi
  · intro hn hf t hp ht hg hk u k hs hr hm hx hz hl ha hd hq hstop hiss hh v hv hstep
    rw [step_of_time hn hf hp, State.timeStep_of_turn ht hg hk]
    show Host.Outcome.next (u.coreCycle c) = _
    rw [State.coreCycle_of_free hs hr hm hx hz hstop, State.coreStep_of_issuer hiss.1 hv hstep hl ha hz fun y => hq y]

end Sys2Proof.Machine
end

section
/-!
Traps taken before any slot of a bundle commits (05 R57, R75, R76): any context that has a handler enters it.
-/
namespace Sys2Proof.Machine

theorem Core.step_switchPoint (k : Core) : k.switchPoint.step = k.step := by
  have h (k : Core) : k.select.step = k.step := by
    unfold Core.select
    split <;> rfl
  refine (h _).trans ?_
  dsimp only
  split <;> rfl

/-- Context `x` of core `c` would enter its handler on a trap. -/
structure State.Handles (s : State) (c : CoreId) (x : CtxId) : Prop where
  user : (s.ctx c x).hm = false
  run : (s.ctx c x).run ≠ .held
  thv : (s.ctx c x).thv ≠ 0
  mark : (s.core c).markOk (s.ctx c x).thv = true

/-- The entry of a context at its handler, as the trap itself leaves it. -/
def Ctx.enter (t : Ctx) : Ctx := { t with
  hm := true
  pc := t.thv
  bubbles := 3
  transferred := true
  run := if t.run = .running then .running else .ready }

/-- The state of a trap before its frame is held. -/
def State.trapping (s : State) (c : CoreId) (x : CtxId) : State :=
  (s.modEnv fun e => if e.core = c ∧ e.ctx = x then { e with stopped := true } else e).modCore c fun k => k.completeFmt x

section
variable {s : State} {c : CoreId} {x : CtxId}

theorem State.ctx_trapping : (s.trapping c x).ctx c x = s.ctx c x := State.ctx_modCore _ _ _ _

theorem State.takeTrap_handler (h : s.Handles c x) (f : Frame) (hdr : Word) (slot : R8) (hf : fatalCause f.cause = false) :
    s.takeTrap c x f hdr slot =
      let v := ((s.trapping c x).holdFrame c x f).modCtx c x Ctx.enter
      if (v.core c).current == some x then (v.stopHere c x).modCore c Core.switchPoint else v := by
  have ht : ((s.ctx c x).thv != 0) = true := bne_iff_ne.2 h.thv
  have hx : (((s.trapping c x).holdFrame c x f).ctx c x).thv = (s.ctx c x).thv := by
    simp only [State.holdFrame, State.ctx_modCtx, State.ctx_trapping]
  have hk : (((s.trapping c x).holdFrame c x f).core c).markOk (s.ctx c x).thv = true := by
    rw [← h.mark]
    simp only [State.holdFrame, State.modCtx, State.trapping, State.core_modCore]
    rfl
  unfold State.takeTrap
  simp only [h.user, if_neg h.run, hf, ht, Bool.false_and, Bool.not_false, Bool.true_and, if_true, Bool.false_eq_true, if_false]
  exact if_pos hk

/-- What the trap of a bundle none of whose slots has committed leaves: the context at its handler with the frame of the trap, its
registers and memory as they were, and no step taken. -/
structure EntersBefore (c : CoreId) (x : CtxId) (f : Frame) (s t : State) : Prop where
  hm : (t.ctx c x).hm = true
  pc : (t.ctx c x).pc = (s.ctx c x).thv
  bubbles : (t.ctx c x).bubbles = 3
  frame : ((t.ctx c x).frame.valid, (t.ctx c x).frame.cause, (t.ctx c x).frame.addr, (t.ctx c x).frame.after, (t.ctx c x).frame.sr,
    (t.ctx c x).frame.faddr) = (true, f.cause, f.addr, f.after, f.sr, f.faddr)
  regs : ((t.ctx c x).g, (t.ctx c x).a, (t.ctx c x).loop) = ((s.ctx c x).g, (s.ctx c x).a, (s.ctx c x).loop)
  gmem : t.gmem = s.gmem
  step : (t.core c).step = (s.core c).step

/-- A switch point, and the stop of a group that comes with it, leave what a trap leaves. -/
theorem EntersBefore.of_placed {f : Frame} {s t u : State} (h : EntersBefore c x f s t) (hp : (u.ctx c x).placed = (t.ctx c x).placed)
    (hg : u.gmem = t.gmem) (hs : (u.core c).step = (t.core c).step) : EntersBefore c x f s u := by
  have g {α : Type} (p : Ctx → α) (hp' : ∀ t : Ctx, p t = p t.placed) : p (u.ctx c x) = p (t.ctx c x) := by rw [hp', hp, ← hp']
  exact ⟨(g Ctx.hm fun _ => rfl).trans h.hm, (g Ctx.pc fun _ => rfl).trans h.pc, (g Ctx.bubbles fun _ => rfl).trans h.bubbles,
    (g (fun t => (t.frame.valid, t.frame.cause, t.frame.addr, t.frame.after, t.frame.sr, t.frame.faddr)) fun _ => rfl).trans h.frame,
    (g (fun t => (t.g, t.a, t.loop)) fun _ => rfl).trans h.regs, hg.trans h.gmem, hs.trans h.step⟩

theorem entersBefore_takeTrap (h : s.Handles c x) (f : Frame) (hdr : Word) (slot : R8) (hf : fatalCause f.cause = false) :
    EntersBefore c x f s (s.takeTrap c x f hdr slot) := by
  have hv : EntersBefore c x f s (((s.trapping c x).holdFrame c x f).modCtx c x Ctx.enter) := by
    have hc : (((s.trapping c x).holdFrame c x f).core c).step = (s.core c).step := by
      simp only [State.holdFrame, State.modCtx, State.trapping, State.core_modCore]
      rfl
    constructor
    case step => rw [← hc, State.modCtx, State.core_modCore]; rfl
    case gmem => rfl
    all_goals
      simp only [State.holdFrame, State.ctx_modCtx, State.ctx_trapping]
      rfl
  rw [State.takeTrap_handler h f hdr slot hf]
  dsimp only
  generalize ((s.trapping c x).holdFrame c x f).modCtx c x Ctx.enter = v at hv ⊢
  split
  · obtain ⟨g, p, r, hg, e⟩ := v.stopHere_eq c x
    have hc : (v.stopHere c x).core c = (v.core c).modCtx x g := by
      rw [e]
      exact v.core_modCore c fun k => k.modCtx x g
    refine hv.of_placed ?_ ?_ ?_
    · rw [State.ctx_modCore, Core.placed_switchPoint, ← State.ctx_eq]
      exact (v.stopHere_keeps c x).1
    · rw [e]
      rfl
    · rw [State.core_modCore, Core.step_switchPoint, hc]
      rfl
  · exact hv

theorem State.Handles.of_fields {s t : State} (h : s.Handles c x) (e : t.cores = s.cores) : t.Handles c x := by
  have hk : t.core c = s.core c := congrArg (fun v => v[c]) e
  have hx : t.ctx c x = s.ctx c x := congrArg (fun k : Core => k.ctxs[x]) hk
  exact ⟨hx ▸ h.user, hx ▸ h.run, hx ▸ h.thv, by rw [hx, hk]; exact h.mark⟩

theorem EntersBefore.of_fields {f : Frame} {s u t : State} (h : EntersBefore c x f u t) (e : u.cores = s.cores) (hg : u.gmem = s.gmem) :
    EntersBefore c x f s t := by
  have hk : u.core c = s.core c := congrArg (fun v => v[c]) e
  have hx : u.ctx c x = s.ctx c x := congrArg (fun k : Core => k.ctxs[x]) hk
  exact ⟨h.hm, hx ▸ h.pc, h.bubbles, h.frame, hx ▸ h.regs, hg ▸ h.gmem, hk ▸ h.step⟩

/-- The frame of a write conflict has a free fault address (log 12). -/
theorem State.issueBundle_of_conflicts {a : Nat} {b : Bundle} (h : s.Handles c x) (hc : s.conflicts c x a b = true) :
    EntersBefore c x (Frame.make (BitVec.ofNat 64 a) 0 0x03 s.freeWord.1 0) s (s.issueBundle c x a b) := by
  unfold State.issueBundle
  rw [hc]
  exact (entersBefore_takeTrap (s := s.freeWord.2) (h.of_fields rfl) _ _ _ rfl).of_fields rfl rfl

section
variable (h : s.Handles c x)
include h

theorem entersBefore_transfer (ht : (s.ctx c x).transferred = true) (hm : (s.core c).markOk (s.ctx c x).pc = false) :
    EntersBefore c x { Frame.make (s.ctx c x).lastHdr 0 0x02 (s.ctx c x).pc 0 with after := true } s (s.issue c x) := by
  have e : s.issue c x = s.boundary c x (s.ctx c x).pc.toNat := by
    unfold State.issue
    exact if_pos (by rw [ht, hm]; rfl)
  rw [e, State.boundary, BitVec.ofNat_toNat, BitVec.setWidth_eq]
  exact entersBefore_takeTrap h _ _ _ rfl

variable {a : Nat} (hpc : if (s.ctx c x).transferred then (s.core c).markOk (s.ctx c x).pc = true
      else (s.ctx c x).pc.toNat ≠ 0x20000 ∧ (s.ctx c x).pc.toNat ≠ 0x40000)
    (hf : (s.core c).fetchFrom (s.ctx c x).pc.toNat (s.ctx c x).pc.toNat = a) (ha : a ≠ bankEnd (s.ctx c x).pc.toNat)
include hpc hf ha

theorem entersBefore_illegal {o : Nat} {e : Illegal} (hd : (s.core c).decodeAt a = .illegal o e) :
    EntersBefore c x (Frame.make (BitVec.ofNat 64 a) 0 0x01 (BitVec.ofNat 64 (a + o)) 0) s (s.issue c x) := by
  rw [State.issue_bundle hpc hf ha, hd]
  exact entersBefore_takeTrap h _ _ _ rfl

theorem entersBefore_conflict {b : Bundle} (hd : (s.core c).decodeAt a = .bundle b)
    (hr : (s.ctx c x).replay = none ∨ (s.ctx c x).frame.sr = 0)
    (hw : writeConflict b.slots = true ∨ (s.openBundle c x a b).blockConflict = true) :
    EntersBefore c x (Frame.make (BitVec.ofNat 64 a) 0 0x03 s.freeWord.1 0) s (s.issue c x) := by
  have h1 : ((s.ctx c x).replay.isNone || (s.ctx c x).frame.sr == 0) = true := by
    rcases hr with hr | hr <;> rw [hr]
    · rfl
    · exact Bool.or_true _
  have hc : s.conflicts c x a b = true := by
    simp only [State.conflicts, h1, Bool.true_and, Bool.or_eq_true]
    exact hw
  rw [State.issue_bundle hpc hf ha, hd]
  exact State.issueBundle_of_conflicts h hc

end

end
end Sys2Proof.Machine
end

section
/-!
What a fatal trap leaves of the device and of every context (24 R362): Bracken operations that settle change no context in where it
stands, what its frame names and its registers.
-/
namespace Sys2Proof.Machine

/-- Where a context stands, what its frame names, and its registers. -/
def Ctx.point (t : Ctx) := (t.watch, t.hm, t.g, t.frame.valid, t.frame.addr)

/-- The bundle being committed, the hub, host memory and the allotment of each core. -/
def State.account (s : State) := ((s.env, s.hub, s.hmem), s.cores.map Core.allot)

/-- From `s` to `t` no context changes in its point; nor does the account. -/
structure Leaves (s t : State) : Prop where
  account : t.account = s.account
  point : ∀ c x, (t.ctx c x).point = (s.ctx c x).point

/-- Nor do the launch groups and the region of the records. -/
structure Silent (s t : State) : Prop extends Leaves s t where
  log : (t.groups, t.recNext) = (s.groups, s.recNext)

theorem Leaves.trans {s t u : State} (h : Leaves s t) (h' : Leaves t u) : Leaves s u :=
  ⟨h'.account.trans h.account, fun c x => (h'.point c x).trans (h.point c x)⟩
theorem Silent.refl (s : State) : Silent s s := ⟨⟨rfl, fun _ _ => rfl⟩, rfl⟩
theorem Silent.trans {s t u : State} (h : Silent s t) (h' : Silent t u) : Silent s u :=
  ⟨h.toLeaves.trans h'.toLeaves, h'.log.trans h.log⟩
theorem Silent.foldl {α : Type} {f : State → α → State} (h : ∀ s a, Silent s (f s a)) (l : List α) (s : State) :
    Silent s (l.foldl f s) := by
  induction l generalizing s with
  | nil => exact Silent.refl s
  | cons a l ih => exact (h s a).trans (ih (f s a))

/-- The allotments of cores one of which is replaced by one with the same. -/
theorem account_setCore (s : State) (c : CoreId) {k : Core} (h : k.allot = (s.core c).allot) :
    (s.setCore c k).account = s.account := by
  have e : (s.setCore c k).cores.map Core.allot = s.cores.map Core.allot := map_set_of_eq _ _ c.isLt h
  rw [State.account, e]
  rfl
theorem State.allot_of_account {s t : State} (h : t.account = s.account) (c : CoreId) : (t.core c).allot = (s.core c).allot := by
  have h := congrArg (fun v => v[c]) (congrArg Prod.snd h)
  dsimp only [State.account] at h
  rwa [Fin.getElem_fin, Fin.getElem_fin, Vector.getElem_map, Vector.getElem_map] at h

theorem State.fields_of_account {s t : State} (h : t.account = s.account) : t.env = s.env ∧ t.hub = s.hub ∧ t.hmem = s.hmem := by
  have h := congrArg Prod.fst h
  exact ⟨congrArg (·.1) h, congrArg (·.2.1) h, congrArg (·.2.2) h⟩

theorem silent_modCore (s : State) (c : CoreId) {f : Core → Core} (ha : ∀ k, (f k).allot = k.allot)
    (hp : ∀ k (x : CtxId), ((f k).ctxs[x]).point = (k.ctxs[x]).point) : Silent s (s.modCore c f) := by
  refine ⟨⟨account_setCore s c (ha _), fun d x => ?_⟩, rfl⟩
  rcases eq_or_ne d c with rfl | hd
  · rw [State.ctx_modCore, hp, State.ctx_eq]
  · rw [State.ctx_eq, State.core_modCore_ne s f hd, State.ctx_eq]
theorem silent_modCtx (s : State) (c : CoreId) (x : CtxId) {f : Ctx → Ctx} (h : ∀ t, (f t).point = t.point) :
    Silent s (s.modCtx c x f) :=
  silent_modCore s c (fun _ => rfl) fun k y => by
    rcases eq_or_ne y x with rfl | hy
    · rw [Core.ctx_modCtx, h]
    · rw [Core.ctx_modCtx_ne k f hy]

theorem silent_retests (s : State) (r : Bool) : Silent s { s with retests := r } := ⟨⟨rfl, fun _ _ => rfl⟩, rfl⟩
theorem silent_choices (s : State) (n : Nat) : Silent s { s with choices := n } := ⟨⟨rfl, fun _ _ => rfl⟩, rfl⟩

/-! ### Bracken operations that settle -/

theorem silent_chargeExact (s : State) (c : CoreId) (x : CtxId) (w den : Nat) : Silent s (s.chargeExact c x w den) := by
  obtain ⟨f, hf, e⟩ := s.chargeExact_eq c x w den
  rw [e]
  have hp (t : Ctx) : (f t).point = t.point := by
    have h : (f t).unpaid.point = t.unpaid.point := congrArg Ctx.point (hf t)
    exact h
  exact (silent_modCtx s c x hp).trans (silent_choices _ _)
theorem Core.allot_putRecord (k : Core) (o : Nat) (st : BitVec 8) (res aux : Word) :
    (k.putRecord o st res aux).allot = k.allot := by
  simp only [Core.putRecord]
theorem Core.ctxs_putRecord (k : Core) (o : Nat) (st : BitVec 8) (res aux : Word) :
    (k.putRecord o st res aux).ctxs = k.ctxs := by
  simp only [Core.putRecord]
theorem Core.kept_retire (k : Core) (e : R16) (o : Nat) (st : BitVec 8) (res aux : Word) :
    (k.retire e o st res aux).allot = k.allot ∧ (k.retire e o st res aux).ctxs = k.ctxs := by
  dsimp only [Core.retire]
  exact ⟨k.allot_putRecord o st res aux, k.ctxs_putRecord o st res aux⟩
theorem silent_ddEnd (s : State) (c : CoreId) (e : R16) (d : DdEntry) (o : Nat) (st : BitVec 8) (res aux : Word) :
    Silent s (s.ddEnd c e d o st res aux) := by
  rw [State.ddEnd_eq, State.ddDone]
  have h : Silent s (s.modCore c fun k => k.retire e o st res aux) := 
    silent_modCore s c (fun k => (k.kept_retire e o st res aux).1) fun k x => by rw [(k.kept_retire e o st res aux).2]
  refine h.trans (Silent.trans ?_ (silent_chargeExact _ c d.ctx _ _))
  exact silent_modCtx _ c d.ctx fun _ => rfl
theorem silent_countOps (s : State) (c : CoreId) (n : Nat) : Silent s (s.countOps c n) := by
  unfold State.countOps
  split
  · exact ⟨⟨rfl, fun _ _ => rfl⟩, rfl⟩
  · exact Silent.refl s
theorem silent_setEntry (s : State) (c : CoreId) (e : R16) (d : Option DdEntry) : Silent s (s.setEntry c e d) :=
  silent_modCore s c (fun _ => rfl) fun _ _ => rfl
theorem silent_ddDrop (s : State) (c : CoreId) (e : R16) (d : DdEntry) : Silent s (s.ddDrop c e d) := by
  unfold State.ddDrop
  refine Silent.trans ?_ (silent_setEntry _ c e none)
  split
  · next o ho =>
    refine Silent.trans ?_ (silent_countOps _ c 1)
    exact silent_modCore s c (fun k => k.allot_putRecord o 5 0 0) fun k x => by rw [k.ctxs_putRecord]
  · exact Silent.refl s
theorem silent_ddAbandoned (s : State) (c : CoreId) (e : R16) (d : DdEntry) : Silent s (s.ddAbandoned c e d) :=
  (silent_setEntry s c e _).trans (silent_modCtx _ c d.ctx fun _ => rfl)
theorem silent_ddSettle (s : State) (c : CoreId) (x : CtxId) : Silent s (s.ddSettle c x) := by
  unfold State.ddSettle
  refine Silent.foldl (fun s e => ?_) _ s
  split_ifs
  · exact (silent_ddDrop s c _ _).trans (silent_retests _ _)
  · exact silent_ddAbandoned s c _ _
  · split
    · exact (silent_ddEnd s c _ _ _ _ _ _).trans (silent_retests _ _)
    · exact Silent.refl s
theorem Ctx.point_interrupt (t : Ctx) : t.interrupt.point = t.point := by
  unfold Ctx.interrupt
  split <;> rfl

end Sys2Proof.Machine
end

section
/-!
The records that a fatal trap saves of the other contexts of its launch group (24 R375).
-/
namespace Sys2Proof.Machine

theorem length_area (n : Nat) (l : List Byte) : (area n l).length = n := by
  rw [area, List.length_append, List.length_take, List.length_replicate]
  omega

theorem Core.ctxRecord_pos (k : Core) (x : CtxId) (unit : Nat) (version : BitVec 32) (sct : BitVec 512) :
    0 < (k.ctxRecord x unit version sct).length := by
  unfold Core.ctxRecord
  simp only [List.length_append, length_area]
  omega

theorem State.recNext_saveRecord (s : State) (c : CoreId) (x : CtxId) : s.recNext < (s.saveRecord c x).2.recNext := by
  have h := (s.core c).ctxRecord_pos x (ctxUnit c x).toNat s.layout.version ((s.core c).sctDone c x)
  show s.recNext < s.recNext + (((s.core c).ctxRecord x (ctxUnit c x).toNat s.layout.version ((s.core c).sctDone c x)).length + 63) / 64 * 64
  omega

theorem leaves_saveRecord (s : State) (c : CoreId) (x : CtxId) :
    Leaves s (s.saveRecord c x).2 ∧ (s.saveRecord c x).2.groups = s.groups := ⟨⟨rfl, fun _ _ => rfl⟩, rfl⟩

/-- A launch group with records added to it, where it is group `g`. -/
def Group.addRecords (y : Group) (g : Nat) (l : List (BitVec 20 × Word)) : Group :=
  if y.id = g then { y with records := y.records ++ l } else y

theorem Group.addRecords_nil (g : Nat) (y : Group) : y.addRecords g [] = y := by
  simp only [Group.addRecords, List.append_nil, ite_self]

theorem Group.addRecords_addRecords (y : Group) (g : Nat) (l l' : List (BitVec 20 × Word)) :
    (y.addRecords g l).addRecords g l' = y.addRecords g (l ++ l') := by
  by_cases h : y.id = g
  · simp only [Group.addRecords, if_pos h, List.append_assoc]
  · simp only [Group.addRecords, if_neg h]

/-- From `s` to `t` records are saved: those of `l`, in group `g`. -/
structure Saves (g : Nat) (l : List (BitVec 20 × Word)) (s t : State) : Prop extends Leaves s t where
  recNext : s.recNext ≤ t.recNext
  groups : t.groups = s.groups.map (·.addRecords g l)

theorem Silent.saves {s t : State} (h : Silent s t) (g : Nat) : Saves g [] s t := by
  obtain ⟨hg, hn⟩ := Prod.mk.inj h.log
  exact ⟨h.toLeaves, hn.ge, by simp only [hg, Group.addRecords_nil, List.map_id']⟩
theorem Saves.trans {g : Nat} {l l' : List (BitVec 20 × Word)} {s t u : State} (h : Saves g l s t) (h' : Saves g l' t u) :
    Saves g (l ++ l') s u :=
  ⟨h.toLeaves.trans h'.toLeaves, h.recNext.trans h'.recNext, by
    simp only [h'.groups, h.groups, List.map_map, Function.comp_def, Group.addRecords_addRecords]⟩

/-- A fatal trap of group `g` saves the record of a context of it, unless it is Unloaded or held. -/
def State.toSave (s : State) (g : Nat) (u : CoreId × CtxId) : Bool :=
  s.inGroup g u.1 && match (s.ctx u.1 u.2).run with
    | .unloaded | .held => false
    | _ => true

theorem State.toSave_iff {s : State} {g : Nat} {u : CoreId × CtxId} :
    s.toSave g u = true ↔ s.inGroup g u.1 = true ∧ (s.ctx u.1 u.2).run ≠ .unloaded ∧ (s.ctx u.1 u.2).run ≠ .held := by
  unfold State.toSave
  rw [Bool.and_eq_true]
  cases (s.ctx u.1 u.2).run <;> simp

theorem State.inGroup_of_account {s t : State} (h : t.account = s.account) (g : Nat) (c : CoreId) : t.inGroup g c = s.inGroup g c := by
  rw [State.inGroup, State.inGroup, State.allot_of_account h]

theorem Leaves.toSave {s t : State} (h : Leaves s t) (g : Nat) (u : CoreId × CtxId) : t.toSave g u = s.toSave g u := by
  have e : (t.ctx u.1 u.2).run = (s.ctx u.1 u.2).run := congrArg (fun p => p.1.1) (h.point u.1 u.2)
  rw [State.toSave, State.toSave, State.inGroup_of_account h.account, e]

/-- The record of one context is saved, with its episode interrupted and its accepted operations completed. -/
def State.saveOther (s : State) (g : Nat) (u : CoreId × CtxId) : State :=
  let r := ((s.modCtx u.1 u.2 Ctx.interrupt).ddSettle u.1 u.2).saveRecord u.1 u.2
  { r.2 with groups := r.2.groups.map (·.addRecords g [(ctxUnit u.1 u.2, r.1)]) }

theorem saves_saveOther (s : State) (g : Nat) (u : CoreId × CtxId) : ∃ w, Saves g [(ctxUnit u.1 u.2, w)] s (s.saveOther g u) := by
  have h := (silent_modCtx s u.1 u.2 Ctx.point_interrupt).trans (silent_ddSettle _ u.1 u.2)
  generalize e : (s.modCtx u.1 u.2 Ctx.interrupt).ddSettle u.1 u.2 = v at h
  have hv : Saves g [(ctxUnit u.1 u.2, (v.saveRecord u.1 u.2).1)] v { (v.saveRecord u.1 u.2).2 with
      groups := v.groups.map (·.addRecords g [(ctxUnit u.1 u.2, (v.saveRecord u.1 u.2).1)]) } :=
    ⟨⟨rfl, fun _ _ => rfl⟩, (v.recNext_saveRecord u.1 u.2).le, rfl⟩
  refine ⟨(v.saveRecord u.1 u.2).1, ?_⟩
  rw [State.saveOther, e]
  exact (h.saves g).trans hv

/-- The records of the contexts of a list that are to be saved are among those that are. -/
theorem saves_others (g : Nat) (us : List (CoreId × CtxId)) (s : State) : ∃ l,
    Saves g l s (us.foldl (fun s u => if s.toSave g u then s.saveOther g u else s) s)
    ∧ ∀ u ∈ us, s.toSave g u = true → ctxUnit u.1 u.2 ∈ l.map Prod.fst := by
  induction us generalizing s with
  | nil => exact ⟨[], (Silent.refl s).saves g, fun _ h => absurd h List.not_mem_nil⟩
  | cons u us ih =>
    obtain ⟨l, hl, hu⟩ : ∃ l, Saves g l s (if s.toSave g u then s.saveOther g u else s)
        ∧ (s.toSave g u = true → ctxUnit u.1 u.2 ∈ l.map Prod.fst) := by
      split
      · obtain ⟨w, hw⟩ := saves_saveOther s g u
        exact ⟨[(_, w)], hw, fun _ => List.mem_singleton_self _⟩
      · next hn => exact ⟨[], (Silent.refl s).saves g, fun h => absurd h hn⟩
    obtain ⟨l', hl', hus⟩ := ih (if s.toSave g u then s.saveOther g u else s)
    refine ⟨l ++ l', hl.trans hl', fun v hv hs => ?_⟩
    rw [List.map_append, List.mem_append]
    rcases List.mem_cons.1 hv with rfl | hv
    · exact .inl (hu hs)
    · exact .inr (hus v hv ((hl.toLeaves.toSave g v).trans hs))

theorem mem_allCtx (u : CoreId × CtxId) : u ∈ allCtx := by
  rw [allCtx, List.mem_flatMap]
  exact ⟨u.1, List.mem_finRange _, List.mem_map.2 ⟨u.2, List.mem_finRange _, rfl⟩⟩

theorem saves_saveOthers (s : State) (g : Nat) : ∃ l, Saves g l s (s.saveOthers g)
    ∧ ∀ u : CoreId × CtxId, s.toSave g u = true → ctxUnit u.1 u.2 ∈ l.map Prod.fst := by
  obtain ⟨l, hl, hu⟩ := saves_others g allCtx s
  exact ⟨l, hl, fun u => hu u (mem_allCtx u)⟩

end Sys2Proof.Machine
end

section
/-!
The stop of a launch group (24 R362): every context of it comes to rest, and those at rest stay as they stand.
-/
namespace Sys2Proof.Machine

/-- From `s` to `t` contexts are stopped: those at rest keep their points. -/
structure Stops (s t : State) : Prop where
  account : t.account = s.account
  log : (t.groups, t.recNext) = (s.groups, s.recNext)
  point : ∀ c x, (s.ctx c x).AtRest → (t.ctx c x).point = (s.ctx c x).point

theorem Ctx.AtRest.of_point {t u : Ctx} (h : t.point = u.point) (hu : u.AtRest) : t.AtRest :=
  hu.of_watch (congrArg Prod.fst h)

theorem Silent.stops {s t : State} (h : Silent s t) : Stops s t := ⟨h.account, h.log, fun c x _ => h.point c x⟩
theorem Stops.trans {s t u : State} (h : Stops s t) (h' : Stops t u) : Stops s u :=
  ⟨h'.account.trans h.account, h'.log.trans h.log, fun c x hx => (h'.point c x (hx.of_point (h.point c x hx))).trans (h.point c x hx)⟩
theorem Stops.atRest {s t : State} (h : Stops s t) {c : CoreId} {x : CtxId} (hx : (s.ctx c x).AtRest) : (t.ctx c x).AtRest :=
  hx.of_point (h.point c x hx)

theorem stops_modCore {s : State} {c : CoreId} {f : Core → Core} (ha : ∀ k, (f k).allot = k.allot)
    (hp : ∀ x : CtxId, ((s.core c).ctxs[x]).AtRest → ((f (s.core c)).ctxs[x]).point = ((s.core c).ctxs[x]).point) :
    Stops s (s.modCore c f) := by
  refine ⟨account_setCore s c (ha _), rfl, fun d x hx => ?_⟩
  rcases eq_or_ne d c with rfl | hd
  · rw [State.ctx_modCore, hp x hx, State.ctx_eq]
  · rw [State.ctx_eq, State.core_modCore_ne s f hd, State.ctx_eq]

/-! ### Switch points -/

theorem Core.allot_switchPoint (k : Core) : k.switchPoint.allot = k.allot := by
  have h (k : Core) : k.select.allot = k.allot := by
    unfold Core.select
    split <;> rfl
  refine (h _).trans ?_
  dsimp only
  split <;> rfl
theorem Core.point_switchPoint {k : Core} {x : CtxId} (h : (k.ctxs[x]).AtRest) : (k.switchPoint.ctxs[x]).point = (k.ctxs[x]).point := by
  have hw := Core.watch_switchPoint h
  have hp := congrArg (fun t : Ctx => (t.hm, t.g, t.frame.valid, t.frame.addr)) (k.placed_switchPoint x)
  exact Prod.ext hw hp
theorem stops_switchPoint (s : State) (c : CoreId) : Stops s (s.modCore c Core.switchPoint) :=
  stops_modCore Core.allot_switchPoint fun _ h => Core.point_switchPoint h

theorem Core.run_select {k : Core} {x : CtxId} (h : (k.select.ctxs[x]).AtRest) : (k.select.ctxs[x]).run = (k.ctxs[x]).run := by
  cases hs : selectFrom k (if k.fresh then 3 else k.last) with
  | none => rw [Core.select_of_none hs]
  | some y =>
    rw [Core.select_of_some hs] at h ⊢
    rcases eq_or_ne x y with rfl | hne
    · rw [Core.ctx_modCtx] at h
      exact (h.not_running rfl).elim
    · rw [Core.ctx_modCtx_ne _ _ hne]
/-- A context that is at rest after a switch point stood there before it. -/
theorem Core.run_switchPoint {k : Core} {x : CtxId} (h : (k.switchPoint.ctxs[x]).AtRest) :
    (k.switchPoint.ctxs[x]).run = (k.ctxs[x]).run := by
  let j : Core := match k.applyPri.current with
    | some x => k.applyPri.modCtx x fun (t : Ctx) => if t.run = RunState.running then { t with run := .ready } else t
    | none => k.applyPri
  have hs : (k.switchPoint.ctxs[x]).run = (j.ctxs[x]).run := Core.run_select h
  have hj : (j.ctxs[x]).AtRest := by
    unfold Ctx.AtRest
    rw [← hs]
    exact h
  have hp : (k.applyPri.ctxs[x]).run = (k.ctxs[x]).run := congrArg Prod.fst (k.watch_applyPri x)
  refine hs.trans (Eq.trans ?_ hp)
  dsimp only [j] at hj ⊢
  split at hj
  · next y _ =>
    rcases eq_or_ne x y with rfl | hne
    · rw [Core.ctx_modCtx] at hj ⊢
      split at hj
      · exact (hj.not_ready rfl).elim
      · next hn => rw [if_neg hn]
    · rw [Core.ctx_modCtx_ne _ _ hne]
  · rfl

/-! ### Kills -/

theorem silent_endPins (s : State) (p : Pin → Bool) : Silent s (s.endPins p) := ⟨⟨rfl, fun _ _ => rfl⟩, rfl⟩
theorem silent_endPinsHalted (s : State) (g : Nat) : Silent s (s.endPinsHalted g) := by
  unfold State.endPinsHalted
  split
  · exact silent_endPins s _
  · exact Silent.refl s

theorem Core.kept_putRecords (l : List Nat) (k : Core) : (l.foldl (fun (k : Core) a => k.putRecord a 5 0 0) k).allot = k.allot
    ∧ (l.foldl (fun (k : Core) a => k.putRecord a 5 0 0) k).ctxs = k.ctxs := by
  induction l generalizing k with
  | nil => exact ⟨rfl, rfl⟩
  | cons a l ih =>
    obtain ⟨h1, h2⟩ := ih (k.putRecord a 5 0 0)
    rw [List.foldl_cons, h1, h2]
    exact ⟨k.allot_putRecord a 5 0 0, k.ctxs_putRecord a 5 0 0⟩

theorem silent_killWork (s : State) (c : CoreId) (x : CtxId) : Silent s (s.killWork c x) := by
  unfold State.killWork
  extract_lets g recs s1 s2 s3 s4
  have h1 : Silent s s2 := ⟨⟨rfl, fun _ _ => rfl⟩, rfl⟩
  have h2 : Silent s2 s3 := silent_modCore s2 c (fun k => (Core.kept_putRecords recs k).1) fun k y => by
    rw [← (Core.kept_putRecords recs k).2]
  have h3 : Silent s3 s4 := ⟨⟨rfl, fun _ _ => rfl⟩, rfl⟩
  exact ((h1.trans h2).trans h3).trans (silent_endPins s4 _)

/-- The kill of a context that is not at rest: it comes to rest. -/
theorem stops_killCtx {s : State} {c : CoreId} {x : CtxId} (h : ¬(s.ctx c x).AtRest) :
    Stops s (s.killCtx c x) ∧ ((s.killCtx c x).ctx c x).AtRest := by
  unfold State.killCtx
  extract_lets s1 was s2 s3
  have h1 : Silent s s1 := silent_killWork s c x
  clear_value s1
  have hx : ¬(s1.ctx c x).AtRest := fun hr => h (hr.of_point (h1.point c x).symm)
  have h2 : Stops s1 s2 := by
    refine stops_modCore (f := fun k => k.modCtx x Ctx.killed) (fun _ => rfl) fun y hy => ?_
    have hne : y ≠ x := fun e => hx (by rw [State.ctx_eq, ← e]; exact hy)
    rw [Core.ctx_modCtx_ne _ _ hne]
  have hr : (s2.ctx c x).AtRest := .inr (.inl (by rw [State.ctx_modCtx]))
  have h3 : Stops s2 s3 := by
    dsimp only [s3]
    split
    · exact stops_switchPoint s2 c
    · exact (Silent.refl s2).stops
  have h4 : Stops s3 (match (s3.core c).allot with
      | some al => s3.endPinsHalted al.group
      | none => s3) := by
    split
    · exact (silent_endPinsHalted s3 _).stops
    · exact (Silent.refl s3).stops
  exact ⟨(h1.stops.trans h2).trans (h3.trans h4), (h3.trans h4).atRest hr⟩

/-- A fold of steps each of which stops contexts and reaches what later steps keep. -/
theorem stops_foldl {α : Type} {f : State → α → State} {Q : α → State → Prop} (hf : ∀ s a, Stops s (f s a) ∧ Q a (f s a))
    (hQ : ∀ a s t, Stops s t → Q a s → Q a t) (l : List α) (s : State) : Stops s (l.foldl f s) ∧ ∀ a ∈ l, Q a (l.foldl f s) := by
  induction l generalizing s with
  | nil => exact ⟨(Silent.refl s).stops, fun _ h => absurd h List.not_mem_nil⟩
  | cons a l ih =>
    obtain ⟨h1, hq⟩ := hf s a
    obtain ⟨h2, hl⟩ := ih (f s a)
    refine ⟨h1.trans h2, fun b hb => ?_⟩
    rcases List.mem_cons.1 hb with rfl | hb
    · exact hQ b _ _ h2 hq
    · exact hl b hb

/-- The contexts of a core that are not at rest are killed. -/
def State.killCore (s : State) (c : CoreId) : State :=
  (List.finRange 4).foldl (fun s x =>
    let r := (s.ctx c x).run
    if r = .unloaded ∨ r = .halted ∨ r = .held then s else s.killCtx c x) s
theorem State.stopGroup_eq (s : State) (g : Nat) : s.stopGroup g =
    ((List.finRange 192).foldl (fun s c => if s.inGroup g c then s.killCore c else s) s).endPinsHalted g := rfl

theorem stops_killCore (s : State) (c : CoreId) : Stops s (s.killCore c) ∧ ∀ x, ((s.killCore c).ctx c x).AtRest := by
  obtain ⟨h, hx⟩ := stops_foldl (Q := fun x t => (t.ctx c x).AtRest) (f := fun s x =>
      let r := (s.ctx c x).run
      if r = .unloaded ∨ r = .halted ∨ r = .held then s else s.killCtx c x) (fun s x => by
      dsimp only
      split
      · next h => exact ⟨(Silent.refl s).stops, h⟩
      · next h => exact stops_killCtx h) (fun x s t h hx => h.atRest hx) (List.finRange 4) s
  exact ⟨h, fun x => hx x (List.mem_finRange x)⟩

/-- Every context of the group comes to rest. -/
theorem stops_stopGroup (s : State) (g : Nat) : Stops s (s.stopGroup g)
    ∧ ∀ c x, s.inGroup g c = true → ((s.stopGroup g).ctx c x).AtRest := by
  obtain ⟨h, hq⟩ := stops_foldl (Q := fun c t => t.inGroup g c = true → ∀ x, (t.ctx c x).AtRest)
    (f := fun s c => if s.inGroup g c then s.killCore c else s) (fun s c => by
      split
      · obtain ⟨h1, h2⟩ := stops_killCore s c
        exact ⟨h1, fun _ => h2⟩
      · next hn => exact ⟨(Silent.refl s).stops, fun h => absurd h hn⟩)
    (fun c s t h hq hg x => h.atRest (hq ((State.inGroup_of_account h.account g c).symm.trans hg) x)) (List.finRange 192) s
  rw [State.stopGroup_eq]
  generalize (List.finRange 192).foldl _ s = t at h hq
  have hp := (silent_endPinsHalted t g).stops
  exact ⟨h.trans hp, fun c x hg => hp.atRest (hq c (List.mem_finRange c) ((State.inGroup_of_account h.account g c).trans hg) x)⟩

end Sys2Proof.Machine
end

section
/-!
The record of a fatal trap in the trap queue (24 R379, R380, Table 24.8).
-/
namespace Sys2Proof.Machine

theorem leNat_leBytes (n v : Nat) : leNat (leBytes n v) = v % 256 ^ n := by
  induction n generalizing v with
  | zero => simp [leBytes, leNat, Nat.mod_one]
  | succ n ih =>
    rw [leBytes, leNat, ih, Nat.pow_succ', Nat.mod_mul]
    simp

/-- What is read of a list just written: its bytes. -/
theorem memReadN_memWriteBytes {m : Memory} (h : memWf m = true) (a : Nat) (l : List Byte) {i n : Nat} (hn : i + n ≤ l.length) :
    memReadN (memWriteBytes m a l) (a + i) n = leNat ((l.drop i).take n) := by
  induction n generalizing i with
  | zero => rfl
  | succ n ih =>
    have hd : l.drop i = l[i] :: l.drop (i + 1) := List.drop_eq_getElem_cons (by omega)
    rw [memReadN, memRead_memWriteBytes h, if_pos (by omega), Nat.add_assoc, ih (i := i + 1) (by omega), hd, List.take_succ_cons, leNat,
      Nat.add_sub_cancel_left, List.getD_eq_getElem _ _ (by omega)]

/-- The bytes of a record of the trap queue. -/
def State.tqBytes (s : State) (r : TrapRec) : List Byte :=
  leBytes 8 (r.kind.toNat + r.cause.toNat * 2 ^ 8 + r.vf.toNat * 2 ^ 16 + r.part.toNat * 2 ^ 24 + r.unit.toNat * 2 ^ 32)
    ++ leBytes 8 r.tick.toNat ++ leBytes 8 r.faddr.toNat ++ leBytes 8 r.frame0.toNat
    ++ leBytes 8 r.info.toNat ++ leBytes 8 r.recAddr.toNat
    ++ leBytes 8 (s.layout.version.toNat + s.hub.tqtail.toNat * 2 ^ 32) ++ leBytes 8 0

/-- KIND and CAUSE are the first bytes of a record. -/
theorem State.tqBytes_cause (s : State) (r : TrapRec) : leNat ((s.tqBytes r).take 2) = r.kind.toNat + r.cause.toNat * 2 ^ 8 := by
  have e (w : Nat) : (leBytes 8 w).take 2 = leBytes 2 w := rfl
  have h : (s.tqBytes r).take 2 = leBytes 2 (r.kind.toNat + r.cause.toNat * 2 ^ 8 + r.vf.toNat * 2 ^ 16 + r.part.toNat * 2 ^ 24
      + r.unit.toNat * 2 ^ 32) := by
    rw [← e]
    rfl
  rw [h, leNat_leBytes]
  have hk := r.kind.isLt
  have hc := r.cause.isLt
  omega

/-- The address of the context record is the sixth word of a record. -/
theorem State.tqBytes_recAddr (s : State) (r : TrapRec) : leNat (((s.tqBytes r).drop 40).take 8) = r.recAddr.toNat := by
  have h : ((s.tqBytes r).drop 40).take 8 = leBytes 8 r.recAddr.toNat := rfl
  rw [h, leNat_leBytes]
  exact Nat.mod_eq_of_lt r.recAddr.isLt

theorem State.length_tqBytes (s : State) (r : TrapRec) : (s.tqBytes r).length = 64 := rfl

theorem State.tqWrite_bytes (s : State) (r : TrapRec) : s.tqWrite r =
    (s.hostWrite 127 s.tqPlace (s.tqBytes r)).modHub fun h => { h with tqtail := h.tqtail + 1 } := rfl

/-- A record of kind 1 that finds a free entry is written at once on an idle host port. -/
theorem State.trapRecord_written {s : State} {r : TrapRec} (hk : r.kind = 1) (hq : 0 < s.tqFree) (h : s.HostIdle)
    (hd : s.hub.deferred = []) : ∃ n o q, s.trapRecord r = { s with
      choices := n
      hmem := memWriteBytes s.hmem s.tqPlace (s.tqBytes r)
      hub := { s.hub with
        out := o
        ports := q
        tqtail := s.hub.tqtail + 1 } } := by
  have hroom : s.tqRoom r = true := by
    rw [State.tqRoom, if_pos hk]
    exact decide_eq_true hq
  obtain ⟨hr, hq⟩ := h.room
  rw [State.trapRecord_eq hroom h hd, State.tqWrite_bytes]
  generalize s.tqBytes r = l
  obtain ⟨n, o, q, e⟩ := s.hostSend_eq ⟨127, s.tqPlace, l⟩
  refine ⟨n, o, q, ?_⟩
  rw [State.hostWrite, hr, hq, Bool.and_self, if_pos rfl, e]
  rfl

end Sys2Proof.Machine
end

section
/-!
The hold of a context by a fatal trap (24 R362).
-/
namespace Sys2Proof.Machine

variable {s : State} {c : CoreId} {x : CtxId}

/-- The context is held and its record saved; where it was in place, its core selects another. -/
def State.heldAside (s : State) (c : CoreId) (x : CtxId) : State :=
  let t := ((s.modCtx c x fun t => { t with run := .held }).saveRecord c x).2
  if (s.core c).current == some x then t.modCore c Core.switchPoint else t

/-- Its trap record. -/
def State.heldRecord (s : State) (c : CoreId) (x : CtxId) (faddr info : Word) : TrapRec :=
  let t := { s.ctx c x with run := .held }
  ⟨1, t.frame.cause, t.asid.setWidth 8, BitVec.ofNat 5 (s.core c).alloc.part, ctxUnit c x, s.cyc, faddr, t.frame.word0, info,
    BitVec.ofNat 64 (64 * Config.recBase + s.recNext)⟩

theorem State.fatalHold_eq (s : State) (c : CoreId) (x : CtxId) (faddr info : Word) : s.fatalHold c x faddr info =
    let t := (s.heldAside c x).trapRecord (s.heldRecord c x faddr info)
    { t with groups := t.groups.map (·.addRecords (s.core c).alloc.group
        [(ctxUnit c x, BitVec.ofNat 64 (64 * Config.recBase + s.recNext))]) } := by
  have hx : (s.modCtx c x fun t => { t with run := .held }).ctx c x = { s.ctx c x with run := .held } := State.ctx_modCtx ..
  have ha : ((s.modCtx c x fun t => { t with run := .held }).core c).alloc = (s.core c).alloc := by
    rw [State.modCtx, State.core_modCore]
    rfl
  unfold State.fatalHold State.heldRecord
  rw [← hx, ← ha]
  rfl

/-- What the hold leaves: the account; and the contexts that are to be saved stay so. -/
structure HeldAside (c : CoreId) (x : CtxId) (s t : State) : Prop where
  account : t.account = s.account
  groups : t.groups = s.groups
  recNext : s.recNext < t.recNext
  point : (t.ctx c x).point = { s.ctx c x with run := .held }.point
  toSave : ∀ g (u : CoreId × CtxId), u ≠ (c, x) → s.toSave g u = true → t.toSave g u = true

theorem State.ctx_modCtx_of_ne {u : CoreId × CtxId} (h : u ≠ (c, x)) (f : Ctx → Ctx) : (s.modCtx c x f).ctx u.1 u.2 = s.ctx u.1 u.2 := by
  obtain ⟨d, y⟩ := u
  rcases eq_or_ne d c with rfl | hd
  · exact s.ctx_modCtx_ne d f fun e => h (e ▸ rfl)
  · rw [State.ctx_eq, State.modCtx, State.core_modCore_ne s _ hd, State.ctx_eq]

/-- A switch point leaves the contexts that are to be saved. -/
theorem toSave_switchPoint {g : Nat} {u : CoreId × CtxId} (h : s.toSave g u = true) :
    (s.modCore c Core.switchPoint).toSave g u = true := by
  obtain ⟨hg, h1, h2⟩ := State.toSave_iff.1 h
  have hr (ha : ((s.modCore c Core.switchPoint).ctx u.1 u.2).AtRest) :
      ((s.modCore c Core.switchPoint).ctx u.1 u.2).run = (s.ctx u.1 u.2).run := by
    rcases eq_or_ne u.1 c with hc | hc
    · subst hc
      rw [State.ctx_modCore] at ha ⊢
      exact Core.run_switchPoint ha
    · rw [State.ctx_eq, State.core_modCore_ne s _ hc, State.ctx_eq]
  refine State.toSave_iff.2 ⟨(State.inGroup_of_account (stops_switchPoint s c).account g u.1).trans hg, fun e => ?_, fun e => ?_⟩
  · exact h1 ((hr (.inl e)).symm.trans e)
  · exact h2 ((hr (.inr (.inr e))).symm.trans e)

theorem heldAside (s : State) (c : CoreId) (x : CtxId) : HeldAside c x s (s.heldAside c x) := by
  have h : HeldAside c x s ((s.modCtx c x fun t => { t with run := .held }).saveRecord c x).2 := by
    have ha : (s.modCtx c x fun t => { t with run := .held }).account = s.account := account_setCore s c rfl
    have hx : (s.modCtx c x fun t => { t with run := .held }).ctx c x = { s.ctx c x with run := .held } := State.ctx_modCtx ..
    have hu {u : CoreId × CtxId} (hu : u ≠ (c, x)) : (s.modCtx c x fun t => { t with run := .held }).ctx u.1 u.2 = s.ctx u.1 u.2 :=
      State.ctx_modCtx_of_ne hu _
    have hl : (s.modCtx c x fun t => { t with run := .held }).groups = s.groups
      ∧ (s.modCtx c x fun t => { t with run := .held }).recNext = s.recNext := ⟨rfl, rfl⟩
    generalize (s.modCtx c x fun t => { t with run := .held }) = v at ha hx hu hl ⊢
    obtain ⟨hv, hg⟩ := leaves_saveRecord v c x
    refine ⟨hv.account.trans ha, hg.trans hl.1, hl.2 ▸ v.recNext_saveRecord c x, (hv.point c x).trans (congrArg Ctx.point hx),
      fun g u hne hs => ?_⟩
    rw [hv.toSave, State.toSave, State.inGroup_of_account ha, hu hne]
    exact hs
  unfold State.heldAside
  generalize ((s.modCtx c x fun t => { t with run := .held }).saveRecord c x).2 = t at h
  dsimp only
  split
  · have hp := stops_switchPoint t c
    obtain ⟨hg, hn⟩ := Prod.mk.inj hp.log
    have hr : (t.ctx c x).AtRest := .inr (.inr (congrArg (fun p => p.1.1) h.point))
    exact ⟨hp.account.trans h.account, hg.trans h.groups, hn ▸ h.recNext, (hp.point c x hr).trans h.point,
      fun g u hu hs => toSave_switchPoint (h.toSave g u hu hs)⟩
  · exact h

/-- The hold of a context with its record written: it is held where it stood, its trap record names its cause and its context record,
and no other context that is to be saved changes in that. -/
structure Held (c : CoreId) (x : CtxId) (s t : State) : Prop where
  env : t.env = s.env
  allot : ∀ d, (t.core d).allot = (s.core d).allot
  tqtail : t.hub.tqtail = s.hub.tqtail + 1
  record : memWf s.hmem = true → memReadN t.hmem s.tqPlace 2 = 1 + (s.ctx c x).frame.cause.toNat * 2 ^ 8
    ∧ memReadN t.hmem (s.tqPlace + 40) 8 = (64 * Config.recBase + s.recNext) % 2 ^ 64
  recNext : s.recNext < t.recNext
  groups : ∃ w, t.groups = s.groups.map (·.addRecords (s.core c).alloc.group [(ctxUnit c x, w)])
  point : (t.ctx c x).point = { s.ctx c x with run := .held }.point
  toSave : ∀ g (u : CoreId × CtxId), u ≠ (c, x) → s.toSave g u = true → t.toSave g u = true

theorem held_fatalHold (hq : 0 < s.tqFree) (hi : s.HostIdle) (hd : s.hub.deferred = []) (faddr info : Word) :
    Held c x s (s.fatalHold c x faddr info) := by
  obtain ⟨ha, hg, hn, hp, hs⟩ := heldAside s c x
  have hcall := State.allot_of_account ha
  obtain ⟨henv, hhub, hmem⟩ := State.fields_of_account ha
  rw [State.fatalHold_eq]
  generalize s.heldAside c x = v at *
  have hpl : v.tqPlace = s.tqPlace := by rw [State.tqPlace, State.tqPlace, hhub]
  obtain ⟨n, o, q, e⟩ := State.trapRecord_written (s := v) (r := s.heldRecord c x faddr info) rfl
    (by rw [State.tqFree, hhub]; exact hq) (by rw [State.HostIdle, State.PortIdle, hhub]; exact hi) (by rw [hhub]; exact hd)
  have hlen := v.length_tqBytes (s.heldRecord c x faddr info)
  have h2 := v.tqBytes_cause (s.heldRecord c x faddr info)
  have h8 := v.tqBytes_recAddr (s.heldRecord c x faddr info)
  generalize v.tqBytes (s.heldRecord c x faddr info) = l at e hlen h2 h8
  rw [e]
  constructor
  case env => exact henv
  case allot => exact hcall
  case tqtail => exact congrArg (fun h : Hub => h.tqtail + 1) hhub
  case record =>
    intro hwf
    rw [← hmem] at hwf
    rw [← hpl]
    have r2 := memReadN_memWriteBytes hwf v.tqPlace l (i := 0) (n := 2) (by omega)
    have r8 := memReadN_memWriteBytes hwf v.tqPlace l (i := 40) (n := 8) (by omega)
    rw [List.drop_zero, h2] at r2
    rw [h8] at r8
    exact ⟨r2, r8.trans (BitVec.toNat_ofNat _ _)⟩
  case recNext => exact hn
  case groups => exact ⟨_, congrArg (List.map _) hg⟩
  case point => exact hp
  case toSave => exact hs

end Sys2Proof.Machine
end

section
/-!
Fatal traps (24 R362): the context held and reported, its group's records saved, and the group stopped.
-/
namespace Sys2Proof.Machine

variable {s : State} {c : CoreId} {x : CtxId}

/-- What a fatal trap of context `x` of core `c` leaves. -/
structure Fatal (c : CoreId) (x : CtxId) (s t : State) : Prop where
  env : t.env = s.env
  tqtail : t.hub.tqtail = s.hub.tqtail + 1
  record : memWf s.hmem = true → memReadN t.hmem s.tqPlace 2 = 1 + (s.ctx c x).frame.cause.toNat * 2 ^ 8
    ∧ memReadN t.hmem (s.tqPlace + 40) 8 = (64 * Config.recBase + s.recNext) % 2 ^ 64
  recNext : s.recNext < t.recNext
  point : (t.ctx c x).point = { s.ctx c x with run := .held }.point
  rest : ∀ d y, s.inGroup (s.core c).alloc.group d = true → (t.ctx d y).AtRest
  groups : ∀ y ∈ t.groups, y.id = (s.core c).alloc.group → y.stop = some .kill ∧ y.code.isSome = true
    ∧ ∀ u : CoreId × CtxId, s.toSave (s.core c).alloc.group u = true → ctxUnit u.1 u.2 ∈ y.records.map Prod.fst

/-- A group with its first failure noted. -/
def Group.fail (y : Group) (g code : Nat) : Group :=
  if y.id = g then { y with code := some (y.code.getD code), stop := some .kill } else y

theorem Group.addRecords_id (y : Group) (g : Nat) (l : List (BitVec 20 × Word)) : (y.addRecords g l).id = y.id := by
  unfold Group.addRecords
  split <;> rfl

theorem Group.fail_id (y : Group) (g code : Nat) : (y.fail g code).id = y.id := by
  unfold Group.fail
  split <;> rfl

/-- A group of the stopped launch has failed, and holds the records saved. -/
theorem Group.fail_addRecords {y z : Group} {g code : Nat} {l : List (BitVec 20 × Word)} (h : z = (y.addRecords g l).fail g code)
    (hz : z.id = g) : z.stop = some .kill ∧ z.code.isSome = true ∧ ∀ r ∈ l, r ∈ z.records := by
  have hy : y.id = g := by rw [← hz, h, Group.fail_id, Group.addRecords_id]
  rw [h, Group.fail, if_pos ((y.addRecords_id g l).trans hy)]
  refine ⟨rfl, rfl, fun r hr => ?_⟩
  rw [Group.addRecords, if_pos hy]
  exact List.mem_append_right _ hr

theorem leaves_failGroup (s : State) (g code : Nat) : Leaves s (s.failGroup g code) ∧ (s.failGroup g code).recNext = s.recNext
    ∧ (s.failGroup g code).groups = s.groups.map (·.fail g code) := ⟨⟨rfl, fun _ _ => rfl⟩, rfl, rfl⟩

/-- Bracken operations that settle come before the hold. -/
theorem Held.of_silent {t u : State} (h : Silent s t) (h' : Held c x t u) : Held c x s u := by
  have hall := State.allot_of_account h.account
  obtain ⟨henv, hhub, hmem⟩ := State.fields_of_account h.account
  have hal : (t.core c).alloc = (s.core c).alloc := by rw [Core.alloc, Core.alloc, hall]
  have hpl : t.tqPlace = s.tqPlace := by rw [State.tqPlace, State.tqPlace, hhub]
  obtain ⟨hg, hn⟩ := Prod.mk.inj h.log
  have hp := h.point c x
  have hc : (t.ctx c x).frame.cause = (s.ctx c x).frame.cause := congrArg (fun p => p.1.2) hp
  have hp' : ({ t.ctx c x with run := .held } : Ctx).point = ({ s.ctx c x with run := .held } : Ctx).point :=
    have h2 := congrArg Prod.snd hp
    Prod.ext (Prod.ext rfl hc) h2
  exact ⟨h'.env.trans henv, fun d => (h'.allot d).trans (hall d), hhub ▸ h'.tqtail,
    by rw [← hmem, ← hpl, ← hc, ← hn]; exact h'.record, hn ▸ h'.recNext, by rw [← hg, ← hal]; exact h'.groups, h'.point.trans hp',
    fun g u hu hs => h'.toSave g u hu ((h.toLeaves.toSave g u).trans hs)⟩

/-- The steps of a fatal trap, from the hold of its context in group `g` to the stop of this group. -/
theorem Fatal.of_steps {t u v w : State} {g code : Nat} {l : List (BitVec 20 × Word)} (hgr : (s.core c).alloc.group = g)
    (hheld : Held c x s t) (hsave : Saves g l t u)
    (hl : ∀ r : CoreId × CtxId, t.toSave g r = true → ctxUnit r.1 r.2 ∈ l.map Prod.fst)
    (hfail : Leaves u v) (hnext : v.recNext = u.recNext) (hgroups : v.groups = u.groups.map (·.fail g code))
    (hstop : Stops v w) (hrest : ∀ d y, v.inGroup g d = true → (w.ctx d y).AtRest) : Fatal c x s w := by
  have hv : v.account = t.account := hfail.account.trans hsave.account
  obtain ⟨henv, hhub, hmem⟩ := State.fields_of_account (hstop.account.trans hv)
  obtain ⟨hwg, hwn⟩ := Prod.mk.inj hstop.log
  have hpt : (v.ctx c x).point = { s.ctx c x with run := .held }.point :=
    (hfail.point c x).trans ((hsave.point c x).trans hheld.point)
  subst hgr
  constructor
  case env => exact henv.trans hheld.env
  case tqtail =>
    rw [hhub]
    exact hheld.tqtail
  case record =>
    rw [hmem]
    exact hheld.record
  case recNext =>
    rw [hwn, hnext]
    exact hheld.recNext.trans_le hsave.recNext
  case point => exact (hstop.point c x (.inr (.inr (congrArg (fun p => p.1.1) hpt)))).trans hpt
  case rest =>
    intro d y hd
    refine hrest d y ?_
    rw [State.inGroup_of_account hv, State.inGroup, hheld.allot]
    exact hd
  case groups =>
    obtain ⟨a, hg⟩ := hheld.groups
    intro y hy hid
    rw [hwg, hgroups, hsave.groups, hg, List.map_map, List.map_map] at hy
    obtain ⟨z, -, hz⟩ := List.mem_map.1 hy
    simp only [Function.comp_def, Group.addRecords_addRecords] at hz
    obtain ⟨h1, h2, h3⟩ := Group.fail_addRecords hz.symm hid
    refine ⟨h1, h2, fun r hr => ?_⟩
    by_cases hx : r = (c, x)
    · subst hx
      exact List.mem_map.2 ⟨(ctxUnit c x, a), h3 _ (List.mem_append_left _ (List.mem_singleton_self _)), rfl⟩
    · obtain ⟨q, hq, e⟩ := List.mem_map.1 (hl r (hheld.toSave _ r hx hr))
      exact List.mem_map.2 ⟨q, h3 _ (List.mem_append_right _ hq), e⟩

theorem fatal_of_idle (hq : 0 < s.tqFree) (hi : s.HostIdle) (hd : s.hub.deferred = []) (faddr info : Word) :
    Fatal c x s (s.fatal c x faddr info) := by
  have hset := silent_ddSettle s c x
  obtain ⟨-, hhub, -⟩ := State.fields_of_account hset.account
  have hheld : Held c x s ((s.ddSettle c x).fatalHold c x faddr info) := Held.of_silent hset
    (held_fatalHold (by rw [State.tqFree, hhub]; exact hq) (by rw [State.HostIdle, State.PortIdle, hhub]; exact hi)
      (by rw [hhub]; exact hd) faddr info)
  unfold State.fatal
  extract_lets g u
  obtain ⟨l, hsave, hl⟩ := saves_saveOthers ((s.ddSettle c x).fatalHold c x faddr info) g
  obtain ⟨hfail, hnext, hgroups⟩ := leaves_failGroup u g (if (u.ctx c x).frame.cause = 0x21 then 5 else 4)
  obtain ⟨hstop, hrest⟩ := stops_stopGroup (u.failGroup g (if (u.ctx c x).frame.cause = 0x21 then 5 else 4)) g
  exact Fatal.of_steps rfl hheld hsave hl hfail hnext hgroups hstop hrest

end Sys2Proof.Machine
end

section
/-!
Traps at issue, and the fatal trap of a context that has no handler.
-/
namespace Sys2Proof.Machine

section
variable {s : State} {c : CoreId} {x : CtxId}

/-- A trap of a context that has no handler is fatal. -/
theorem State.takeTrap_noHandler (hm : (s.ctx c x).hm = false) (hr : (s.ctx c x).run ≠ .held) (ht : (s.ctx c x).thv = 0) (f : Frame)
    (hdr : Word) (slot : R8) : s.takeTrap c x f hdr slot = ((s.trapping c x).holdFrame c x f).fatal c x f.faddr f.info := by
  have ht' : ((s.ctx c x).thv != 0) = false := by rw [ht]; rfl
  unfold State.takeTrap
  simp only [hm, if_neg hr, ht', Bool.false_and, Bool.and_false, Bool.false_eq_true, if_false]
  rfl

/-- What the frame of a trap changes: the trapping context, in what its frame names. -/
structure TrapHeld (c : CoreId) (x : CtxId) (f : Frame) (s t : State) : Prop where
  hub : t.hub = s.hub
  hmem : t.hmem = s.hmem
  recNext : t.recNext = s.recNext
  place : t.env.core = s.env.core ∧ t.env.ctx = s.env.ctx
  allot : ∀ d, (t.core d).allot = (s.core d).allot
  run : ∀ d y, (t.ctx d y).run = (s.ctx d y).run
  point : (t.ctx c x).point = (((s.ctx c x).run, f.cause), (s.ctx c x).hm, (s.ctx c x).g, true, f.addr)

theorem trapHeld_holdFrame (s : State) (c : CoreId) (x : CtxId) (f : Frame) : TrapHeld c x f s ((s.trapping c x).holdFrame c x f) := by
  have hpl : (s.trapping c x).env.core = s.env.core ∧ (s.trapping c x).env.ctx = s.env.ctx := by
    show (if s.env.core = c ∧ s.env.ctx = x then { s.env with stopped := true } else s.env : Env).core = _
      ∧ (if s.env.core = c ∧ s.env.ctx = x then { s.env with stopped := true } else s.env : Env).ctx = _
    split <;> exact ⟨rfl, rfl⟩
  have hl : Silent (s.modEnv fun e => if e.core = c ∧ e.ctx = x then { e with stopped := true } else e) (s.trapping c x) :=
    silent_modCore _ c (fun _ => rfl) fun _ _ => rfl
  have hx : (s.trapping c x).ctx c x = s.ctx c x := State.ctx_trapping
  have ha (d : CoreId) : ((s.trapping c x).core d).allot = (s.core d).allot := State.allot_of_account hl.account d
  have hr (d : CoreId) (y : CtxId) : ((s.trapping c x).ctx d y).run = (s.ctx d y).run := congrArg (fun p => p.1.1) (hl.point d y)
  have hf : (s.trapping c x).hub = s.hub ∧ (s.trapping c x).hmem = s.hmem ∧ (s.trapping c x).recNext = s.recNext := ⟨rfl, rfl, rfl⟩
  generalize s.trapping c x = t at hpl hx ha hr hf
  have hctx (d : CoreId) (y : CtxId) : ((t.holdFrame c x f).ctx d y).run = (t.ctx d y).run := by
    by_cases h : ((d, y) : CoreId × CtxId) = (c, x)
    · obtain ⟨rfl, rfl⟩ := Prod.mk.inj h
      rw [State.holdFrame, State.ctx_modCtx]
    · rw [State.holdFrame]
      exact congrArg Ctx.run (State.ctx_modCtx_of_ne (u := (d, y)) h _)
  have hcore (d : CoreId) : ((t.holdFrame c x f).core d).allot = (t.core d).allot := by
    obtain ⟨g, -, e⟩ := t.holdFrame_eq c x f
    rw [e]
    exact State.allot_of_account (account_setCore t c (k := (t.core c).modCtx x g) rfl) d
  refine ⟨hf.1, hf.2.1, hf.2.2, hpl, fun d => (hcore d).trans (ha d), fun d y => (hctx d y).trans (hr d y), ?_⟩
  rw [← hx, State.holdFrame, State.ctx_modCtx]
  rfl

/-- What a fatal trap with the frame `f` leaves, from the state before the trap. -/
structure FatalTrap (c : CoreId) (x : CtxId) (f : Frame) (s t : State) : Prop where
  place : t.env.core = s.env.core ∧ t.env.ctx = s.env.ctx
  tqtail : t.hub.tqtail = s.hub.tqtail + 1
  record : memWf s.hmem = true → memReadN t.hmem s.tqPlace 2 = 1 + f.cause.toNat * 2 ^ 8
    ∧ memReadN t.hmem (s.tqPlace + 40) 8 = (64 * Config.recBase + s.recNext) % 2 ^ 64
  recNext : s.recNext < t.recNext
  point : (t.ctx c x).point = ((.held, f.cause), (s.ctx c x).hm, (s.ctx c x).g, true, f.addr)
  rest : ∀ d y, s.inGroup (s.core c).alloc.group d = true → (t.ctx d y).AtRest
  groups : ∀ y ∈ t.groups, y.id = (s.core c).alloc.group → y.stop = some .kill ∧ y.code.isSome = true
    ∧ ∀ u : CoreId × CtxId, s.toSave (s.core c).alloc.group u = true → ctxUnit u.1 u.2 ∈ y.records.map Prod.fst

theorem Fatal.of_trapHeld {f : Frame} {u t : State} (hu : TrapHeld c x f s u) (h : Fatal c x u t) : FatalTrap c x f s t := by
  have hal : (u.core c).alloc = (s.core c).alloc := by rw [Core.alloc, Core.alloc, hu.allot]
  have hpl : u.tqPlace = s.tqPlace := by rw [State.tqPlace, State.tqPlace, hu.hub]
  have hin (g : Nat) (d : CoreId) : u.inGroup g d = s.inGroup g d := by rw [State.inGroup, State.inGroup, hu.allot]
  have hsave (g : Nat) (r : CoreId × CtxId) : u.toSave g r = s.toSave g r := by rw [State.toSave, State.toSave, hin, hu.run]
  have hc : (u.ctx c x).frame.cause = f.cause := congrArg (fun p => p.1.2) hu.point
  have h2 := congrArg Prod.snd hu.point
  obtain ⟨tenv, ttail, trec, tnext, tpoint, trest, tgroups⟩ := h
  simp only [hal, hpl, hin, hsave, hc, hu.hmem, hu.recNext, hu.hub] at ttail trec tnext trest tgroups
  exact ⟨tenv ▸ hu.place, ttail, trec, tnext, tpoint.trans (Prod.ext (Prod.ext rfl hc) h2), trest, tgroups⟩

/-- A fault of a slot in a context that has no handler is fatal, and its frame names its bundle. -/
theorem fatalTrap_slotFaultFree (hm : s.cur.hm = false) (hr : s.cur.run ≠ .held) (ht : s.cur.thv = 0) (hq : 0 < s.tqFree) (hi : s.HostIdle)
    (hd : s.hub.deferred = []) (cause : BitVec 8) : ∃ f, f.cause = cause ∧ f.addr = s.env.hdr.setWidth 56
      ∧ FatalTrap s.env.core s.env.ctx f s (s.slotFaultFree cause) := by
  let d := s.freeWord.2
  let f := d.slotFrame d.env.slot cause s.freeWord.1 0
  obtain ⟨h1, h2, -⟩ := Frame.withBlocks_point (Frame.make d.env.hdr d.env.slot cause s.freeWord.1 0) d.env.block
  obtain ⟨e1, e2, e3, e4, e5, e6, e7⟩ := trapHeld_holdFrame d d.env.core d.env.ctx f
  have hu : TrapHeld s.env.core s.env.ctx f s ((d.trapping d.env.core d.env.ctx).holdFrame d.env.core d.env.ctx f) :=
    ⟨e1, e2, e3, e4, e5, e6, e7⟩
  have e : s.slotFaultFree cause = ((d.trapping d.env.core d.env.ctx).holdFrame d.env.core d.env.ctx f).fatal d.env.core d.env.ctx
      f.faddr f.info := State.takeTrap_noHandler (s := d) hm hr ht f _ _
  refine ⟨f, h1, h2, ?_⟩
  rw [e]
  exact Fatal.of_trapHeld hu (fatal_of_idle (by rw [State.tqFree, hu.hub]; exact hq)
    (by rw [State.HostIdle, State.PortIdle, hu.hub]; exact hi) (by rw [hu.hub]; exact hd) _ _)

end

/-- A privileged form outside handler mode (24 R363). -/
theorem State.privileged_of_user {s : State} (h : s.user) (f : State → State) : s.privileged f = s.slotFaultFree 0x04 :=
  if_neg (Bool.eq_false_iff.1 h)
theorem exec_ckill_of_user {s : State} {gd : Guard} (hg : s.guard gd = true) (h : s.user) (a : R64) :
    exec (.ckill gd a) s = .next (s.slotFaultFree 0x04) := by
  show execCkill gd a s = _
  unfold execCkill
  rw [slotDo_of_guard hg]
  exact congrArg Host.Outcome.next (State.privileged_of_user h _)

/-- The bundle clauses: a trap before any slot commits enters the handler. -/
theorem EntersBefore.does {s : State} {c : CoreId} {x : CtxId} {f : Frame} (hi : s.issuer c = some x)
    (h : EntersBefore c x f s (s.issue c x)) : Does (.bundleIssue c) s fun t =>
      (t.ctx c x).hm = true ∧ (t.ctx c x).pc = (s.ctx c x).thv ∧ (t.ctx c x).bubbles = 3 ∧ (t.ctx c x).frame.valid = true
      ∧ (t.ctx c x).frame.cause = f.cause ∧ (t.ctx c x).frame.addr = f.addr ∧ (t.ctx c x).frame.after = f.after
      ∧ (t.ctx c x).frame.sr = f.sr ∧ (t.ctx c x).frame.faddr = f.faddr ∧ (t.ctx c x).g = (s.ctx c x).g ∧ (t.ctx c x).a = (s.ctx c x).a
      ∧ (t.ctx c x).loop = (s.ctx c x).loop ∧ t.gmem = s.gmem ∧ (t.core c).step = (s.core c).step := by
  obtain ⟨hm, hpc, hb, hf, hr, hg, hs⟩ := h
  simp only [Prod.mk.injEq] at hf hr
  obtain ⟨f1, f2, f3, f4, f5, f6⟩ := hf
  exact ⟨_, exec_bundleIssue_of_issuer hi, hm, hpc, hb, f1, f2, f3, f4, f5, f6, hr.1, hr.2.1, hr.2.2, hg, hs⟩

/-- Settles O55: a trap before any slot commits enters the handler of its context; CKILL outside handler mode raises a trap that is
fatal where there is no handler. -/
theorem trapsAtIssue : Obligations.TrapsAtIssue := by
  refine ⟨fun s c x a => ?_, fun s gd a hgd hm hr ht hq hi hd => ?_⟩
  · intro k u his hm ht hk traps
    obtain ⟨-, hrun, -⟩ := State.issuer_eq_some his
    have h : s.Handles c x := ⟨hm, by rw [hrun]; decide, ht, hk⟩
    refine ⟨fun htr hmk => ?_, fun htr hp hq hf ha => ?_⟩
    · exact (entersBefore_transfer h htr hmk).does his
    · have hpc : if (s.ctx c x).transferred then (s.core c).markOk (s.ctx c x).pc = true
          else (s.ctx c x).pc.toNat ≠ 0x20000 ∧ (s.ctx c x).pc.toNat ≠ 0x40000 := by
        rw [show (s.ctx c x).transferred = false from htr, if_neg Bool.false_ne_true]
        exact ⟨hp, hq⟩
      refine ⟨fun o e hd => (entersBefore_illegal h hpc hf ha hd).does his, fun b hd hre hw => ?_⟩
      obtain ⟨t, e, h1, h2, h3, h4, h5, h6, h7, h8, -, h9⟩ := (entersBefore_conflict h hpc hf ha hd hre hw).does his
      exact ⟨t, e, h1, h2, h3, h4, h5, h6, h7, h8, trivial, h9⟩
  · obtain ⟨f, hc, hf, h⟩ := fatalTrap_slotFaultFree hm hr ht hq hi hd 0x04
    refine ⟨_, exec_ckill_of_user hgd hm a, ?_⟩
    generalize s.slotFaultFree 0x04 = t at h
    obtain ⟨hpl, htail, hrec, hnext, hpoint, hrest, hgroups⟩ := h
    have hcur : t.cur = t.ctx s.env.core s.env.ctx := by rw [State.cur, hpl.1, hpl.2]
    simp only [Ctx.point, Ctx.watch, Prod.mk.injEq, hc, hf] at hpoint
    obtain ⟨⟨hrun, hcause⟩, hhm, hg, hvalid, haddr⟩ := hpoint
    rw [hcur]
    refine ⟨hrun, hhm.trans hm, hvalid, hcause, haddr, hg, htail, fun hw => ?_, hnext, fun c y hin => ?_, fun y hy hid => ?_⟩
    · obtain ⟨h2, h8⟩ := hrec hw
      exact ⟨by rw [State.tqPlace, hc] at h2; exact h2, h8⟩
    · exact hrest c y (beq_iff_eq.2 hin)
    · obtain ⟨h1, h2, h3⟩ := hgroups y hy hid
      exact ⟨h1, h2, fun c x hin hu hh => h3 (c, x) (State.toSave_iff.2 ⟨beq_iff_eq.2 hin, hu, hh⟩)⟩

end Sys2Proof.Machine
end

section
/-!
Branches: a transfer is taken when no lower slot of the bundle holds one.
-/
namespace Sys2Proof.Machine

/-- With no lower transfer, the transfer is the bundle's (05 R72). -/
theorem State.take_of_none {s : State} (h : s.env.transfer = none) (t : Transfer) :
    s.take t = s.modEnv fun e => { e with transfer := some t } := by
  rw [State.take, h]
  rfl

/-- After a lower transfer, a transfer does nothing (05 R72). -/
theorem State.take_of_ne_none {s : State} (h : s.env.transfer ≠ none) (t : Transfer) : s.take t = s :=
  if_pos (Option.isSome_iff_ne_none.2 h)

/-- A write of a branch-target register is one result, dated by the current step (09 R121). -/
theorem Sends.pushB {b t : State} (h : Sends b t []) (r : R8) (v : Word) :
    Sends b (t.pushB r v) [(1, .b r v (t.core t.env.core).step, 0)] := h.push ..

/-! ### The forms by name -/

theorem exec_nop (gd : Guard) (s : State) : exec (.nop gd) s = execNop gd s := rfl
theorem exec_prep (gd : Guard) (b : R8) (t : Target) (s : State) : exec (.prep gd b t) s = execPrep gd b t s := rfl
theorem exec_bra (gd : Guard) (b : R8) (s : State) : exec (.bra gd b) s = execBra gd b s := rfl
theorem exec_call (gd : Guard) (b : R8) (s : State) : exec (.call gd b) s = execCall gd b s := rfl
theorem exec_ret (gd : Guard) (s : State) : exec (.ret gd) s = execRet gd s := rfl

/-! ### What each form sends -/

section
variable {s : State} {gd : Guard} (hg : s.guard gd = true)
include hg

/-- PREP writes its target, relative or indirect, to its b-register (09 R121). -/
theorem prep_sends (b : R8) (t : Target) :
    Does (.prep gd b t) s fun u => Sends s u [(1, .b b (s.prepTarget t) s.now, 0)] :=
  does_slotDo (exec_prep ..) hg ((Sends.refl s).pushB b _)

/-- BRA is the transfer through its b-register, and sends no result (09 R122). -/
theorem bra_sends (b : R8) : Does (.bra gd b) s fun t => Sends (s.take ⟨s.rdB b, s.bubblesOf b, true⟩) t [] :=
  does_slotDo (exec_bra ..) hg (Sends.refl _)

/-- RET is the transfer through b7, and sends no result (09 R122). -/
theorem ret_sends : Does (.ret gd) s fun t => Sends (s.take ⟨s.rdB 7, s.bubblesOf 7, true⟩) t [] :=
  does_slotDo (exec_ret ..) hg (Sends.refl _)

/-- CALL with no lower transfer is the transfer through its b-register, and sends the first unit after its bundle to b7
(09 R122). -/
theorem call_sends_of_none (h : s.env.transfer = none) (b : R8) :
    Does (.call gd b) s fun t => Sends (s.take ⟨s.rdB b, s.bubblesOf b, true⟩) t [(1, .b 7 s.env.next s.now, 0)] := by
  refine does_slotDo (exec_call ..) hg ?_
  rw [if_neg (by simp [h]), State.take_of_none h]
  exact (Sends.refl _).pushB 7 _

/-- CALL after a lower transfer writes no b7 either (05 R72). -/
theorem call_sends_of_ne_none (h : s.env.transfer ≠ none) (b : R8) : Does (.call gd b) s fun t => Sends s t [] := by
  refine does_slotDo (exec_call ..) hg ?_
  rw [if_pos (Option.isSome_iff_ne_none.2 h)]
  exact Sends.refl s

end

/-- Settles O5: a branch is the transfer through its b-register, which is the bundle's or does nothing. -/
theorem branchResults : Obligations.BranchResults := by
  intro s gd b a o hg
  refine ⟨does_slotDo (exec_nop ..) hg (Sends.refl s), prep_sends hg b (.rel o), prep_sends hg b (.ind a), fun h => ?_, fun h => ?_⟩
  · have hbra := bra_sends hg b
    have hret := ret_sends hg
    have hcall := call_sends_of_none hg h b
    rw [State.take_of_none h] at hbra hret hcall
    exact ⟨hbra, hret, hcall⟩
  · have hbra := bra_sends hg b
    have hret := ret_sends hg
    rw [State.take_of_ne_none h] at hbra hret
    exact ⟨hbra, hret, call_sends_of_ne_none hg h b⟩

end Sys2Proof.Machine
end

section
/-!
The values of the scalar forms (09 Tables 9.4 and 9.5, R101 to R105), as numbers and bit by bit.
-/
namespace Sys2Proof.Machine

/-! ### Shifts and rotations -/

theorem shl_eq_ofNat (x : Word) (n : Nat) : x <<< n = BitVec.ofNat 64 (x.toNat * 2 ^ n) :=
  BitVec.eq_of_toNat_eq (by rw [BitVec.toNat_shiftLeft, BitVec.toNat_ofNat, Nat.shiftLeft_eq])

theorem shr_eq_ofNat (x : Word) (n : Nat) : x >>> n = BitVec.ofNat 64 (x.toNat / 2 ^ n) := by
  rw [← Nat.shiftRight_eq_div_pow, ← BitVec.toNat_ushiftRight, BitVec.ofNat_toNat, BitVec.setWidth_eq]

theorem sra_eq_ofInt (x : Word) (n : Nat) : x.sshiftRight n = BitVec.ofInt 64 (x.toInt / 2 ^ n) := by
  rw [← BitVec.ofInt_toInt (x := x.sshiftRight n), BitVec.toInt_sshiftRight, Int.shiftRight_eq_div_pow]
  norm_cast

/-- The two halves of a rotation have no bit in common. -/
theorem rot_eq_ofNat (x : Word) {n : Nat} (hn : n < 64) :
    x.rotateRight n = BitVec.ofNat 64 (x.toNat / 2 ^ n + x.toNat * 2 ^ (64 - n)) := by
  have hd : x >>> n &&& x <<< (64 - n) = 0#64 := by
    refine BitVec.eq_of_getLsbD_eq fun i hi => ?_
    rw [BitVec.getLsbD_and, BitVec.getLsbD_ushiftRight, BitVec.getLsbD_shiftLeft, BitVec.getLsbD_zero]
    by_cases h : i < 64 - n
    · simp [h]
    · rw [BitVec.getLsbD_of_ge x (n + i) (by omega), Bool.false_and]
  rw [BitVec.rotateRight_def, Nat.mod_eq_of_lt hn, ← BitVec.add_eq_or_of_and_eq_zero _ _ hd, BitVec.ofNat_add, shr_eq_ofNat,
    shl_eq_ofNat]

/-! ### Counts -/

/-- The leading zeros of a word: the place of its highest 1 bit, and none above it. -/
theorem leadingZeros_spec (x : Word) : (leadingZeros x).toNat ≤ 64
    ∧ ((leadingZeros x).toNat < 64 → x.getLsbD (63 - (leadingZeros x).toNat) = true)
    ∧ ∀ k, 64 - (leadingZeros x).toNat ≤ k → x.getLsbD k = false := by
  by_cases hx : x = 0
  · subst hx
    exact ⟨by decide, fun h => absurd h (by decide), fun k _ => BitVec.getLsbD_zero⟩
  · have h0 : x.toNat ≠ 0 := fun h => hx (BitVec.eq_of_toNat_eq h)
    have hl : Nat.log2 x.toNat < 64 := (Nat.log2_lt h0).2 x.isLt
    have hv : (leadingZeros x).toNat = 63 - Nat.log2 x.toNat := by
      rw [leadingZeros, if_neg hx, BitVec.toNat_ofNat]
      omega
    rw [hv]
    refine ⟨by omega, fun _ => ?_, fun k hk => ?_⟩
    · rw [show 63 - (63 - Nat.log2 x.toNat) = Nat.log2 x.toNat by omega]
      exact Nat.testBit_log2 h0
    · exact Nat.testBit_lt_two_pow (Nat.lt_of_lt_of_le Nat.lt_log2_self (Nat.pow_le_pow_right (by decide) (by omega)))

theorem toNat_popCount (x : Word) : (popCount x).toNat = ((List.range 64).filter fun k => x.getLsbD k).length := by
  have h := List.length_filter_le (fun k => x.getLsbD k) (List.range 64)
  rw [List.length_range] at h
  rw [popCount, BitVec.toNat_ofNat, Nat.mod_eq_of_lt (by omega)]

/-! ### Fields -/

/-- The low `n` bits with zeros above them. -/
theorem toNat_extendLow_u {n : Nat} (hn : n ≤ 64) (a : Nat) : (extendLow .u n a).toNat = a % 2 ^ n := by
  have h : a % 2 ^ n < 2 ^ 64 := Nat.lt_of_lt_of_le (Nat.mod_lt _ (Nat.two_pow_pos n)) (Nat.pow_le_pow_right (by decide) hn)
  have e : extendLow .u n a = BitVec.ofInt 64 ((a % 2 ^ n : Nat) : Int) := rfl
  rw [e, BitVec.ofInt_natCast, BitVec.toNat_ofNat, Nat.mod_eq_of_lt h]

/-- The low `n` bits as a signed number are the pattern's own signed value. -/
theorem extendLow_s {n : Nat} (hn : 0 < n) (a : Nat) : extendLow .s n a = (BitVec.ofNat n a).signExtend 64 := by
  have hp : 2 ^ n = 2 * 2 ^ (n - 1) := by rw [← Nat.pow_succ', Nat.succ_eq_add_one, Nat.sub_add_cancel hn]
  have e : patInt n true (a % 2 ^ n) = (BitVec.ofNat n a).toInt := by
    rw [patInt, BitVec.toInt_eq_toNat_cond, BitVec.toNat_ofNat]
    by_cases h : 2 ^ (n - 1) ≤ a % 2 ^ n
    · rw [if_pos ⟨rfl, h⟩, if_neg (by omega)]
      norm_cast
    · rw [if_neg fun hc => h hc.2, if_pos (by omega)]
  exact congrArg (BitVec.ofInt 64) e

/-- The low `n` bits with the highest of them repeated above. -/
theorem getLsbD_extendLow_s {n : Nat} (hn : 0 < n) (a : Nat) {k : Nat} (hk : k < 64) :
    (extendLow .s n a).getLsbD k = a.testBit (min k (n - 1)) := by
  rw [extendLow_s hn, BitVec.getLsbD_signExtend, decide_eq_true hk, Bool.true_and]
  split
  · rw [BitVec.getLsbD_ofNat, decide_eq_true ‹_›, Bool.true_and, Nat.min_eq_left (by omega)]
  · rw [BitVec.msb_eq_getLsbD_last, BitVec.getLsbD_ofNat, decide_eq_true (by omega), Bool.true_and, Nat.min_eq_right (by omega)]

theorem fieldWidth_le (b : Word) : fieldPos b + fieldWidth b ≤ 64 := by
  have h : fieldPos b < 64 := Nat.mod_lt _ (by decide)
  have := Nat.min_le_right (b.toNat / 2 ^ 8 % 128) (64 - fieldPos b)
  rw [fieldWidth]
  omega

/-- BFX of an unsigned field (R104). -/
theorem toNat_bfxVal_u (a b : Word) : (bfxVal .u a b).toNat = a.toNat / 2 ^ fieldPos b % 2 ^ fieldWidth b := by
  rw [bfxVal]
  split
  · next h => rw [h, Nat.pow_zero, Nat.mod_one]; rfl
  · exact toNat_extendLow_u (by have := fieldWidth_le b; omega) _

/-- BFX of a signed field (R104). -/
theorem getLsbD_bfxVal_s (a b : Word) : if fieldWidth b = 0 then bfxVal .s a b = 0
    else ∀ k < 64, (bfxVal .s a b).getLsbD k = a.getLsbD (fieldPos b + min k (fieldWidth b - 1)) := by
  rw [bfxVal]
  split
  · rfl
  · intro k hk
    rw [getLsbD_extendLow_s (by omega) _ hk, Nat.testBit_div_two_pow, Nat.add_comm]
    rfl

/-- BFI keeps the bits outside the field and takes those in it from its source (R104): the two parts have no bit in common. -/
theorem getLsbD_bfiVal (old a b : Word) {k : Nat} (hk : k < 64) : (bfiVal old a b).getLsbD k =
    if fieldPos b ≤ k ∧ k < fieldPos b + fieldWidth b then a.getLsbD (k - fieldPos b) else old.getLsbD k := by
  have hw := fieldWidth_le b
  let m : Nat := (2 ^ fieldWidth b - 1) * 2 ^ fieldPos b
  have hm : m < 2 ^ 64 := by
    calc m < 2 ^ fieldWidth b * 2 ^ fieldPos b :=
          Nat.mul_lt_mul_of_pos_right (Nat.sub_lt (Nat.two_pow_pos _) Nat.one_pos) (Nat.two_pow_pos _)
      _ = 2 ^ (fieldPos b + fieldWidth b) := by rw [← Nat.pow_add, Nat.add_comm]
      _ ≤ 2 ^ 64 := Nat.pow_le_pow_right (by decide) hw
  have hbit (i : Nat) : m.testBit i = decide (fieldPos b ≤ i ∧ i < fieldPos b + fieldWidth b) := by
    rw [Nat.testBit_mul_two_pow, Nat.testBit_two_pow_sub_one, ← Bool.decide_and]
    exact decide_eq_decide.2 (by omega)
  have hnot (i : Nat) : (2 ^ 64 - 1 - m).testBit i = (decide (i < 64) && !m.testBit i) := by
    rw [Nat.sub_sub, Nat.add_comm]
    exact Nat.testBit_two_pow_sub_succ hm i
  have hd : BitVec.ofNat 64 (old.toNat &&& (2 ^ 64 - 1 - m)) &&& BitVec.ofNat 64 (a.toNat * 2 ^ fieldPos b &&& m) = 0#64 := by
    refine BitVec.eq_of_getLsbD_eq fun i hi => ?_
    simp only [BitVec.getLsbD_and, BitVec.getLsbD_ofNat, Nat.testBit_and, hnot]
    cases m.testBit i <;> simp
  have hv : bfiVal old a b = BitVec.ofNat 64 (old.toNat &&& (2 ^ 64 - 1 - m)) ||| BitVec.ofNat 64 (a.toNat * 2 ^ fieldPos b &&& m) := by
    rw [← BitVec.add_eq_or_of_and_eq_zero _ _ hd, ← BitVec.ofNat_add]
    rfl
  rw [hv]
  simp only [BitVec.getLsbD_or, BitVec.getLsbD_ofNat, Nat.testBit_and, hnot, hbit, Nat.testBit_mul_two_pow, decide_eq_true hk, Bool.true_and]
  split
  · next h => simp [h, BitVec.testBit_toNat]
  · next h => simp [h, BitVec.testBit_toNat]

/-! ### Comparisons -/

theorem minBy_s (x y : Word) : minBy .s x y = if x.toInt ≤ y.toInt then x else y := by
  simp only [minBy, ← Int.not_lt, ite_not]
theorem minBy_u (x y : Word) : minBy .u x y = if x.toNat ≤ y.toNat then x else y := by
  simp only [minBy, ← Nat.not_lt, ite_not]
theorem maxBy_s (x y : Word) : maxBy .s x y = if y.toInt ≤ x.toInt then x else y := by
  simp only [maxBy, ← Int.not_lt, ite_not]
theorem maxBy_u (x y : Word) : maxBy .u x y = if y.toNat ≤ x.toNat then x else y := by
  simp only [maxBy, ← Nat.not_lt, ite_not]

end Sys2Proof.Machine
end

section
/-!
The scalar forms of S1 and S2 (09 R99 to R110).
-/
namespace Sys2Proof.Machine

/-! ### The shapes of the forms -/

section
variable {s : State} {gd : Guard} {i : Instr} (hg : s.guard gd = true)
include hg

/-- A form of two g-registers sends its value with the taint of both. -/
theorem alu2_sends {d a b : R64} (f : Word → Word → Word) {v : Word} (h : exec i s = alu2 gd d a b f s)
    (hv : f (s.g a) (s.g b) = v) : Does i s fun t => Sends s t (gRes 1 d v (s.gTaint a || s.gTaint b)) :=
  does_slotDo h hg (hv ▸ sends_pushG s 1 d _ _)

/-- A form of a g-register and an immediate sends its value with the taint of the register. -/
theorem aluI_sends {d a : R64} {k : Imm} (f : Word → Word → Word) {v : Word} (h : exec i s = aluI gd d a k f s)
    (hv : f (s.g a) (s.imm64 k) = v) : Does i s fun t => Sends s t (gRes 1 d v (s.gTaint a)) :=
  does_slotDo h hg (hv ▸ sends_pushG s 1 d _ _)

/-- A form of one g-register sends its value with the taint of that. -/
theorem alu1_sends {d a : R64} (f : Word → Word) (h : exec i s = alu1 gd d a f s) :
    Does i s fun t => Sends s t (gRes 1 d (f (s.g a)) (s.gTaint a)) :=
  does_slotDo h hg (sends_pushG s 1 d _ _)

/-- A form that sends one g-register result. -/
theorem pushG_sends {d : R64} {f : State → Word × Bool} (h : exec i s = slotDo gd (some .scalar) (fun s => s.pushG 1 d (f s).1 (f s).2) s) :
    Does i s fun t => Sends s t (gRes 1 d (f s).1 (f s).2) :=
  does_slotDo h hg (sends_pushG s 1 d _ _)

/-- A form that sends one predicate result. -/
theorem pushP_sends {d : R16} {f : State → Bool} (h : exec i s = slotDo gd (some .scalar) (fun s => s.pushP d (f s)) s) :
    Does i s fun t => Sends s t (pRes d (f s)) :=
  does_slotDo h hg ((Sends.refl s).pushP d _)

/-- A form that sends one write of latency 1. -/
theorem push_sends {f : State → Wr} (h : exec i s = slotDo gd (some .scalar) (fun s => s.push 1 (f s) 0) s) :
    Does i s fun t => Sends s t [(1, f s, 0)] :=
  does_slotDo h hg (sends_push s 1 _ 0)

end

theorem shamt_lt (y : Word) : shamt y < 64 := Nat.mod_lt _ (by decide)

/-- The count of an immediate shift is that of V itself: the sign extension keeps the low bits. -/
theorem shamt_imm64 (s : State) (v : Imm) : shamt (s.imm64 v) = (s.immV v).toNat % 64 := by
  have h : (s.imm64 v).toNat % 2 ^ 6 = (s.immV v).toNat % 2 ^ 6 := by
    rw [← BitVec.toNat_setWidth, ← BitVec.toNat_setWidth]
    refine congrArg BitVec.toNat (BitVec.eq_of_getLsbD_eq fun i hi => ?_)
    rw [BitVec.getLsbD_setWidth, BitVec.getLsbD_setWidth, State.imm64, BitVec.getLsbD_signExtend, if_pos (by omega),
      decide_eq_true (by omega : i < 64), Bool.true_and]
  exact h

theorem laneWidth_pos (z : LaneW) : 0 < z.width := by cases z <;> decide
theorem laneWidth_le (z : LaneW) : z.width ≤ 64 := by cases z <;> decide

/-- Settles O2: each form is one of the shapes above, and its value is the one of the tables. -/
theorem scalarResults : Obligations.ScalarResults := by
  refine ⟨fun s gd d a b c hg => ?_, fun s gd d a v hg => ?_, fun s gd d a b hg => ?_⟩
  · exact ⟨alu2_sends hg (· + ·) rfl rfl, alu2_sends hg (· - ·) rfl rfl, alu2_sends hg (· * ·) rfl rfl,
      alu2_sends hg (mulHigh .s) rfl rfl, alu2_sends hg (mulHigh .u) rfl rfl, alu2_sends hg divSigned rfl rfl,
      alu2_sends hg divUnsigned rfl rfl, alu2_sends hg (remainder .s) rfl rfl, alu2_sends hg (remainder .u) rfl rfl,
      alu2_sends hg (· &&& ·) rfl rfl, alu2_sends hg (· ||| ·) rfl rfl, alu2_sends hg (· ^^^ ·) rfl rfl,
      alu2_sends hg (fun x y => x &&& ~~~y) rfl rfl,
      alu2_sends hg (fun x y => x <<< shamt y) rfl (shl_eq_ofNat _ _), alu2_sends hg (fun x y => x >>> shamt y) rfl (shr_eq_ofNat _ _),
      alu2_sends hg (fun x y => x.sshiftRight (shamt y)) rfl (sra_eq_ofInt _ _),
      alu2_sends hg (fun x y => x.rotateRight (shamt y)) rfl (rot_eq_ofNat _ (shamt_lt _)),
      alu2_sends hg (minBy .s) rfl (minBy_s _ _), alu2_sends hg (minBy .u) rfl (minBy_u _ _),
      alu2_sends hg (maxBy .s) rfl (maxBy_s _ _), alu2_sends hg (maxBy .u) rfl (maxBy_u _ _),
      alu2_sends hg (fun x y => if s.rdP c then x else y) rfl rfl⟩
  · have hn := shamt_imm64 s v
    exact ⟨aluI_sends hg (· + ·) rfl rfl, aluI_sends hg (· * ·) rfl rfl, aluI_sends hg (· &&& ·) rfl rfl,
      aluI_sends hg (· ||| ·) rfl rfl, aluI_sends hg (· ^^^ ·) rfl rfl,
      aluI_sends hg (fun x y => x <<< shamt y) rfl (hn ▸ shl_eq_ofNat _ _),
      aluI_sends hg (fun x y => x >>> shamt y) rfl (hn ▸ shr_eq_ofNat _ _),
      aluI_sends hg (fun x y => x.sshiftRight (shamt y)) rfl (hn ▸ sra_eq_ofInt _ _),
      pushG_sends (f := fun s => (s.imm64 v, false)) hg rfl⟩
  · exact ⟨⟨_, rfl, alu1_sends hg id rfl⟩, ⟨_, leadingZeros_spec _, alu1_sends hg leadingZeros rfl⟩,
      ⟨_, toNat_popCount _, alu1_sends hg popCount rfl⟩,
      fun sz _ => ⟨⟨_, toNat_extendLow_u (laneWidth_le sz) _, alu1_sends hg (fun x => extendLow .u sz.width x.toNat) rfl⟩,
        ⟨_, fun k hk => getLsbD_extendLow_s (laneWidth_pos sz) _ hk, alu1_sends hg (fun x => extendLow .s sz.width x.toNat) rfl⟩⟩,
      ⟨_, toNat_bfxVal_u _ _, alu2_sends hg (bfxVal .u) rfl rfl⟩, ⟨_, getLsbD_bfxVal_s _ _, alu2_sends hg (bfxVal .s) rfl rfl⟩,
      ⟨_, fun k hk => getLsbD_bfiVal _ _ _ hk,
        pushG_sends (f := fun s => (bfiVal (s.g d) (s.g a) (s.g b), s.gTaint d || s.gTaint a || s.gTaint b)) hg rfl⟩⟩

end Sys2Proof.Machine
end

section
/-!
CMP, the predicate forms, MOVC and RDTIME (09 R106 to R109), and the address forms of S3 (09 R111, R117).
-/
namespace Sys2Proof.Machine

section
variable {s : State} {gd : Guard} (hg : s.guard gd = true)
include hg

/-- CMP sends its condition to pD. -/
theorem cmp_sends (cc : Cc) (d : R16) (x y : R64) :
    Does (.cmp gd false cc d x y) s fun t => Sends s t (pRes d (ccHolds cc (s.g x) (s.g y))) :=
  pushP_sends (f := fun s => ccHolds cc (s.g x) (s.g y)) hg rfl

/-- CMP with `.pair` sends the negation to p(D+1) after it. -/
theorem cmpPair_sends (cc : Cc) (d : R16) (x y : R64) (h : d.val + 1 < 16) : Does (.cmp gd true cc d x y) s fun t =>
    Sends s t (pRes d (ccHolds cc (s.g x) (s.g y)) ++ pRes ⟨d.val + 1, h⟩ (!ccHolds cc (s.g x) (s.g y))) := by
  have hd : Fin.ofNat 16 (d.val + 1) = (⟨d.val + 1, h⟩ : R16) := Fin.ext (Nat.mod_eq_of_lt h)
  refine does_slotDo (show _ = execCmp gd true cc d x y s from rfl) hg ?_
  rw [← hd]
  exact ((Sends.refl s).pushP d _).pushP _ _

end

/-- Settles O3: CMP and the predicate forms send one result, MOVC and RDTIME theirs. -/
theorem predicateAndControlMoves : Obligations.PredicateAndControlMoves := by
  refine ⟨fun s gd d a b x y hg => ⟨pushP_sends (f := fun s => s.rdP a && s.rdP b) hg rfl,
    pushP_sends (f := fun s => s.rdP a || s.rdP b) hg rfl, pushP_sends (f := fun s => s.rdP a ^^ s.rdP b) hg rfl,
    pushP_sends (f := fun s => !s.rdP a) hg rfl, fun cc r hr => ?_⟩, fun s gd d a cr hg => ?_⟩
  · have hcc : ccHolds cc (s.g x) (s.g y) = r := by
      rw [Bool.eq_iff_iff, hr]
      cases cc <;> simp [ccHolds]
    exact hcc ▸ ⟨cmp_sends hg cc d x y, cmpPair_sends hg cc d x y⟩
  · exact ⟨pushG_sends (f := fun s => (s.rdCr cr, false)) hg rfl, push_sends (f := fun s => .cr cr (s.g a)) hg rfl,
      pushG_sends (f := fun s => (s.issueCyc, false)) hg rfl⟩

/-! ### Results are determined -/

/-- A step has one next state. -/
theorem Does.both {i : Instr} {s : State} {P Q : State → Prop} (hp : Does i s P) (hq : Does i s Q) : ∃ t, P t ∧ Q t := by
  obtain ⟨t, et, ht⟩ := hp
  obtain ⟨u, eu, hu⟩ := hq
  obtain rfl : t = u := Host.Outcome.next.inj (et.symm.trans eu)
  exact ⟨t, ht, hu⟩

/-- A state determines the results that were sent on the way to it. -/
theorem Sends.unique {b t : State} {fs gs : List Res} (hf : Sends b t fs) (hg : Sends b t gs) : fs = gs := by
  refine (List.map_inj_right fun f g h => ?_).1 (List.append_cancel_left (hf.2.symm.trans hg.2))
  obtain ⟨-, hs, hw, hl⟩ := Flight.mk.inj h
  exact Prod.ext (Nat.add_left_cancel hs) (Prod.ext hw hl)

/-! ### AUPD -/

theorem State.outsideHandler_of_user {s : State} (h : s.user) (f : State → State) : s.outsideHandler f = f s :=
  if_neg (ne_true_of_eq_false h)

/-- A form that handler mode forbids, outside it. -/
theorem does_outsideHandler {i : Instr} {gd : Guard} {cls : Option EClass} {f : State → State} {s b : State} {fs : List Res}
    (h : exec i s = slotDo gd cls (fun s => s.outsideHandler f) s) (hg : s.guard gd = true) (hu : s.user) (hf : Sends b (f s) fs) :
    Does i s fun t => Sends b t fs :=
  does_slotDo h hg ((State.outsideHandler_of_user hu f).symm ▸ hf)

/-- AUPD adds the stride of its level, none where it has none (R117). -/
theorem aupd_sends {s : State} {gd : Guard} (hg : s.guard gd = true) (hu : s.user) (d : R16) :
    Does (.aupd gd d) s fun t => Sends s t [(1, .a d ((s.rdA d).1 + s.aupdStride d) (s.rdA d).2, 0)] :=
  does_outsideHandler (show _ = execAupd gd d s from rfl) hg hu (sends_push s 1 _ 0)

/-- A context at reset whose a0 has strides of 1, and whose slot 0 is issued again from a snapshot that holds g0 alone. -/
def replayedAupd : State := State.reset.modCur fun t => { t with
  a := t.a.set 0 ⟨0, false, Vector.replicate 6 1⟩
  replay := some [⟨1, 0, false, 0, 8, 0⟩] }

/-- Refutes O4: outside a nest AUPD adds k0, but one that is issued again from a snapshot adds the stride that this holds (log 41), and
nothing where it holds none. -/
theorem not_addressResults : ¬ Obligations.AddressResults := by
  intro h
  have hg : replayedAupd.guard ⟨false, 0⟩ = true := by decide +kernel
  have hu : replayedAupd.user := by unfold State.user; decide +kernel
  obtain ⟨-, -, -, -, -, -, -, haupd⟩ := h replayedAupd ⟨false, 0⟩ 0 0 0 0 (.high 0) hg
  have claim := haupd hu 1 (fun _ => by decide +kernel) (fun hr => absurd hr (by decide +kernel)) (fun hr => absurd hr (by decide +kernel))
  obtain ⟨t, h1, h2⟩ := (aupd_sends hg hu 0).both claim
  have e := Sends.unique h1 h2
  exact absurd e (by decide +kernel)

end Sys2Proof.Machine
end

section
/-!
The loop sequencer (09 R113 to R120): the end of a trip, the stage predicates, and the forms that set up, read and end a nest.
-/
namespace Sys2Proof.Machine

/-! ### Numbers made of bits -/

/-- The number whose bit `k` is `p k`, for the bits below `n`. -/
def bitSum (p : Nat → Bool) (n : Nat) : Nat := (List.range n).foldl (fun acc k => acc + bit1 (p k) * 2 ^ k) 0

theorem bitSum_succ (p : Nat → Bool) (n : Nat) : bitSum p (n + 1) = 2 ^ n * bit1 (p n) + bitSum p n := by
  rw [bitSum, List.range_succ, List.foldl_append, List.foldl_cons, List.foldl_nil, Nat.add_comm, Nat.mul_comm]
  rfl

theorem bitSum_lt (p : Nat → Bool) (n : Nat) : bitSum p n < 2 ^ n := by
  induction n with
  | zero => exact Nat.one_pos
  | succ n ih =>
    have hb : 2 ^ n * bit1 (p n) ≤ 2 ^ n * 1 := Nat.mul_le_mul_left _ (by cases p n <;> decide)
    rw [bitSum_succ, Nat.pow_succ]
    omega

theorem testBit_bitSum (p : Nat → Bool) {n k : Nat} (hk : k < n) : (bitSum p n).testBit k = p k := by
  induction n with
  | zero => exact absurd hk (Nat.not_lt_zero k)
  | succ n ih =>
    rw [bitSum_succ, Nat.testBit_two_pow_mul_add _ (bitSum_lt p n)]
    split
    · next h => exact ih h
    · next h =>
      obtain rfl : k = n := by omega
      rw [Nat.sub_self]
      cases p k <;> rfl

/-- The stage predicates of a trip (R116). -/
theorem Loop.stagePreds_iff (q : Loop) (k : R8) : q.stagePreds.getLsbD k.val = true ↔
    k.val < q.s ∧ k.val ≤ (q.idx[(0 : Lvl)]).toNat ∧ (q.idx[(0 : Lvl)]).toNat < (q.n[(0 : Lvl)]).toNat + k.val := by
  have h : q.stagePreds = BitVec.ofNat 8 (bitSum (fun k => decide (k < q.s) && decide (k ≤ (q.idx[(0 : Lvl)]).toNat)
      && decide ((q.idx[(0 : Lvl)]).toNat + 1 ≤ (q.n[(0 : Lvl)]).toNat + k)) 8) := rfl
  rw [h, BitVec.getLsbD_ofNat, testBit_bitSum _ k.isLt, decide_eq_true k.isLt]
  simp only [Bool.true_and, Bool.and_eq_true, decide_eq_true_eq, and_assoc, Nat.succ_le_iff]

/-! ### The end of a trip (R115) -/

/-- Has a level of the nest a trip left? -/
def Loop.tripLeft (q : Loop) (j : Lvl) : Bool := decide (j.val < q.k) && decide ((q.idx[j]).toNat + 1 < q.trips j)

theorem Loop.tripLeft_iff (q : Loop) (j : Lvl) : q.tripLeft j = true ↔ j.val < q.k ∧ (q.idx[j]).toNat + 1 < q.trips j := by
  simp [Loop.tripLeft]

theorem Loop.tripLeft_eq_false_iff (q : Loop) (j : Lvl) : q.tripLeft j = false ↔ (j.val < q.k → q.trips j ≤ (q.idx[j]).toNat + 1) := by
  simp [Loop.tripLeft]

theorem Loop.advancing_eq_find (q : Loop) : q.advancing = (List.finRange 6).find? q.tripLeft := rfl

/-- No level advances just when none has a trip left. -/
theorem Loop.advancing_eq_none_iff (q : Loop) : q.advancing = none ↔ ∀ j : Lvl, j.val < q.k → q.trips j ≤ (q.idx[j]).toNat + 1 := by
  simp [Loop.advancing_eq_find, Loop.tripLeft_eq_false_iff]

/-- The level that advances has a trip left, and none below it has. -/
theorem Loop.of_advancing_eq_some {q : Loop} {l : Lvl} (h : q.advancing = some l) :
    q.tripLeft l = true ∧ ∀ j : Lvl, j.val < l.val → q.tripLeft j = false := by
  obtain ⟨hl, i, hi, e, hlow⟩ := List.find?_eq_some_iff_getElem.1 (q.advancing_eq_find ▸ h)
  obtain rfl : l = ⟨i, by simpa using hi⟩ := by rw [← e]; simp
  exact ⟨hl, fun j hj => by simpa using hlow j.val hj⟩

theorem Loop.endTrip_of_none {q : Loop} (h : q.advancing = none) : q.endTrip = ({ q with run := false }, false) := by
  simp only [Loop.endTrip, h]

theorem Loop.endTrip_of_some {q : Loop} {l : Lvl} (h : q.advancing = some l) : q.endTrip = ({ q with
    idx := (Vector.ofFn fun i : Lvl => if i.val < l.val then 0 else q.idx[i]).set l (q.idx[l] + 1) }, true) := by
  simp only [Loop.endTrip, h]

/-- The indices after the end of a trip: the advancing level's is the next, those below are 0, those above the same. -/
theorem Loop.idx_endTrip {q : Loop} {l : Lvl} (h : q.advancing = some l) : q.endTrip.1.idx[l] = q.idx[l] + 1
    ∧ (∀ j : Lvl, j.val < l.val → q.endTrip.1.idx[j] = 0) ∧ ∀ j : Lvl, l.val < j.val → q.endTrip.1.idx[j] = q.idx[j] := by
  simp only [Loop.endTrip_of_some h, Fin.getElem_fin, Vector.getElem_set, Vector.getElem_ofFn]
  refine ⟨if_pos trivial, fun j hj => ?_, fun j hj => ?_⟩
  · rw [if_neg (by omega), if_pos hj]
  · rw [if_neg (by omega), if_neg (by omega)]

/-- Settles O7: the advancing level, the indices after the end of a trip, and the stage predicates. -/
theorem tripEndAdvances : Obligations.TripEndAdvances := by
  intro q hrun
  refine ⟨q.advancing_eq_none_iff, fun l h => ?_, fun h => ?_, q.stagePreds_iff⟩
  · obtain ⟨hl, hlow⟩ := Loop.of_advancing_eq_some h
    obtain ⟨hk, ht⟩ := (q.tripLeft_iff l).1 hl
    exact ⟨hk, ht, fun j hj => (q.tripLeft_eq_false_iff j).1 (hlow j hj) (Nat.lt_trans hj hk),
      by rw [Loop.endTrip_of_some h], by rw [Loop.endTrip_of_some h]; exact hrun, Loop.idx_endTrip h⟩
  · rw [Loop.endTrip_of_none h]
    exact ⟨rfl, rfl⟩

/-! ### LRUN (R114) -/

/-- The counts and the stages of a nest of levels up to `k`, latched, with indices of 0. -/
def Loop.latch (q : Loop) (k : Lvl) : Loop := { q with
  n := Vector.ofFn fun j : Lvl => if j.val ≤ k.val then q.cnt[j] else q.n[j]
  idx := Vector.ofFn fun j : Lvl => if j.val ≤ k.val then 0 else q.idx[j]
  s := q.stages
  k := k.val + 1
  n0 := q.cnt[(0 : Lvl)]
  drained := none }

/-- Has each level up to `k` a trip? -/
def Loop.allTrip (q : Loop) (k : Lvl) : Prop := ∀ j : Lvl, j.val ≤ k.val → q.trips j ≠ 0

theorem Loop.any_tripless_iff (q : Loop) (k : Lvl) :
    ((List.finRange 6).any fun j => decide (j.val ≤ k.val) && q.trips j == 0) = true ↔ ¬ q.allTrip k := by
  simp [Loop.allTrip]

theorem Loop.start_of_allTrip {q : Loop} {k : Lvl} (h : (q.latch k).allTrip k) (body endA : Word) :
    q.start k body endA = { q.latch k with run := true, body := body, endA := endA } :=
  if_neg fun ha => ((q.latch k).any_tripless_iff k).1 ha h

theorem Loop.start_of_not_allTrip {q : Loop} {k : Lvl} (h : ¬ (q.latch k).allTrip k) (body endA : Word) :
    q.start k body endA = { q.latch k with run := false } :=
  if_pos (((q.latch k).any_tripless_iff k).2 h)

/-- The sequencer after LRUN holds what is latched, and runs just when each level of the nest has a trip. -/
theorem Loop.start_spec (q : Loop) (k : Lvl) (body endA : Word) :
    let r := q.start k body endA
    (∀ j : Lvl, j.val ≤ k.val → r.n[j] = q.cnt[j] ∧ r.idx[j] = 0) ∧ r.k = k.val + 1 ∧ r.s = q.stages ∧ r.cnt = q.cnt
    ∧ (r.run = true ↔ ∀ j : Lvl, j.val ≤ k.val → r.trips j ≠ 0) ∧ (r.run = true → r.body = body ∧ r.endA = endA) := by
  have hn (j : Lvl) (hj : j.val ≤ k.val) : (q.latch k).n[j] = q.cnt[j] ∧ (q.latch k).idx[j] = 0 := by
    simp only [Loop.latch, Fin.getElem_fin, Vector.getElem_ofFn, if_pos hj, and_self]
  by_cases h : (q.latch k).allTrip k
  · rw [Loop.start_of_allTrip h]
    exact ⟨hn, rfl, rfl, rfl, ⟨fun _ => h, fun _ => rfl⟩, fun _ => ⟨rfl, rfl⟩⟩
  · rw [Loop.start_of_not_allTrip h]
    exact ⟨hn, rfl, rfl, rfl, ⟨fun hr => absurd hr Bool.false_ne_true, fun ha => absurd ha h⟩, fun hr => absurd hr Bool.false_ne_true⟩

/-! ### LBRK (R118) -/

theorem Loop.clamp_of_outside {q : Loop} {l : Lvl} (h : ¬(q.run = true ∧ l.val < q.k)) : q.clamp l = q := if_neg h

theorem Loop.clamp_of_inside {q : Loop} {l : Lvl} (h : q.run = true ∧ l.val < q.k) : q.clamp l = { q with
    n := q.n.set l (if (q.n[l]).toNat ≤ (q.idx[l]).toNat + 1 then q.n[l] else (q.idx[l] + 1).setWidth 32) } := if_pos h

/-- LBRK makes the current trip of a running level its last: its count becomes the index plus 1, if it was more. -/
theorem Loop.n_clamp_self {q : Loop} {l : Lvl} (h : q.run = true ∧ l.val < q.k) :
    ((q.clamp l).n[l]).toNat = min (q.n[l]).toNat ((q.idx[l]).toNat + 1) := by
  simp only [Loop.clamp_of_inside h, Fin.getElem_fin, Vector.getElem_set_self]
  split
  · next hle => rw [Nat.min_eq_left hle]
  · next hlt =>
    have := q.n[l.val].isLt
    rw [Nat.min_eq_right (by omega), BitVec.toNat_setWidth, BitVec.toNat_add, show (1 : BitVec 33).toNat = 1 from rfl]
    omega

/-- LBRK leaves the indices, whether the nest runs, and the counts of the other levels. -/
theorem Loop.clamp_keeps (q : Loop) (l : Lvl) : (q.clamp l).idx = q.idx ∧ (q.clamp l).run = q.run
    ∧ ∀ j : Lvl, j ≠ l → (q.clamp l).n[j] = q.n[j] := by
  by_cases h : q.run = true ∧ l.val < q.k
  · rw [Loop.clamp_of_inside h]
    exact ⟨rfl, rfl, fun j hj => Vector.getElem_set_ne l.isLt j.isLt fun e => hj (Fin.ext e.symm)⟩
  · rw [Loop.clamp_of_outside h]
    exact ⟨rfl, rfl, fun _ _ => rfl⟩

/-! ### LIDX (R119) -/

theorem Loop.lidx_eq (q : Loop) (l : Lvl) : q.lidx l = if q.run = true ∧ l.val < q.k then
    BitVec.ofNat 64 ((q.idx[l]).toNat + (if (q.idx[l]).toNat = 0 then 2 ^ 62 else 0)
      + (if (q.idx[l]).toNat + 1 = q.trips l then 2 ^ 63 else 0)) else 0 := by
  simp only [Loop.lidx, bit1, ite_mul, one_mul, zero_mul, beq_iff_eq]

/-! ### What each form sends -/

/-- A change of the sequencer of the current context, as the sequencer it leaves. -/
theorem State.modLoop_eq (s : State) (f : Loop → Loop) : s.modLoop f = s.modCur fun t => { t with loop := f s.cur.loop } := rfl

section
variable {s : State} {gd : Guard} (hg : s.guard gd = true)
include hg

/-- A form that changes the sequencer alone (R113, R118). -/
theorem modLoop_sends (hu : s.user) {i : Instr} {f : State → Loop → Loop}
    (h : exec i s = slotDo gd (some .scalar) (fun s => s.outsideHandler fun s => s.modLoop (f s)) s) :
    Does i s fun t => Sends (s.modCur fun t => { t with loop := f s s.cur.loop }) t [] :=
  does_slotDo h hg (by
    rw [State.outsideHandler_of_user hu]
    exact Sends.refl _)

/-- LRUN starts the nest, and is the transfer to its body, or to END when a level has no trip. -/
theorem lrun_sends (hu : s.user) (ht : s.env.transfer = none) (k : Lvl) (ofs : BitVec 23) :
    let endA := s.env.hdr + ofs.signExtend 64 * 2
    let r := s.cur.loop.start k s.env.next endA
    Does (.lrun gd k ofs) s fun t => Sends ((s.modCur fun t => { t with loop := r }).modEnv fun e => { e with
      transfer := some (if r.run then ⟨s.env.next, 0, false⟩ else ⟨endA, 0, true⟩) }) t [] := by
  intro endA r
  refine does_slotDo (show _ = execLrun gd k ofs s from rfl) hg ?_
  rw [State.outsideHandler_of_user hu]
  have hr : (s.modCur fun t => { t with loop := r }).cur.loop = r := congrArg Ctx.loop (s.ctx_modCtx _ _ _)
  have htake (t : Transfer) := State.take_of_none (s := s.modCur fun t => { t with loop := r }) ht t
  dsimp only
  rw [State.modLoop_eq, hr, htake, htake]
  cases r.run <;> exact Sends.refl _

/-- LIDX sends the index of the nest at issue (R119). -/
theorem lidx_sends (d : R64) (l : Lvl) : Does (.lidx gd d l) s fun t => Sends s t (gRes 1 d (s.env.loop0.lidx l) false) :=
  pushG_sends (f := fun s => (s.loop0.lidx l, false)) hg rfl

end

/-- Settles O6: each form by the operation of the sequencer it is. -/
theorem loopFormResults : Obligations.LoopFormResults := by
  intro s gd l k st a d ofs hg hu q base endA
  refine ⟨modLoop_sends hg hu (f := fun s q => { q with
      cnt := q.cnt.set l ((s.g a).setWidth 32)
      stages := if l = 0 then st.val + 1 else q.stages }) rfl, fun ht => ?_, ?_, ?_, ?_, ?_⟩
  · obtain ⟨hn, hk, hs, hc, hrun, hbody⟩ := q.start_spec k s.env.next endA
    exact ⟨q.start k s.env.next endA, hn, hk, hs, hc, hrun, hbody, lrun_sends hg hu ht k ofs⟩
  · obtain ⟨hi, hr, hn⟩ := q.clamp_keeps l
    exact ⟨q.clamp l, hi, hr, hn, Loop.n_clamp_self, fun h => by rw [Loop.clamp_of_outside h],
      modLoop_sends hg hu (f := fun _ q => q.clamp l) rfl⟩
  · have hl := lidx_sends hg d l
    rw [Loop.lidx_eq] at hl
    exact hl
  · exact does_outsideHandler (show _ = execLclr gd s from rfl) hg hu (sends_push _ 1 _ 0)
  · exact does_outsideHandler (show _ = execSpset gd a s from rfl) hg hu (sends_push s 1 _ 0)

end Sys2Proof.Machine
end

section
/-!
WAIT, SLEEPU and the forms that stop a context (09 R124 to R128, 24 R370).
-/
namespace Sys2Proof.Machine

/-! ### The test of a WAIT (R124, R125) -/

/-- The bytes of the word a WAIT compares. -/
def waitBytes (dw : Bool) : Nat := if dw then 8 else 4
/-- The bytes at which a WAIT is aligned. -/
def waitWidth (cc : Wc) (dw : Bool) : Nat := if cc = .dd then 16 else waitBytes dw
/-- What a test finds that reads a word. -/
def Test.ofWord (cc : Wc) (dw : Bool) (word : Nat) (v : Word) : Test :=
  if wcHolds cc word (v.toNat % 2 ^ (8 * waitBytes dw)) then .met else .unmet

section
variable {s : State} {c : CoreId} {x : CtxId} {a : Addr} {cc : Wc} {dw : Bool} (h : s.waitAccess c x a cc dw = none)
include h

/-- No earlier access of the context names bytes of the word and has not performed. -/
theorem State.wait_unawaited : ((s.ctx c x).accs.any fun b => b.elems.any fun f => !f.done && f.n != 0
    && s.sameBytes c x (waitElem a cc dw) f) = false :=
  List.any_eq_false.2 (List.find?_eq_none.1 h)

/-- A word in a vault is read there. -/
theorem State.waitTest_vault (hs : isScratch a = true)
    (hp : s.poisonedLoc (.vault (vaultCore c a) (vaultOfs a)) (waitWidth cc dw) = false) (v : Word) :
    s.waitTest c x a cc dw v = Test.ofWord cc dw (memReadN (s.core (vaultCore c a)).vault (vaultOfs a) (waitBytes dw)) v := by
  have hw : s.walkHeld c x a = false := by rw [State.walkHeld, hs]; rfl
  simp only [waitWidth, waitBytes] at hp
  simp only [State.waitTest, State.wait_unawaited h, hs, hw, hp, Bool.not_true, Bool.false_and, Bool.false_eq_true, if_false, if_true]
  rfl

/-- A replayable fault that the host has failed is the test's (10 R413). -/
theorem State.waitTest_failed (hs : isScratch a = false) (hf : (s.ctx c x).waitFail = some (a.toNat / 65536)) (v : Word) :
    s.waitTest c x a cc dw v = .fault 0x18 := by
  simp [State.waitTest, State.wait_unawaited h, hs, hf]

section
variable (hs : isScratch a = false) (hw : s.walkHeld c x a = false) (hf : (s.ctx c x).waitFail ≠ some (a.toNat / 65536))
include hs hw hf

/-- A word in memory is read there, whatever an L1 holds. -/
theorem State.waitTest_memory {pa : Nat} (ht : s.physCtx c x false a.toNat = .ok pa) (hn : s.pinnedLoc (some c) (.mem pa) = false)
    (hp : s.poisonedLoc (.mem pa) (waitWidth cc dw) = false) (v : Word) :
    s.waitTest c x a cc dw v = Test.ofWord cc dw (memReadN s.gmem pa (waitBytes dw)) v := by
  simp only [waitWidth, waitBytes] at hp
  simp only [State.waitTest, State.wait_unawaited h, hs, hw, beq_eq_false_iff_ne.2 hf, ht, hn, hp, Bool.and_false, Bool.false_eq_true, if_false]
  rfl

/-- A word without a translation, or with none that may be read, is the test's fault. -/
theorem State.waitTest_fault (v : Word) :
    (s.physCtx c x false a.toNat = .page → s.waitTest c x a cc dw v = .fault 0x18)
    ∧ (s.physCtx c x false a.toNat = .perm → s.waitTest c x a cc dw v = .fault 0x19) := by
  refine ⟨fun ht => ?_, fun ht => ?_⟩ <;>
    simp only [State.waitTest, State.wait_unawaited h, hs, hw, beq_eq_false_iff_ne.2 hf, ht, Bool.and_false, Bool.false_eq_true, if_false]

end
end

/-- A WAIT that ends drops the lines of its L1 or does nothing (10 R162). -/
theorem State.observeWord_eq (s : State) (c : CoreId) (a : Addr) (cc : Wc) :
    s.observeWord c a cc = s ∨ s.observeWord c a cc = s.l1Drop c := by
  unfold State.observeWord
  dsimp only
  split
  · exact .inr rfl
  · exact .inl rfl

/-! ### WAIT -/

/-- A precise fault of a slot enters the handler of its context; the slot is not charged. -/
theorem does_slotFault {i : Instr} {gd : Guard} {cls : Option EClass} {f : State → State} {s : State} {cause : BitVec 8}
    {faddr info : Word} (h : exec i s = slotDo gd cls f s) (hg : s.guard gd = true) (hf : f s = s.slotFault cause faddr info)
    (hr : s.HandlerReady) (hc : fatalCause cause = false) : Does i s fun t => EntersAt s t cause faddr info := by
  have he := entersAt_slotFault hr cause faddr info hc
  have hstop : (f s).env.stopped = true := hf ▸ he.1.1
  refine ⟨f s, (h.trans (slotDo_of_guard hg cls f)).trans ?_, hf ▸ he⟩
  cases cls with
  | none => rfl
  | some k => exact congrArg _ (if_pos hstop)

/-- A block of S0 that takes effect when the bundle has committed. -/
def State.waitsOn (s : State) (w : Block) : State := s.modEnv fun e => { e with block := ⟨some w, e.block.bar⟩ }

/-- What WAIT does at an aligned address, by what its test finds. -/
def State.waitEnd (s : State) (ea : Addr) (cc : Wc) (dw : Bool) (v : Word) : Test → State
  | .met => s.observeWord s.env.core ea cc
  | .poison g => s.slotFault 0x1A (g.setWidth 64) 0
  | .fault e => s.slotFault e (ea.setWidth 64) 0
  | _ => s.waitsOn (.wait ea cc dw v)

theorem exec_wait (gd : Guard) (a : R16) (b : R64) (cc : Wc) (dw : Bool) (s : State) :
    exec (.wait gd a b cc dw) s = execWait gd a b cc dw s := rfl

section
variable {s : State} {gd : Guard} {a : R16} {b : R64} {cc : Wc} {dw : Bool}
  (hal : (s.rdA a).1.toNat % waitWidth cc dw = 0)
include hal

/-- WAIT at an aligned address, by its test. -/
theorem exec_wait_of_aligned {r : Test} (ht : s.waitTest s.env.core s.env.ctx (s.rdA a).1 cc dw (s.g b) = r) :
    ∃ f : State → State, exec (.wait gd a b cc dw) s = slotDo gd (some .scalar) f s ∧ f s = s.waitEnd (s.rdA a).1 cc dw (s.g b) r := by
  refine ⟨_, exec_wait gd a b cc dw s, ?_⟩
  rw [waitWidth, waitBytes] at hal
  simp only [hal, ht, ne_eq, not_true, if_false]
  cases r <;> rfl

variable (hg : s.guard gd = true)
include hg

/-- A WAIT that tests a word goes on, or leaves its block. -/
theorem wait_tests {word : Nat} {ok : Bool}
    (ht : s.waitTest s.env.core s.env.ctx (s.rdA a).1 cc dw (s.g b) = Test.ofWord cc dw word (s.g b))
    (hok : wcHolds cc word ((s.g b).toNat % 2 ^ (8 * waitBytes dw)) = ok) : Does (.wait gd a b cc dw) s fun t =>
      if ok then Sends s t [] ∨ Sends (s.l1Drop s.env.core) t [] else Sends (s.waitsOn (.wait (s.rdA a).1 cc dw (s.g b))) t [] := by
  obtain ⟨f, hx, hf⟩ := exec_wait_of_aligned (gd := gd) hal ht
  rw [Test.ofWord, hok] at hf
  cases ok with
  | false => exact does_slotDo hx hg (hf ▸ Sends.refl _)
  | true =>
    rcases s.observeWord_eq s.env.core (s.rdA a).1 cc with e | e
    · obtain ⟨t, et, h⟩ := does_slotDo hx hg (b := s) (fs := []) ((hf.trans e).symm ▸ Sends.refl s)
      exact ⟨t, et, .inl h⟩
    · obtain ⟨t, et, h⟩ := does_slotDo hx hg (b := s.l1Drop s.env.core) (fs := []) ((hf.trans e).symm ▸ Sends.refl _)
      exact ⟨t, et, .inr h⟩

/-- A WAIT whose test finds a fault takes it at its slot. -/
theorem wait_faults {cause : BitVec 8} (ht : s.waitTest s.env.core s.env.ctx (s.rdA a).1 cc dw (s.g b) = .fault cause)
    (hr : s.HandlerReady) (hc : fatalCause cause = false) :
    Does (.wait gd a b cc dw) s fun t => EntersAt s t cause ((s.rdA a).1.setWidth 64) 0 := by
  obtain ⟨f, hx, hf⟩ := exec_wait_of_aligned (gd := gd) hal ht
  exact does_slotFault hx hg hf hr hc

end

/-- Settles O8: WAIT by what its test finds, SLEEPU by the tick, and the stopping forms by the action they leave. -/
theorem waitingAndStoppingForms : Obligations.WaitingAndStoppingForms := by
  refine ⟨fun s gd a b cc dw v hg => ?_, fun s gd n hg => ?_⟩
  · intro ea n wide page val waits promised T tests
    refine ⟨fun hal hacc => ?_, does_slotDo (show _ = execSleepu gd b s from rfl) hg (Sends.refl _),
      does_slotDo (show _ = execSleepuI gd v s from rfl) hg (Sends.refl _)⟩
    have htests {word : Nat} (ht : s.waitTest s.env.core s.env.ctx ea cc dw (s.g b) = Test.ofWord cc dw word (s.g b)) : tests word := by
      intro ok hok
      refine wait_tests hal hg ht ?_
      rw [Bool.eq_iff_iff, hok]
      cases cc <;> simp [wcHolds] <;> rfl
    have hfails (cause : BitVec 8) (hc : fatalCause cause = false) (hr : s.HandlerReady)
        (ht : s.waitTest s.env.core s.env.ctx ea cc dw (s.g b) = .fault cause) :
        Does (.wait gd a b cc dw) s fun t => EntersAt s t cause (ea.setWidth 64) 0 := wait_faults hal hg ht hr hc
    refine ⟨fun hs hp => htests (State.waitTest_vault hacc hs hp _),
      fun hs hw hf => ⟨fun pa hpa hpin hp => ?_, fun hr hpa => ?_, fun hr hpa => ?_⟩,
      fun hs hf hr => hfails 0x18 rfl hr (State.waitTest_failed hacc hs hf _)⟩
    · exact htests (State.waitTest_memory hacc hs hw hf hpa hpin hp _)
    · exact hfails 0x18 rfl hr ((State.waitTest_fault hacc hs hw hf _).1 hpa)
    · exact hfails 0x19 rfl hr ((State.waitTest_fault hacc hs hw hf _).2 hpa)
  · exact ⟨does_slotDo (show _ = execYield gd s from rfl) hg (Sends.refl _), does_slotDo (show _ = execHalt gd s from rfl) hg (Sends.refl _),
      does_slotDo (show _ = execTrap gd n s from rfl) hg (Sends.refl _), does_slotDo (show _ = execSyscall gd n s from rfl) hg (Sends.refl _),
      does_slotDo (show _ = execHbeat gd s from rfl) hg (Sends.refl _)⟩

end Sys2Proof.Machine
end

section
/-!
Waking, and arrivals at a heath barrier (09 R126, R130, 19 R301 to R303, 24 R372).
-/
namespace Sys2Proof.Machine

/-! ### Waking -/

/-- A change of a context, as the context it leaves. -/
theorem State.modCtx_eq_const (s : State) (c : CoreId) (x : CtxId) (f : Ctx → Ctx) :
    s.modCtx c x f = s.modCtx c x fun _ => f (s.ctx c x) := rfl

section
variable {s : State} {c : CoreId} {x : CtxId} (hb : (s.ctx c x).run = .blocked) (hst : (s.ctx c x).stopping = false)
include hb hst

/-- A sleeper whose tick has come loses that block (09 R126). -/
theorem exec_sleepuWake {w : Word} (hs : (s.ctx c x).blocks.s0 = some (.sleep w)) (hw : w.toNat ≤ s.cyc.toNat) :
    exec (.sleepuWake c x) s = .next (s.modCtx c x fun _ => { s.ctx c x with
      blocks := ⟨none, (s.ctx c x).blocks.bar⟩
      awake := (s.ctx c x).blocks.bar.isNone }) := by
  have e : exec (.sleepuWake c x) s
      = .next ((s.modCtx c x fun t => { t with blocks := ⟨none, t.blocks.bar⟩ }).settleBlocks c x) := by
    show execSleepuWake c x s = _
    simp only [execSleepuWake, hb, hs, hst, hw, Bool.not_false, and_self, if_true]
  rw [e, State.settleBlocks, State.modCtx_modCtx, State.modCtx_eq_const]
  rfl

section
variable {b : Fin 4} (hs : (s.ctx c x).blocks.bar = some b) (hp : (s.ctx c x).phase[b] ≠ ((s.heaths[coreHeath c]).bars[b]).phase)
  (ht : ((s.heaths[coreHeath c]).bars[b]).relTick + 4 ≤ s.cyc.toNat)
include hs hp ht

/-- A context whose barrier released four ticks ago loses that block, and is ready where it has no other (19 R303). -/
theorem exec_barwWake : exec (.barwWake c x) s = .next (
    let t := s.modCtx c x fun t => { t with blocks := ⟨t.blocks.s0, none⟩ }
    if (s.ctx c x).blocks.s0.isNone then t.becomeReady c x else t) := by
  show execBarwWake c x s = _
  simp only [execBarwWake, hb, hs, hst, hp, ht, Bool.not_false, ne_eq, not_false_eq_true, and_self, if_true]

end
end

/-- A context without a promise to check becomes ready, and nothing else changes (09 R130). -/
theorem State.becomeReady_of_noPromise {s : State} {c : CoreId} {x : CtxId} (h : (s.ctx c x).promiseT = none) :
    s.becomeReady c x = s.modCtx c x fun t => { t with run := .ready, awake := false } := by
  simp only [State.becomeReady, State.ctx_modCtx, h]

/-! ### Operations that leave the heaths -/

@[simp] theorem State.heaths_observeWord (s : State) (c : CoreId) (a : Addr) (cc : Wc) : (s.observeWord c a cc).heaths = s.heaths := by
  rcases s.observeWord_eq c a cc with e | e
  · rw [e]
  · rw [e]
    rfl
@[simp] theorem State.heaths_walkCtx (s : State) (c : CoreId) (x : CtxId) (a : Addr) : (s.walkCtx c x a).heaths = s.heaths := by
  obtain ⟨l, w, e⟩ := s.walkCtx_eq c x a
  rw [e]
  rfl
@[simp] theorem State.heaths_wakeTest (s : State) (c : CoreId) (x : CtxId) : (s.wakeTest c x).heaths = s.heaths := by
  unfold State.wakeTest
  dsimp only
  split
  · rfl
  · split
    · next a cc dw v _ =>
      split
      · exact s.heaths_observeWord c a cc
      · rfl
      · rfl
      · exact s.heaths_walkCtx c x a
      · rfl
    · rfl
@[simp] theorem State.heaths_clearRange (s : State) (j : Job) : (s.clearRange j).heaths = s.heaths := by
  unfold State.clearRange
  split <;> rfl
@[simp] theorem State.heaths_cardRead (s : State) (id : Nat) (im : BitVec 512) : (s.cardRead id im).heaths = s.heaths := by
  unfold State.cardRead
  split
  · rfl
  · extract_lets t j pr u
    split_ifs
    · rfl
    · exact u.heaths_clearRange j
    · rfl
@[simp] theorem State.heaths_cardArrives (s : State) (c : CoreId) (x : CtxId) (id : Nat) : (s.cardArrives c x id).heaths = s.heaths := by
  unfold State.cardArrives
  split
  · rfl
  · split
    · split_ifs
      · rfl
      · rfl
      · exact s.heaths_cardRead _ _
    · rfl

/-! ### Arrivals (19 R301, R302) -/

/-- A barrier after one more arrival of `n` participants at tick `now`. -/
def Barrier.arrived (b : Barrier) (n now : Nat) : Barrier :=
  if b.count + 1 < n then { b with count := b.count + 1 } else ⟨b.phase + 1, 0, now⟩

/-- An arrival changes its barrier alone. -/
theorem State.heaths_arrive (s : State) (c : CoreId) (b : Fin 4) :
    ((s.arrive c b).heaths[coreHeath c]).bars[b]
      = ((s.heaths[coreHeath c]).bars[b]).arrived (s.participants (coreHeath c)) s.cyc.toNat
    ∧ (∀ h, h ≠ coreHeath c → (s.arrive c b).heaths[h] = s.heaths[h])
    ∧ ∀ d : Fin 4, d ≠ b → ((s.arrive c b).heaths[coreHeath c]).bars[d] = (s.heaths[coreHeath c]).bars[d] := by
  have hh : (s.arrive c b).heaths[coreHeath c] = { s.heaths[coreHeath c] with
      bars := (s.heaths[coreHeath c]).bars.set b
        (((s.heaths[coreHeath c]).bars[b]).arrived (s.participants (coreHeath c)) s.cyc.toNat) } :=
    Vector.getElem_set_self _
  refine ⟨?_, fun h hne => Vector.getElem_set_ne (coreHeath c).isLt h.isLt fun e => hne (Fin.ext e.symm), fun d hd => ?_⟩
  · rw [hh]
    exact Vector.getElem_set_self _
  · rw [hh]
    exact Vector.getElem_set_ne b.isLt d.isLt fun e => hd (Fin.ext e.symm)

theorem silent_updAcc (s : State) (c : CoreId) (x : CtxId) (id : Nat) (f : Access → Access) : Silent s (s.updAcc c x id f) :=
  silent_modCtx s c x fun _ => rfl

/-- The participants of a barrier are those of the launch of its heath's cores. -/
theorem State.participants_of_account {s t : State} (h : t.account = s.account) (g : Fin 24) : t.participants g = s.participants g := by
  simp only [State.participants, Core.alloc, State.allot_of_account h]

theorem State.performElem_bara {s : State} {c : CoreId} {x : CtxId} {a : Access} {b : Fin 4} (hk : a.kind = .bara b)
    (he : a.elems = unitElem) :
    s.performElem c x a 0 = ((s.updAcc c x a.id fun q => q.setDone 0 0).arrive c b).sweep c x := by
  have h0 : a.elems[0]? = some ⟨0, 0, 0, false, 0⟩ := by rw [he]; rfl
  simp only [State.performElem, h0, hk]

theorem State.performAcc_of_canPerform {s : State} {c : CoreId} {x : CtxId} {a : Access} {k : Nat} (h : s.findAcc c x a.id = some a)
    (hp : s.canPerform c x a k = true) :
    s.performAcc c x a.id k = ((s.performElem c x a k).wakeTest c x).cardArrives c x a.id := by
  simp only [State.performAcc, State.performIf, h, hp, if_true]

/-- Settles O36: the two wakings, the end of an invalidation, and an arrival, whose barrier alone of the heaths changes. -/
theorem wakingAndBarriers : Obligations.WakingAndBarriers := by
  refine ⟨fun s c x w b => ⟨fun hb hs hw hst => exec_sleepuWake hb hst hs hw, fun hb hs hst hp ht => ⟨fun h0 => ?_, fun h0 hT => ?_⟩, rfl⟩,
    fun s c x a b hf hk he hc => ?_⟩
  · rw [exec_barwWake hb hst hs hp ht, if_neg (by simpa using h0)]
    rfl
  · rw [exec_barwWake hb hst hs hp ht, if_pos (by simp [h0]), State.becomeReady_of_noPromise (by rw [State.ctx_modCtx]; exact hT),
      State.modCtx_modCtx, State.modCtx_eq_const, Function.comp, h0]
  · refine ⟨_, rfl, ?_⟩
    have ha := State.heaths_arrive (s.updAcc c x a.id fun q => q.setDone 0 0) c b
    rw [State.participants_of_account (silent_updAcc s c x a.id _).account] at ha
    dsimp only
    rw [State.performAcc_of_canPerform hf hc, State.heaths_cardArrives, State.heaths_wakeTest, State.performElem_bara hk he]
    exact ha

end Sys2Proof.Machine
end

section
/-!
Every step keeps every memory in canonical form (log 3). What this asks of a state is said part by part: a core, a saved core,
a group. Then one lemma per function of the model that yields a state, in the order of the model: a function that leaves the
memories alone keeps the form because its fields are the same ones, one that writes keeps it by the laws of the memory
(`memWf_memWriteN` and its like), and every other one is put together from functions that keep it. The step is the last.
-/
namespace Sys2Proof.Machine


/-! ### The canonical form, part by part -/

/-- The memories of a core are in canonical form. -/
def Core.Canonical (k : Core) : Prop :=
  memWf k.vault = true ∧ memWf k.ispad = true ∧ memWf k.saveRam = true
/-- The memories of a saved core are. -/
def SavedCore.Canonical (v : SavedCore) : Prop := memWf v.vault = true ∧ memWf v.saveRam = true
/-- The saved cores of a launch group are. -/
def Group.Canonical (g : Group) : Prop := ∀ v ∈ g.saved, v.2.Canonical
/-- An outcome whose next state has every memory in canonical form. -/
def CanonicalOut (o : Out) : Prop := match o with
  | .next t => t.CanonicalMemory
  | _ => True

theorem State.canonicalMemory_iff (s : State) : s.CanonicalMemory ↔ memWf s.gmem = true
    ∧ memWf s.hmem = true ∧ memWf s.recMem = true ∧ memWf s.mon.mailbox = true ∧ (∀ k ∈ s.cores.toList, k.Canonical)
    ∧ ∀ g ∈ s.groups, g.Canonical := Iff.rfl
theorem Core.canonical_iff (k : Core) :
    k.Canonical ↔ memWf k.vault = true ∧ memWf k.ispad = true ∧ memWf k.saveRam = true := Iff.rfl

theorem State.CanonicalMemory.of_fields {s t : State} (h : s.CanonicalMemory) (hg : t.gmem = s.gmem) (hh : t.hmem = s.hmem)
    (hr : t.recMem = s.recMem) (hm : t.mon.mailbox = s.mon.mailbox) (hc : t.cores = s.cores) (hq : t.groups = s.groups) :
    t.CanonicalMemory := by
  unfold State.CanonicalMemory
  rw [hg, hh, hr, hm, hc, hq]
  exact h

theorem canonical_core {s : State} (h : s.CanonicalMemory) (c : CoreId) : (s.core c).Canonical := by
  obtain ⟨-, -, -, -, hc, -⟩ := s.canonicalMemory_iff.1 h
  exact hc _ (by simp [State.core])

/-! The form is kept by what the operations are made of. -/

theorem canonical_setCore {s : State} (h : s.CanonicalMemory) (c : CoreId) {k : Core} (hk : k.Canonical) :
    (s.setCore c k).CanonicalMemory := by
  obtain ⟨hg, hh, hr, hm, hc, hq⟩ := s.canonicalMemory_iff.1 h
  refine ⟨hg, hh, hr, hm, fun j hj => ?_, hq⟩
  have hj : j ∈ s.cores.set c k := Vector.mem_toList_iff.1 hj
  rcases Vector.mem_or_eq_of_mem_set hj with hj | rfl
  · exact hc _ (Vector.mem_toList_iff.2 hj)
  · exact hk
theorem canonical_modCore {s : State} (h : s.CanonicalMemory) (c : CoreId) {f : Core → Core}
    (hf : (s.core c).Canonical → (f (s.core c)).Canonical) : (s.modCore c f).CanonicalMemory :=
  canonical_setCore h c (hf (canonical_core h c))
theorem Core.canonical_modCtx {k : Core} (h : k.Canonical) (x : CtxId) (f : Ctx → Ctx) : (k.modCtx x f).Canonical := h
theorem canonical_modCtx {s : State} (h : s.CanonicalMemory) (c : CoreId) (x : CtxId) (f : Ctx → Ctx) :
    (s.modCtx c x f).CanonicalMemory := canonical_modCore h c fun hk => hk
theorem canonical_foldl {α : Type} {f : State → α → State} (hf : ∀ s a, s.CanonicalMemory → (f s a).CanonicalMemory)
    (l : List α) {s : State} (h : s.CanonicalMemory) : (l.foldl f s).CanonicalMemory := by
  induction l generalizing s with
  | nil => exact h
  | cons a l ih => exact ih (hf _ _ h)
theorem canonical_ite {p : Prop} [Decidable p] {s t : State} (hs : s.CanonicalMemory) (ht : t.CanonicalMemory) :
    (if p then s else t).CanonicalMemory := by
  split
  · exact hs
  · exact ht
theorem memWf_foldl {α : Type} {f : Memory → α → Memory} (hf : ∀ m a, memWf m = true → memWf (f m a) = true)
    (l : List α) {m : Memory} (h : memWf m = true) : memWf (l.foldl f m) = true := by
  induction l generalizing m with
  | nil => exact h
  | cons a l ih => exact ih (hf _ _ h)
theorem Core.canonical_foldl {α : Type} {f : Core → α → Core} (hf : ∀ k a, k.Canonical → (f k a).Canonical)
    (l : List α) {k : Core} (h : k.Canonical) : (l.foldl f k).Canonical := by
  induction l generalizing k with
  | nil => exact h
  | cons a l ih => exact ih (hf _ _ h)
/-- Every group is changed and keeps its saved cores in form. -/
theorem canonical_mapGroups {s : State} (h : s.CanonicalMemory) {f : Group → Group} (hf : ∀ g, g.Canonical → (f g).Canonical) :
    ({ s with groups := s.groups.map f } : State).CanonicalMemory := by
  obtain ⟨hg, hh, hr, hm, hc, hq⟩ := s.canonicalMemory_iff.1 h
  exact ⟨hg, hh, hr, hm, hc, List.forall_mem_map.2 fun g hg => hf g (hq g hg)⟩
theorem canonical_withCores {s : State} (h : s.CanonicalMemory) {v : Vector Core 192} (hv : ∀ k ∈ v, k.Canonical) :
    ({ s with cores := v } : State).CanonicalMemory := by
  obtain ⟨hg, hh, hr, hm, -, hq⟩ := s.canonicalMemory_iff.1 h
  exact ⟨hg, hh, hr, hm, fun k hk => hv k (Vector.mem_toList_iff.1 hk), hq⟩
theorem canonical_group {s : State} (h : s.CanonicalMemory) {g : Nat} {y : Group} (hy : s.group g = some y) : y.Canonical := by
  obtain ⟨-, -, -, -, -, hq⟩ := s.canonicalMemory_iff.1 h
  exact hq y (List.mem_of_find?_eq_some hy)
theorem canonical_next {s : State} (h : s.CanonicalMemory) : CanonicalOut (.next s) := h
theorem canonical_of_next {s : State} (h : CanonicalOut (.next s)) : s.CanonicalMemory := h

/-! ### Cores -/

theorem Core.canonical_reset : Core.reset.Canonical := by
  unfold Core.Canonical
  decide
theorem Core.canonical_applyPri {k : Core} (h : k.Canonical) : k.applyPri.Canonical := h
theorem Core.canonical_select {k : Core} (h : k.Canonical) : k.select.Canonical := by
  unfold Core.select
  grind [Core.canonical_modCtx, Core.canonical_iff]
theorem Core.canonical_switchPoint {k : Core} (h : k.Canonical) : k.switchPoint.Canonical := by
  unfold Core.switchPoint
  grind [Core.canonical_applyPri, Core.canonical_modCtx, Core.canonical_select, Core.canonical_iff]
theorem Core.canonical_putRecord {k : Core} (h : k.Canonical) (o : Nat) (st : BitVec 8) (res aux : Word) :
    (k.putRecord o st res aux).Canonical := by
  unfold Core.putRecord
  grind [Core.canonical_iff, memWf_memWriteN]
theorem Core.canonical_completeFmt {k : Core} (h : k.Canonical) (x : CtxId) : (k.completeFmt x).Canonical := h
theorem Core.canonical_freshD {k : Core} (h : k.Canonical) (x : CtxId) (ds : List R64) : (k.freshD x ds).Canonical := h
theorem Core.canonical_saveLevel {k : Core} (h : k.Canonical) (x : CtxId) (j : Nat) (d : Vector DomReg 64) :
    (k.saveLevel x j d).Canonical := by
  obtain ⟨hv, hi, hr⟩ := k.canonical_iff.1 h
  unfold Core.saveLevel
  generalize List.finRange 64 = l
  exact ⟨hv, hi, memWf_foldl (fun m r hm => memWf_memWriteN hm ..) l hr⟩
theorem Core.canonical_restorePoison {k : Core} (h : k.Canonical) (x : CtxId) (j : Nat) : (k.restorePoison x j).Canonical := h
theorem Core.canonical_setTile {k : Core} (h : k.Canonical) (x : CtxId) (m : R16) (mask data : BitVec 262144) :
    (k.setTile x m mask data).Canonical := h
theorem Core.canonical_setBlock {k : Core} (h : k.Canonical) (x : CtxId) (q : Q512) (v : BitVec 32768) (whole : Nat → Bool) :
    (k.setBlock x q v whole).Canonical := h
theorem Core.canonical_setW {k : Core} (h : k.Canonical) (x : CtxId) (d : R64) (v : BitVec 4096) : (k.setW x d v).Canonical := h
theorem Core.canonical_loadCode {k : Core} (h : k.Canonical) (d : Nat) (l : List Byte) : (k.loadCode d l).Canonical := by
  unfold Core.loadCode
  grind [Core.canonical_iff, memWf_memWriteBytes]
theorem canonical_bindCore (s : State) (g : Group) (rheath : Nat) (pos : Fin 8) {k : Core} (hk : k.Canonical) :
    Core.Canonical (State.bindCore s g rheath pos k) := by
  unfold State.bindCore
  extract_lets hd hl rules scr0 k1 k2 k3 rings scr vault
  have h3 : k3.Canonical := by
    have h2 : k2.Canonical := Core.canonical_loadCode (k := k1) hk ..
    dsimp only [k3]
    split
    · exact h2
    · exact Core.canonical_loadCode h2 ..
  obtain ⟨-, hi, -⟩ := k3.canonical_iff.1 h3
  have hv : memWf vault = true := memWf_filter (memWf_memWriteBytes rfl ..) _
  refine ⟨memWf_foldl (fun m r hm => ?_) _ hv, hi, rfl⟩
  split
  · exact memWf_foldl (fun m i hm => memWf_memWriteN hm ..) _ hm
  · exact hm
theorem Core.canonical_reinit (k : Core) : k.reinit.Canonical := by
  unfold Core.reinit
  grind [Core.canonical_reset, Core.canonical_iff]
theorem canonical_restoreCore (s : State) (y : Group) {k : Core} (hk : k.Canonical) {v : SavedCore} (hv : v.Canonical) :
    Core.Canonical (State.restoreCore s y k v) := by
  obtain ⟨-, hi, -⟩ := k.canonical_iff.1 hk
  exact ⟨hv.1, hi, hv.2⟩

end Sys2Proof.Machine
end

section
/-!
The functions on states, in the order of the model's files.
-/
namespace Sys2Proof.Machine

variable {s : State} (h : s.CanonicalMemory)
include h


/-! ### Operations on the state (Machine/Ops) -/

theorem canonical_modCur (f : Ctx → Ctx) : (s.modCur f).CanonicalMemory := canonical_modCtx h ..
theorem canonical_modEnv (f : Env → Env) : (s.modEnv f).CanonicalMemory := h
theorem canonical_draw : s.draw.2.CanonicalMemory := h
theorem canonical_freeWord : s.freeWord.2.CanonicalMemory := by
  unfold State.freeWord
  grind [canonical_draw]
theorem canonical_push (lat : Nat) (wr : Wr) (fl : BitVec 7) : (s.push lat wr fl).CanonicalMemory :=
  canonical_modCore h _ fun hk => hk
theorem canonical_pushG (lat : Nat) (d : R64) (v : Word) (t : Bool) : (s.pushG lat d v t).CanonicalMemory :=
  canonical_ite h (canonical_push h ..)
theorem canonical_pushP (d : R16) (v : Bool) : (s.pushP d v).CanonicalMemory := canonical_ite h (canonical_push h ..)
theorem canonical_chargeExact (c : CoreId) (x : CtxId) (w den : Nat) : (s.chargeExact c x w den).CanonicalMemory :=
  (canonical_modCtx h ..).of_fields rfl rfl rfl rfl rfl rfl
theorem canonical_charge (c : CoreId) (x : CtxId) (cls : EClass) (n : Nat) : (s.charge c x cls n).CanonicalMemory :=
  canonical_chargeExact h ..
theorem canonical_chargeSlot (cls : EClass) : (s.chargeSlot cls).CanonicalMemory := canonical_charge h ..
theorem canonical_slotDo (gd : Guard) (cls : Option EClass) {f : State → State}
    (hf : ∀ s, s.CanonicalMemory → (f s).CanonicalMemory) : CanonicalOut (slotDo gd cls f s) := by
  unfold slotDo
  grind [canonical_chargeSlot, canonical_next]
theorem canonical_mscTouch (p : Nat) (f : Nat → Xlat) (va n : Nat) (write : Bool) :
    (s.mscTouch p f va n write).CanonicalMemory := by
  unfold State.mscTouch
  grind [canonical_foldl, State.canonicalMemory_iff]
theorem canonical_mscCtx (c : CoreId) (x : CtxId) (write : Bool) (a : Addr) (n : Nat) :
    (s.mscCtx c x write a n).CanonicalMemory := canonical_ite h (canonical_mscTouch h ..)
theorem canonical_modHub (f : Hub → Hub) : (s.modHub f).CanonicalMemory := h
theorem canonical_modPort (p : Fin 9) (f : Port → Port) : (s.modPort p f).CanonicalMemory := canonical_modHub h ..
theorem canonical_hubError : s.hubError.CanonicalMemory := canonical_modHub h ..
theorem canonical_emitFlit (p : Fin 9) : (s.emitFlit p).CanonicalMemory :=
  canonical_modPort (canonical_modHub (canonical_draw h ..) ..) ..
theorem canonical_emit (p : Fin 9) (x : Tx) : (s.emit p x).CanonicalMemory :=
  canonical_foldl (fun _ _ hs => canonical_emitFlit hs ..) _ (canonical_modHub h ..)
theorem canonical_send (p : Fin 9) (x : Tx) : (s.send p x).CanonicalMemory :=
  canonical_ite h (canonical_ite (canonical_emit h ..) (canonical_modPort h ..))
theorem canonical_hostAsk (f : BitVec 7) (tag fuel a n : Nat) : (State.hostAsk f tag fuel a n s).CanonicalMemory := by
  induction fuel generalizing a n s with
  | zero => exact h
  | succ fuel ih =>
    unfold State.hostAsk
    split
    · exact h
    · exact ih (canonical_send h ..) ..
theorem canonical_hostSend (w : HostWrite) : (s.hostSend w).CanonicalMemory := by
  unfold State.hostSend
  grind [canonical_draw, canonical_emit, State.canonicalMemory_iff, memWf_memWriteBytes]
theorem canonical_hostWrite (f : BitVec 7) (a : Nat) (data : List Byte) : (s.hostWrite f a data).CanonicalMemory :=
  canonical_ite (canonical_hostSend h ..) (canonical_modHub h ..)
theorem canonical_pump (p : Fin 9) (n : Nat) : (State.pump p n s).CanonicalMemory := by
  induction n generalizing s with
  | zero => exact h
  | succ n ih =>
    unfold State.pump
    grind [canonical_modPort, canonical_emit, canonical_modHub, canonical_hostSend]
theorem canonical_interrupt (f : Fin 97) (v : R64) : (s.interrupt f v).CanonicalMemory :=
  canonical_ite h (canonical_ite (canonical_modHub h ..) (canonical_ite h (canonical_ite (canonical_hostWrite h ..)
    (canonical_modHub h ..))))
theorem canonical_sendIrq : s.sendIrq.CanonicalMemory := by
  unfold State.sendIrq
  grind [canonical_interrupt, canonical_modHub]
theorem canonical_tqWrite (r : TrapRec) : (s.tqWrite r).CanonicalMemory :=
  (canonical_hostWrite h ..).of_fields rfl rfl rfl rfl rfl rfl
theorem canonical_tqDrop : s.tqDrop.CanonicalMemory := h
theorem canonical_trapRecord (r : TrapRec) : (s.trapRecord r).CanonicalMemory :=
  canonical_ite (canonical_tqDrop h ..) (canonical_ite (canonical_tqWrite h ..) (h.of_fields rfl rfl rfl rfl rfl rfl))
theorem canonical_endPins (p : Pin → Bool) : (s.endPins p).CanonicalMemory := h
theorem canonical_endPinsHalted (g : Nat) : (s.endPinsHalted g).CanonicalMemory := canonical_ite (canonical_endPins h ..) h
theorem canonical_pend (c : CoreId) (x : CtxId) (cause : BitVec 8) (faddr info : Word) (origin : Addr) (oslot : R8) :
    (s.pend c x cause faddr info origin oslot).CanonicalMemory := canonical_modCtx h ..
theorem canonical_setSpace (sp : Space) : (s.setSpace sp).CanonicalMemory := h
theorem canonical_countOps (c : CoreId) (n : Nat) : (s.countOps c n).CanonicalMemory := by
  unfold State.countOps
  grind [canonical_setSpace]
theorem canonical_setEntry (c : CoreId) (e : R16) (d : Option DdEntry) : (s.setEntry c e d).CanonicalMemory :=
  canonical_modCore h _ fun hk => hk
theorem canonical_ddDone (c : CoreId) (d : DdEntry) : (s.ddDone c d).CanonicalMemory :=
  canonical_charge (canonical_modCtx h ..) ..
theorem canonical_ddEnd (c : CoreId) (e : R16) (d : DdEntry) (o : Nat) (st : BitVec 8) (res aux : Word) :
    (s.ddEnd c e d o st res aux).CanonicalMemory := by
  unfold State.ddEnd
  grind [canonical_ddDone, canonical_modCore, Core.canonical_putRecord, Core.canonical_iff]
theorem canonical_ddAbandoned (c : CoreId) (e : R16) (d : DdEntry) : (s.ddAbandoned c e d).CanonicalMemory :=
  canonical_pend (canonical_setEntry h ..) ..
theorem canonical_ddDrop (c : CoreId) (e : R16) (d : DdEntry) : (s.ddDrop c e d).CanonicalMemory := by
  unfold State.ddDrop
  grind [canonical_setEntry, canonical_countOps, canonical_modCore, Core.canonical_putRecord]
theorem canonical_ddSettle (c : CoreId) (x : CtxId) : (s.ddSettle c x).CanonicalMemory := by
  unfold State.ddSettle
  grind [canonical_ddDrop, canonical_ddAbandoned, canonical_ddEnd, canonical_foldl, State.canonicalMemory_iff]
theorem canonical_killWork (c : CoreId) (x : CtxId) : (s.killWork c x).CanonicalMemory := by
  unfold State.killWork
  extract_lets g recs s1 s2 s3 s4
  have h2 : s2.CanonicalMemory := h
  have h3 : s3.CanonicalMemory := canonical_modCore h2 c fun hk =>
    Core.canonical_foldl (fun k o hk => Core.canonical_putRecord hk o 5 0 0) recs hk
  exact canonical_endPins (s := s4) h3 _
theorem canonical_killCtx (c : CoreId) (x : CtxId) : (s.killCtx c x).CanonicalMemory := by
  unfold State.killCtx
  grind [canonical_killWork, canonical_modCtx, canonical_modCore, Core.canonical_switchPoint, canonical_endPinsHalted]
theorem canonical_stopGroup (g : Nat) : (s.stopGroup g).CanonicalMemory := by
  unfold State.stopGroup
  grind [canonical_endPinsHalted, canonical_killCtx, canonical_foldl]
theorem canonical_failGroup (g code : Nat) : (s.failGroup g code).CanonicalMemory :=
  canonical_mapGroups h fun g hg => by split <;> exact hg
theorem canonical_saveRecord (c : CoreId) (x : CtxId) : (s.saveRecord c x).2.CanonicalMemory := by
  unfold State.saveRecord
  grind [State.canonicalMemory_iff, memWf_memAppend]
theorem canonical_fatalHold (c : CoreId) (x : CtxId) (faddr info : Word) : (s.fatalHold c x faddr info).CanonicalMemory := by
  have hr := canonical_saveRecord (canonical_modCtx h c x fun t => { t with run := .held }) c x
  refine canonical_mapGroups (canonical_trapRecord ?_ _) fun g hg => by split <;> exact hg
  split
  · exact canonical_modCore hr _ Core.canonical_switchPoint
  · exact hr
theorem canonical_saveOthers (g : Nat) : (s.saveOthers g).CanonicalMemory := by
  unfold State.saveOthers
  generalize allCtx = l
  refine canonical_foldl (fun s u hs => canonical_ite ?_ hs) l h
  have hr := canonical_saveRecord (canonical_ddSettle (canonical_modCtx hs u.1 u.2 Ctx.interrupt) u.1 u.2) u.1 u.2
  exact canonical_mapGroups hr fun g hg => by split <;> exact hg
theorem canonical_fatal (c : CoreId) (x : CtxId) (faddr info : Word) : (s.fatal c x faddr info).CanonicalMemory :=
  canonical_stopGroup (canonical_failGroup (canonical_saveOthers (canonical_fatalHold (canonical_ddSettle h ..) ..) ..) ..) ..
theorem canonical_holdFrame (c : CoreId) (x : CtxId) (f : Frame) : (s.holdFrame c x f).CanonicalMemory := canonical_modCtx h ..
theorem canonical_endPinsStopped : s.endPinsStopped.CanonicalMemory := canonical_endPins h ..
theorem canonical_stopHere (c : CoreId) (x : CtxId) : (s.stopHere c x).CanonicalMemory := by
  unfold State.stopHere
  grind [canonical_endPinsStopped, canonical_modCtx]
theorem canonical_takeTrap (c : CoreId) (x : CtxId) (f : Frame) (hdr : Word) (slot : R8) :
    (s.takeTrap c x f hdr slot).CanonicalMemory := by
  unfold State.takeTrap
  grind [canonical_modEnv, canonical_modCore, Core.canonical_completeFmt, canonical_modCtx, canonical_fatal,
    canonical_holdFrame, canonical_stopHere, Core.canonical_switchPoint]

/-! ### Operands and results (Machine/Operands) -/

theorem canonical_slotFault (cause : BitVec 8) (faddr info : Word) : (s.slotFault cause faddr info).CanonicalMemory :=
  canonical_takeTrap h ..
theorem canonical_slotFaultFree (cause : BitVec 8) : (s.slotFaultFree cause).CanonicalMemory :=
  canonical_slotFault (canonical_freeWord h ..) ..
theorem canonical_outsideHandler {f : State → State} (hf : ∀ s, s.CanonicalMemory → (f s).CanonicalMemory) :
    (s.outsideHandler f).CanonicalMemory := by
  unfold State.outsideHandler
  grind [canonical_slotFaultFree]
theorem canonical_privileged {f : State → State} (hf : ∀ s, s.CanonicalMemory → (f s).CanonicalMemory) :
    (s.privileged f).CanonicalMemory := by
  unfold State.privileged
  grind [canonical_slotFaultFree]

/-! ### Accesses (Machine/Access) -/

theorem canonical_chargeBytes (a : Addr) (n : Nat) : (s.chargeBytes a n).CanonicalMemory := canonical_charge h ..
theorem canonical_walkFor (die : Fin 12) (asid : BitVec 7) (unit : BitVec 20) (a : Addr) :
    (s.walkFor die asid unit a).CanonicalMemory := canonical_ite h (h.of_fields rfl rfl rfl rfl rfl rfl)
theorem canonical_walkCtx (c : CoreId) (x : CtxId) (a : Addr) : (s.walkCtx c x a).CanonicalMemory := by
  unfold State.walkCtx
  grind [canonical_modCore, canonical_walkFor, Core.canonical_iff]
theorem canonical_newAcc (a : Access) : (s.newAcc a).CanonicalMemory :=
  canonical_foldl (fun _ _ hs => canonical_walkCtx hs ..) _ (canonical_modCur h ..)
theorem canonical_newLoad (a : Access) (lat : Nat) : (s.newLoad a lat).CanonicalMemory :=
  canonical_push (canonical_newAcc h ..) ..
theorem canonical_writeLoc (l : Loc) (n v : Nat) : (s.writeLoc l n v).CanonicalMemory := by
  unfold State.writeLoc
  grind [canonical_modCore, State.canonicalMemory_iff, Core.canonical_iff, memWf_memWriteN]
theorem canonical_poisonLoc (l : Loc) : (s.poisonLoc l).CanonicalMemory := by
  unfold State.poisonLoc
  grind [canonical_modCore, State.canonicalMemory_iff, Core.canonical_iff]
theorem canonical_healSector (l : Loc) (ws : List (Nat × Nat)) (a : Nat) : (s.healSector l ws a).CanonicalMemory := by
  unfold State.healSector
  grind [State.canonicalMemory_iff]
theorem canonical_l1Drop (c : CoreId) : (s.l1Drop c).CanonicalMemory := canonical_modCore h _ fun hk => hk
theorem canonical_l1Fill (c : CoreId) (line : Nat) : (s.l1Fill c line).CanonicalMemory := by
  unfold State.l1Fill
  grind [canonical_modCore, Core.canonical_iff]
theorem canonical_fillCtx (c : CoreId) (x : CtxId) (a : Addr) (p : Nat) : (s.fillCtx c x a p).CanonicalMemory :=
  canonical_l1Fill (canonical_mscCtx h ..) ..
theorem canonical_l1Read (c : CoreId) (x : CtxId) (a : Addr) (p n : Nat) : (s.l1Read c x a p n).2.CanonicalMemory := by
  unfold State.l1Read
  grind [canonical_fillCtx, canonical_draw]
theorem canonical_observeWord (c : CoreId) (a : Addr) (cc : Wc) : (s.observeWord c a cc).CanonicalMemory :=
  canonical_ite (canonical_l1Drop h ..) h
theorem canonical_settleBlocks (c : CoreId) (x : CtxId) : (s.settleBlocks c x).CanonicalMemory := canonical_modCtx h ..
theorem canonical_blockCtx (c : CoreId) (x : CtxId) (b : Blocks) : (s.blockCtx c x b).CanonicalMemory :=
  (canonical_modCtx h ..).of_fields rfl rfl rfl rfl rfl rfl
theorem canonical_wakeTest (c : CoreId) (x : CtxId) : (s.wakeTest c x).CanonicalMemory := by
  unfold State.wakeTest
  grind [canonical_observeWord, canonical_modCtx, canonical_settleBlocks, canonical_pend, canonical_walkCtx]
theorem canonical_retest (l : Loc) (n : Nat) : (s.retest l n).CanonicalMemory := by
  unfold State.retest
  grind [canonical_wakeTest, canonical_foldl]
theorem canonical_poisonLocs (ls : List Loc) : (s.poisonLocs ls).CanonicalMemory :=
  canonical_foldl (fun _ _ hs => canonical_retest (canonical_poisonLoc hs ..) ..) _ h
theorem canonical_retestAll : s.retestAll.CanonicalMemory := canonical_foldl (fun _ _ hs => canonical_wakeTest hs ..) _ h
theorem canonical_updAcc (c : CoreId) (x : CtxId) (id : Nat) (f : Access → Access) : (s.updAcc c x id f).CanonicalMemory :=
  canonical_modCtx h ..
theorem canonical_sweep (c : CoreId) (x : CtxId) : (s.sweep c x).CanonicalMemory := canonical_modCtx h ..
theorem canonical_endPinsScope (c : CoreId) (sc : Scope) : (s.endPinsScope c sc).CanonicalMemory := by
  unfold State.endPinsScope
  grind [canonical_endPins, canonical_retestAll, State.canonicalMemory_iff]
theorem canonical_makePin (c : CoreId) (x : CtxId) (line : Nat) (sc : Scope) : (s.makePin c x line sc).CanonicalMemory :=
  canonical_ite h (h.of_fields rfl rfl rfl rfl rfl rfl)
theorem canonical_pinAtom (c : CoreId) (x : CtxId) (a : Access) (line : Nat) : (s.pinAtom c x a line).CanonicalMemory := by
  unfold State.pinAtom
  grind [canonical_makePin, canonical_endPinsStopped, canonical_endPinsHalted, canonical_endPins]
theorem canonical_coreWrite (c : CoreId) (l : Loc) (n v : Nat) : (s.coreWrite c l n v).CanonicalMemory := by
  unfold State.coreWrite
  grind [canonical_writeLoc, canonical_modCore, canonical_retest, Core.canonical_iff]
theorem canonical_arrive (c : CoreId) (b : Fin 4) : (s.arrive c b).CanonicalMemory := h
theorem canonical_tlbRemove (c : CoreId) (sc : Scope) (asid : BitVec 7) (a : Option Word) :
    (s.tlbRemove c sc asid a).CanonicalMemory := by
  unfold State.tlbRemove
  grind [canonical_modCore, canonical_foldl, State.canonicalMemory_iff, Core.canonical_iff]
theorem canonical_performElem (c : CoreId) (x : CtxId) (a : Access) (k : Nat) : (s.performElem c x a k).CanonicalMemory := by
  have hu (s : State) (hs : s.CanonicalMemory) (f : Access → Access) := canonical_updAcc hs c x a.id f
  cases he : a.elems[k]? with
  | none => simpa only [State.performElem, he] using h
  | some e =>
    cases hk : a.kind with
    | load poc =>
      cases hl : s.loc c x false e.a with
      | none => simpa only [State.performElem, he, hk, hl] using hu s h _
      | some l =>
        have hr : (s.loadRead c x e l poc).2.CanonicalMemory := by
          unfold State.loadRead
          grind [canonical_l1Read, canonical_mscCtx]
        rw [State.performElem_load he hk hl]
        grind [canonical_observeWord, canonical_l1Drop]
    | store =>
      cases hl : s.loc c x true e.a with
      | none =>
        simp only [State.performElem, he, hk, hl]
        grind [canonical_sweep, canonical_pend]
      | some l =>
        rw [State.performElem_store he hk hl]
        grind [canonical_sweep, canonical_endPinsScope, canonical_healSector, canonical_coreWrite, canonical_mscCtx]
    | atom op sg v cmp =>
      cases hl : s.loc c x true e.a with
      | none => simpa only [State.performElem, he, hk, hl] using hu s h _
      | some l =>
        simp only [State.performElem, he, hk, hl]
        grind [canonical_coreWrite, canonical_mscCtx, canonical_pinAtom]
    | fence obs =>
      simp only [State.performElem, he, hk]
      grind [canonical_sweep, canonical_endPinsScope, canonical_l1Drop]
    | release =>
      simp only [State.performElem, he, hk]
      exact canonical_sweep (hu s h _) ..
    | bara b =>
      simp only [State.performElem, he, hk]
      exact canonical_sweep (canonical_arrive (hu s h _) ..) ..
    | evsig v =>
      simp only [State.performElem, he, hk]
      exact canonical_sweep (canonical_interrupt (hu s h _) ..) ..
    | tlbinv sc w =>
      simp only [State.performElem, he, hk]
      exact canonical_sweep (canonical_modCore (canonical_tlbRemove (hu s h _) ..) _ fun hk => hk) ..
theorem canonical_performIf (c : CoreId) (x : CtxId) (id k : Nat) : (s.performIf c x id k).CanonicalMemory := by
  unfold State.performIf
  grind [canonical_wakeTest, canonical_performElem]

/-! ### The hub (Machine/Hub) -/

theorem canonical_modRec (r : Nat) (f : Record → Record) : (s.modRec r f).CanonicalMemory := h
theorem canonical_mscHub (f : Nat) (write : Bool) (va n : Nat) : (s.mscHub f write va n).CanonicalMemory :=
  canonical_mscTouch h ..
theorem canonical_hubMove (r k : Nat) : (s.hubMove r k).CanonicalMemory := by
  unfold State.hubMove
  grind [canonical_modRec, canonical_walkFor, canonical_poisonLocs, canonical_hostAsk, canonical_mscHub, canonical_hostWrite,
    canonical_retest, canonical_writeLoc]

/-! ### Engine jobs (Machine/Jobs) -/

theorem canonical_engWrite (ls : List Loc) (vs : List Nat) : (s.engWrite ls vs).CanonicalMemory := by
  induction ls generalizing s vs with
  | nil => exact h
  | cons l ls ih =>
    cases vs with
    | nil => exact h
    | cons v vs =>
      unfold State.engWrite
      exact ih (canonical_retest (canonical_writeLoc h ..) ..) vs
theorem canonical_engWriteN (ls : List Loc) (v : Nat) : (s.engWriteN ls v).CanonicalMemory := by
  unfold State.engWriteN
  grind [canonical_retest, canonical_writeLoc, canonical_engWrite]
theorem canonical_mscEng (c : CoreId) (x : CtxId) (write : Bool) (a : Addr) (n : Nat) :
    (s.mscEng c x write a n).CanonicalMemory := canonical_ite (canonical_mscTouch h ..) h
theorem canonical_modJob (id : Nat) (f : Job → Job) : (s.modJob id f).CanonicalMemory := h
theorem canonical_jobStop (id code : Nat) : (s.jobStop id code).CanonicalMemory := canonical_modJob h ..
theorem canonical_freeBytes (n : Nat) : (s.freeBytes n).2.CanonicalMemory := h
theorem canonical_engWalk (c : CoreId) (x : CtxId) (unit : BitVec 20) (a : Addr) (n : Nat) :
    (s.engWalk c x unit a n).CanonicalMemory := canonical_foldl (fun _ _ hs => canonical_ite (canonical_walkFor hs ..) hs) _ h
theorem canonical_jobFail (j : Job) (a : Addr) (n : Nat) (a' : EngLoc) : (s.jobFail j a n a').CanonicalMemory := by
  unfold State.jobFail
  grind [canonical_jobStop, canonical_engWalk, canonical_modJob]
theorem canonical_jobMove (id k : Nat) : (s.jobMove id k).CanonicalMemory := by
  unfold State.jobMove
  split
  · exact h
  · refine canonical_ite h ?_
    split
    · exact h
    · next j _ _ r lo n _ =>
      refine canonical_ite (canonical_jobStop h ..) (canonical_ite h ?_)
      split
      · exact canonical_jobFail h ..
      · exact canonical_jobFail h ..
      · extract_lets s1 s2 s3
        have h2 : s2.CanonicalMemory := canonical_mscEng (canonical_mscEng (canonical_modJob h ..) ..) ..
        have h3 : s3.CanonicalMemory := canonical_ite (canonical_engWriteN (canonical_freeBytes h2 ..) ..) (canonical_engWriteN h2 ..)
        exact canonical_ite (canonical_jobStop (canonical_poisonLocs h2 ..) ..) (canonical_healSector h3 ..)
theorem canonical_clearRange (j : Job) : (s.clearRange j).CanonicalMemory :=
  canonical_ite (canonical_modCore h _ fun hk => hk) h
theorem canonical_cardRead (id : Nat) (im : BitVec 512) : (s.cardRead id im).CanonicalMemory := by
  unfold State.cardRead
  grind [canonical_modJob, canonical_jobStop, canonical_clearRange]
theorem canonical_cardArrives (c : CoreId) (x : CtxId) (id : Nat) : (s.cardArrives c x id).CanonicalMemory := by
  unfold State.cardArrives
  grind [canonical_jobStop, canonical_modJob, canonical_cardRead]
theorem canonical_performAcc (c : CoreId) (x : CtxId) (id k : Nat) : (s.performAcc c x id k).CanonicalMemory :=
  canonical_cardArrives (canonical_performIf h ..) ..
theorem canonical_writeStatus (c : CoreId) (card code : Nat) : (s.writeStatus c card code).CanonicalMemory :=
  canonical_retest (canonical_writeLoc h ..) ..
theorem canonical_followers (j : Job) : (s.followers j).CanonicalMemory := h
theorem canonical_jobEnd (j : Job) (code bytes : Nat) : (s.jobEnd j code bytes).CanonicalMemory := by
  -- The body stands under a name of its own, or the kernel runs `writeStatus` to look for the next job.
  obtain ⟨f, hf⟩ : ∃ f, State.jobEnd = f := ⟨_, rfl⟩
  rw [hf]
  delta State.jobEnd at hf
  subst hf
  beta_reduce
  extract_lets s1 s2 s3 s4
  have h2 : s2.CanonicalMemory := canonical_modCtx (canonical_followers (canonical_modJob h ..) ..) ..
  have h4 : s4.CanonicalMemory := canonical_charge (canonical_writeStatus h2 ..) ..
  split
  · exact canonical_ite (canonical_clearRange h4 ..) h4
  · exact h4
theorem canonical_execCopyJobComplete (id : Nat) : CanonicalOut (execCopyJobComplete id s) := by
  unfold execCopyJobComplete
  grind [canonical_jobEnd, canonical_next]
theorem canonical_icRead (die : Fin 12) (pa : Nat) : ∀ r, s.icRead die pa = .ok r → r.2.CanonicalMemory := by
  intro r hr
  unfold State.icRead at hr
  extract_lets l e at hr
  split at hr
  · split at hr
    · cases hr
    · obtain rfl := Except.ok.inj hr
      exact h
  · split at hr
    · cases hr
    · obtain rfl := Except.ok.inj hr
      exact h
theorem canonical_icCopy (j : Job) (n a d moved : Nat) : (s.icCopy j n a d moved).2.2.CanonicalMemory := by
  induction n generalizing s a d moved with
  | zero => exact h
  | succ n ih =>
    unfold State.icCopy
    split
    · next pa _ =>
      split
      · exact canonical_modCore h _ fun hk => hk
      · next r hr =>
        have h1 := canonical_icRead h _ _ r hr
        extract_lets t
        have ht : t.CanonicalMemory := canonical_ite h1 (canonical_mscEng h1 ..)
        exact ih (canonical_modCore ht j.core fun ⟨hv, hi, hs⟩ => ⟨hv, memWf_memWriteN hi .., hs⟩) ..
    · exact h
    · exact h
theorem canonical_execCodeLoadComplete (id : Nat) : CanonicalOut (execCodeLoadComplete id s) := by
  unfold execCodeLoadComplete
  refine canonical_next ?_
  split
  · exact h
  · next j _ =>
    refine canonical_ite h ?_
    split
    · exact canonical_jobEnd h ..
    · extract_lets s1 d len
      have h1 : s1.CanonicalMemory := canonical_clearRange h j
      have hc := canonical_icCopy h1 j (len / 64) (cardW j.im 0) d 0
      split
      · exact canonical_jobFail h1 ..
      · next e =>
        rw [e] at hc
        exact canonical_jobEnd hc ..
      · next e =>
        rw [e] at hc
        exact canonical_jobEnd hc ..
      · next e =>
        rw [e] at hc
        exact canonical_jobEnd hc ..
      · next e =>
        rw [e] at hc
        refine canonical_ite (canonical_jobEnd hc ..) ?_
        split
        · exact canonical_jobEnd hc ..
        · exact canonical_jobEnd (canonical_modCore hc _ fun hk => hk) ..
theorem canonical_execIcinvComplete (id : Nat) : CanonicalOut (execIcinvComplete id s) := by
  unfold execIcinvComplete
  grind [canonical_jobEnd, canonical_jobFail, canonical_next, State.canonicalMemory_iff]

/-! ### Headers (Machine/Header) -/

theorem canonical_imageWalk (x : Record) (v : Nat) : (s.imageWalk x v).CanonicalMemory := canonical_walkFor h ..

/-! ### Control (Machine/Control) -/

theorem canonical_seqPreds (c : CoreId) (x : CtxId) (v : BitVec 8) : (s.seqPreds c x v).CanonicalMemory :=
  canonical_modCore h _ fun hk => hk
theorem canonical_modLoop (f : Loop → Loop) : (s.modLoop f).CanonicalMemory := canonical_modCur h ..
theorem canonical_take (t : Transfer) : (s.take t).CanonicalMemory := canonical_ite h (canonical_modEnv h ..)
theorem canonical_pushB (b : R8) (v : Word) : (s.pushB b v).CanonicalMemory := canonical_push h ..
theorem canonical_execWait (gd : Guard) (a : R16) (b : R64) (c : Wc) (dword : Bool) :
    CanonicalOut (execWait gd a b c dword s) := by
  refine canonical_slotDo h _ _ fun s hs => canonical_ite (canonical_slotFault hs ..) ?_
  split
  · exact canonical_observeWord hs ..
  · exact canonical_slotFault hs ..
  · exact canonical_slotFault hs ..
  · exact canonical_modEnv hs _
theorem canonical_sleepTo (t : Word) : (s.sleepTo t).CanonicalMemory :=
  canonical_ite (canonical_modEnv (canonical_modCur h ..) ..) (canonical_modCur h ..)

/-! ### Addresses (Machine/Address) -/

theorem canonical_pushA (d : R16) (v : Addr) (t : Bool) : (s.pushA d v t).CanonicalMemory := canonical_push h ..

/-! ### Vector forms (Machine/Vector) -/

theorem canonical_pushW (lat : Nat) (d : R64) (v : BitVec 4096) (fl : BitVec 7) : (s.pushW lat d v fl).CanonicalMemory :=
  canonical_push h ..
theorem canonical_pushLanes (lat : Nat) (d : R64) (n : Nat) (l : List (Nat × BitVec 7)) :
    (s.pushLanes lat d n l).CanonicalMemory := canonical_pushW h ..
theorem canonical_vecDo (gd : Guard) {f : State → State} (hf : ∀ s, s.CanonicalMemory → (f s).CanonicalMemory) :
    CanonicalOut (vecDo gd f s) := by
  unfold vecDo
  grind [canonical_slotDo]
theorem canonical_vec1 (gd : Guard) (ty : VTy) (d a : R64) (f : Nat → Nat × BitVec 7) : CanonicalOut (vec1 gd ty d a f s) := by
  unfold vec1
  grind [canonical_vecDo, canonical_pushLanes]
theorem canonical_vec2 (gd : Guard) (ty : VTy) (d a b : R64) (f : Nat → Nat → Nat × BitVec 7) :
    CanonicalOut (vec2 gd ty d a b f s) := by
  unfold vec2
  grind [canonical_vecDo, canonical_pushLanes]
theorem canonical_vec3 (gd : Guard) (ty : VTy) (d a b : R64) (f : Nat → Nat → Nat → Nat × BitVec 7) :
    CanonicalOut (vec3 gd ty d a b f s) := by
  unfold vec3
  grind [canonical_vecDo, canonical_pushLanes]
theorem canonical_vecBits (gd : Guard) (d a b : R64) (f : BitVec 4096 → BitVec 4096 → BitVec 4096) :
    CanonicalOut (vecBits gd d a b f s) := by
  unfold vecBits
  grind [canonical_vecDo, canonical_pushW]
theorem canonical_vecSpecial (gd : Guard) (f : Nat) (ty : VTy) (d a : R64) : CanonicalOut (vecSpecial gd f ty d a s) := by
  unfold vecSpecial
  grind [canonical_slotDo, canonical_pushLanes]
theorem canonical_pushSpread (d : R64) (n cnt : Nat) (l : List (Nat × BitVec 7)) : (s.pushSpread d n cnt l).CanonicalMemory :=
  canonical_foldl (fun _ _ hs => canonical_pushW hs ..) _ h

/-! ### Memory forms (Machine/Memory) -/

theorem canonical_checked (ea : Addr) (n : Nat) (write scratchOnly : Bool) {f : State → State}
    (hf : ∀ s, s.CanonicalMemory → (f s).CanonicalMemory) : (s.checked ea n write scratchOnly f).CanonicalMemory := by
  unfold State.checked
  grind [canonical_slotFault]
theorem canonical_loadBytes (os : Os) (m : Mem) (unit n own : Nat) (scratchOnly : Bool) (dest : Bool → LoadDest)
    (f : Access → Access) : (s.loadBytes os m unit n own scratchOnly dest f).CanonicalMemory := by
  unfold State.loadBytes
  grind [canonical_checked, canonical_chargeBytes, canonical_newLoad]
theorem canonical_storeBytes (os : Os) (m : Mem) (unit n data : Nat) (scratchOnly : Bool) (f : Access → Access) :
    (s.storeBytes os m unit n data scratchOnly f).CanonicalMemory := by
  unfold State.storeBytes
  grind [canonical_checked, canonical_chargeBytes, canonical_newAcc]
theorem canonical_execGath (gd : Guard) (sz : MSize) (os : Os) (d : R64) (a : R16) (x : R64) :
    CanonicalOut (execGath gd sz os d a x s) := by
  refine canonical_slotDo h _ _ fun s hs => ?_
  dsimp only
  split
  · exact canonical_slotFault hs ..
  · exact canonical_foldl (fun s l hs => canonical_chargeBytes hs ..) _ (canonical_newLoad hs ..)
theorem canonical_execScat (gd : Guard) (sz : MSize) (os : Os) (d : R64) (a : R16) (x : R64) :
    CanonicalOut (execScat gd sz os d a x s) := by
  refine canonical_slotDo h _ _ fun s hs => ?_
  dsimp only
  split
  · exact canonical_slotFault hs ..
  · exact canonical_foldl (fun s l hs => canonical_chargeBytes hs ..) _ (canonical_newAcc hs ..)
theorem canonical_tileNamed (m : R16) {f : State → State} (hf : ∀ s, s.CanonicalMemory → (f s).CanonicalMemory) :
    (s.tileNamed m f).CanonicalMemory := by
  unfold State.tileNamed
  grind [canonical_slotFaultFree]
theorem canonical_blockNamed (d : R64) {f : Q512 → State → State} (hf : ∀ y s, s.CanonicalMemory → (f y s).CanonicalMemory) :
    (s.blockNamed d f).CanonicalMemory := by
  unfold State.blockNamed
  grind [canonical_slotFaultFree]
theorem canonical_fenceForm (e : Bool) (sc : Scope) (d : R64) : (s.fenceForm e sc d).CanonicalMemory := canonical_newAcc h ..
theorem canonical_execPref (gd : Guard) (_os : Os) (m : Mem) : CanonicalOut (execPref gd _os m s) := by
  refine canonical_slotDo h _ _ fun s hs => canonical_ite hs ?_
  split
  · exact canonical_ite hs (canonical_chargeBytes (canonical_fillCtx hs ..) ..)
  · exact hs

/-! ### Matrix forms (Machine/Matrix) -/

theorem canonical_matDo (gd : Guard) (sp : Option R8) (cls : State → EClass) {f : State → State}
    (hf : ∀ s, s.CanonicalMemory → (f s).CanonicalMemory) : CanonicalOut (matDo gd sp cls f s) := by
  unfold matDo
  grind [canonical_slotDo, canonical_outsideHandler, canonical_chargeSlot]
theorem canonical_accForm (q : Q512) {f : State → State} (hf : ∀ s, s.CanonicalMemory → (f s).CanonicalMemory) :
    (s.accForm q f).CanonicalMemory := by
  unfold State.accForm
  grind [canonical_slotFaultFree]
theorem canonical_blocksOk (qs : List Q512) {f : State → State} (hf : ∀ s, s.CanonicalMemory → (f s).CanonicalMemory) :
    (s.blocksOk qs f).CanonicalMemory := by
  unfold State.blocksOk
  grind [canonical_slotFaultFree]
theorem canonical_mmaStep (ko : Nat) (kq : Q512) (ka kb : R16) (ro : Nat) (rq : Q512) (ra rb : R16) :
    (s.mmaStep ko kq ka kb ro rq ra rb).CanonicalMemory := by
  unfold State.mmaStep
  grind [canonical_slotFaultFree, canonical_modCur, canonical_push]
theorem canonical_pushTile (d : R16) (l : List (Nat × Nat × Nat)) (fl : BitVec 7) : (s.pushTile d l fl).CanonicalMemory :=
  canonical_push h ..
theorem canonical_pushCells (d : R16) (sh : BitVec 20) (cs : List (Nat × Nat)) (f : Nat → Nat → Nat × BitVec 7) :
    (s.pushCells d sh cs f).CanonicalMemory := canonical_pushTile h ..
theorem canonical_execMcvtMx4 (gd : Guard) (sp : Option R8) (rm : Rm) (_sat : Bool) (d : R16) (q : Q512) :
    CanonicalOut (execMcvtMx4 gd sp rm _sat d q s) := by
  refine canonical_matDo h _ _ _ fun s hs => canonical_ite ?_ (canonical_slotFaultFree hs ..)
  dsimp only
  split
  · exact canonical_slotFault hs ..
  · exact canonical_pushTile hs ..

/-! ### Engine forms (Machine/Engine) -/

theorem canonical_opsel (n : R8) : (s.opsel n).CanonicalMemory := canonical_modCore h _ fun hk => hk
theorem canonical_card (a : R16) {f : Addr → State → State} (hf : ∀ y s, s.CanonicalMemory → (f y s).CanonicalMemory) :
    (s.card a f).CanonicalMemory := by
  unfold State.card
  grind [canonical_slotFault]
theorem canonical_startJob (kind : JobKind) (d : R64) (ea : Addr) : (s.startJob kind d ea).CanonicalMemory := by
  unfold State.startJob
  grind [canonical_modCore, canonical_newAcc, canonical_newLoad, State.canonicalMemory_iff, Core.canonical_iff]
theorem canonical_startLoad (kind : JobKind) (d : R64) (a : R16) : (s.startLoad kind d a).CanonicalMemory := by
  unfold State.startLoad
  grind [canonical_card, canonical_slotFault, canonical_slotFaultFree, canonical_startJob]
theorem canonical_modSub (c : CoreId) (r : Fin 4) (f : Sub → Sub) : (s.modSub c r f).CanonicalMemory :=
  canonical_modCore h _ fun hk => hk
theorem canonical_execUnsub (gd : Guard) (r : Fin 4) : CanonicalOut (execUnsub gd r s) := by
  refine canonical_slotDo h _ _ fun s hs => canonical_outsideHandler hs fun s hs => ?_
  split
  · exact hs
  · exact canonical_ite hs (canonical_ite (canonical_slotFaultFree hs ..) (canonical_ite hs (canonical_modSub hs ..)))
theorem canonical_execRingack (gd : Guard) (r : Fin 4) : CanonicalOut (execRingack gd r s) := by
  refine canonical_slotDo h _ _ fun s hs => canonical_outsideHandler hs fun s hs => ?_
  split
  · exact canonical_ite (canonical_slotFaultFree hs ..) (canonical_modSub (canonical_newAcc hs ..) ..)
  · exact canonical_slotFaultFree hs ..

/-! ### Rings (Machine/Rings) -/

theorem canonical_subStop (c : CoreId) (r : Fin 4) (code : Nat) : (s.subStop c r code).CanonicalMemory := canonical_modSub h ..
theorem canonical_subFail (c : CoreId) (r : Fin 4) (u : Sub) (unit : BitVec 20) (a : Addr) (e : EngLoc) :
    (s.subFail c r u unit a e).CanonicalMemory := by
  unfold State.subFail
  grind [canonical_subStop, canonical_engWalk]
theorem canonical_poisonCopy (src dst : List Loc) : (s.poisonCopy src dst).CanonicalMemory := canonical_poisonLocs h ..
theorem canonical_execLoaderTileWrite (c : CoreId) (r : Fin 4) : CanonicalOut (execLoaderTileWrite c r s) := by
  -- The pieces stand under a name of their own, or the kernel counts them out to choose one.
  obtain ⟨pieces, hp⟩ : ∃ p, Sub.pieces = p := ⟨_, rfl⟩
  unfold execLoaderTileWrite
  rw [hp]
  refine canonical_next ?_
  split
  · next u g _ _ =>
    extract_lets i len slot ps d s1
    refine canonical_ite h ?_
    have hd : d.2.CanonicalMemory := canonical_draw h
    split
    · exact canonical_modSub (canonical_retest (canonical_writeLoc h ..) ..) ..
    · extract_lets a
      split
      · exact canonical_subFail hd ..
      · have hm := canonical_mscEng hd c u.owner false
        exact canonical_ite (canonical_subStop (canonical_poisonCopy (hm ..) ..) ..) (canonical_modSub (canonical_engWriteN (hm ..) ..) ..)
  · exact h
theorem canonical_execStorerSlotPull (c : CoreId) (r : Fin 4) : CanonicalOut (execStorerSlotPull c r s) := by
  unfold execStorerSlotPull
  grind [canonical_poisonCopy, canonical_subStop, canonical_retest, canonical_writeLoc, canonical_modSub, canonical_next]
theorem canonical_execStorerTileWrite (c : CoreId) (r : Fin 4) : CanonicalOut (execStorerTileWrite c r s) := by
  -- The pieces stand under a name of their own, or the kernel counts them out to choose one.
  obtain ⟨pieces, hp⟩ : ∃ p, Sub.pieces = p := ⟨_, rfl⟩
  unfold execStorerTileWrite
  rw [hp]
  refine canonical_next ?_
  split
  · split
    · exact h
    · extract_lets ps d
      have hd : d.2.CanonicalMemory := canonical_draw h
      split
      · exact canonical_modSub h ..
      · extract_lets a
        split
        · exact canonical_subFail hd ..
        · exact canonical_modSub (canonical_healSector (canonical_engWriteN (canonical_mscEng hd ..) ..) ..) ..
  · exact h
theorem canonical_subEnd (c : CoreId) (r : Fin 4) : (s.subEnd c r).CanonicalMemory := by
  have hf (n : RingDecl) (m : Memory) (hm : memWf m = true) : memWf (clearFlags n m) = true :=
    memWf_foldl (fun m i hm => memWf_memWriteN hm ..) _ hm
  unfold State.subEnd
  split
  · next u g _ _ =>
    split
    · exact h
    · extract_lets s1 s2 s3
      have h1 : s1.CanonicalMemory := canonical_modCore h c fun hk => ⟨hf g _ hk.1, hk.2⟩
      have h2 : s2.CanonicalMemory := canonical_charge (canonical_modCtx h1 ..) ..
      have h3 : s3.CanonicalMemory := canonical_ite (canonical_retest h2 ..) h2
      exact canonical_ite (canonical_writeStatus h3 ..) h
  · exact h
theorem canonical_execSubscriptionEnd (c : CoreId) (r : Fin 4) : CanonicalOut (execSubscriptionEnd c r s) :=
  canonical_next (canonical_subEnd h ..)

/-! ### The Bracken unit (Machine/Bracken) -/

theorem canonical_ddStart (opc fn : Nat) (x y z : Word) (rcd : Option Addr) (area : Space → Nat) :
    (s.ddStart opc fn x y z rcd area).CanonicalMemory := by
  unfold State.ddStart
  grind [canonical_slotFaultFree, canonical_slotFault, canonical_newAcc, canonical_modCore, Core.canonical_iff]
theorem canonical_ddRecord (opc fn : Nat) (a : R16) (x y z : Word) : (s.ddRecord opc fn a x y z).CanonicalMemory :=
  canonical_ddStart h ..
theorem canonical_execDdvar (gd : Guard) (d a : R64) : CanonicalOut (execDdvar gd d a s) := by
  refine canonical_slotDo h _ _ fun s hs => ?_
  split
  · exact canonical_slotFaultFree hs ..
  · exact canonical_ite (canonical_slotFaultFree hs ..) (canonical_pushG hs ..)
theorem canonical_poolWalk (c : CoreId) (x : CtxId) (sp : Space) (ids : List Nat) : (s.poolWalk c x sp ids).CanonicalMemory :=
  canonical_foldl (fun _ _ hs => canonical_ite (canonical_walkFor hs ..) hs) _ h
theorem canonical_poolPut (c : CoreId) (x : CtxId) (a : Addr) (n v : Nat) : (s.poolPut c x a n v).CanonicalMemory := by
  unfold State.poolPut
  grind [canonical_writeLoc, canonical_mscTouch]
theorem canonical_relink (c : CoreId) (x : CtxId) (sp : Space) (id img : Nat) : (s.relink c x sp id img).CanonicalMemory :=
  (canonical_poolPut (canonical_poolPut (canonical_poolPut h ..) ..) ..).of_fields rfl rfl rfl rfl rfl rfl
theorem canonical_poolWrite (c : CoreId) (x : CtxId) (old new : Space) : (s.poolWrite c x old new).CanonicalMemory := by
  unfold State.poolWrite
  grind [canonical_poolPut, canonical_relink, canonical_foldl]
theorem canonical_vaultPut (c : CoreId) (o : Nat) (l : List Byte) : (s.vaultPut c o l).CanonicalMemory :=
  canonical_retest (canonical_writeLoc h ..) ..
theorem canonical_execBrackenAccept (c : CoreId) : CanonicalOut (execBrackenAccept c s) := by
  unfold execBrackenAccept
  grind [canonical_poolWalk, canonical_setSpace, canonical_poolWrite, canonical_vaultPut, canonical_draw, canonical_setEntry,
    canonical_ddDone, canonical_next, canonical_foldl, State.canonicalMemory_iff]
theorem canonical_ddComplete (c : CoreId) (e : R16) : (s.ddComplete c e).CanonicalMemory := by
  unfold State.ddComplete
  grind [canonical_retest, canonical_ddEnd]
theorem canonical_execDdOperationComplete (c : CoreId) (e : R16) : CanonicalOut (execDdOperationComplete c e s) :=
  canonical_next (canonical_ddComplete h ..)
theorem canonical_ddDiscard (c : CoreId) (e : R16) (d : DdEntry) : (s.ddDiscard c e d).CanonicalMemory := by
  unfold State.ddDiscard
  grind [canonical_retest, canonical_ddDrop]
theorem canonical_execDdAbandon (c : CoreId) (e : R16) : CanonicalOut (execDdAbandon c e s) := by
  unfold execDdAbandon
  grind [canonical_ddDiscard, canonical_ddAbandoned, canonical_next]
theorem canonical_ddResubmit (c : CoreId) (x : CtxId) (e : R16) : (s.ddResubmit c x e).CanonicalMemory := by
  unfold State.ddResubmit
  grind [canonical_modCore, Core.canonical_iff]
theorem canonical_ddHalt (c : CoreId) (x : CtxId) : (s.ddHalt c x).CanonicalMemory :=
  canonical_modCtx (canonical_foldl (fun _ _ hs => canonical_ite (canonical_ddDiscard hs ..) hs) _ h) ..
theorem canonical_ddFinish (c : CoreId) (x : CtxId) : (s.ddFinish c x).CanonicalMemory :=
  canonical_ddHalt (canonical_foldl (fun _ _ hs => canonical_ite (canonical_ite (canonical_ddDiscard hs ..)
    (canonical_ddComplete hs ..)) hs) _ h) ..

/-! ### Domains (Machine/Domain) -/

theorem canonical_dropDom (c : CoreId) (x : CtxId) : (s.dropDom c x).CanonicalMemory := canonical_modCore h _ fun hk => hk
theorem canonical_failCommit (dreg : R64) : (s.failCommit dreg).CanonicalMemory := by
  unfold State.failCommit
  grind [canonical_modCur, canonical_dropDom, canonical_slotFaultFree, canonical_modEnv]
theorem canonical_userTransfer (c : CoreId) (x : CtxId) (target : Word) : (s.userTransfer c x target).CanonicalMemory :=
  canonical_ite (canonical_modCtx h ..) (canonical_takeTrap h ..)
theorem canonical_dueTrap (c : CoreId) (x : CtxId) (cause : BitVec 8) : (s.dueTrap c x cause).CanonicalMemory :=
  canonical_takeTrap (canonical_freeWord h ..) ..
theorem canonical_failApply (c : CoreId) (x : CtxId) (dreg : R64) (entry : Nat) (hdr : Word) :
    (s.failApply c x dreg entry hdr).CanonicalMemory := by
  unfold State.failApply
  grind [canonical_dropDom, canonical_modCtx, canonical_dueTrap, canonical_userTransfer]
theorem canonical_episodeStep (c : CoreId) (x : CtxId) (e : Episode) : (s.episodeStep c x e).CanonicalMemory := by
  unfold State.episodeStep
  extract_lets t sk
  have hk : sk.CanonicalMemory := canonical_modCore h c fun hk => hk
  split
  · exact canonical_modCtx h ..
  · extract_lets s1 s2 e'
    have h1 : s1.CanonicalMemory := canonical_modCtx h ..
    have h2 : s2.CanonicalMemory := canonical_modCtx h1 ..
    refine canonical_ite (canonical_ite (canonical_ite (canonical_dropDom h2 ..) (canonical_dueTrap (canonical_dropDom h2 ..) ..)) h1) ?_
    split
    · exact hk
    · split
      · exact canonical_failApply (canonical_modCtx hk ..) ..
      · dsimp only
        split
        · exact canonical_failApply (canonical_modCtx hk ..) ..
        · exact canonical_modCtx (canonical_modCore hk c fun hk => Core.canonical_freshD hk ..) ..
theorem canonical_applyDom (c : CoreId) (x : CtxId) (p : PendDom) : (s.applyDom c x p).CanonicalMemory := by
  unfold State.applyDom
  grind [canonical_failApply, canonical_modCtx, canonical_modCore, Core.canonical_freshD, Core.canonical_saveLevel,
    Core.canonical_restorePoison]
theorem canonical_execDomainEffectApply (c : CoreId) (x : CtxId) : CanonicalOut (execDomainEffectApply c x s) := by
  unfold execDomainEffectApply
  grind [canonical_episodeStep, canonical_modCtx, canonical_applyDom, canonical_next]
theorem canonical_domDo (gd : Guard) (regs : List R64) {f : State → State} (hf : ∀ s, s.CanonicalMemory → (f s).CanonicalMemory) :
    CanonicalOut (domDo gd regs f s) := by
  unfold domDo
  grind [canonical_slotDo, canonical_outsideHandler, canonical_slotFaultFree]
theorem canonical_pushDom (lat : Nat) (eff : DomEff) : (s.pushDom lat eff).CanonicalMemory := canonical_modCur h ..
theorem canonical_execDset (gd : Guard) (d a b : R64) (k : BitVec 10) : CanonicalOut (execDset gd d a b k s) := by
  refine canonical_domDo h _ _ fun s hs => ?_
  split
  · exact canonical_failCommit hs ..
  · exact canonical_pushDom hs ..
theorem canonical_execDsetm (gd : Guard) (d a : R64) : CanonicalOut (execDsetm gd d a s) := by
  refine canonical_domDo h _ _ fun s hs => ?_
  dsimp only
  split
  · exact canonical_failCommit hs ..
  · exact canonical_pushDom hs ..
theorem canonical_pushRead (d : R64) (v : Word) : (s.pushRead d v).CanonicalMemory := canonical_ite h (canonical_push h ..)
theorem canonical_narrowForm (gd : Guard) (k : Bool) (e : Constraint) : CanonicalOut (narrowForm gd k e s) := by
  unfold narrowForm
  grind [canonical_domDo, canonical_slotFaultFree, canonical_failCommit, canonical_pushDom]

/-! ### Scalar forms (Machine/Scalar) -/

theorem canonical_alu (d : R64) (v : Word) (t : Bool) : (s.alu d v t).CanonicalMemory := canonical_pushG h ..
theorem canonical_alu2 (gd : Guard) (d a b : R64) (f : Word → Word → Word) : CanonicalOut (alu2 gd d a b f s) := by
  unfold alu2
  grind [canonical_slotDo, canonical_alu]
theorem canonical_aluI (gd : Guard) (d a : R64) (v : Imm) (f : Word → Word → Word) : CanonicalOut (aluI gd d a v f s) := by
  unfold aluI
  grind [canonical_slotDo, canonical_alu]
theorem canonical_alu1 (gd : Guard) (d a : R64) (f : Word → Word) : CanonicalOut (alu1 gd d a f s) := by
  unfold alu1
  grind [canonical_slotDo, canonical_alu]
theorem canonical_pred2 (gd : Guard) (d a b : R16) (f : Bool → Bool → Bool) : CanonicalOut (pred2 gd d a b f s) := by
  unfold pred2
  grind [canonical_slotDo, canonical_pushP]
theorem canonical_movcRead (d : R64) (cr : BitVec 10) : (s.movcRead d cr).CanonicalMemory := canonical_alu h ..
theorem canonical_execMovc (gd : Guard) (m : MovC) : CanonicalOut (execMovc gd m s) := by
  refine canonical_slotDo h _ _ fun s hs => ?_
  cases m with
  | read d cr => exact canonical_movcRead hs ..
  | write cr a => exact canonical_push hs ..

/-! ### System forms (Machine/System) -/

theorem canonical_execFrmst (gd : Guard) (a : R16) : CanonicalOut (execFrmst gd a s) :=
  canonical_slotDo h _ _ fun _ hs => canonical_privileged hs fun _ hs =>
    canonical_ite (canonical_newAcc hs ..) (canonical_slotFault hs ..)
theorem canonical_execFrmld (gd : Guard) (a : R16) : CanonicalOut (execFrmld gd a s) := by
  refine canonical_slotDo h _ _ fun s hs => canonical_privileged hs fun s hs => ?_
  have hf (x : Word) := canonical_slotFault hs 0x19 x 0
  refine canonical_ite (hf _) (canonical_ite (hf _) (canonical_ite (canonical_slotFault hs ..) ?_))
  split
  · exact canonical_modCur hs _
  · exact hf _
theorem canonical_deliver (c : CoreId) (x : CtxId) : (s.deliver c x).CanonicalMemory := by
  unfold State.deliver
  grind [canonical_takeTrap, canonical_modCtx]
theorem canonical_tret (c : CoreId) (x : CtxId) (hdr : Word) : (s.tret c x hdr).CanonicalMemory := by
  unfold State.tret
  grind [canonical_takeTrap, canonical_modCtx, canonical_ddResubmit, canonical_blockCtx, canonical_deliver, canonical_modCore,
    canonical_stopHere, Core.canonical_switchPoint, canonical_wakeTest]
theorem canonical_execTlbinvAckComplete (c : CoreId) : CanonicalOut (execTlbinvAckComplete c s) :=
  canonical_next (canonical_modCore h _ fun hk => hk)
theorem canonical_noteKill (g : Nat) : (s.noteKill g).CanonicalMemory := canonical_mapGroups h fun g hg => by split <;> exact hg
theorem canonical_execCkill (gd : Guard) (a : R64) : CanonicalOut (execCkill gd a s) := by
  refine canonical_slotDo h _ _ fun s hs => canonical_privileged hs fun s hs => ?_
  split
  · exact canonical_slotFaultFree hs ..
  · exact canonical_ite (canonical_modEnv hs _) (canonical_killCtx (canonical_noteKill hs ..) ..)

/-! ### Results and performs (Machine/Visible) -/

theorem canonical_subRead (c : CoreId) (x : CtxId) (card im : Nat) : (s.subRead c x card im).2.CanonicalMemory := by
  unfold State.subRead
  grind [canonical_subEnd, canonical_modCore, Core.canonical_iff]
theorem canonical_finishLoad (c : CoreId) (x : CtxId) (a : Access) : (s.finishLoad c x a).CanonicalMemory := by
  unfold State.finishLoad
  grind [canonical_modCtx, canonical_pend, canonical_freeWord, canonical_modCore, Core.canonical_setW, Core.canonical_setTile,
    Core.canonical_setBlock, canonical_subRead]
theorem canonical_applyWr (c : CoreId) (f : Flight) : (s.applyWr c f).CanonicalMemory := by
  unfold State.applyWr
  grind [canonical_modCtx, canonical_modCore, Core.canonical_setW, Core.canonical_setTile, Core.canonical_setBlock,
    canonical_finishLoad]
theorem canonical_forceOwn (c : CoreId) (x : CtxId) (id : Nat) : (s.forceOwn c x id).CanonicalMemory :=
  canonical_ite (canonical_foldl (fun _ _ hs => canonical_foldl (fun _ _ hs => canonical_performAcc hs ..) _ hs) _ h) h
theorem canonical_forceDue (c : CoreId) : (s.forceDue c).CanonicalMemory := by
  unfold State.forceDue
  grind [canonical_forceOwn, canonical_foldl]
theorem canonical_execResultVisible (c : CoreId) : CanonicalOut (execResultVisible c s) := by
  unfold execResultVisible
  grind [canonical_forceDue, canonical_applyWr, canonical_modCore, canonical_next, Core.canonical_iff]
theorem canonical_execLateDataArrival (c : CoreId) (x : CtxId) (id k : Nat) : CanonicalOut (execLateDataArrival c x id k s) :=
  canonical_next (canonical_performAcc h ..)
theorem canonical_execStorePerform (src : StoreSrc) : CanonicalOut (execStorePerform src s) := by
  unfold execStorePerform
  grind [canonical_performAcc, canonical_jobMove, canonical_hubMove, canonical_hostSend, canonical_modHub, canonical_next]
theorem canonical_promiseCheck (c : CoreId) (x : CtxId) (T : Word) : (s.promiseCheck c x T).CanonicalMemory := by
  unfold State.promiseCheck
  grind [canonical_modCtx, canonical_l1Drop, canonical_freeWord, canonical_takeTrap, canonical_pend]
theorem canonical_becomeReady (c : CoreId) (x : CtxId) : (s.becomeReady c x).CanonicalMemory := by
  unfold State.becomeReady
  grind [canonical_modCtx, canonical_promiseCheck]
theorem canonical_wakeAll (c : CoreId) : (s.wakeAll c).CanonicalMemory :=
  canonical_foldl (fun _ _ hs => canonical_ite (canonical_becomeReady hs ..) hs) _ h
theorem canonical_execSleepuWake (c : CoreId) (x : CtxId) : CanonicalOut (execSleepuWake c x s) := by
  unfold execSleepuWake
  grind [canonical_settleBlocks, canonical_modCtx, canonical_next]
theorem canonical_execBarwWake (c : CoreId) (x : CtxId) : CanonicalOut (execBarwWake c x s) := by
  unfold execBarwWake
  grind [canonical_modCtx, canonical_becomeReady, canonical_next]
theorem canonical_execPendingTrapDelivery (c : CoreId) (x : CtxId) : CanonicalOut (execPendingTrapDelivery c x s) :=
  canonical_next (canonical_ite (canonical_deliver h ..) h)

/-! ### The slots (Machine/Slots) -/

theorem canonical_slotExec (i : Instr) : CanonicalOut (slotExec i s) := by
  unfold slotExec
  cases i <;> dsimp only
  -- Scalar and predicate forms.
  case add | sub | mul | mulh | divs | divn | rem | and | or | xor | andn | shl | shr | sra | rot | min | max | sel | bfx =>
    exact canonical_alu2 h ..
  case addi | muli | andi | ori | xori | shli | shri | srai => exact canonical_aluI h ..
  case clz | popc | ext | mov => exact canonical_alu1 h ..
  case movi | bfi | rdtime => exact canonical_slotDo h _ _ fun _ hs => canonical_alu hs ..
  case pand | por | pxor => exact canonical_pred2 h ..
  case pnot => exact canonical_slotDo h _ _ fun _ hs => canonical_pushP hs ..
  case cmp => exact canonical_slotDo h _ _ fun _ hs =>
      have hp := canonical_pushP hs ..; canonical_ite (canonical_pushP hp ..) hp
  case movc => exact canonical_execMovc h ..
  -- Vector and matrix forms.
  case vaddI | vabs | vneg => exact canonical_vec1 h ..
  case vadd | vsub | vmul | vfmaI | vmin | vmax | vcmp | viadd | visub | vimul | vshl | vshr | vsra => exact canonical_vec2 h ..
  case vfma | vfms | vimad => exact canonical_vec3 h ..
  case vand | vor | vxor => exact canonical_vecBits h ..
  case vrcp | vrsq | vsqrt | vexp2 | vlog2 | vsin | vcos | vtanh => exact canonical_vecSpecial h ..
  case vsel | vmask | vscan | vperm | vbcast | vbcastI => exact canonical_vecDo h _ fun _ hs => canonical_pushW hs ..
  case vshuf => exact canonical_vecDo h _ fun _ hs => canonical_pushW (canonical_pushW hs ..) ..
  case vcvt | vnarr | vpack | vredadd | vredmax => exact canonical_vecDo h _ fun _ hs => canonical_pushLanes hs ..
  case vwiden | vunpk => exact canonical_vecDo h _ fun _ hs => canonical_pushSpread hs ..
  case vargmax | vmovg => exact canonical_vecDo h _ fun _ hs => canonical_pushG hs ..
  case mma | mmaTa | mmaTb => exact canonical_matDo h _ _ _ fun _ hs => canonical_mmaStep hs ..
  case mzero | qcpy => exact canonical_matDo h _ _ _ fun _ hs => canonical_blocksOk hs _ fun _ hs => canonical_push hs ..
  case mscale | scaleByProduct => exact canonical_matDo h _ _ _ fun _ hs => canonical_accForm hs _ fun _ hs => canonical_push hs ..
  case qadd => exact canonical_matDo h _ _ _ fun _ hs => canonical_accForm hs _ fun _ hs => canonical_blocksOk hs _ fun _ hs =>
      canonical_push hs ..
  case mbias => exact canonical_matDo h _ _ _ fun _ hs => canonical_accForm hs _ fun _ hs =>
      canonical_ite (canonical_push hs ..) (canonical_slotFaultFree hs ..)
  case mcvt | mtrn | mred =>
    exact canonical_matDo h _ _ _ fun _ hs =>
      canonical_ite (canonical_pushCells hs ..) (canonical_slotFaultFree hs ..)
  case mcpy => exact canonical_matDo h _ _ _ fun _ hs => canonical_ite (canonical_push hs ..) (canonical_slotFaultFree hs ..)
  case mfill => exact canonical_matDo h _ _ _ fun _ hs => canonical_ite (canonical_pushTile hs ..) (canonical_slotFaultFree hs ..)
  case mcvtMx4 => exact canonical_execMcvtMx4 h ..
  -- Domain forms.
  case neq | nne | neqo | nneo | nlt | nle | nadd | nsub | nmul | nmin | nmax | nabs | nin | ndiff => exact canonical_narrowForm h ..
  case dset => exact canonical_execDset h ..
  case dsetm => exact canonical_execDsetm h ..
  case dlo | dhi | dcnt => exact canonical_domDo h _ _ fun _ hs => canonical_pushRead hs ..
  case nprop | nclr => exact canonical_domDo h _ _ fun _ hs => canonical_pushDom hs ..
  case nckpt | nrest | npop =>
    exact canonical_domDo h _ _ fun _ hs =>
      canonical_ite (canonical_slotFaultFree hs ..) (canonical_pushDom hs ..)
  -- Control and address forms.
  case nop | rwflush => exact canonical_slotDo h _ _ fun _ hs => hs
  case prep => exact canonical_slotDo h _ _ fun _ hs => canonical_pushB hs ..
  case bra | ret => exact canonical_slotDo h _ _ fun _ hs => canonical_take hs ..
  case call => exact canonical_slotDo h _ _ fun _ hs => canonical_ite hs (canonical_pushB (canonical_take hs ..) ..)
  case lset | lbrk => exact canonical_slotDo h _ _ fun _ hs => canonical_outsideHandler hs fun _ hs => canonical_modLoop hs _
  case lrun => exact canonical_slotDo h _ _ fun _ hs => canonical_outsideHandler hs fun _ hs =>
      have hl := canonical_modLoop hs _; canonical_ite (canonical_take hl ..) (canonical_take hl ..)
  case lclr => exact canonical_slotDo h _ _ fun _ hs => canonical_outsideHandler hs fun _ hs => canonical_push (canonical_modLoop hs _) ..
  case spset => exact canonical_slotDo h _ _ fun _ hs => canonical_outsideHandler hs fun _ hs => canonical_push hs ..
  case lidx | aget | akget | barq => exact canonical_slotDo h _ _ fun _ hs => canonical_pushG hs ..
  case wait => exact canonical_execWait h ..
  case sleepu | sleepuI => exact canonical_slotDo h _ _ fun _ hs => canonical_sleepTo hs ..
  case yield | halt | trap | syscall => exact canonical_slotDo h _ _ fun _ hs => canonical_modEnv hs _
  case hbeat => exact canonical_slotDo h _ _ fun _ hs => canonical_modCore hs _ fun hk => hk
  case aset | aadd | amov => exact canonical_slotDo h _ _ fun _ hs => canonical_pushA hs ..
  case aupd => exact canonical_slotDo h _ _ fun _ hs => canonical_outsideHandler hs fun _ hs => canonical_pushA hs ..
  case akset | akmov | setfmt | setfmtI => exact canonical_slotDo h _ _ fun _ hs => canonical_push hs ..
  case opsel | opselI => exact canonical_slotDo h _ _ fun _ hs => canonical_opsel hs ..
  -- Memory forms.
  case ld | ldc | lda | ldv => exact canonical_slotDo h _ _ fun _ hs => canonical_loadBytes hs ..
  case st | stl | stv => exact canonical_slotDo h _ _ fun _ hs => canonical_storeBytes hs ..
  case gath => exact canonical_execGath h ..
  case scat => exact canonical_execScat h ..
  case ldt => exact canonical_slotDo h _ _ fun _ hs => canonical_tileNamed hs _ fun _ hs => canonical_loadBytes hs ..
  case stt => exact canonical_slotDo h _ _ fun _ hs => canonical_tileNamed hs _ fun _ hs => canonical_storeBytes hs ..
  case ldtMx4 => exact canonical_slotDo h _ _ fun _ hs => canonical_tileNamed hs _ fun _ hs =>
      canonical_ite (canonical_slotFaultFree hs ..) (canonical_loadBytes hs ..)
  case ldq => exact canonical_slotDo h _ _ fun _ hs => canonical_blockNamed hs _ fun _ _ hs => canonical_loadBytes hs ..
  case stq => exact canonical_slotDo h _ _ fun _ hs => canonical_blockNamed hs _ fun _ _ hs => canonical_storeBytes hs ..
  case atom => exact canonical_slotDo h _ _ fun _ hs => canonical_checked hs _ _ _ _ fun _ hs =>
      canonical_chargeBytes (canonical_newLoad hs ..) ..
  case fence | fenceE => exact canonical_slotDo h _ _ fun _ hs => canonical_fenceForm hs ..
  case pref => exact canonical_execPref h ..
  -- Engine, ring and barrier forms.
  case setsct => exact canonical_slotDo h _ _ fun _ hs => canonical_ite (canonical_slotFault hs ..) (canonical_newLoad hs ..)
  case cpy => exact canonical_slotDo h _ _ fun _ hs => canonical_card hs _ fun _ _ hs =>
      canonical_ite (canonical_slotFault hs ..) (canonical_ite (canonical_slotFaultFree hs ..) (canonical_startJob hs ..))
  case cpyst => exact canonical_slotDo h _ _ fun _ hs => canonical_card hs _ fun _ _ hs =>
      canonical_ite (canonical_pushG hs ..) (canonical_newLoad hs ..)
  case subscr => exact canonical_slotDo h _ _ fun _ hs => canonical_outsideHandler hs fun _ hs => canonical_card hs _ fun _ _ hs =>
      canonical_newLoad hs ..
  case unsub => exact canonical_execUnsub h ..
  case ringack => exact canonical_execRingack h ..
  case icopy | icinv => exact canonical_slotDo h _ _ fun _ hs => canonical_startLoad hs ..
  case ifence =>
    exact canonical_slotDo h _ _ fun _ hs =>
      canonical_ite (canonical_slotFaultFree hs ..) (canonical_modCore hs _ fun hk => hk)
  case bara => exact canonical_slotDo h _ _ fun _ hs => canonical_outsideHandler hs fun _ hs =>
      canonical_ite hs (canonical_newAcc (canonical_modCur hs ..) _)
  case barw => exact canonical_slotDo h _ _ fun _ hs => canonical_outsideHandler hs fun _ hs => canonical_ite (canonical_modEnv hs ..) hs
  -- Decision-diagram forms.
  case ddapply | ddite | ddrestr | ddexist | dduniv | ddnot | ddcount | ddmask | ddgc =>
    exact canonical_slotDo h _ _ fun _ hs => canonical_ddRecord hs ..
  case ddref | ddunref | ddord | ddswap | ddstat => exact canonical_slotDo h _ _ fun _ hs => canonical_ddStart hs ..
  case ddvar => exact canonical_execDdvar h ..
  -- System forms.
  case tret => exact canonical_slotDo h _ _ fun _ hs => canonical_privileged hs fun _ hs => canonical_modEnv hs ..
  case tlbinv | tlbinvAll => exact canonical_slotDo h _ _ fun _ hs => canonical_privileged hs fun _ hs => canonical_newAcc hs ..
  case evsig => exact canonical_slotDo h _ _ fun _ hs => canonical_newAcc hs ..
  case movcSysRead => exact canonical_slotDo h _ _ fun _ hs => canonical_privileged hs fun _ hs => canonical_movcRead hs ..
  case movcSysWrite => exact canonical_slotDo h _ _ fun _ hs => canonical_privileged hs fun _ hs => canonical_push hs ..
  case frmst => exact canonical_execFrmst h ..
  case frmld => exact canonical_execFrmld h ..
  case ckill => exact canonical_execCkill h ..
  -- The device steps are no slot's.
  all_goals exact canonical_next h

/-! ### Rewrites (Machine/Rewrite) -/

theorem canonical_s6Exec (orig op : Instr) : CanonicalOut (s6Exec orig op s) := by
  unfold s6Exec
  grind [canonical_matDo, canonical_mmaStep, canonical_slotExec]
theorem canonical_rewriteP0 (l : Loop) : (s.rewriteP0 l).CanonicalMemory := by
  unfold State.rewriteP0
  grind [canonical_modCore, canonical_modCur, Core.canonical_iff]
theorem canonical_replaceS6 : s.replaceS6.CanonicalMemory := canonical_modEnv h ..
theorem canonical_advanceFired : s.advanceFired.CanonicalMemory := canonical_modCur h ..

/-! ### Issue (Machine/Issue) -/

theorem canonical_advance (c : CoreId) (x : CtxId) (hdr a : Nat) : (s.advance c x hdr a).CanonicalMemory :=
  canonical_ite (canonical_modCtx h ..) (canonical_seqPreds (canonical_modCtx (canonical_modCtx h ..) ..) ..)
theorem canonical_poisonFault (matched : Bool) : (s.poisonFault matched).CanonicalMemory :=
  canonical_takeTrap (canonical_freeWord h ..) ..
theorem canonical_commitForm (orig op : Instr) (matched : Bool) {f : State → State}
    (hf : ∀ s, s.CanonicalMemory → (f s).CanonicalMemory) : (commitForm orig op matched f s).CanonicalMemory := by
  unfold commitForm
  grind [canonical_poisonFault]
theorem canonical_commitSlot (orig : Instr) (y : Fin 8 × Instr) : (commitSlot orig y s).CanonicalMemory := by
  unfold commitSlot
  have h1 := canonical_modEnv h fun e => { e with slot := y.1 }
  extract_lets s1
  split
  · split
    · exact canonical_advanceFired h1
    · next op _ =>
      refine canonical_commitForm h1 _ _ _ fun s hs => ?_
      have h6 := canonical_s6Exec hs orig op
      split
      · next t e =>
        have ht := canonical_of_next (e ▸ h6)
        split
        · exact ht
        · split
          · exact canonical_advanceFired ht
          · exact ht
      · exact hs
  · refine canonical_commitForm h1 _ _ _ fun s hs => ?_
    split
    · next t e => exact canonical_of_next (e ▸ canonical_slotExec hs y.2)
    · exact hs
theorem canonical_commitAll (l : List (Fin 8 × Instr)) : (commitAll l s).CanonicalMemory := by
  induction l generalizing s with
  | nil => exact h
  | cons y ys ih =>
    unfold commitAll
    split
    · exact h
    · exact ih (canonical_commitSlot h ..)
theorem canonical_endSpan (c : CoreId) (x : CtxId) : (s.endSpan c x).CanonicalMemory :=
  canonical_modCore (canonical_modCtx h ..) _ fun hk => hk
theorem canonical_haltCtx (c : CoreId) (x : CtxId) : (s.haltCtx c x).CanonicalMemory := by
  unfold State.haltCtx
  grind [canonical_ddHalt, canonical_modCtx, canonical_modCore, canonical_endPinsStopped, canonical_endPinsHalted,
    Core.canonical_switchPoint]
theorem canonical_goOn (c : CoreId) (x : CtxId) (hdr next : Word) : (s.goOn c x hdr next).CanonicalMemory := by
  unfold State.goOn
  grind [canonical_tret, canonical_modCtx, canonical_seqPreds, canonical_advance]
theorem canonical_finish (flush : Bool) : (s.finish flush).CanonicalMemory := by
  unfold State.finish
  extract_lets c x env s1 s2 s3 blocks s4 d f s5
  have h1 : s1.CanonicalMemory := canonical_modCtx h ..
  have h2 : s2.CanonicalMemory := canonical_goOn h1 ..
  have h3 : s3.CanonicalMemory := canonical_ite (canonical_endSpan h2 ..) h2
  have h4 : s4.CanonicalMemory := by
    dsimp only [s4]
    split
    · exact canonical_ite h3 (canonical_promiseCheck h3 ..)
    · exact h3
  have h5 : s5.CanonicalMemory := canonical_blockCtx (canonical_modCtx h4 ..) ..
  have switch {s : State} (hs : s.CanonicalMemory) := canonical_modCore (canonical_stopHere hs c x) c Core.canonical_switchPoint
  refine canonical_ite (canonical_haltCtx h1 ..) (canonical_ite (canonical_killCtx ?_ ..) ?_)
  · split
    · exact canonical_noteKill h1 ..
    · exact h1
  · exact canonical_ite h2 (canonical_ite h4 (canonical_ite (canonical_takeTrap (canonical_freeWord h4) ..) (canonical_ite h4
      (canonical_ite (canonical_wakeTest (switch h5) ..) (canonical_ite (switch h4) h4)))))
theorem canonical_boundary (c : CoreId) (x : CtxId) (target : Nat) : (s.boundary c x target).CanonicalMemory :=
  canonical_takeTrap h ..
theorem canonical_openBundle (c : CoreId) (x : CtxId) (a : Nat) (b : Bundle) : (s.openBundle c x a b).CanonicalMemory := h
theorem canonical_beforeWaits (o : State) : (s.beforeWaits o).CanonicalMemory := by
  unfold State.beforeWaits
  grind [canonical_forceOwn, canonical_modEnv, canonical_foldl]
theorem canonical_issueBundle (c : CoreId) (x : CtxId) (a : Nat) (b : Bundle) : (s.issueBundle c x a b).CanonicalMemory := by
  unfold State.issueBundle
  grind [canonical_freeWord, canonical_takeTrap, canonical_beforeWaits, canonical_openBundle, canonical_walkCtx,
    canonical_modCur, canonical_replaceS6, canonical_rewriteP0, canonical_commitAll, canonical_finish, canonical_modCore,
    canonical_modCtx, canonical_foldl, Core.canonical_iff]
theorem canonical_opened (c : CoreId) (x : CtxId) : ∀ t, s.opened c x = some t → t.CanonicalMemory := by
  unfold State.opened
  grind [canonical_openBundle]
theorem canonical_issue (c : CoreId) (x : CtxId) : (s.issue c x).CanonicalMemory := by
  unfold State.issue
  grind [canonical_boundary, canonical_takeTrap, canonical_issueBundle]
theorem canonical_execBundleIssue (c : CoreId) : CanonicalOut (execBundleIssue c s) := by
  unfold execBundleIssue
  grind [canonical_issue, canonical_next]
theorem canonical_execIdleStep (c : CoreId) : CanonicalOut (execIdleStep c s) := by
  unfold execIdleStep
  grind [canonical_modCore, Core.canonical_select, Core.canonical_applyPri, canonical_modCtx, canonical_next,
    Core.canonical_iff]

/-! ### Page walks (Machine/Walks) -/

theorem canonical_walkFault (k : Nat) (w : Walk) : (s.walkFault k w).CanonicalMemory := by
  unfold State.walkFault
  grind [canonical_trapRecord, State.canonicalMemory_iff]
theorem canonical_execPageWalk (k : Nat) : CanonicalOut (execPageWalk k s) := by
  unfold execPageWalk
  grind [canonical_retestAll, canonical_walkFault, canonical_next, State.canonicalMemory_iff]
theorem canonical_failAccs (c : CoreId) (x : CtxId) (page : Nat) : (s.failAccs c x page).CanonicalMemory := by
  unfold State.failAccs
  grind [canonical_pend, canonical_sweep, canonical_updAcc, canonical_foldl]
theorem canonical_failWait (c : CoreId) (x : CtxId) (page : Nat) : (s.failWait c x page).CanonicalMemory := by
  unfold State.failWait
  grind [canonical_pend, canonical_opened, canonical_modCtx]
theorem canonical_failEngines (asid : BitVec 7) (page : Nat) : (s.failEngines asid page).CanonicalMemory := by
  unfold State.failEngines
  extract_lets mine s1 onPage held waits failed s2
  have h2 : s2.CanonicalMemory := h
  generalize List.finRange 192 = cs, List.finRange 4 = rs
  refine canonical_foldl (fun s c hs => ?_) cs h2
  extract_lets s3
  have h3 : s3.CanonicalMemory := canonical_foldl (fun s r hs => by
    split
    · exact canonical_ite (canonical_subFail hs ..) hs
    · exact hs) rs hs
  split
  · have hc (n : Nat) := canonical_countOps h3 c n
    exact canonical_ite (canonical_ite (canonical_setEntry (hc _) ..) (canonical_setEntry (hc _) ..)) h3
  · exact h3
theorem canonical_failRetries (asid : BitVec 7) (page : Nat) : (s.failRetries asid page).CanonicalMemory := by
  unfold State.failRetries
  grind [canonical_send, canonical_hubError, canonical_modHub, canonical_foldl]
theorem canonical_faultReply (asid : BitVec 7) (page : Addr) (fail : Bool) : (s.faultReply asid page fail).CanonicalMemory := by
  unfold State.faultReply
  grind [canonical_modHub, canonical_failWait, canonical_failRetries, canonical_failEngines, canonical_failAccs,
    canonical_foldl]
theorem canonical_execFaultreply (f : Fin 96) (page : Addr) (fail : Bool) : CanonicalOut (execFaultreply f page fail s) :=
  canonical_next (canonical_ite (canonical_faultReply h ..) h)
theorem canonical_execTrapRecordDeferredWrite : CanonicalOut (execTrapRecordDeferredWrite s) := by
  unfold execTrapRecordDeferredWrite
  grind [canonical_tqWrite, canonical_tqDrop, canonical_next, State.canonicalMemory_iff]
theorem canonical_setTqhead (v : BitVec 32) : (s.setTqhead v).CanonicalMemory := canonical_ite (canonical_modHub h ..) h
theorem canonical_execTqheadWrite (v : BitVec 32) : CanonicalOut (execTqheadWrite v s) :=
  canonical_next (canonical_ite (canonical_setTqhead h ..) h)

/-! ### Queue records (Machine/Records) -/

theorem canonical_modPart (p : Nat) (f : Partition → Partition) : (s.modPart p f).CanonicalMemory := h
theorem canonical_modQueue (q : Fin 4096) (f : Queue → Queue) : (s.modQueue q f).CanonicalMemory := h
theorem canonical_askHead (q : Fin 4096) : (s.askHead q).CanonicalMemory := canonical_hostAsk h ..
theorem canonical_setJcb (q : Fin 4096) (j : Nat) (v : Jcb) : (s.setJcb q j v).CanonicalMemory := by
  unfold State.setJcb
  grind [canonical_modPart]
theorem canonical_completeNow (x : Record) (code : Nat) : (s.completeNow x code).CanonicalMemory := by
  unfold State.completeNow
  grind [canonical_hostWrite, canonical_setJcb, canonical_interrupt, canonical_modQueue, canonical_modRec,
    State.canonicalMemory_iff]
theorem canonical_complete (r code : Nat) : (s.complete r code).CanonicalMemory := by
  unfold State.complete
  grind [canonical_completeNow, canonical_modRec]
theorem canonical_flush (r : Nat) : (s.flush r).CanonicalMemory := by
  unfold State.flush
  grind [canonical_complete]
theorem canonical_nextHead (q : Fin 4096) : (s.nextHead q).CanonicalMemory := canonical_modQueue h ..
theorem canonical_newRec (q : Fin 4096) (b : BitVec 512) (atHead : Bool) : (s.newRec q b atHead).CanonicalMemory := h
theorem canonical_execRecordDispatch (q : Fin 4096) : CanonicalOut (execRecordDispatch q s) := by
  unfold execRecordDispatch
  grind [canonical_askHead, canonical_complete, canonical_nextHead, canonical_newRec, canonical_modQueue, canonical_next]
theorem canonical_execDoorbell (q : Fin 4096) (tail : BitVec 16) : CanonicalOut (execDoorbell q tail s) :=
  canonical_next (canonical_ite (canonical_modQueue h ..) h)
theorem canonical_execFrozenW1C (q : Fin 4096) : CanonicalOut (execFrozenW1C q s) :=
  canonical_next (canonical_ite (canonical_modQueue h ..) h)
theorem canonical_execSignal (r : Nat) : CanonicalOut (execSignal r s) := by
  unfold execSignal
  grind [canonical_complete, canonical_hostWrite, canonical_next]
theorem canonical_execWaitRecord (r : Nat) : CanonicalOut (execWaitRecord r s) := by
  unfold execWaitRecord
  grind [canonical_hostAsk, canonical_modRec, canonical_next]
theorem canonical_execWaitRecordSatisfied (r : Nat) : CanonicalOut (execWaitRecordSatisfied r s) := by
  unfold execWaitRecordSatisfied
  grind [canonical_complete, canonical_modQueue, canonical_next]
theorem canonical_execJcbInit (r : Nat) : CanonicalOut (execJcbInit r s) := by
  unfold execJcbInit
  grind [canonical_complete, canonical_setJcb, canonical_next]
theorem canonical_execJcbRaise (r : Nat) : CanonicalOut (execJcbRaise r s) := by
  unfold execJcbRaise
  grind [canonical_complete, canonical_setJcb, canonical_next]
theorem canonical_execCopy (r : Nat) : CanonicalOut (execCopy r s) := by
  unfold execCopy
  grind [canonical_modRec, canonical_next]
theorem canonical_execHubCopyComplete (r : Nat) : CanonicalOut (execHubCopyComplete r s) := by
  unfold execHubCopyComplete
  grind [canonical_complete, canonical_next]

/-! ### Launches (Machine/Launch) -/

theorem canonical_writePtes (l : List (Nat × Word)) : (s.writePtes l).CanonicalMemory := by
  obtain ⟨hg, hr⟩ := h
  exact ⟨memWf_foldl (fun m p hm => memWf_memWriteN hm ..) _ hg, hr⟩
theorem canonical_dropRange (asid : BitVec 7) (a n : Nat) : (s.dropRange asid a n).CanonicalMemory := by
  refine (canonical_withCores h (v := s.cores.map _) fun k hk => ?_).of_fields rfl rfl rfl rfl rfl rfl
  obtain ⟨j, hj, rfl⟩ := Vector.mem_map.1 hk
  obtain ⟨-, -, -, -, hc, -⟩ := s.canonicalMemory_iff.1 h
  exact hc j (Vector.mem_toList_iff.2 hj)
theorem canonical_writePool (f : Nat) (sp : Space) : (s.writePool f sp).CanonicalMemory := by
  unfold State.writePool
  grind [canonical_writeLoc, canonical_foldl, State.canonicalMemory_iff]
theorem canonical_createSpace (g : Group) (b : BitVec 512) : ∀ t, s.createSpace g b = some t → t.CanonicalMemory := by
  intro t ht
  unfold State.createSpace at ht
  extract_lets pool cap at ht
  split at ht
  · cases ht
    exact h
  · obtain ⟨l, -, rfl⟩ := Option.map_eq_some_iff.1 ht
    refine canonical_writePool (State.CanonicalMemory.of_fields ?_ rfl rfl rfl rfl rfl rfl) ..
    exact canonical_dropRange (canonical_writePtes h ..) ..
theorem canonical_destroySpace (g : Nat) : (s.destroySpace g).CanonicalMemory := by
  unfold State.destroySpace
  grind [canonical_dropRange, canonical_writePtes, State.canonicalMemory_iff]
theorem canonical_modGroup (g : Nat) {f : Group → Group} (hf : ∀ y, y.Canonical → (f y).Canonical) :
    (s.modGroup g f).CanonicalMemory := by
  refine canonical_mapGroups h fun y hy => ?_
  split
  · exact hf y hy
  · exact hy
theorem canonical_modHeath (h' : Fin 24) (f : Heath → Heath) : (s.modHeath h' f).CanonicalMemory := h
theorem canonical_execLaunch (r : Nat) : CanonicalOut (execLaunch r s) := by
  unfold execLaunch
  refine canonical_next ?_
  split
  · exact h
  · split
    · exact h
    · split
      · exact canonical_complete (canonical_nextHead h ..) ..
      · exact canonical_imageWalk h ..
      · exact canonical_complete (canonical_nextHead h ..) ..
      · obtain ⟨hg, hh, hr, hm, hc, hq⟩ := s.canonicalMemory_iff.1 h
        refine ⟨hg, hh, hr, hm, hc, List.forall_mem_append.2 ⟨hq, List.forall_mem_singleton.2 ?_⟩⟩
        exact fun v hv => absurd hv List.not_mem_nil
theorem canonical_bindHeaths (g : Group) (hs : List (Fin 24)) : (s.bindHeaths g hs).CanonicalMemory := by
  refine canonical_foldl (fun s p hs => canonical_setCore hs _ (canonical_bindCore s g _ _ (canonical_core hs _))) _ ?_
  exact canonical_foldl (fun s q hs => canonical_modHeath hs ..) _ h
theorem canonical_retention (g : Group) : (s.retention g).CanonicalMemory := by
  unfold State.retention
  grind [canonical_freeWord, canonical_modCtx, canonical_takeTrap, canonical_modHeath, canonical_modCore,
    Core.canonical_reinit, canonical_foldl]
theorem canonical_execLaunchBind (g : Nat) : CanonicalOut (execLaunchBind g s) := by
  unfold execLaunchBind
  refine canonical_next ?_
  split
  · exact h
  · next y hy =>
    have hc := canonical_group h hy
    split
    · exact h
    · next x _ =>
      refine canonical_ite h ?_
      split
      · exact h
      · next hs _ =>
        extract_lets refuse
        have hr : (refuse s).CanonicalMemory := by
          obtain ⟨hg, hh, hr, hm, hk, hq⟩ := s.canonicalMemory_iff.1 h
          refine canonical_complete (canonical_nextHead ?_ ..) ..
          exact ⟨hg, hh, hr, hm, hk, fun z hz => hq z (List.mem_filter.1 hz).1⟩
        split
        · exact canonical_ite hr (canonical_imageWalk h ..)
        · exact hr
        · next _ t _ ht =>
          have h1 := canonical_createSpace h _ _ t ht
          refine canonical_ite hr (canonical_retention (canonical_foldl (fun s u hs => canonical_modCtx hs ..) _
            (canonical_bindHeaths (canonical_modGroup (canonical_modRec (canonical_nextHead h1 ..) ..) g ?_) ..)) _)
          exact fun _ _ => hc
theorem canonical_execGroupRelease (g : Nat) : CanonicalOut (execGroupRelease g s) := by
  unfold execGroupRelease
  refine canonical_next ?_
  split
  · exact h
  · refine canonical_ite h ?_
    have hg := canonical_modGroup h g (f := fun y => { y with
      phase := .resident
      release := s.cyc.toNat
      resumed := if y.saved = [] then y.resumed else s.cyc.toNat
      saved := []
      bars := []
      target := [] }) fun _ _ _ hv => absurd hv List.not_mem_nil
    exact canonical_foldl (fun s u hs => canonical_wakeTest hs ..) _ (canonical_foldl (fun s u hs => canonical_modCtx hs ..) _
      (canonical_foldl (fun s c hs => canonical_modCore hs c fun hk => hk) _ hg))
theorem canonical_freeGroup (g : Group) : (s.freeGroup g).CanonicalMemory := by
  unfold State.freeGroup
  grind [canonical_endPins, canonical_modHeath, canonical_modCore, canonical_foldl, State.canonicalMemory_iff,
    Core.canonical_iff]
theorem canonical_execLaunchComplete (g : Nat) : CanonicalOut (execLaunchComplete g s) := by
  unfold execLaunchComplete
  grind [canonical_destroySpace, canonical_freeGroup, canonical_complete, canonical_next, State.canonicalMemory_iff]
theorem canonical_killGroup (g : Group) (code : Nat) : (s.killGroup g code).CanonicalMemory := by
  unfold State.killGroup
  extract_lets s1 s2 s3 s4
  have h2 : s2.CanonicalMemory := by
    have hd := canonical_destroySpace h g.id
    refine canonical_ite ?_ hd
    split
    · exact canonical_nextHead hd ..
    · exact hd
  obtain ⟨hg, hh, hr, hm, hc, hq⟩ := s2.canonicalMemory_iff.1 h2
  have h3 : s3.CanonicalMemory := ⟨hg, hh, hr, hm, hc, fun z hz => hq z (List.mem_filter.1 hz).1⟩
  refine canonical_ite (canonical_complete h3 ..) (canonical_foldl (fun s u hs => ?_) _ ?_)
  · exact canonical_ite hs (canonical_killCtx hs ..)
  · exact canonical_modGroup (canonical_failGroup h ..) _ fun _ hy => hy

/-! ### Pre-emption (Machine/Preempt) -/

theorem canonical_remap : s.remap.CanonicalMemory := by
  unfold State.remap
  grind [State.canonicalMemory_iff]
theorem canonical_stopCtx (c : CoreId) (x : CtxId) (mode : StopMode) : (s.stopCtx c x mode).CanonicalMemory := by
  unfold State.stopCtx
  grind [canonical_killCtx, canonical_modCtx, canonical_modCore, Core.canonical_switchPoint]
theorem canonical_stopCore (c : CoreId) : (s.stopCore c).CanonicalMemory := by
  unfold State.stopCore
  grind [canonical_endPinsStopped, canonical_stopCtx, canonical_foldl]
theorem canonical_stopAll (g : Group) : (s.stopAll g).CanonicalMemory := by
  unfold State.stopAll
  grind [canonical_stopCore, canonical_foldl]
theorem canonical_beginStop (g : Group) (mode : StopMode) : (s.beginStop g mode).CanonicalMemory :=
  canonical_stopAll (canonical_modGroup h _ fun _ hy => by exact hy) _
theorem canonical_beginKill (g : Group) : (s.beginKill g).CanonicalMemory :=
  canonical_beginStop (canonical_modGroup h _ fun _ hy => by exact hy) ..
theorem canonical_preempt (r : Group) : (s.preempt r).CanonicalMemory := by
  have hn (s : State) (hs : s.CanonicalMemory) (g n : Nat) := canonical_modGroup hs g (f := fun y => { y with victims := y.victims ++ [n] })
    fun _ hy => hy
  unfold State.preempt
  split
  · exact h
  · exact canonical_ite h (canonical_ite (hn _ (canonical_beginStop h ..) ..) (canonical_ite (hn _ (canonical_beginStop h ..) ..)
      (canonical_ite (hn _ (canonical_beginKill h ..) ..) h)))
theorem canonical_migrate (g : Group) : (s.migrate g).CanonicalMemory := by
  unfold State.migrate
  split
  · exact h
  · exact canonical_ite (canonical_draw h) (canonical_beginStop (canonical_modGroup (canonical_draw h) _ fun _ hy => by exact hy) ..)
theorem canonical_execQuantumBoundary : CanonicalOut (execQuantumBoundary s) := by
  unfold execQuantumBoundary
  grind [canonical_remap, canonical_preempt, canonical_migrate, canonical_next, canonical_foldl]
theorem canonical_execDrainFallback (g : Nat) : CanonicalOut (execDrainFallback g s) := by
  unfold execDrainFallback
  refine canonical_next ?_
  split
  · exact h
  · exact canonical_ite h (canonical_ite (canonical_stopAll (canonical_modGroup h _ fun _ hy => by exact hy) _)
      (canonical_ite (canonical_beginKill h ..) h))
theorem canonical_execContextSaveComplete (g : Nat) : CanonicalOut (execContextSaveComplete g s) := by
  unfold execContextSaveComplete
  refine canonical_next ?_
  split
  · exact h
  · next y hy =>
    split
    · exact h
    · extract_lets s1 quiet drain saved bars s2
      have h1 : s1.CanonicalMemory := canonical_endPins h ..
      split
      · exact h1
      · have h2 : s2.CanonicalMemory := canonical_foldl (fun s u hs => canonical_saveRecord hs ..) _ h1
        refine canonical_modGroup (canonical_freeGroup h2 ..) g fun _ _ => List.forall_mem_map.2 fun p _ => ?_
        obtain ⟨hv, -, hr⟩ := Core.canonical_iff _ |>.1 (canonical_core h1 (heathCore p.2.1 p.2.2))
        exact ⟨memWf_filter hv _, hr⟩
theorem canonical_execGroupResume (g : Nat) : CanonicalOut (execGroupResume g s) := by
  unfold execGroupResume
  refine canonical_next ?_
  split
  · exact h
  · next y hy =>
    have hc := canonical_group h hy
    split
    · exact h
    · split
      · exact h
      · next hs _ =>
        split
        · exact canonical_imageWalk h ..
        · refine canonical_retention (canonical_foldl (fun s q ht => canonical_modHeath ht ..) _ ?_) _
          refine canonical_foldl (fun s p ht => ?_) _
            (canonical_bindHeaths (canonical_modGroup (canonical_modRec h ..) g ?_) ..)
          dsimp only
          split
          · next v hv =>
            exact canonical_setCore ht _ (canonical_restoreCore s _ (canonical_core ht _) (hc v (List.mem_of_find?_eq_some hv)))
          · exact ht
          · exact fun _ _ => hc

/-! ### Layouts (Machine/Layout) -/

theorem canonical_quiesce : s.quiesce.CanonicalMemory := by
  refine canonical_foldl (fun s i hs => ?_) _ h
  split
  · exact canonical_ite (canonical_ite (canonical_beginKill hs ..) (canonical_ite
      (canonical_stopAll (canonical_modGroup hs _ fun _ hy => by exact hy) _) (canonical_beginStop hs ..))) hs
  · exact hs
theorem canonical_stage (l : Layout) (meas : List Meas) (r : Option Nat) : (s.stage l meas r).CanonicalMemory :=
  canonical_quiesce (h.of_fields rfl rfl rfl rfl rfl rfl) ..
theorem canonical_askLayout (r a : Nat) : (s.askLayout r a).CanonicalMemory :=
  canonical_foldl (fun _ _ hs => canonical_ite hs (canonical_hostAsk hs ..)) _ (canonical_hostAsk h ..)
theorem canonical_execLayout (r : Nat) : CanonicalOut (execLayout r s) := by
  unfold execLayout
  grind [canonical_askLayout, canonical_complete, canonical_stage, canonical_next]
theorem canonical_execQuiesceComplete : CanonicalOut (execQuiesceComplete s) := by
  unfold execQuiesceComplete
  grind [canonical_quiesce, canonical_next, State.canonicalMemory_iff]
theorem canonical_flushRest (q : Fin 4096) (code : Nat) : (s.flushRest q code).CanonicalMemory :=
  canonical_foldl (fun _ _ hs => canonical_complete (canonical_nextHead (canonical_newRec
    (canonical_askHead hs ..) ..) ..) ..) _ h
theorem canonical_flushQueue (q : Fin 4096) (code : Nat) : (s.flushQueue q code).CanonicalMemory := by
  unfold State.flushQueue
  grind [canonical_killGroup, canonical_complete, canonical_nextHead, canonical_flushRest, canonical_modQueue, canonical_foldl]
theorem canonical_flushHeld : s.flushHeld.CanonicalMemory :=
  canonical_foldl (fun _ _ hs => canonical_modQueue (canonical_flushRest hs ..) ..) _ h
theorem canonical_discardParts (l : Layout) : (s.discardParts l).CanonicalMemory :=
  canonical_foldl (fun _ _ hs => canonical_foldl (fun _ _ hs => canonical_flushQueue hs ..) _ hs) _ h
theorem canonical_execLayoutTick : CanonicalOut (execLayoutTick s) := by
  unfold execLayoutTick
  split
  · exact canonical_next h
  · refine canonical_next ?_
    split
    · exact h
    · next c _ _ =>
      have hd := canonical_discardParts h c.next
      extract_lets s1 old n parts changed src1 src2 src3 s2
      have h2 : s2.CanonicalMemory := by
        refine (canonical_withCores hd (v := s2.cores) fun k hk => ?_).of_fields rfl rfl rfl rfl rfl rfl
        obtain ⟨i, hi, rfl⟩ := Vector.mem_ofFn.1 hk
        exact canonical_core hd _
      split
      · exact canonical_complete h2 ..
      · exact h2
theorem canonical_notice (p : Nat) : (s.notice p).CanonicalMemory := by
  unfold State.notice
  grind [canonical_freeWord, canonical_draw, canonical_trapRecord, canonical_modHub, canonical_interrupt]
theorem canonical_execChannelRetire (w : Retire) : CanonicalOut (execChannelRetire w s) := by
  unfold execChannelRetire
  grind [canonical_modHeath, canonical_notice, canonical_stage, canonical_next, canonical_foldl, State.canonicalMemory_iff]

/-! ### Power (Machine/Power) -/

theorem canonical_modOpp (c : CoreId) (f : Opp → Opp) : (s.modOpp c f).CanonicalMemory := canonical_modCore h _ fun hk => hk
theorem canonical_execSettleEnd (c : CoreId) : CanonicalOut (execSettleEnd c s) := canonical_next (canonical_modOpp h ..)
theorem canonical_execCapWrite (c : CoreId) (cap : R8) : CanonicalOut (execCapWrite c cap s) :=
  canonical_next (canonical_modOpp h ..)
theorem canonical_execDroopAlarm (c : CoreId) : CanonicalOut (execDroopAlarm c s) := by
  unfold execDroopAlarm
  grind [canonical_modCore, canonical_next, Core.canonical_iff]
theorem canonical_execStretchEnd (c : CoreId) : CanonicalOut (execStretchEnd c s) := by
  unfold execStretchEnd
  grind [canonical_modCore, canonical_next, Core.canonical_iff]
theorem canonical_execSplitWindowEnd (c : CoreId) : CanonicalOut (execSplitWindowEnd c s) := by
  unfold execSplitWindowEnd
  grind [canonical_modCore, canonical_next, Core.canonical_iff]
theorem canonical_execSplitWindowRequest (c : CoreId) : CanonicalOut (execSplitWindowRequest c s) :=
  canonical_next (canonical_modCore h _ fun hk => hk)
theorem canonical_execHeathGate (h' : Fin 24) : CanonicalOut (execHeathGate h' s) := by
  unfold execHeathGate
  extract_lets q d s1
  refine canonical_next ?_
  split
  · exact h
  · exact canonical_foldl (fun s c hs => canonical_modCore hs c fun _ => ⟨rfl, rfl, rfl⟩) _ (canonical_modHeath (canonical_draw h) ..)
theorem canonical_moveCaps (up : Bool) : (s.moveCaps up).CanonicalMemory :=
  canonical_foldl (fun _ _ hs => canonical_modOpp hs ..) _ h
theorem canonical_setSensors (t : List ℤ) : (s.setSensors t).CanonicalMemory :=
  canonical_foldl (fun _ _ hs => canonical_modHeath hs ..) _ h
theorem canonical_execThermalSample (t : List ℤ) : CanonicalOut (execThermalSample t s) := by
  unfold execThermalSample
  grind [canonical_modHeath, canonical_setSensors, canonical_moveCaps, canonical_next, canonical_foldl,
    State.canonicalMemory_iff]
theorem canonical_execThermalCapStep : CanonicalOut (execThermalCapStep s) := by
  unfold execThermalCapStep
  grind [canonical_moveCaps, canonical_next, State.canonicalMemory_iff]

/-! ### Watching (Machine/Watch) -/

theorem canonical_heartbeatHalt (c : CoreId) : (s.heartbeatHalt c).CanonicalMemory := by
  unfold State.heartbeatHalt
  grind [canonical_core, canonical_modCtx, canonical_modCore, canonical_ddFinish, canonical_freeWord,
    Core.canonical_completeFmt, canonical_holdFrame, canonical_fatalHold, canonical_saveOthers, canonical_stopGroup,
    canonical_failGroup, canonical_foldl, State.canonicalMemory_iff, Core.canonical_iff]
theorem canonical_execHeartbeatIntervalEnd (p : Fin 24) : CanonicalOut (execHeartbeatIntervalEnd p s) := by
  unfold execHeartbeatIntervalEnd
  grind [canonical_modCore, canonical_heartbeatHalt, canonical_next, canonical_foldl, Core.canonical_iff]
theorem canonical_forgetFreed : s.forgetFreed.CanonicalMemory := h
theorem canonical_noteBlocked : s.noteBlocked.CanonicalMemory := by
  unfold State.noteBlocked
  grind [State.canonicalMemory_iff]
theorem canonical_execProbeSend (u : BitVec 20) : CanonicalOut (execProbeSend u s) := by
  unfold execProbeSend
  grind [canonical_next, State.canonicalMemory_iff]
theorem canonical_execProbeReceive : CanonicalOut (execProbeReceive s) := by
  unfold execProbeReceive
  grind [canonical_trapRecord, canonical_next, State.canonicalMemory_iff]

/-! ### The host (Machine/Host) -/

theorem canonical_setVec (f : Fin 97) (v : R64) (x : IVec) : (s.setVec f v x).CanonicalMemory := canonical_modHub h ..
theorem canonical_unmask (f : Fin 97) (v : R64) : (s.unmask f v).CanonicalMemory :=
  canonical_ite (canonical_interrupt (canonical_setVec h ..) ..) (canonical_setVec h ..)
theorem canonical_execVectorMaskClear (f : Fin 97) (v : R64) : CanonicalOut (execVectorMaskClear f v s) :=
  canonical_next (canonical_ite (canonical_unmask h ..) h)
theorem canonical_vfAct (f : Fin 96) : (s.vfAct f).CanonicalMemory := by
  unfold State.vfAct
  grind [canonical_killGroup, canonical_flushQueue, canonical_modQueue, canonical_faultReply, canonical_foldl]
theorem canonical_vfStart (f : Fin 96) : (s.vfStart f).CanonicalMemory :=
  canonical_ite (canonical_modHub h ..) (canonical_vfAct (canonical_modHub h ..) ..)
theorem canonical_execVfReset (f : Fin 96) : CanonicalOut (execVfReset f s) :=
  canonical_next (canonical_ite (canonical_vfStart h ..) h)
theorem canonical_execVfResetComplete (f : Fin 96) : CanonicalOut (execVfResetComplete f s) :=
  canonical_next (canonical_ite h (canonical_ite (canonical_vfAct h ..) (canonical_modHub (canonical_vfAct h ..) ..)))
theorem canonical_moduleReset : s.moduleReset.CanonicalMemory := by
  unfold State.moduleReset
  extract_lets s1 d v ok r
  obtain ⟨hg, hh, -⟩ : s1.CanonicalMemory := canonical_foldl (fun s sp hs => canonical_destroySpace hs ..) _ h
  refine ⟨hg, hh, rfl, rfl, fun k hk => ?_, fun g hg => absurd hg List.not_mem_nil⟩
  obtain ⟨c, -, rfl⟩ := Vector.mem_ofFn.1 (Vector.mem_toList_iff.1 hk)
  exact Core.canonical_reset
theorem canonical_execModuleReset : CanonicalOut (execModuleReset s) := canonical_next (canonical_moduleReset h ..)
theorem canonical_execHubReset : CanonicalOut (execHubReset s) := by
  unfold execHubReset
  grind [canonical_killCtx, canonical_destroySpace, canonical_freeGroup, canonical_next, canonical_foldl,
    State.canonicalMemory_iff]
theorem canonical_execPartitionReset (p : Fin 24) : CanonicalOut (execPartitionReset p s) := by
  unfold execPartitionReset
  grind [canonical_modHub, canonical_killGroup, canonical_flushQueue, canonical_notice, canonical_stage, canonical_next,
    canonical_foldl]
theorem canonical_endPresets : s.endPresets.CanonicalMemory := canonical_modHub h ..
theorem canonical_attestStart : s.attestStart.CanonicalMemory := h
theorem canonical_execAttest : CanonicalOut (execAttest s) := canonical_next (canonical_ite (canonical_attestStart h ..) h)
theorem canonical_execAttestReportComplete : CanonicalOut (execAttestReportComplete s) := by
  unfold execAttestReportComplete
  grind [canonical_next, State.canonicalMemory_iff]
theorem canonical_windowWord (f : Fin 97) (ofs : Nat) (v : Word) : (s.windowWord f ofs v).CanonicalMemory := by
  have hb (a n v : Nat) : ({ s with mon := { s.mon with mailbox := memWriteN s.mon.mailbox a n v } } : State).CanonicalMemory := by
    obtain ⟨hg, hh, hr, hm, hc⟩ := h
    exact ⟨hg, hh, hr, memWf_memWriteN hm .., hc⟩
  have hn (v : BitVec 256) : ({ s with mon := { s.mon with nonce := v } } : State).CanonicalMemory := h
  unfold State.windowWord
  refine canonical_ite h (canonical_ite ?_ (canonical_ite ?_ ?_))
  · split
    · exact canonical_ite (canonical_modQueue h ..) (canonical_modQueue h ..)
    · exact h
  · exact canonical_ite (canonical_setVec h ..) (canonical_ite (canonical_setVec h ..) (canonical_unmask (canonical_setVec h ..) ..))
  · split
    · exact canonical_ite (canonical_faultReply h ..) (canonical_ite (canonical_vfStart h ..) h)
    · exact canonical_ite (hn _) (canonical_ite (canonical_attestStart h) (canonical_ite (canonical_setTqhead h ..)
        (canonical_ite (hb ..) h)))
theorem canonical_windowPut (f : Fin 97) (ofs : Nat) (data : List Byte) : (s.windowPut f ofs data).CanonicalMemory :=
  canonical_ite (canonical_hubError h ..) (canonical_foldl (fun _ _ hs => canonical_ite hs (canonical_windowWord hs ..)) _ h)
theorem canonical_windowAnswer (f : Fin 97) (tag : BitVec 10) (ofs n : Nat) : (s.windowAnswer f tag ofs n).CanonicalMemory :=
  canonical_ite (canonical_send h ..) (canonical_send h ..)
theorem canonical_execHostWindowWrite (f : Fin 97) (ofs : Nat) (v : Word) : CanonicalOut (execHostWindowWrite f ofs v s) :=
  canonical_next (canonical_windowPut h ..)
theorem canonical_execRecoveryMsg : CanonicalOut (execRecoveryMsg s) :=
  canonical_next (canonical_ite (h.of_fields rfl rfl rfl rfl rfl rfl) h)
theorem canonical_verifyMailbox : s.verifyMailbox.CanonicalMemory :=
  canonical_ite h (canonical_ite (canonical_moduleReset (h.of_fields rfl rfl rfl rfl rfl rfl) ..)
    (h.of_fields rfl rfl rfl rfl rfl rfl))
theorem canonical_portDown (p : Fin 9) : (s.portDown p).CanonicalMemory := by
  unfold State.portDown
  grind [canonical_modHub, canonical_modPort, State.canonicalMemory_iff]
theorem canonical_acked (p : Fin 9) (sq : BitVec 12) : (s.acked p sq).CanonicalMemory :=
  canonical_pump (canonical_modPort h ..) ..
theorem canonical_retrain (p : Fin 9) : (s.retrain p).CanonicalMemory :=
  canonical_ite (canonical_modPort (canonical_draw h ..) ..) (canonical_portDown (canonical_modPort (canonical_draw h ..) ..) ..)
theorem canonical_answer (p : Fin 9) (ft : Nat) (ack sq : BitVec 12) : (s.answer p ft ack sq).CanonicalMemory :=
  canonical_modHub h ..
theorem canonical_nak (p : Fin 9) (sq : BitVec 12) : (s.nak p sq).CanonicalMemory :=
  canonical_ite (canonical_retrain (canonical_modHub (canonical_modPort h ..) ..) ..) (canonical_modHub
    (canonical_modPort h ..) ..)
theorem canonical_execFlitReceive (port : Fin 9) (flit : List Byte) : CanonicalOut (execFlitReceive port flit s) := by
  unfold execFlitReceive
  grind [canonical_answer, canonical_acked, canonical_nak, canonical_modPort, canonical_next]
theorem canonical_execFlitAck (port : Fin 9) (sq : BitVec 12) : CanonicalOut (execFlitAck port sq s) :=
  canonical_next (canonical_ite (canonical_acked h ..) h)
theorem canonical_execFlitNak (port : Fin 9) (sq : BitVec 12) : CanonicalOut (execFlitNak port sq s) :=
  canonical_next (canonical_ite (canonical_nak h ..) h)
theorem canonical_refuse (port : Fin 9) (tag : Option (BitVec 10)) (f : BitVec 7) (pslot : BitVec 5) (a : Addr) (held : Bool)
    (tx : PeerTx) : (s.refuse port tag f pslot a held tx).CanonicalMemory := by
  unfold State.refuse
  grind [canonical_walkFor, canonical_send, canonical_modHub]
theorem canonical_linkRead (port : Fin 9) (tag : BitVec 10) (f : BitVec 7) (pslot : BitVec 5) (a : Addr) (n : Nat) :
    (s.linkRead port tag f pslot a n).CanonicalMemory := by
  unfold State.linkRead
  grind [canonical_send, canonical_refuse, canonical_mscHub]
theorem canonical_linkWrite (port : Fin 9) (tag : BitVec 10) (f : BitVec 7) (pslot : BitVec 5) (a : Addr) (data : List Byte) :
    (s.linkWrite port tag f pslot a data).CanonicalMemory := by
  unfold State.linkWrite
  grind [canonical_send, canonical_hubError, canonical_refuse, canonical_retest, canonical_writeLoc, canonical_mscHub,
    canonical_foldl]
theorem canonical_linkAtomic (port : Fin 9) (tag : BitVec 10) (f : BitVec 7) (pslot : BitVec 5) (op : AtOp) (sg : Sg)
    (dword : Bool) (a : Addr) (x cmp : Word) : (s.linkAtomic port tag f pslot op sg dword a x cmp).CanonicalMemory := by
  unfold State.linkAtomic
  grind [canonical_send, canonical_refuse, canonical_mscHub, canonical_retest, canonical_writeLoc]
theorem canonical_execMrd (port : Fin 9) (tag : BitVec 10) (f : BitVec 7) (pslot : BitVec 5) (a : Addr) (n : Nat) :
    CanonicalOut (execMrd port tag f pslot a n s) := canonical_next (canonical_ite (canonical_linkRead h ..) h)
theorem canonical_execMwr (port : Fin 9) (f : BitVec 7) (pslot : BitVec 5) (a : Addr) (data : List Byte) :
    CanonicalOut (execMwr port f pslot a data s) :=
  canonical_next (canonical_ite (canonical_linkWrite (canonical_draw h ..) ..) h)
theorem canonical_execLinkAtom (port : Fin 9) (tag : BitVec 10) (f : BitVec 7) (pslot : BitVec 5) (op : AtOp) (sg : Sg)
    (dword : Bool) (a : Addr) (x cmp : Word) : CanonicalOut (execLinkAtom port tag f pslot op sg dword a x cmp s) :=
  canonical_next (canonical_ite (canonical_linkAtomic h ..) h)
theorem canonical_execCpl (port : Fin 9) (tag : CplTag) (status : BitVec 3) (_data : List Byte) :
    CanonicalOut (execCpl port tag status _data s) :=
  canonical_next (canonical_ite h (canonical_ite (canonical_ite h (h.of_fields rfl rfl rfl rfl rfl rfl))
    (h.of_fields rfl rfl rfl rfl rfl rfl)))
theorem canonical_execHostRetryTimer : CanonicalOut (execHostRetryTimer s) := by
  unfold execHostRetryTimer
  grind [canonical_modHub, canonical_linkRead, canonical_linkWrite, canonical_linkAtomic, canonical_next]
theorem canonical_farMove (port : R8) (id k : Nat) : (s.farMove port id k).CanonicalMemory := by
  unfold State.farMove
  grind [canonical_jobStop, canonical_jobFail, canonical_modJob, canonical_send, canonical_mscEng]
theorem canonical_execPeerTransaction (port : R8) (f : BitVec 7) (pslot : BitVec 5) (tx : PeerTx) :
    CanonicalOut (execPeerTransaction port f pslot tx s) := by
  unfold execPeerTransaction
  grind [canonical_farMove, canonical_linkRead, canonical_linkWrite, canonical_linkAtomic, canonical_next]
theorem canonical_execHostPortDown : CanonicalOut (execHostPortDown s) := canonical_next (canonical_portDown h ..)
theorem canonical_execHostPortUp : CanonicalOut (execHostPortUp s) :=
  canonical_next (canonical_flushHeld (canonical_pump (canonical_modPort h ..) ..) ..)
theorem canonical_execPeerPortDown (port : R8) : CanonicalOut (execPeerPortDown port s) :=
  canonical_next (canonical_portDown h ..)
theorem canonical_execCxlLinkDown (port : Fin 2) : CanonicalOut (execCxlLinkDown port s) :=
  canonical_next (canonical_modHub h ..)
theorem canonical_execPeerPortUp (port : R8) : CanonicalOut (execPeerPortUp port s) := canonical_next (canonical_modPort h ..)

/-! ### The clock (Machine/Clock) -/

theorem canonical_after {o : Out} (ho : CanonicalOut o) : (after o s).CanonicalMemory := by
  unfold after
  split
  · exact canonical_of_next ho
  · exact h
theorem canonical_nextInput {i : Input} {t : State} (ht : s.nextInput = some (i, t)) : t.CanonicalMemory := by
  unfold State.nextInput at ht
  split at ht
  · cases ht
  · split at ht
    · cases ht
      exact h
    · cases ht
theorem canonical_eccError (p : EccPlace) : (s.eccError p).CanonicalMemory := by
  unfold State.eccError
  grind [canonical_poisonLocs, canonical_modCore, State.canonicalMemory_iff, Core.canonical_iff]
theorem canonical_input (i : Input) : (s.input i).CanonicalMemory := by
  unfold State.input
  grind [canonical_eccError, canonical_setSensors, canonical_windowAnswer, canonical_windowPut, canonical_hubError,
    State.canonicalMemory_iff]
theorem canonical_moveElem (j : Job) (k : Nat) : CanonicalOut (State.moveElem s j k) := by
  unfold State.moveElem
  grind [canonical_execPeerTransaction, canonical_execStorePerform]
theorem canonical_eventRun (e : Event) : CanonicalOut (Event.run e s) := by
  unfold Event.run
  grind [canonical_execLateDataArrival, canonical_execStorePerform, canonical_moveElem, canonical_draw,
    canonical_execTlbinvAckComplete, canonical_execCopyJobComplete, canonical_execCodeLoadComplete,
    canonical_execIcinvComplete, canonical_execLoaderTileWrite, canonical_execStorerSlotPull, canonical_execStorerTileWrite,
    canonical_execSubscriptionEnd, canonical_execBrackenAccept, canonical_execDdOperationComplete, canonical_execDdAbandon,
    canonical_execPageWalk, canonical_execTrapRecordDeferredWrite, canonical_sendIrq, canonical_execProbeReceive,
    canonical_execRecordDispatch, canonical_execLaunch, canonical_execLaunchBind, canonical_execGroupRelease,
    canonical_execLaunchComplete, canonical_execContextSaveComplete, canonical_execGroupResume, canonical_execCopy,
    canonical_execHubCopyComplete, canonical_execSignal, canonical_execWaitRecord, canonical_execWaitRecordSatisfied,
    canonical_execJcbInit, canonical_execJcbRaise, canonical_execLayout, canonical_execQuiesceComplete,
    canonical_execVfResetComplete, canonical_execAttestReportComplete, canonical_flush, canonical_verifyMailbox, canonical_next]
theorem canonical_pickEvent : s.pickEvent.2.CanonicalMemory := by
  unfold State.pickEvent
  grind [canonical_forgetFreed, canonical_draw]
theorem canonical_forceCard (j : Job) : (s.forceCard j).CanonicalMemory := by
  unfold State.forceCard
  grind [canonical_forceOwn]
theorem canonical_pushJob (j : Job) : (s.pushJob j).CanonicalMemory := by
  unfold State.pushJob
  grind [canonical_after, canonical_execCopyJobComplete, canonical_moveElem, canonical_execCodeLoadComplete,
    canonical_execIcinvComplete]
theorem canonical_forced : ∀ t, s.forced = some t → t.CanonicalMemory := by
  intro t ht
  unfold State.forced at ht
  generalize s.jobs = l at ht
  split at ht
  · rw [← Option.some.inj ht]
    exact canonical_retestAll (h.of_fields rfl rfl rfl rfl rfl rfl)
  · obtain ⟨j, -, hj⟩ := List.exists_of_findSome?_eq_some ht
    grind [canonical_pushJob, canonical_forceCard]
theorem canonical_countFreeze (c : CoreId) (w : FreezeCause) : (s.countFreeze c w).CanonicalMemory :=
  canonical_modCore h _ fun hk => hk
theorem canonical_settleTick (c : CoreId) : (s.settleTick c).CanonicalMemory := by
  unfold State.settleTick
  grind [canonical_modOpp, canonical_after, canonical_execSettleEnd]
theorem canonical_results (c : CoreId) (n : Nat) : (s.results c n).CanonicalMemory := by
  induction n generalizing s with
  | zero => exact h
  | succ n ih =>
    unfold State.results
    split
    · exact h
    · exact ih (canonical_after h (canonical_execResultVisible h ..))
theorem canonical_domains (c : CoreId) (x : CtxId) (n : Nat) : (s.domains c x n).CanonicalMemory := by
  induction n generalizing s with
  | zero => exact h
  | succ n ih =>
    unfold State.domains
    split
    · exact ih (canonical_after h (canonical_execDomainEffectApply h ..))
    · exact h
theorem canonical_stepStart (c : CoreId) : (s.stepStart c).CanonicalMemory := by
  unfold State.stepStart
  grind [canonical_wakeAll, canonical_after, canonical_execBarwWake, canonical_results, canonical_domains,
    canonical_execPendingTrapDelivery, canonical_foldl]
theorem canonical_stepBody (c : CoreId) : (s.stepBody c).CanonicalMemory := by
  unfold State.stepBody
  grind [canonical_after, canonical_execIdleStep, canonical_execBundleIssue, canonical_countFreeze]
theorem canonical_coreStep (c : CoreId) : (s.coreStep c).CanonicalMemory := by
  unfold State.coreStep
  grind [canonical_stepStart, canonical_modCore, canonical_countFreeze, canonical_stepBody, canonical_after,
    canonical_execIdleStep, canonical_opened, canonical_execSplitWindowEnd, Core.canonical_iff]
theorem canonical_propagate (c : CoreId) : (s.propagate c).CanonicalMemory :=
  canonical_ite (canonical_foldl (fun _ _ hs => canonical_ite (canonical_domains hs ..) hs) _ h) h
theorem canonical_stretchTick (c : CoreId) : (s.stretchTick c).CanonicalMemory :=
  canonical_ite (canonical_after h (canonical_execStretchEnd h ..)) (canonical_modCore h _ fun hk => hk)
theorem canonical_coreCycle (c : CoreId) : (s.coreCycle c).CanonicalMemory := by
  unfold State.coreCycle
  grind [canonical_stretchTick, canonical_settleTick, canonical_heartbeatHalt, canonical_stopCore, canonical_modCore,
    canonical_countFreeze, canonical_propagate, canonical_coreStep, Core.canonical_iff]
theorem canonical_coreTurn (c : CoreId) : (s.coreTurn c).CanonicalMemory := by
  unfold State.coreTurn
  grind [canonical_modCore, canonical_coreCycle, State.canonicalMemory_iff, Core.canonical_iff]
theorem canonical_staticEnergy (c : CoreId) : (s.staticEnergy c).CanonicalMemory :=
  canonical_foldl (fun _ _ hs => canonical_chargeExact hs ..) _ h
theorem canonical_tickEvents : s.tickEvents.CanonicalMemory := by
  unfold State.tickEvents
  grind [canonical_after, canonical_execHeartbeatIntervalEnd, canonical_execThermalSample, canonical_execThermalCapStep,
    canonical_execDrainFallback, canonical_execHostRetryTimer, canonical_execQuantumBoundary, canonical_endPresets,
    canonical_execLayoutTick, canonical_foldl]
theorem canonical_newTick : ({ s with cyc := s.cyc + 1, turn := 0 } : State).CanonicalMemory :=
  h.of_fields rfl rfl rfl rfl rfl rfl
theorem canonical_nextTick : s.nextTick.CanonicalMemory := by
  unfold State.nextTick
  refine canonical_tickEvents (canonical_newTick ?_)
  refine canonical_foldl (fun s e hs => canonical_after hs (canonical_execProbeSend hs ..)) _ (canonical_noteBlocked ?_)
  exact canonical_foldl (fun s c hs => canonical_staticEnergy hs ..) _
    (canonical_foldl (fun s u hs => canonical_after hs (canonical_execSleepuWake hs ..)) _ h)
theorem canonical_timeStep : s.timeStep.CanonicalMemory := by
  unfold State.timeStep
  grind [canonical_coreTurn, canonical_nextTick]

/-! ### The inputs (Machine/Dispatch) -/

theorem canonical_exec_of_isInput {i : Instr} (hi : isInput i = true) : CanonicalOut (exec i s) := by
  cases i
  case capWrite => exact canonical_execCapWrite h ..
  case droopAlarm => exact canonical_execDroopAlarm h ..
  case splitWindowRequest => exact canonical_execSplitWindowRequest h ..
  case heathGate => exact canonical_execHeathGate h ..
  case doorbell => exact canonical_execDoorbell h ..
  case frozenW1C => exact canonical_execFrozenW1C h ..
  case channelRetire => exact canonical_execChannelRetire h ..
  case moduleReset => exact canonical_execModuleReset h ..
  case hubReset => exact canonical_execHubReset h ..
  case partitionReset => exact canonical_execPartitionReset h ..
  case vfReset => exact canonical_execVfReset h ..
  case faultreply => exact canonical_execFaultreply h ..
  case tqheadWrite => exact canonical_execTqheadWrite h ..
  case vectorMaskClear => exact canonical_execVectorMaskClear h ..
  case attest => exact canonical_execAttest h ..
  case hostWindowWrite => exact canonical_execHostWindowWrite h ..
  case flitReceive => exact canonical_execFlitReceive h ..
  case flitAck => exact canonical_execFlitAck h ..
  case flitNak => exact canonical_execFlitNak h ..
  case mrd => exact canonical_execMrd h ..
  case mwr => exact canonical_execMwr h ..
  case linkAtom => exact canonical_execLinkAtom h ..
  case cpl port tag status data => exact canonical_execCpl h port tag status data
  case peerTransaction => exact canonical_execPeerTransaction h ..
  case recoveryMsg => exact canonical_execRecoveryMsg h ..
  case hostPortDown => exact canonical_execHostPortDown h ..
  case hostPortUp => exact canonical_execHostPortUp h ..
  case peerPortDown => exact canonical_execPeerPortDown h ..
  case peerPortUp => exact canonical_execPeerPortUp h ..
  case cxlLinkDown => exact canonical_execCxlLinkDown h ..
  all_goals cases hi

/-! ### The step (Machine/Step) -/

theorem canonical_step : CanonicalOut (step s) := by
  unfold step
  split
  · next i t ht =>
    have hc := canonical_nextInput h ht
    split
    · next hi => exact canonical_exec_of_isInput hc hi
    · exact hc
  · next i t _ ht => exact canonical_next (canonical_input (canonical_nextInput h ht) i)
  · split
    · next t ht => exact canonical_next (canonical_forced h t ht)
    · have hp := canonical_pickEvent h
      split
      · next e t ht =>
        rw [ht] at hp
        exact canonical_eventRun hp e
      · next t ht =>
        rw [ht] at hp
        exact canonical_next (canonical_timeStep hp)

end Sys2Proof.Machine
end

section
namespace Sys2Proof.Machine

/-- Settles O58: every outcome of `step` is put together from functions that keep the canonical form. -/
theorem stepKeepsCanonicalMemory : Obligations.StepKeepsCanonicalMemory := fun s t h ht => by
  have hs := canonical_step h
  rw [ht] at hs
  exact hs

end Sys2Proof.Machine
end

section
/-!
Forms that issue accesses (10 R141 to R148): a slot whose effect issues is a slot that issues, and the charge of its bytes shows
in the energy count alone.
-/
namespace Sys2Proof.Machine

theorem Issues.env {b t : State} {as : List Access} {fs : List Res} (h : Issues b t as fs) : t.env = b.env :=
  (congrArg State.env h.1 :)

/-- A charge of the context that issues keeps what has been issued. -/
theorem Issues.charged {b t : State} {as : List Access} {fs : List Res} (h : Issues b t as fs) (w den : Nat) :
    Issues b (t.chargeExact b.env.core b.env.ctx w den) as fs := by
  obtain ⟨f, hf, e⟩ := t.chargeExact_eq b.env.core b.env.ctx w den
  obtain ⟨hs, ha, hn, hi⟩ := h
  have hu (u : Ctx) : (f u).unissued = u.unissued :=
    congrArg (fun u : Ctx => ({ u with accs := [], nextId := 0 } : Ctx)) (hf u)
  have hx : ({ t.modCtx b.env.core b.env.ctx f with choices := t.choices + 1 } : State).ctx b.env.core b.env.ctx
      = f (t.ctx b.env.core b.env.ctx) := t.ctx_modCtx ..
  have hk (u : Ctx) : (f u).accs = u.accs ∧ (f u).nextId = u.nextId :=
    ⟨(congrArg Ctx.accs (hf u) :), (congrArg Ctx.nextId (hf u) :)⟩
  rw [e]
  refine ⟨(State.unissued_modCtx t _ _ hu).trans hs, ?_, ?_, ?_⟩
  · rw [hx, (hk _).1, ha]
  · rw [hx, (hk _).2, hn]
  · show ((t.modCtx b.env.core b.env.ctx f).core b.env.core).inflight = _
    rw [State.modCtx, State.core_modCore, Core.modCtx_inflight, hi]

theorem Issues.chargeBytes {b t : State} {as : List Access} {fs : List Res} (h : Issues b t as fs) (a : Addr) (n : Nat) :
    Issues b (t.chargeBytes a n) as fs := by
  simp only [State.chargeBytes, State.charge, h.env]
  exact h.charged _ _

/-- A slot whose guard holds and whose effect issues accesses completes with them. -/
theorem does_issues {i : Instr} {gd : Guard} {f : State → State} {s b : State} {as : List Access} {fs : List Res}
    (h : exec i s = slotDo gd none f s) (hg : s.guard gd = true) (hf : Issues b (f s) as fs) :
    Does i s fun t => Issues b t as fs :=
  ⟨_, h.trans (slotDo_of_guard hg none f), hf⟩

theorem State.checked_of_none {s : State} {ea : Addr} {n : Nat} {w sc : Bool} (h : s.accessCheck ea n w sc = none)
    (f : State → State) : s.checked ea n w sc f = f s := by
  simp only [State.checked, h]

/-- A load whose address passes its check issues its access, and its value is due after the latency of its path. -/
theorem issues_loadBytes {s : State} {os : Os} {m : Mem} {unit n own : Nat} {sc : Bool} (dest : Bool → LoadDest) (f : Access → Access)
    (h : s.accessCheck (s.ea m unit).1 n false sc = none) :
    Issues s (s.loadBytes os m unit n own sc dest f)
      [{ f { Access.make (.load false) (clsMask os.cls) os.scope (mkElems (s.ea m unit).1 n 0) with
          dest := dest (s.ea m unit).2
          taint := (s.ea m unit).2 } with due := s.now + pathLat s.env.core own (s.ea m unit).1 }]
      [(pathLat s.env.core own (s.ea m unit).1, .load s.cur.nextId, 0)] := by
  rw [State.loadBytes, State.checked_of_none h]
  exact (issues_newLoad ..).chargeBytes ..

/-- A store whose address passes its check issues its access. -/
theorem issues_storeBytes {s : State} {os : Os} {m : Mem} {unit n : Nat} {sc : Bool} (data : Nat) (f : Access → Access)
    (h : s.accessCheck (s.ea m unit).1 n true sc = none) :
    Issues s (s.storeBytes os m unit n data sc f)
      [f { Access.make .store (clsMask os.cls) os.scope (mkElems (s.ea m unit).1 n data) with taint := (s.ea m unit).2 }] [] := by
  rw [State.storeBytes, State.checked_of_none h]
  exact (issues_newAcc ..).chargeBytes ..

/-- Settles O14: each form is a slot whose effect is one load or store of its bytes. -/
theorem loadAndStoreForms : Obligations.LoadAndStoreForms := by
  refine ⟨fun s gd sz os d m a c op sg hg => ⟨fun h => ⟨?_, ?_, ?_⟩, fun h => ?_, fun h => ?_⟩,
    fun s gd sz os d m hg => ⟨fun h => ⟨?_, ?_⟩, fun h => ?_⟩⟩
  · exact does_issues (show _ = execLd gd sz os d m s from rfl) hg (issues_loadBytes _ _ h)
  · exact does_issues (show _ = execLdc gd sz os d m s from rfl) hg (issues_loadBytes _ _ h)
  · exact does_issues (show _ = execLda gd sz os d m s from rfl) hg (issues_loadBytes _ _ h)
  · exact does_issues (show _ = execLdv gd os d m s from rfl) hg (issues_loadBytes _ _ h)
  · refine does_issues (show _ = execAtom gd op sg sz os d a c s from rfl) hg ?_
    rw [State.checked_of_none h]
    exact (issues_newLoad ..).chargeBytes ..
  · exact does_issues (show _ = execSt gd sz os d m s from rfl) hg (issues_storeBytes _ _ h)
  · exact does_issues (show _ = execStl gd sz os d m s from rfl) hg (issues_storeBytes _ _ h)
  · exact does_issues (show _ = execStv gd os d m s from rfl) hg (issues_storeBytes _ _ h)

end Sys2Proof.Machine
end

section
/-!
GATH, SCAT and the transfers of tiles and blocks (10 R143 to R145).
-/
namespace Sys2Proof.Machine

/-- Charges keep what has been issued. -/
theorem Issues.chargeEach {b t : State} {as : List Access} {fs : List Res} (h : Issues b t as fs) (l : List Addr) (n : Nat) :
    Issues b (l.foldl (fun s a => s.chargeBytes a n) t) as fs := by
  induction l generalizing t with
  | nil => exact h
  | cons a l ih => exact ih (h.chargeBytes a n)

/-- No lane faults where each passes its check. -/
theorem State.laneFault_eq_none {s : State} {n : Nat} {w : Bool} {as : List Addr} (h : ∀ a ∈ as, s.accessCheck a n w false = none) :
    s.laneFault n w as = none :=
  List.findSome?_eq_none_iff.2 h

theorem zipIdx_map_range {α : Type} (f : Nat → α) (n : Nat) : ((List.range n).map f).zipIdx = (List.range n).map fun i => (f i, i) := by
  apply List.ext_getElem <;> simp

theorem State.tileNamed_of_ok {s : State} {m : R16} (hm : m.val < s.alloc.tiles) (hs : shapeOk (s.rdShape m) = true) (f : State → State) :
    s.tileNamed m f = f s := by
  simp [State.tileNamed, hs, hm]

theorem State.blockNamed_of_lt {s : State} {d : R64} (h : (Fin.ofNat 512 (s.g d).toNat).val < s.alloc.acc) (f : Q512 → State → State) :
    s.blockNamed d f = f (Fin.ofNat 512 (s.g d).toNat) s := by
  rw [State.blockNamed, if_neg (Nat.not_le.2 h)]

/-- GATH, whose lanes all pass. -/
theorem gath_issues {s : State} {gd : Guard} (hg : s.guard gd = true) {sz : MSize} (os : Os) (d : R64) {a : R16} {x : R64}
    (h : ∀ l ∈ s.laneAddrs sz a x, s.accessCheck l sz.bytes false false = none) :
    let lat := (s.laneAddrs sz a x).foldl (fun m l => max m (pathLat s.env.core 12 l)) 0
    Does (.gath gd sz os d a x) s fun t => Issues s t
      [{ Access.make (.load false) (clsMask os.cls) os.scope ((s.laneAddrs sz a x).map fun l => ⟨l, sz.bytes, 0, false, 0⟩) with
        dest := .gath d
        taint := (s.rdA a).2
        due := s.now + lat }] [(lat, .load s.cur.nextId, 0)] := by
  refine does_issues (show _ = execGath gd sz os d a x s from rfl) hg ?_
  simp only [State.laneFault_eq_none h]
  exact (issues_newLoad ..).chargeEach _ _

/-- SCAT, whose lanes all pass. -/
theorem scat_issues {s : State} {gd : Guard} (hg : s.guard gd = true) {sz : MSize} (os : Os) (d : R64) {a : R16} {x : R64}
    (h : ∀ l ∈ s.laneAddrs sz a x, s.accessCheck l sz.bytes true false = none) :
    let lane (i : Nat) : Nat := (s.rdW d).toNat / 2 ^ (8 * sz.bytes * i) % 2 ^ (8 * sz.bytes)
    Does (.scat gd sz os d a x) s fun t => Issues s t
      [{ Access.make .store (clsMask os.cls) os.scope
          ((s.laneAddrs sz a x).zipIdx.map fun l => ⟨l.1, sz.bytes, BitVec.ofNat 64 (lane l.2), false, 0⟩) with
        taint := (s.rdA a).2 }] [] := by
  refine does_issues (show _ = execScat gd sz os d a x s from rfl) hg ?_
  simp only [State.laneFault_eq_none h]
  exact (issues_newAcc ..).chargeEach _ _

/-- Settles O15: the lanes of GATH and SCAT are one access; a tile or a block is one image. -/
theorem laneAndTileAccesses : Obligations.LaneAndTileAccesses := by
  refine ⟨fun s gd sz os d a x hg => ⟨fun h => ?_, fun h => ?_⟩, fun s gd os d q m hg =>
    ⟨fun hd hs => ⟨fun h => ?_, fun h => ?_, fun ht h => ?_⟩, fun hq => ⟨fun h => ?_, fun h => ?_⟩⟩⟩
  · have hi := gath_issues hg os d (a := a) (x := x) (List.forall_mem_map.2 h)
    simpa only [State.laneAddrs, List.foldl_map, List.map_map, Function.comp_def] using hi
  · have hi := scat_issues hg os d (a := a) (x := x) (List.forall_mem_map.2 h)
    simpa only [State.laneAddrs, zipIdx_map_range, List.map_map, Function.comp_def] using hi
  · refine does_issues (show _ = execLdt gd os d m s from rfl) hg ?_
    rw [State.tileNamed_of_ok hd hs]
    exact issues_loadBytes _ _ h
  · refine does_issues (show _ = execStt gd os d m s from rfl) hg ?_
    rw [State.tileNamed_of_ok hd hs]
    exact issues_storeBytes _ _ h
  · refine does_issues (show _ = execLdtMx4 gd os d m s from rfl) hg ?_
    rw [State.tileNamed_of_ok hd hs, if_neg (not_not.2 ht)]
    exact issues_loadBytes _ _ h
  · refine does_issues (show _ = execLdq gd os q m s from rfl) hg ?_
    rw [State.blockNamed_of_lt hq]
    exact issues_loadBytes _ _ h
  · refine does_issues (show _ = execStq gd os q m s from rfl) hg ?_
    rw [State.blockNamed_of_lt hq]
    exact issues_storeBytes _ _ h

end Sys2Proof.Machine
end

section
/-!
The ordering and signalling forms (10 R147, R148, R157, 19 R302, 24 R371, R372).
-/
namespace Sys2Proof.Machine

theorem memReadN_lt (m : Memory) (a n : Nat) : memReadN m a n < 2 ^ (8 * n) := by
  induction n generalizing a with
  | zero => exact Nat.one_pos
  | succ n ih =>
    have hb := (memRead m a).isLt
    have hr := ih (a + 1)
    rw [memReadN, Nat.mul_succ, Nat.pow_add, Nat.mul_comm]
    omega

theorem toNat_ofNat_memReadN (m : Memory) (a n : Nat) {w : Nat} (h : 8 * n ≤ w) : (BitVec.ofNat w (memReadN m a n)).toNat = memReadN m a n := by
  rw [BitVec.toNat_ofNat, Nat.mod_eq_of_lt ((memReadN_lt m a n).trans_le (Nat.pow_le_pow_right Nat.two_pos h))]

/-- A line that is filled stands last in the L1, and every other one stood there before. -/
theorem State.mem_l1Fill (s : State) (c : CoreId) (line : Nat) : s.lineNow line ∈ ((s.l1Fill c line).core c).l1
    ∧ ∀ e ∈ ((s.l1Fill c line).core c).l1, e = s.lineNow line ∨ e ∈ (s.core c).l1 := by
  simp only [State.l1Fill, State.core_modCore]
  generalize s.lineNow line = d
  constructor
  · rw [List.drop_append_of_le_length (by simp only [List.length_append, List.length_singleton]; omega)]
    exact List.mem_append_right _ (List.mem_singleton.2 rfl)
  · intro e he
    rcases List.mem_append.1 (List.mem_of_mem_drop he) with he | he
    · exact .inr (List.mem_filter.1 he).1
    · exact .inl (List.mem_singleton.1 he)

/-- A fill changes the MSC and the L1 of its core alone. -/
theorem State.fillCtx_eq (s : State) (c : CoreId) (x : CtxId) (a : Addr) (p : Nat) :
    ∃ m, s.fillCtx c x a p = ({ s with msc := m } : State).l1Fill c (p / 64) := by
  unfold State.fillCtx State.mscCtx
  split
  · exact ⟨s.msc, rfl⟩
  · obtain ⟨m, e⟩ := s.mscTouch_eq (s.core c).alloc.part (s.xlatCtx c x) a.toNat 1 false
    exact ⟨m, congrArg (State.l1Fill · c (p / 64)) e⟩

/-- A state but for a core's L1, and with the MSC lines `m`. -/
def State.uncached (s : State) (c : CoreId) (m : Vector (List MscLine) 12) : State :=
  { s.modCore c fun k => { k with l1 := [] } with msc := m }

theorem State.uncached_fillCtx (s : State) (c : CoreId) (x : CtxId) (a : Addr) (p : Nat) (m : Vector (List MscLine) 12) :
    (s.fillCtx c x a p).uncached c m = s.uncached c m := by
  obtain ⟨l, e⟩ := s.fillCtx_eq c x a p
  let d : L1Line := s.lineNow (p / 64)
  have h : (s.modCore c fun k =>
      let l := (k.l1.filter fun e => e.line != p / 64) ++ [d]
      { k with l1 := l.drop (l.length - 2048) }).modCore c (fun k => { k with l1 := [] }) = s.modCore c fun k => { k with l1 := [] } := by
    rw [State.modCore_modCore]
    rfl
  rw [e]
  exact congrArg (fun t : State => { t with msc := m }) h

/-- A charge does not look at the L1. -/
theorem State.uncached_chargeExact (s : State) (c : CoreId) (x : CtxId) (w den : Nat) (m : Vector (List MscLine) 12) :
    (s.chargeExact c x w den).uncached c m = (s.uncached c m).chargeExact c x w den := by
  have h (f : Ctx → Ctx) : (s.modCtx c x f).modCore c (fun k => { k with l1 := [] }) = (s.modCore c fun k => { k with l1 := [] }).modCtx c x f := by
    simp only [State.modCtx, State.modCore_modCore]
    rfl
  exact congrArg (fun t : State => { t with choices := s.choices + 1, msc := m }) (h _)

theorem State.l1_chargeExact (s : State) (c : CoreId) (x : CtxId) (w den : Nat) :
    ((s.chargeExact c x w den).core c).l1 = (s.core c).l1 := by
  obtain ⟨f, -, e⟩ := s.chargeExact_eq c x w den
  rw [e]
  show ((s.modCtx c x f).core c).l1 = _
  rw [State.modCtx, State.core_modCore, Core.modCtx_l1]

/-- The prefetch of a line: it is filled, and the bytes fetched are charged. -/
theorem prefetch_fills (s : State) (a : Addr) (p : Nat) :
    let c := s.env.core
    let t := (s.fillCtx c s.env.ctx a p).chargeBytes a 64
    Sends (s.uncached c s.msc) (t.uncached c s.msc) []
    ∧ (∃ e ∈ (t.core c).l1, e.line = p / 64 ∧ e.data.toNat = memReadN s.gmem (64 * (p / 64)) 64)
    ∧ ∀ e ∈ (t.core c).l1, e.line = p / 64 ∨ e ∈ (s.core c).l1 := by
  intro c t
  obtain ⟨m, e⟩ := s.fillCtx_eq c s.env.ctx a p
  obtain ⟨hd, hf⟩ := State.mem_l1Fill { s with msc := m } c (p / 64)
  have he : (s.fillCtx c s.env.ctx a p).env = s.env := by
    rw [e]
    rfl
  obtain ⟨w, ht⟩ : ∃ w, t = (s.fillCtx c s.env.ctx a p).chargeExact c s.env.ctx w 10000 := by
    simp only [t, State.chargeBytes, State.charge, he]
    exact ⟨_, rfl⟩
  have hl : (t.core c).l1 = ((({ s with msc := m } : State).l1Fill c (p / 64)).core c).l1 := by
    rw [ht, State.l1_chargeExact, e]
  rw [hl]
  refine ⟨?_, ⟨_, hd, rfl, toNat_ofNat_memReadN _ _ _ le_rfl⟩, fun e he => ?_⟩
  · rw [ht, State.uncached_chargeExact, State.uncached_fillCtx]
    exact (Sends.refl (s.uncached c s.msc)).charged _ _
  · rcases hf e he with rfl | h
    · exact .inl rfl
    · exact .inr h

theorem State.privileged_of_handler {s : State} (h : s.cur.hm = true) (f : State → State) : s.privileged f = f s :=
  if_pos h

theorem fenceForm_issues (s : State) (e : Bool) (sc : Scope) (d : R64) : Issues s (s.fenceForm e sc d)
    [{ Access.make (.fence e) ((s.g d).setWidth 16) sc unitElem with acqAll := e && s.hasJobs s.env.core s.env.ctx }] [] :=
  issues_newAcc ..

/-- Settles O16: each form is a slot whose effect is its access, or the fill of a line. -/
theorem orderingFormResults : Obligations.OrderingFormResults := by
  intro s gd os sc d a v m b hg
  refine ⟨?_, ?_, ?_, ?_, fun hm => ⟨?_, ?_⟩, fun hu => ⟨fun hp => ?_, fun hp => ?_, ?_⟩, ?_⟩
  · exact does_issues (show _ = execFence gd sc d s from rfl) hg (fenceForm_issues ..)
  · exact does_issues (show _ = execFenceE gd sc d s from rfl) hg (fenceForm_issues ..)
  · exact does_issues (show _ = execEvsig gd v s from rfl) hg (issues_newAcc ..)
  · refine ⟨_, (show _ = execPref gd os m s from rfl).trans (slotDo_of_guard hg none _), fun hs => if_pos hs, fun hs hp => ?_,
      fun pa hs hp => ⟨fun hpin => ?_, fun hpin => ?_⟩⟩
    · simp only [hs, Bool.false_eq_true, if_false]
    · simp [hs, hp, hpin]
    · simp only [hs, hp, hpin]
      exact prefetch_fills s _ pa
  · exact does_issues (show _ = execTlbinv gd sc a s from rfl) hg (State.privileged_of_handler hm _ ▸ issues_newAcc ..)
  · exact does_issues (show _ = execTlbinvAll gd sc s from rfl) hg (State.privileged_of_handler hm _ ▸ issues_newAcc ..)
  · refine does_issues (show _ = execBara gd b s from rfl) hg ?_
    rw [State.outsideHandler_of_user hu, if_neg hp]
    exact issues_newAcc ..
  · refine ⟨_, (show _ = execBara gd b s from rfl).trans (slotDo_of_guard hg none _), ?_⟩
    rw [State.outsideHandler_of_user hu]
    exact if_pos hp
  · refine ⟨_, (show _ = execBarw gd b s from rfl).trans (slotDo_of_guard hg none _), ?_⟩
    exact State.outsideHandler_of_user hu _
  · exact does_slotDo (show _ = execBarq gd d b s from rfl) hg (sends_pushG ..)

end Sys2Proof.Machine
end

section
/-!
What an access that performs leaves alone (10 R135, R136): memory, vaults, registers and the accesses of contexts, while blocked
contexts are woken, pins end and cards arrive.
-/
namespace Sys2Proof.Machine

/-- From `s` to `t` memory and the vaults keep their bytes. -/
structure SameBytes (s t : State) : Prop where
  gmem : t.gmem = s.gmem
  vault : ∀ d, (t.core d).vault = (s.core d).vault

/-- Nor does a context change in its g-registers or its accesses. -/
structure Keeps (s t : State) : Prop extends SameBytes s t where
  regs : ∀ d y, (t.ctx d y).g = (s.ctx d y).g
  accs : ∀ d y, (t.ctx d y).accs = (s.ctx d y).accs

/-- Nor does an L1 take a line, though it may lose lines. -/
structure Calms (s t : State) : Prop extends Keeps s t where
  lines : ∀ d, ∀ ln ∈ (t.core d).l1, ln ∈ (s.core d).l1

theorem SameBytes.trans {s t u : State} (h : SameBytes s t) (h' : SameBytes t u) : SameBytes s u :=
  ⟨h'.gmem.trans h.gmem, fun d => (h'.vault d).trans (h.vault d)⟩
theorem Keeps.trans {s t u : State} (h : Keeps s t) (h' : Keeps t u) : Keeps s u :=
  ⟨h.toSameBytes.trans h'.toSameBytes, fun d y => (h'.regs d y).trans (h.regs d y), fun d y => (h'.accs d y).trans (h.accs d y)⟩
theorem Calms.refl (s : State) : Calms s s := ⟨⟨⟨rfl, fun _ => rfl⟩, fun _ _ => rfl, fun _ _ => rfl⟩, fun _ _ h => h⟩
theorem Calms.trans {s t u : State} (h : Calms s t) (h' : Calms t u) : Calms s u :=
  ⟨h.toKeeps.trans h'.toKeeps, fun d ln hl => h.lines d ln (h'.lines d ln hl)⟩
theorem Calms.foldl {α : Type} {f : State → α → State} (h : ∀ s a, Calms s (f s a)) (l : List α) (s : State) :
    Calms s (l.foldl f s) := by
  induction l generalizing s with
  | nil => exact Calms.refl s
  | cons a l ih => exact (h s a).trans (ih (f s a))

/-- A change of fields outside the cores and memory. -/
theorem Calms.of_fields {s t : State} (hc : t.cores = s.cores) (hg : t.gmem = s.gmem) : Calms s t := by
  have h (d : CoreId) : t.core d = s.core d := by simp only [State.core, hc]
  exact ⟨⟨⟨hg, fun d => by rw [h]⟩, fun d y => by rw [State.ctx, h, State.ctx], fun d y => by rw [State.ctx, h, State.ctx]⟩,
    fun d ln hl => h d ▸ hl⟩

theorem keeps_modCore (s : State) (c : CoreId) {f : Core → Core} (hv : ∀ k, (f k).vault = k.vault)
    (hg : ∀ k (y : CtxId), ((f k).ctxs[y]).g = (k.ctxs[y]).g) (ha : ∀ k (y : CtxId), ((f k).ctxs[y]).accs = (k.ctxs[y]).accs) :
    Keeps s (s.modCore c f) := by
  have h (d : CoreId) : (s.modCore c f).core d = if d = c then f (s.core c) else s.core d := by
    split
    · next e =>
      subst e
      exact s.core_modCore d f
    · next e => exact s.core_modCore_ne f e
  refine ⟨⟨rfl, fun d => ?_⟩, fun d y => ?_, fun d y => ?_⟩
  · rw [h]
    split
    · next e => rw [hv, e]
    · rfl
  · rw [State.ctx_eq, h]
    split
    · next e => rw [hg, e, State.ctx_eq]
    · rfl
  · rw [State.ctx_eq, h]
    split
    · next e => rw [ha, e, State.ctx_eq]
    · rfl
theorem calms_modCore (s : State) (c : CoreId) {f : Core → Core} (hv : ∀ k, (f k).vault = k.vault)
    (hg : ∀ k (y : CtxId), ((f k).ctxs[y]).g = (k.ctxs[y]).g) (ha : ∀ k (y : CtxId), ((f k).ctxs[y]).accs = (k.ctxs[y]).accs)
    (hl : ∀ k, ∀ ln ∈ (f k).l1, ln ∈ k.l1) : Calms s (s.modCore c f) := by
  refine ⟨keeps_modCore s c hv hg ha, fun d ln h => ?_⟩
  rcases eq_or_ne d c with rfl | hd
  · exact hl _ _ (State.core_modCore s d f ▸ h)
  · exact State.core_modCore_ne s f hd ▸ h
theorem calms_modCtx (s : State) (c : CoreId) (x : CtxId) {f : Ctx → Ctx} (hg : ∀ t, (f t).g = t.g) (ha : ∀ t, (f t).accs = t.accs) :
    Calms s (s.modCtx c x f) := by
  refine calms_modCore s c (fun _ => rfl) (fun k y => ?_) (fun k y => ?_) fun _ _ h => h
  · rcases eq_or_ne y x with rfl | hy
    · rw [Core.ctx_modCtx, hg]
    · rw [Core.ctx_modCtx_ne k f hy]
  · rcases eq_or_ne y x with rfl | hy
    · rw [Core.ctx_modCtx, ha]
    · rw [Core.ctx_modCtx_ne k f hy]

/-! ### Blocked contexts, pins and cards -/

theorem calms_observeWord (s : State) (c : CoreId) (a : Addr) (cc : Wc) : Calms s (s.observeWord c a cc) := by
  rcases s.observeWord_eq c a cc with e | e
  · rw [e]
    exact Calms.refl s
  · rw [e]
    exact calms_modCore s c (fun _ => rfl) (fun _ _ => rfl) (fun _ _ => rfl) fun _ _ h => absurd h List.not_mem_nil
theorem calms_walkCtx (s : State) (c : CoreId) (x : CtxId) (a : Addr) : Calms s (s.walkCtx c x a) := by
  obtain ⟨l, w, e⟩ := s.walkCtx_eq c x a
  rw [e]
  exact (calms_modCore s c (f := fun k => { k with tlb := l }) (fun _ => rfl) (fun _ _ => rfl) (fun _ _ => rfl) fun _ _ h => h).trans
    (Calms.of_fields rfl rfl)
theorem calms_settleBlocks (s : State) (c : CoreId) (x : CtxId) : Calms s (s.settleBlocks c x) :=
  calms_modCtx s c x (fun _ => rfl) fun _ => rfl
theorem calms_wakeTest (s : State) (c : CoreId) (x : CtxId) : Calms s (s.wakeTest c x) := by
  unfold State.wakeTest
  dsimp only
  split
  · exact Calms.refl s
  · split
    · next a cc dw v _ =>
      split
      · refine (calms_observeWord s c a cc).trans (Calms.trans ?_ (calms_settleBlocks _ c x))
        exact calms_modCtx _ c x (fun _ => rfl) fun _ => rfl
      · exact calms_modCtx s c x (fun _ => rfl) fun _ => rfl
      · exact calms_modCtx s c x (fun _ => rfl) fun _ => rfl
      · exact calms_walkCtx s c x a
      · exact Calms.refl s
    · exact Calms.refl s
theorem calms_retest (s : State) (l : Loc) (n : Nat) : Calms s (s.retest l n) := by
  unfold State.retest
  generalize allCtx = ps
  refine Calms.foldl (fun s p => ?_) ps s
  dsimp only
  split
  · exact Calms.refl s
  · split
    · split
      · split_ifs
        · exact calms_wakeTest s p.1 p.2
        · exact Calms.refl s
        · exact calms_wakeTest s p.1 p.2
        · exact Calms.refl s
      · exact Calms.refl s
    · exact Calms.refl s
theorem calms_retestAll (s : State) : Calms s s.retestAll := by
  unfold State.retestAll
  generalize allCtx = ps
  exact Calms.foldl (fun s p => calms_wakeTest s p.1 p.2) ps s
theorem calms_endPinsScope (s : State) (c : CoreId) (sc : Scope) : Calms s (s.endPinsScope c sc) := by
  unfold State.endPinsScope
  dsimp only
  split
  · exact Calms.of_fields rfl rfl
  · refine Calms.trans ?_ (calms_retestAll _)
    exact Calms.of_fields rfl rfl
theorem calms_makePin (s : State) (c : CoreId) (x : CtxId) (line : Nat) (sc : Scope) : Calms s (s.makePin c x line sc) := by
  unfold State.makePin
  extract_lets heath mine n old kept
  split
  · exact Calms.refl s
  · exact Calms.of_fields rfl rfl
theorem calms_pinAtom (s : State) (c : CoreId) (x : CtxId) (a : Access) (line : Nat) : Calms s (s.pinAtom c x a line) := by
  have hp (s : State) (p : Pin → Bool) : Calms s (s.endPins p) := Calms.of_fields rfl rfl
  unfold State.pinAtom
  split
  · exact Calms.refl s
  · dsimp only
    refine (calms_makePin s c x line a.scope).trans ?_
    split
    · split
      · refine Calms.trans ?_ (hp _ _)
        unfold State.endPinsHalted
        split
        · exact hp _ _
        · exact Calms.refl _
      · exact hp _ _
    · exact Calms.refl _
theorem calms_mscCtx (s : State) (c : CoreId) (x : CtxId) (w : Bool) (a : Addr) (n : Nat) : Calms s (s.mscCtx c x w a n) := by
  unfold State.mscCtx
  split
  · exact Calms.refl s
  · obtain ⟨l, e⟩ := s.mscTouch_eq (s.core c).alloc.part (s.xlatCtx c x) a.toNat n w
    rw [e]
    exact Calms.of_fields rfl rfl
theorem calms_healSector (s : State) (l : Loc) (ws : List (Nat × Nat)) (a : Nat) : Calms s (s.healSector l ws a) := by
  unfold State.healSector
  split
  · exact Calms.refl s
  · split
    · exact Calms.of_fields rfl rfl
    · exact Calms.refl s

/-- The card of a job that arrives changes the jobs and the start marks of the job's core alone. -/
theorem State.cardArrives_eq (s : State) (c : CoreId) (x : CtxId) (id : Nat) : ∃ d m js,
    s.cardArrives c x id = { s.modCore d (fun k => { k with marks := m }) with jobs := js } := by
  have same (js : List Job) : ({ s with jobs := js } : State) =
      { s.modCore c (fun k => { k with marks := (s.core c).marks }) with jobs := js } := by
    rw [State.modCore_id s c _ rfl]
  unfold State.cardArrives
  split
  · exact ⟨c, _, s.jobs, same s.jobs⟩
  · split
    · split_ifs
      · exact ⟨c, _, s.jobs, same s.jobs⟩
      · exact ⟨c, _, _, same _⟩
      · unfold State.cardRead
        split
        · exact ⟨c, _, s.jobs, same s.jobs⟩
        · extract_lets t j pr u
          split_ifs
          · exact ⟨c, _, _, same _⟩
          · unfold State.clearRange
            split
            · exact ⟨j.core, _, _, rfl⟩
            · exact ⟨c, _, _, same _⟩
          · exact ⟨c, _, _, same _⟩
    · exact ⟨c, _, s.jobs, same s.jobs⟩
theorem calms_cardArrives (s : State) (c : CoreId) (x : CtxId) (id : Nat) : Calms s (s.cardArrives c x id) := by
  obtain ⟨d, m, js, e⟩ := s.cardArrives_eq c x id
  rw [e]
  exact (calms_modCore s d (f := fun k => { k with marks := m }) (fun _ => rfl) (fun _ _ => rfl) (fun _ _ => rfl) fun _ _ h => h).trans
    (Calms.of_fields rfl rfl)

end Sys2Proof.Machine
end

section
/-!
What a write at a place does, and what a load reads there (10 R135, R136, R153).
-/
namespace Sys2Proof.Machine

/-! ### Writes -/

/-- From `s` to `t` the `n` bytes of `v` are written at a place, and no other byte of memory or of a vault changes. -/
def Stored (s t : State) (l : Loc) (n v : Nat) : Prop := match l with
  | .vault c a => t.gmem = s.gmem ∧ ∀ (d : CoreId) (o : Nat), memRead (t.core d).vault o =
      if d = c ∧ a ≤ o ∧ o < a + n then BitVec.ofNat 8 (v / 2 ^ (8 * (o - a))) else memRead (s.core d).vault o
  | .mem a => (∀ d, (t.core d).vault = (s.core d).vault) ∧ ∀ o : Nat, memRead t.gmem o =
      if a ≤ o ∧ o < a + n then BitVec.ofNat 8 (v / 2 ^ (8 * (o - a))) else memRead s.gmem o

theorem memRead_memWriteN_bits {m : Memory} (h : memWf m = true) (a n v o : Nat) :
    memRead (memWriteN m a n v) o = if a ≤ o ∧ o < a + n then BitVec.ofNat 8 (v / 2 ^ (8 * (o - a))) else memRead m o := by
  rw [memRead_memWriteN h, Nat.pow_mul]

theorem State.vault_writeLoc (s : State) (c : CoreId) (a n v : Nat) (d : CoreId) : ((s.writeLoc (.vault c a) n v).core d).vault =
    if d = c then memWriteN (s.core c).vault a n v else (s.core d).vault := by
  simp only [State.writeLoc]
  split
  · next e => rw [e, State.core_modCore]
  · next e => rw [State.core_modCore_ne _ _ e]

theorem stored_writeLoc {s : State} (hs : s.CanonicalMemory) (l : Loc) (n v : Nat) : Stored s (s.writeLoc l n v) l n v := by
  cases l with
  | vault c a =>
    refine ⟨rfl, fun d o => ?_⟩
    obtain ⟨hv, -, -⟩ := canonical_core hs c
    rw [State.vault_writeLoc]
    by_cases hd : d = c
    · subst hd
      simp [memRead_memWriteN_bits hv]
    · simp [hd]
  | mem a =>
    obtain ⟨hg, -⟩ := s.canonicalMemory_iff.1 hs
    exact ⟨fun _ => rfl, fun o => memRead_memWriteN_bits hg a n v o⟩

/-- What is read of a place, byte by byte. -/
theorem memRead_of_memReadN (m : Memory) (a n o : Nat) (h : a ≤ o ∧ o < a + n) :
    BitVec.ofNat 8 (memReadN m a n / 2 ^ (8 * (o - a))) = memRead m o := by
  induction n generalizing a with
  | zero => omega
  | succ n ih =>
    have hb := (memRead m a).isLt
    rw [memReadN]
    rcases Nat.eq_or_lt_of_le h.1 with rfl | hlt
    · rw [Nat.sub_self, Nat.mul_zero, Nat.pow_zero, Nat.div_one]
      exact BitVec.eq_of_toNat_eq (by rw [BitVec.toNat_ofNat]; omega)
    · have hs : 8 * (o - a) = 8 + 8 * (o - (a + 1)) := by omega
      have hrest : ((memRead m a).toNat + 256 * memReadN m (a + 1) n) / 2 ^ 8 = memReadN m (a + 1) n := by omega
      rw [hs, Nat.pow_add, ← Nat.div_div_eq_div_mul, hrest]
      exact ih (a + 1) (by omega)

/-- Bytes that stand at a place are written there. -/
theorem stored_readLoc (s : State) (l : Loc) (n : Nat) : Stored s s l n (s.readLoc l n) := by
  cases l with
  | vault c a =>
    refine ⟨rfl, fun d o => ?_⟩
    split
    · next h =>
      obtain ⟨rfl, h⟩ := h
      exact (memRead_of_memReadN _ a n o h).symm
    · rfl
  | mem a =>
    refine ⟨fun _ => rfl, fun o => ?_⟩
    split
    · next h => exact (memRead_of_memReadN _ a n o h).symm
    · rfl

theorem Stored.trans {s t u : State} {l : Loc} {n v : Nat} (h : Stored s t l n v) (h' : SameBytes t u) : Stored s u l n v := by
  obtain ⟨hg, hv⟩ := h'
  cases l with
  | vault c a => exact ⟨hg.trans h.1, fun d o => by rw [hv, h.2]⟩
  | mem a => exact ⟨fun d => (hv d).trans (h.1 d), fun o => by rw [hg, h.2]⟩

theorem SameBytes.writeLoc {s t : State} (h : SameBytes s t) (l : Loc) (n v : Nat) : SameBytes (s.writeLoc l n v) (t.writeLoc l n v) := by
  cases l with
  | vault c a =>
    refine ⟨h.gmem, fun d => ?_⟩
    rw [State.vault_writeLoc, State.vault_writeLoc, h.vault, h.vault]
  | mem a => exact ⟨congrArg (memWriteN · a n v) h.gmem, h.vault⟩

theorem sameBytes_modCtx (s : State) (c : CoreId) (x : CtxId) (f : Ctx → Ctx) : SameBytes s (s.modCtx c x f) := by
  refine ⟨rfl, fun d => ?_⟩
  rcases eq_or_ne d c with rfl | hd
  · rw [State.modCtx, State.core_modCore, Core.modCtx_vault]
  · rw [State.modCtx, State.core_modCore_ne _ _ hd]

/-- The write of a core: its L1 takes a copy, and the WAITs of the bytes are tested. -/
theorem sameBytes_coreWrite (s : State) (c : CoreId) (l : Loc) (n v : Nat) : SameBytes (s.writeLoc l n v) (s.coreWrite c l n v) := by
  cases l with
  | vault d a => exact (calms_retest _ _ n).toSameBytes
  | mem a =>
    have h := keeps_modCore (s.writeLoc (.mem a) n v) c (f := fun k => { k with l1 := l1Write k.l1 a n v }) (fun _ => rfl)
      (fun _ _ => rfl) fun _ _ => rfl
    exact h.toSameBytes.trans (calms_retest _ _ n).toSameBytes

/-- A store performs an element. -/
theorem stored_performStore {s : State} (hs : s.CanonicalMemory) {c : CoreId} {x : CtxId} {a : Access} {k : Nat} {e : Elem}
    (he : a.elems[k]? = some e) (h : a.kind = .store) {l : Loc} (hl : s.loc c x true e.a = some l) :
    Stored s (s.performElem c x a k) l e.n e.data.toNat := by
  rw [State.performElem_store he h hl]
  extract_lets t u
  have ht : SameBytes s t := (calms_mscCtx s c x true e.a e.n).toSameBytes.trans (sameBytes_modCtx _ c x _)
  have hu : Stored s u l e.n e.data.toNat :=
    ((stored_writeLoc hs l e.n _).trans (ht.writeLoc l e.n _)).trans
      ((sameBytes_coreWrite t c l e.n _).trans (calms_healSector _ l _ _).toSameBytes)
  refine Stored.trans ?_ (sameBytes_modCtx _ c x _)
  split
  · exact hu.trans (calms_endPinsScope u c a.scope).toSameBytes
  · exact hu


end Sys2Proof.Machine
end

section
/-!
Loads and atomics that perform (10 R136, R141, R146).
-/
namespace Sys2Proof.Machine

/-! ### What an access has taken -/

theorem State.findAcc_of_accs {s t : State} {c : CoreId} {x : CtxId} (h : (t.ctx c x).accs = (s.ctx c x).accs) (id : Nat) :
    t.findAcc c x id = s.findAcc c x id := by
  simp only [State.findAcc, h]

theorem State.findAcc_updAcc {s : State} {c : CoreId} {x : CtxId} {a : Access} (h : s.findAcc c x a.id = some a) {f : Access → Access}
    (hf : ∀ b, (f b).id = b.id) : (s.updAcc c x a.id f).findAcc c x a.id = some (f a) := by
  have hp : ((fun b : Access => b.id == a.id) ∘ fun b : Access => if b.id = a.id then f b else b) = fun b => b.id == a.id := by
    funext b
    by_cases hb : b.id = a.id <;> simp [hb, hf]
  simp only [State.findAcc] at h ⊢
  rw [State.updAcc, State.ctx_modCtx, List.find?_map, hp, h, Option.map_some, if_pos rfl]

/-- An access whose element has taken a value, once all else has been done. -/
theorem State.findAcc_setDone {s u t : State} {c : CoreId} {x : CtxId} {a : Access} (h : s.findAcc c x a.id = some a) {k : Nat} {w : Word}
    (hu : (u.ctx c x).accs = (s.ctx c x).accs)
    (ht : (t.ctx c x).accs = ((u.updAcc c x a.id fun b => b.setDone k w).ctx c x).accs) : t.findAcc c x a.id = some (a.setDone k w) := by
  rw [State.findAcc_of_accs ht]
  exact State.findAcc_updAcc ((State.findAcc_of_accs hu _).trans h) fun _ => rfl

theorem Access.elems_setDone {a : Access} {k : Nat} {e : Elem} (h : a.elems[k]? = some e) (w : Word) :
    (a.setDone k w).elems[k]? = some { e with done := true, val := w } := by
  simp [Access.setDone, h]

theorem calms_performAcc {s : State} {c : CoreId} {x : CtxId} {a : Access} {k : Nat} (hf : s.findAcc c x a.id = some a)
    (hc : s.canPerform c x a k = true) : Calms (s.performElem c x a k) (s.performAcc c x a.id k) := by
  rw [State.performAcc_of_canPerform hf hc]
  exact (calms_wakeTest _ c x).trans (calms_cardArrives _ c x _)

/-! ### Loads -/

theorem State.loc_of_scratch {a : Addr} (h : isScratch a = true) (s : State) (c : CoreId) (x : CtxId) (w : Bool) :
    s.loc c x w a = some (.vault (vaultCore c a) (vaultOfs a)) :=
  if_pos h
theorem State.loc_of_phys {s : State} {c : CoreId} {x : CtxId} {w : Bool} {a : Addr} {pa : Nat} (h : isScratch a = false)
    (hp : s.physCtx c x w a.toNat = .ok pa) : s.loc c x w a = some (.mem pa) := by
  simp [State.loc, h, hp]

theorem keeps_l1Fill (s : State) (c : CoreId) (line : Nat) : Keeps s (s.l1Fill c line) := by
  unfold State.l1Fill
  exact keeps_modCore s c (fun _ => rfl) (fun _ _ => rfl) fun _ _ => rfl
theorem keeps_fillCtx (s : State) (c : CoreId) (x : CtxId) (a : Addr) (p : Nat) : Keeps s (s.fillCtx c x a p) := by
  unfold State.fillCtx
  exact (calms_mscCtx s c x false a 1).toKeeps.trans (keeps_l1Fill _ c _)
theorem calms_draw (s : State) : Calms s s.draw.2 := Calms.of_fields rfl rfl

theorem keeps_loadRead (s : State) (c : CoreId) (x : CtxId) (e : Elem) (l : Loc) (poc : Bool) : Keeps s (s.loadRead c x e l poc).2 := by
  unfold State.loadRead
  split
  · unfold State.l1Read
    extract_lets miss
    split
    · exact keeps_fillCtx s c x _ _
    · split
      · exact (calms_draw s).toKeeps
      · exact (calms_draw s).toKeeps.trans (keeps_fillCtx s.draw.2 c x _ _)
  · exact (calms_mscCtx s c x _ _ _).toKeeps

section
variable {s : State} {c : CoreId} {x : CtxId} {a : Access} {k : Nat} {e : Elem} {poc : Bool}

theorem State.loadRead_vault {d : CoreId} {o : Nat} (hp : s.poisonedLoc (.vault d o) e.n = false) :
    (s.loadRead c x e (.vault d o) poc).1 = some (memReadN (s.core d).vault o e.n) := by
  simp [State.loadRead, hp, State.readLoc]

/-- A load from memory reads memory, or the L1 where that holds the line and the load may read it. -/
theorem State.loadRead_mem {pa : Nat} (hp : s.poisonedLoc (.mem pa) e.n = false) : ∃ v, (s.loadRead c x e (.mem pa) poc).1 = some v
    ∧ (poc = true ∨ s.l1Find c pa = none → v = memReadN s.gmem pa e.n)
    ∧ ∀ ln, s.l1Find c pa = some ln →
      v = memReadN s.gmem pa e.n ∨ v = ln.data.toNat / 2 ^ (8 * (pa % 64)) % 2 ^ (8 * e.n) := by
  cases poc with
  | true => exact ⟨memReadN s.gmem pa e.n, by simp [State.loadRead, hp, State.readLoc], fun _ => rfl, fun _ _ => .inl rfl⟩
  | false =>
    have hd : s.draw.2.poisonedLoc (.mem pa) e.n = false := hp
    cases hl : s.l1Find c pa with
    | none => exact ⟨memReadN s.gmem pa e.n, by simp [State.loadRead, State.l1Read, hl, hp], fun _ => rfl, fun _ h => by cases h⟩
    | some ln =>
      simp only [State.loadRead, State.l1Read, hl]
      split
      · exact ⟨_, rfl, fun h => by simp at h, fun _ h => .inr (by cases h; rfl)⟩
      · exact ⟨memReadN s.gmem pa e.n, if_neg (Bool.eq_false_iff.1 hd), fun h => by simp at h, fun _ _ => .inl rfl⟩

/-- An element of a load that finds its bytes takes them; an acquire of a wide scope, and CPYST, may drop the L1 then. -/
theorem State.performElem_takes {l : Loc} (he : a.elems[k]? = some e) (h : a.kind = .load poc) (hl : s.loc c x false e.a = some l)
    {v : Nat} (hv : (s.loadRead c x e l poc).1 = some v) :
    let u := (s.loadRead c x e l poc).2.updAcc c x a.id fun b => b.setDone k (BitVec.ofNat 64 v)
    Calms u (s.performElem c x a k) ∧ (a.acq = false → (∀ d, a.dest ≠ .cpyst d) → s.performElem c x a k = u) := by
  intro u
  rw [State.performElem_load he h hl, hv]
  dsimp only
  split
  · next d hd =>
    refine ⟨?_, fun _ hn => absurd hd (hn d)⟩
    split
    · exact Calms.refl u
    · exact calms_observeWord u c _ _
  · refine ⟨?_, fun ha _ => by simp [ha, u]⟩
    split
    · exact calms_modCore u c (fun _ => rfl) (fun _ _ => rfl) (fun _ _ => rfl) fun _ _ h => absurd h List.not_mem_nil
    · exact Calms.refl u

/-- What a load leaves, once it has performed. -/
theorem load_performs {l : Loc} (hf : s.findAcc c x a.id = some a) (h : a.kind = .load poc) (he : a.elems[k]? = some e)
    (hc : s.canPerform c x a k = true) (hl : s.loc c x false e.a = some l) {v : Nat} (hv : (s.loadRead c x e l poc).1 = some v) :
    let t := s.performAcc c x a.id k
    (∃ b, t.findAcc c x a.id = some b ∧ b.elems[k]? = some { e with
      done := true
      val := BitVec.ofNat 64 v })
    ∧ t.gmem = s.gmem ∧ (∀ d, (t.core d).vault = (s.core d).vault) ∧ (t.ctx c x).g = (s.ctx c x).g := by
  intro t
  have hr := keeps_loadRead s c x e l poc
  have ht := (State.performElem_takes he h hl hv).1.trans (calms_performAcc hf hc)
  have hb := (hr.toSameBytes.trans (sameBytes_modCtx _ c x _)).trans ht.toSameBytes
  refine ⟨⟨_, State.findAcc_setDone hf (hr.accs c x) (ht.accs c x), Access.elems_setDone he _⟩, hb.gmem, hb.vault, ?_⟩
  rw [ht.regs, ← hr.regs, State.updAcc, State.ctx_modCtx]

end

section
variable {s : State} {c : CoreId} {x : CtxId} {a : Access} {k : Nat} {e : Elem}

theorem State.wakeTest_of_run {t : State} (h : (t.ctx c x).run ≠ .blocked) : t.wakeTest c x = t := by
  unfold State.wakeTest
  exact if_pos (.inl h)

theorem State.l1_cardArrives (t : State) (c : CoreId) (x : CtxId) (id : Nat) (d : CoreId) :
    ((t.cardArrives c x id).core d).l1 = (t.core d).l1 := by
  obtain ⟨j, m, js, e⟩ := t.cardArrives_eq c x id
  rw [e]
  show ((t.modCore j fun k => { k with marks := m }).core d).l1 = _
  rcases eq_or_ne d j with rfl | hd
  · rw [State.core_modCore]
  · rw [State.core_modCore_ne _ _ hd]

theorem State.run_performElem (s : State) (c : CoreId) (x : CtxId) (a : Access) (k : Nat) :
    ((s.performElem c x a k).ctx c x).run = (s.ctx c x).run :=
  congrArg Prod.fst (Core.watch_ctx (watch_core (watch_performElem s c x a k) c) x)

/-- A miss fills the line, where nothing that performs with the load drops it again. -/
theorem load_fills {pa : Nat} (hf : s.findAcc c x a.id = some a) (h : a.kind = .load false) (he : a.elems[k]? = some e)
    (hc : s.canPerform c x a k = true) (hl : s.loc c x false e.a = some (.mem pa)) (hp : s.poisonedLoc (.mem pa) e.n = false)
    (hm : s.l1Find c pa = none) (ha : a.acq = false) (hd : ∀ d, a.dest ≠ .cpyst d) (hr : (s.ctx c x).run ≠ .blocked) :
    ∃ ln ∈ ((s.performAcc c x a.id k).core c).l1, ln.line = pa / 64 ∧ ln.data.toNat = memReadN s.gmem (64 * (pa / 64)) 64 := by
  have hv : s.loadRead c x e (.mem pa) false = (some (memReadN s.gmem pa e.n), s.fillCtx c x e.a pa) := by
    simp [State.loadRead, State.l1Read, hm, hp]
  have hu := (State.performElem_takes he h hl (congrArg Prod.fst hv)).2 ha hd
  rw [hv] at hu
  obtain ⟨m, hfill⟩ := s.fillCtx_eq c x e.a pa
  refine ⟨s.lineNow (pa / 64), ?_, rfl, toNat_ofNat_memReadN _ _ _ le_rfl⟩
  rw [State.performAcc_of_canPerform hf hc, State.wakeTest_of_run ((State.run_performElem s c x a k).trans_ne hr), State.l1_cardArrives, hu,
    State.updAcc, State.modCtx, State.core_modCore, Core.modCtx_l1, hfill]
  exact (State.mem_l1Fill _ c (pa / 64)).1

end

/-! ### Atomics -/

/-- The number that the low `n` bytes stand for. -/
def numOf (sg : Sg) (n z : Nat) : Int := match sg with
  | .u => (z : Int)
  | .s => if z < 2 ^ (8 * n - 1) then (z : Int) else (z : Int) - 2 ^ (8 * n)

/-- What an atomic leaves at its place, of the value that stands there and its operands. -/
def combined (op : AtOp) (sg : Sg) (n y cmp old : Nat) : Nat := match op with
  | .add => (old + y) % 2 ^ (8 * n)
  | .min => if numOf sg n old ≤ numOf sg n y then old else y
  | .max => if numOf sg n y ≤ numOf sg n old then old else y
  | .and => old &&& y
  | .or => old ||| y
  | .xor => old ^^^ y
  | .swap => y
  | .cas => if old = cmp then y else old

theorem patInt_eq_numOf (n z : Nat) : patInt (8 * n) true z = numOf .s n z := by
  simp only [patInt, numOf, true_and]
  by_cases h : 2 ^ (8 * n - 1) ≤ z
  · rw [if_pos h, if_neg (not_lt.2 h)]
  · rw [if_neg h, if_pos (not_le.1 h)]

/-- An atomic writes that value; only a compare-and-swap that does not match writes nothing. -/
theorem atomNew_eq (op : AtOp) (sg : Sg) (n y cmp old : Nat) :
    atomNew op sg n old y cmp = if op = .cas ∧ old ≠ cmp then none else some (combined op sg n y cmp old) := by
  cases op with
  | cas => by_cases h : old = cmp <;> simp [atomNew, combined, h]
  | min =>
    have h : combined .min sg n y cmp old = if numOf sg n y < numOf sg n old then y else old := by simp only [combined, ← not_lt, ite_not]
    rw [h]
    cases sg with
    | u => simp [atomNew, numOf]
    | s => simp [atomNew, patInt_eq_numOf]
  | max =>
    have h : combined .max sg n y cmp old = if numOf sg n old < numOf sg n y then y else old := by simp only [combined, ← not_lt, ite_not]
    rw [h]
    cases sg with
    | u => simp [atomNew, numOf]
    | s => simp [atomNew, patInt_eq_numOf]
  | _ => simp [atomNew, combined]

theorem combined_lt {op : AtOp} {sg : Sg} {n y cmp old : Nat} (ho : old < 2 ^ (8 * n)) (hy : y < 2 ^ (8 * n)) :
    combined op sg n y cmp old < 2 ^ (8 * n) := by
  cases op with
  | add => exact Nat.mod_lt _ (Nat.two_pow_pos _)
  | and => exact Nat.and_lt_two_pow _ hy
  | or => exact Nat.or_lt_two_pow ho hy
  | xor => exact Nat.xor_lt_two_pow ho hy
  | swap => exact hy
  | min | max | cas =>
    dsimp only [combined]
    split_ifs <;> assumption

theorem State.ctx_writeLoc (s : State) (l : Loc) (n v : Nat) (d : CoreId) (y : CtxId) : (s.writeLoc l n v).ctx d y = s.ctx d y := by
  cases l with
  | vault c o =>
    rw [State.ctx_eq, State.ctx_eq, State.writeLoc]
    rcases eq_or_ne d c with rfl | hd
    · rw [State.core_modCore]
    · rw [State.core_modCore_ne _ _ hd]
  | mem p => rfl

theorem accs_coreWrite (s : State) (c : CoreId) (l : Loc) (n v : Nat) (d : CoreId) (y : CtxId) :
    ((s.coreWrite c l n v).ctx d y).accs = (s.ctx d y).accs := by
  refine ((calms_retest _ l n).accs d y).trans ?_
  rw [← State.ctx_writeLoc s l n v]
  cases l with
  | vault => rfl
  | mem p =>
    have h := keeps_modCore (s.writeLoc (.mem p) n v) c (f := fun k => { k with l1 := l1Write k.l1 p n v }) (fun _ => rfl)
      (fun _ _ => rfl) fun _ _ => rfl
    exact h.accs d y

/-- The lines of the L1 of the core that writes are those it had, with the bytes written. -/
theorem lines_coreWrite (s : State) (c : CoreId) (p n v : Nat) :
    ∀ ln ∈ ((s.coreWrite c (.mem p) n v).core c).l1, ln ∈ l1Write (s.core c).l1 p n v := by
  intro ln h
  have := (calms_retest _ (.mem p) n).lines c ln h
  rw [State.core_modCore] at this
  exact this

/-- A field of a number put in its place is read there. -/
theorem field_of_replaced {D A B N w : Nat} (hA : 0 < A) (hN : A * B ∣ N) (hD : D < N) (hw : w < B) :
    (D - D / A % B * A + w * A) % N / A % B = w := by
  obtain ⟨R, rfl⟩ := hN
  have hlo := Nat.mod_lt D hA
  have h1 := Nat.div_add_mod D A
  have h2 := Nat.div_add_mod (D / A) B
  have hR : D / A / B < R := by
    rw [Nat.div_div_eq_div_mul]
    exact Nat.div_lt_of_lt_mul hD
  generalize D / A / B = hi, D / A % B = mid, D % A = lo at *
  have e : D - mid * A + w * A = lo + A * (w + B * hi) := by
    rw [← h1, ← h2]
    have : A * (B * hi + mid) + lo - mid * A = A * (B * hi) + lo := by
      rw [Nat.mul_add, Nat.mul_comm mid A]
      omega
    rw [this]
    ring
  have hlt : lo + A * (w + B * hi) < A * B * R := by
    have : w + B * hi + 1 ≤ B * R := by nlinarith
    nlinarith [Nat.mul_le_mul_left A this]
  rw [e, Nat.mod_eq_of_lt hlt, Nat.add_mul_div_left _ _ hA, Nat.div_eq_of_lt hlo, Nat.zero_add, Nat.add_mul_mod_self_left, Nat.mod_eq_of_lt hw]

/-- The same of a word: the field of `n` bits at bit `o`. -/
theorem field_of_written {m : Nat} (d : BitVec m) {o n v : Nat} (ho : o + n ≤ m) (hv : v < 2 ^ n) :
    (BitVec.ofNat m (d.toNat - d.toNat / 2 ^ o % 2 ^ n * 2 ^ o + v % 2 ^ n * 2 ^ o)).toNat / 2 ^ o % 2 ^ n = v := by
  rw [BitVec.toNat_ofNat, Nat.mod_eq_of_lt hv]
  refine field_of_replaced (Nat.two_pow_pos o) ?_ d.isLt hv
  rw [← Nat.pow_add]
  exact Nat.pow_dvd_pow 2 ho

theorem l1Write_field {l : List L1Line} {p n v : Nat} (hn : p % 64 + n ≤ 64) (hv : v < 2 ^ (8 * n)) {ln : L1Line} (h : ln ∈ l1Write l p n v)
    (hl : ln.line = p / 64) : ln.data.toNat / 2 ^ (8 * (p % 64)) % 2 ^ (8 * n) = v := by
  obtain ⟨b, -, rfl⟩ := List.mem_map.1 h
  split at hl
  · next hb =>
    rw [if_pos hb]
    exact field_of_written b.data (by omega) hv
  · next hb => exact absurd hl hb

/-- The write of an atomic, where it writes. -/
def State.writeBack (s : State) (c : CoreId) (l : Loc) (n : Nat) : Option Nat → State
  | some w => s.coreWrite c l n w
  | none => s

section
variable {s : State} {c : CoreId} {x : CtxId} {a : Access} {k : Nat} {e : Elem} {op : AtOp} {sg : Sg} {v cmp : Word} {l : Loc}

/-- An atomic whose place is not poisoned takes the old value, writes its combination, and may pin the line. -/
theorem State.performElem_atom (he : a.elems[k]? = some e) (h : a.kind = .atom op sg v cmp) (hl : s.loc c x true e.a = some l)
    (hp : s.poisonedLoc l e.n = false) :
    let old := s.readLoc l e.n
    let t := (s.mscCtx c x true e.a e.n).updAcc c x a.id fun b => b.setDone k (BitVec.ofNat 64 old)
    Calms (t.writeBack c l e.n (atomNew op sg e.n old (v.toNat % 2 ^ (8 * e.n)) (cmp.toNat % 2 ^ (8 * e.n)))) (s.performElem c x a k) := by
  simp only [State.performElem, he, h, hl, hp, Bool.false_eq_true, if_false]
  cases l with
  | vault => exact Calms.refl _
  | mem p => exact calms_pinAtom _ c x a _

theorem stored_writeBack (hs : s.CanonicalMemory) {t : State} (ht : SameBytes s t) (l : Loc) {n old new : Nat} {r : Option Nat}
    (ho : s.readLoc l n = old) (hr : r = none ∧ new = old ∨ r = some new) : Stored s (t.writeBack c l n r) l n new := by
  rcases hr with ⟨rfl, rfl⟩ | rfl
  · exact (ho ▸ stored_readLoc s l n).trans ht
  · exact ((stored_writeLoc hs l n new).trans (ht.writeLoc l n new)).trans (sameBytes_coreWrite t c l n new)

theorem accs_writeBack (t : State) (c : CoreId) (l : Loc) (n : Nat) (r : Option Nat) (d : CoreId) (y : CtxId) :
    ((t.writeBack c l n r).ctx d y).accs = (t.ctx d y).accs := by
  cases r with
  | none => rfl
  | some w => exact accs_coreWrite t c l n w d y

theorem State.readLoc_lt (s : State) (l : Loc) (n : Nat) : s.readLoc l n < 2 ^ (8 * n) := by
  cases l with
  | vault d o => exact memReadN_lt _ o n
  | mem p => exact memReadN_lt _ p n

/-- What an atomic leaves, once it has performed. -/
theorem atom_performs (hs : s.CanonicalMemory) (hf : s.findAcc c x a.id = some a) (h : a.kind = .atom op sg v cmp) (he : a.elems = [e])
    (hc : s.canPerform c x a 0 = true) (hl : s.loc c x true e.a = some l) (hp : s.poisonedLoc l e.n = false) :
    let t := s.performAcc c x a.id 0
    let y := v.toNat % 2 ^ (8 * e.n)
    let z := cmp.toNat % 2 ^ (8 * e.n)
    let new := combined op sg e.n y z (s.readLoc l e.n)
    (∃ b, t.findAcc c x a.id = some b ∧ b.elems = [{ e with
      done := true
      val := BitVec.ofNat 64 (s.readLoc l e.n) }])
    ∧ Stored s t l e.n new
    ∧ ∀ p, l = .mem p → p % 64 + e.n ≤ 64 → (op = .cas → s.readLoc l e.n = z) → ∀ ln ∈ (t.core c).l1, ln.line = p / 64 →
      ln.data.toNat / 2 ^ (8 * (p % 64)) % 2 ^ (8 * e.n) = new := by
  intro t y z new
  have h0 : a.elems[0]? = some e := by simp [he]
  let old := s.readLoc l e.n
  let u := (s.mscCtx c x true e.a e.n).updAcc c x a.id fun b => b.setDone 0 (BitVec.ofNat 64 old)
  have hm := calms_mscCtx s c x true e.a e.n
  have hu : SameBytes s u := hm.toSameBytes.trans (sameBytes_modCtx _ c x _)
  have ht : Calms (u.writeBack c l e.n (atomNew op sg e.n old y z)) t :=
    (State.performElem_atom h0 h hl hp).trans (calms_performAcc hf hc)
  have hd := State.findAcc_setDone hf (hm.accs c x) ((ht.accs c x).trans (accs_writeBack ..))
  refine ⟨⟨_, hd, by simp [Access.setDone, he, old]⟩, ?_, ?_⟩
  · refine (stored_writeBack hs hu l rfl ?_).trans ht.toSameBytes
    rw [atomNew_eq]
    split
    · next hn =>
      obtain ⟨rfl, hne⟩ := hn
      exact .inl ⟨rfl, if_neg hne⟩
    · exact .inr rfl
  · rintro p rfl hn hcas ln hln hp64
    have hsome : atomNew op sg e.n old y z = some new := by
      rw [atomNew_eq, if_neg fun hno => hno.2 (hcas hno.1)]
    have hw := ht.lines c ln hln
    rw [hsome] at hw
    have hlt : new < 2 ^ (8 * e.n) := combined_lt (s.readLoc_lt _ _) (Nat.mod_lt _ (Nat.two_pow_pos _))
    exact l1Write_field hn hlt (lines_coreWrite u c p e.n new ln hw) hp64

end
/-- Settles O17: a store, a load and an atomic perform at the place of their element, and what is done after them keeps memory. -/
theorem accessesPerform : Obligations.AccessesPerform := by
  refine ⟨fun s c x a k e hs hf h he hc => ?_, fun s c x a k e poc hf h he hc hi hp => ?_, fun s c x a k e poc pa hf h he hc hi hm hp => ?_,
    fun s c x a e op sg v cmp hs hf h he hc hn => ⟨fun hi hp => ?_, fun pa hi hm hp => ?_⟩⟩
  · have hS {l : Loc} (hl : s.loc c x true e.a = some l) : Stored s (s.performAcc c x a.id k) l e.n e.data.toNat :=
      (stored_performStore hs he h hl).trans (calms_performAcc hf hc).toSameBytes
    exact ⟨fun hi => ⟨_, rfl, hS (State.loc_of_scratch hi s c x true)⟩, fun pa hi hm => ⟨_, rfl, hS (State.loc_of_phys hi hm)⟩⟩
  · exact ⟨_, rfl, load_performs hf h he hc (State.loc_of_scratch hi s c x false) (State.loadRead_vault hp)⟩
  · have hl := State.loc_of_phys hi hm
    obtain ⟨v, hv, hnow, hline⟩ := State.loadRead_mem (c := c) (x := x) (poc := poc) hp
    obtain ⟨⟨b, hb, hbe⟩, hg, hV, hr⟩ := load_performs hf h he hc hl hv
    refine ⟨_, rfl, ⟨b, v, hb, hbe, hnow, hline⟩, ?_, hg, hV, hr⟩
    rintro rfl hnone ha hd hrun
    exact load_fills hf h he hc hl hp hnone ha hd hrun
  · obtain ⟨hb, hS, -⟩ := atom_performs hs hf h he hc (State.loc_of_scratch hi s c x true) hp
    exact ⟨_, rfl, hb, hS⟩
  · obtain ⟨hb, ⟨hV, hS⟩, hL⟩ := atom_performs hs hf h he hc (State.loc_of_phys hi hm) hp
    have hfits (ha : pa % e.n = 0) : pa % 64 + e.n ≤ 64 := by
      rcases hn with hn | hn
      · rw [hn] at ha ⊢
        omega
      · rw [hn] at ha ⊢
        omega
    exact ⟨_, rfl, hb, hV, hS, fun ha => hL pa rfl (hfits ha)⟩

end Sys2Proof.Machine
end

section
/-!
SETFMT, SETSCT, and the forms that query a card or a fence (12 R180, 17 R260, 18 R277, 19 R289, R295, R308).
-/
namespace Sys2Proof.Machine

/-- A form that names a card, whose card passes the checks of R285. -/
theorem State.card_of_ok {s : State} {a : R16} (h : s.cardOk (s.rdA a).1 64 64 = true) (f : Addr → State → State) :
    s.card a f = f (s.rdA a).1 s :=
  if_pos h

/-- A slot whose guard holds and whose effect is to reach `b` completes in `b`. -/
theorem does_eq {i : Instr} {gd : Guard} {f : State → State} {s b : State} (h : exec i s = slotDo gd none f s)
    (hg : s.guard gd = true) (hf : f s = b) : Does i s fun t => t = b :=
  ⟨_, h.trans (slotDo_of_guard hg none f), hf⟩

section
variable {s : State} {gd : Guard} (hg : s.guard gd = true)
include hg

/-- SETSCT of an aligned address in the own vault issues the read of its table. -/
theorem setsct_issues {m : R16} (hal : (s.rdA m).1.toNat % 64 = 0) (hs : isScratch (s.rdA m).1 = true)
    (hv : vaultCore s.env.core (s.rdA m).1 = s.env.core) :
    Does (.setsct gd m) s fun t => Issues s t
      [{ Access.make (.load false) 0 .ctx (mkElems (s.rdA m).1 64 0) with
        dest := .sct
        allRel := true
        due := s.now + 4 }] [(4, .load s.cur.nextId, 0)] := by
  have hok : ¬((s.rdA m).1.toNat % 64 ≠ 0 ∨ isScratch (s.rdA m).1 = false ∨ vaultCore s.env.core (s.rdA m).1 ≠ s.env.core) := by
    simp [hal, hs, hv]
  refine does_issues (show _ = execSetsct gd m s from rfl) hg ?_
  rw [if_neg hok]
  exact issues_newLoad ..

/-- IFENCE without an outstanding code load dates the b-registers of every context of the core by its step. -/
theorem ifence_dates (hj : s.myJobs false = 0) :
    Does (.ifence gd) s fun t => t = s.modCore s.env.core fun k => { k with
      ctxs := k.ctxs.map fun (u : Ctx) => { u with b := u.b.map fun (r : BReg) => { r with step := s.now } } } :=
  does_eq (show _ = execIfence gd s from rfl) hg (if_neg (Nat.not_lt.2 hj.le))

variable {a : R16} (hc : s.cardOk (s.rdA a).1 64 64 = true)
include hc

/-- SUBSCR issues the read of its card, a release of every class. -/
theorem subscr_issues (hu : s.user) (d : R64) :
    Does (.subscr gd d a) s fun t => Issues s t
      [{ Access.make (.load false) 0 .package (mkElems (s.rdA a).1 64 0) with
        dest := .subCard d (s.rdA a).1.toNat
        allRel := true
        due := s.now + 16 }] [(16, .load s.cur.nextId, 0)] := by
  refine does_issues (show _ = execSubscr gd d a s from rfl) hg ?_
  rw [State.outsideHandler_of_user hu, State.card_of_ok hc]
  exact issues_newLoad ..

end

/-- Is a subscription or a job of the card at `ea` outstanding for the current context (R289)? -/
def State.cardMine (s : State) (ea : Addr) : Bool :=
  ((s.core s.env.core).subs.toList.any fun u => u.any fun u => u.owner == s.env.ctx && u.card == ea.toNat)
    || (s.cardJob ea).any fun j => j.ctx == s.env.ctx

/-- The access by which CPYST reads the STATUS of its card: an acquire where a job or a subscription of the card may have
ended (10 R162). -/
def State.statusRead (s : State) (d : R64) (ea : Addr) : Access :=
  { Access.make (.load false) 0 .ctx (mkElems (ea + 0x38) 8 0) with
    dest := .cpyst d
    acqAll := (s.core s.env.core).doneSubs.contains ea.toNat
      || s.jobs.any fun j => j.core == s.env.core && !j.past && j.card == ea.toNat }

theorem exec_cpyst (gd : Guard) (d : R64) (a : R16) (s : State) :
    exec (.cpyst gd d a) s = slotDo gd none (fun s => s.card a fun ea s =>
      if s.cardMine ea then s.pushG 12 d 0 false else s.newLoad (s.statusRead d ea) 12) s := rfl

section
variable {s : State} {gd : Guard} (hg : s.guard gd = true) {a : R16} (hc : s.cardOk (s.rdA a).1 64 64 = true) (d : R64)
include hg hc

/-- CPYST of a card that is outstanding for the context gives 0. -/
theorem cpyst_sends_of_mine (hm : s.cardMine (s.rdA a).1 = true) :
    Does (.cpyst gd d a) s fun t => Sends s t (gRes 12 d 0 false) := by
  refine does_slotDo (exec_cpyst gd d a s) hg ?_
  rw [State.card_of_ok hc, if_pos hm]
  exact sends_pushG ..

/-- CPYST of any other card issues the read of its STATUS. -/
theorem cpyst_issues_of_not_mine (hm : s.cardMine (s.rdA a).1 = false) :
    Does (.cpyst gd d a) s fun t => Issues s t
      [{ s.statusRead d (s.rdA a).1 with due := s.now + 12 }] [(12, .load s.cur.nextId, 0)] := by
  refine does_issues (exec_cpyst gd d a s) hg ?_
  rw [State.card_of_ok hc, if_neg (ne_true_of_eq_false hm)]
  exact issues_newLoad ..

end

/-- Settles O27: SETFMT sends its value, IFENCE and RWFLUSH are their effects, and the other forms read a table, a card or its
STATUS, CPYST only where `State.cardMine` finds nothing outstanding. -/
theorem formatAndQueryForms : Obligations.FormatAndQueryForms := by
  refine ⟨fun s gd a m v hg => ⟨?_, ?_, setsct_issues hg⟩,
    fun s gd d a hg => ⟨?_, ifence_dates hg, fun hc => ⟨fun hm => ?_, fun hm => ?_, fun hu => subscr_issues hg hc hu d⟩⟩⟩
  · exact does_slotDo (show _ = execSetfmt gd a s from rfl) hg (sends_push ..)
  · exact does_slotDo (show _ = execSetfmtI gd v s from rfl) hg (sends_push ..)
  · exact does_eq (show _ = execRwflush gd s from rfl) hg rfl
  · exact cpyst_sends_of_mine hg hc d ((Bool.or_comm ..).trans hm)
  · exact cpyst_issues_of_not_mine hg hc d ((Bool.or_comm ..).trans hm)

end Sys2Proof.Machine
end

section
/-!
Vector registers as the elements they hold (13 R185), and the shapes of the vector forms.
-/
namespace Sys2Proof.Machine

/-! ### Elements of a register -/

theorem laneOf_lt (n i : Nat) (w : BitVec 4096) : laneOf n i w < 2 ^ n := Nat.mod_lt _ (Nat.two_pow_pos n)

theorem lanes_eq (n cnt : Nat) (w : BitVec 4096) : lanes n cnt w = (List.range cnt).map fun i => laneOf n i w := rfl

theorem tyLanes_eq (ty : VTy) (w : BitVec 4096) : tyLanes ty w = (List.range ty.elems).map fun i => laneOf ty.width i w := rfl

theorem mem_tyLanes {ty : VTy} {w : BitVec 4096} {x : Nat} : x ∈ tyLanes ty w ↔ ∃ i < ty.elems, laneOf ty.width i w = x := by
  simp [tyLanes_eq]

/-- The elements of a type fit in a register (13 Table 13.1). -/
theorem width_mul_elems_le (ty : VTy) : ty.width * ty.elems ≤ 4096 := by cases ty <;> decide

theorem laneWidth_mul_count (lw : LaneW) : lw.width * (4096 / lw.width) = 4096 := by cases lw <;> rfl

/-- An element of a register packed from a numbered family. -/
theorem laneOf_packLanes_range {n cnt : Nat} {f : Nat → Nat} (hf : ∀ i < cnt, f i < 2 ^ n) (hn : n * cnt ≤ 4096) {i : Nat}
    (hi : i < cnt) : laneOf n i (packLanes n ((List.range cnt).map f)) = f i := by
  rw [laneOf_packLanes (by simpa using hf) (by simpa using hn)]
  simp [hi]

/-- A w result packed from its elements is said element by element. -/
theorem Sends.lanes {b t : State} {lat : Nat} {d : R64} {n cnt : Nat} {f : Nat → Nat} {fl : BitVec 7}
    (h : Sends b t [(lat, .w d (packLanes n ((List.range cnt).map f)), fl)]) (hf : ∀ i < cnt, f i < 2 ^ n) (hn : n * cnt ≤ 4096) :
    SendsLanes b t lat d n cnt f fl :=
  ⟨_, h, fun _ hi => laneOf_packLanes_range hf hn hi, fun k hk => packLanes_high (by simpa using hf) k (by simpa using hk)⟩

/-- Three lists of elements taken together. -/
theorem zipWith_zip_range {α : Type} (cnt : Nat) (f : Nat → Nat → Nat → α) (x y z : Nat → Nat) :
    List.zipWith (fun p c => f p.1 p.2 c) (List.zip ((List.range cnt).map x) ((List.range cnt).map y)) ((List.range cnt).map z)
      = (List.range cnt).map fun j => f (x j) (y j) (z j) := by
  rw [List.zip_map', List.zipWith_map, List.zipWith_self]

/-! ### Flags of several elements (13 R189) -/

theorem orFlags_cons (x : Nat × BitVec 7) (l : List (Nat × BitVec 7)) : orFlags (x :: l) = x.2 ||| orFlags l := by
  have h (m : List (Nat × BitVec 7)) (a b : BitVec 7) :
      m.foldl (fun acc x => acc ||| x.2) (a ||| b) = a ||| m.foldl (fun acc x => acc ||| x.2) b := by
    induction m generalizing b with
    | nil => rfl
    | cons y m ih => rw [List.foldl_cons, List.foldl_cons, BitVec.or_assoc, ih]
  rw [orFlags, List.foldl_cons, BitVec.or_comm, h]
  rfl

theorem orFlags_singleton (x : Nat × BitVec 7) : orFlags [x] = x.2 := BitVec.zero_or

/-- Results whose flags are `fl` or none have `fl` together where one of them has it. -/
theorem orFlags_map_of_flagIf {α : Type} {fl : BitVec 7} {g : α → Nat × BitVec 7} {p : α → Bool} {l : List α}
    (h : ∀ x ∈ l, (g x).2 = flagIf (p x) fl) : orFlags (l.map g) = flagIf (l.any p) fl := by
  induction l with
  | nil => rfl
  | cons x l ih =>
    obtain ⟨hx, hl⟩ := List.forall_mem_cons.1 h
    rw [List.map_cons, orFlags_cons, hx, ih hl, List.any_cons]
    cases p x <;> cases l.any p <;> simp [flagIf, noFlags]

/-- Results without flags have none together. -/
theorem orFlags_of_noFlags {l : List (Nat × BitVec 7)} (h : ∀ x ∈ l, x.2 = noFlags) : orFlags l = 0 := by
  simpa [flagIf, noFlags] using orFlags_map_of_flagIf (fl := 0) (g := id) (p := fun _ => false) h

/-! ### The shapes of the forms -/

/-- The form completes with one w result, packed from the elements `l` of `n` bits, with the flags of all of them. -/
def DoesPack (i : Instr) (s : State) (lat : Nat) (d : R64) (n : Nat) (l : List (Nat × BitVec 7)) : Prop :=
  Does i s fun t => Sends s t [(lat, .w d (packLanes n (l.map (·.1))), orFlags l)]

/-- What a form packs, element by element. -/
theorem DoesPack.lanes {i : Instr} {s : State} {lat : Nat} {d : R64} {n cnt : Nat} {g : Nat → Nat × BitVec 7}
    (h : DoesPack i s lat d n ((List.range cnt).map g)) (hg : ∀ j < cnt, (g j).1 < 2 ^ n) (hn : n * cnt ≤ 4096) :
    Does i s fun t => SendsLanes s t lat d n cnt (fun j => (g j).1) (orFlags ((List.range cnt).map g)) := by
  obtain ⟨t, e, ht⟩ := h
  rw [List.map_map] at ht
  exact ⟨t, e, ht.lanes hg hn⟩

/-- What a form packs without flags, element by element. -/
theorem DoesPack.lanes_noFlags {i : Instr} {s : State} {lat : Nat} {d : R64} {n cnt : Nat} {f : Nat → Nat}
    (h : DoesPack i s lat d n ((List.range cnt).map fun j => (f j, noFlags))) (hf : ∀ j < cnt, f j < 2 ^ n) (hn : n * cnt ≤ 4096) :
    Does i s fun t => SendsLanes s t lat d n cnt f 0 := by
  have hl := h.lanes hf hn
  rwa [orFlags_of_noFlags (by simp)] at hl

/-- What a form packs from one element. -/
theorem DoesPack.single {i : Instr} {s : State} {lat : Nat} {d : R64} {n : Nat} {r : Nat × BitVec 7} (h : DoesPack i s lat d n [r]) :
    Does i s fun t => Sends s t [(lat, .w d (packLanes n [r.1]), r.2)] := by
  rwa [DoesPack, orFlags_singleton] at h

section
variable {s : State} {gd : Guard} {i : Instr} (hg : s.guard gd = true)
include hg

/-- A vector form whose effect sends results completes with these results. -/
theorem does_vecDo {b : State} {fs : List Res} {f : State → State} (h : exec i s = vecDo gd f s) (hf : Sends b (f s) fs) :
    Does i s fun t => Sends b t fs :=
  does_slotDo (cls := some .vector) h hg hf

/-- A form that sends one w result without flags. -/
theorem pushW_sends {d : R64} (v : State → BitVec 4096) (h : exec i s = vecDo gd (fun s => s.pushW 4 d (v s) 0) s) :
    Does i s fun t => Sends s t [(4, .w d (v s), 0)] :=
  does_vecDo hg h (sends_push ..)

/-- A form that packs the elements `l`. -/
theorem pushLanes_packs {cls : EClass} {lat : Nat} {d : R64} {n : Nat} (f : State → List (Nat × BitVec 7)) {l : List (Nat × BitVec 7)}
    (h : exec i s = slotDo gd (some cls) (fun s => s.pushLanes lat d n (f s)) s) (hl : f s = l) : DoesPack i s lat d n l :=
  does_slotDo h hg (hl ▸ sends_push ..)

/-- A form of one register packs what `f` makes of each element. -/
theorem vec1_packs {ty : VTy} {d a : R64} (f : Nat → Nat × BitVec 7) (h : exec i s = vec1 gd ty d a f s) :
    DoesPack i s 4 d ty.width ((List.range ty.elems).map fun j => f (laneOf ty.width j (s.rdW a))) :=
  pushLanes_packs hg (fun s => (tyLanes ty (s.rdW a)).map f) h (by rw [tyLanes_eq, List.map_map]; rfl)

/-- A form of two registers packs what `f` makes of each pair of elements. -/
theorem vec2_packs {ty : VTy} {d a b : R64} (f : Nat → Nat → Nat × BitVec 7) (h : exec i s = vec2 gd ty d a b f s) :
    DoesPack i s 4 d ty.width ((List.range ty.elems).map fun j => f (laneOf ty.width j (s.rdW a)) (laneOf ty.width j (s.rdW b))) :=
  pushLanes_packs hg (fun s => List.zipWith f (tyLanes ty (s.rdW a)) (tyLanes ty (s.rdW b))) h
    (by rw [tyLanes_eq, tyLanes_eq, List.zipWith_map, List.zipWith_self])

/-- A form of two registers and its destination packs what `f` makes of each three elements. -/
theorem vec3_packs {ty : VTy} {d a b : R64} (f : Nat → Nat → Nat → Nat × BitVec 7) (h : exec i s = vec3 gd ty d a b f s) :
    DoesPack i s 4 d ty.width ((List.range ty.elems).map fun j =>
      f (laneOf ty.width j (s.rdW a)) (laneOf ty.width j (s.rdW b)) (laneOf ty.width j (s.rdW d))) :=
  pushLanes_packs hg (fun s => List.zipWith (fun (p : Nat × Nat) c => f p.1 p.2 c) (List.zip (tyLanes ty (s.rdW a)) (tyLanes ty (s.rdW b)))
    (tyLanes ty (s.rdW d))) h (zipWith_zip_range ..)

/-- A form that sends one w result packed from elements without flags, element by element. -/
theorem packed_sendsLanes {d : R64} {n cnt : Nat} (l : State → List Nat) {f : Nat → Nat}
    (h : exec i s = vecDo gd (fun s => s.pushW 4 d (packLanes n (l s)) 0) s) (hl : l s = (List.range cnt).map f)
    (hf : ∀ j < cnt, f j < 2 ^ n) (hn : n * cnt ≤ 4096) : Does i s fun t => SendsLanes s t 4 d n cnt f 0 := by
  obtain ⟨t, e, ht⟩ := pushW_sends hg (fun s => packLanes n (l s)) h
  rw [hl] at ht
  exact ⟨t, e, ht.lanes hf hn⟩

/-- A form of one register without flags, element by element. -/
theorem vec1_sendsLanes {ty : VTy} {d a : R64} (f : Nat → Nat) (h : exec i s = vec1 gd ty d a (fun x => (f x, noFlags)) s)
    (hf : ∀ x < 2 ^ ty.width, f x < 2 ^ ty.width) :
    Does i s fun t => SendsLanes s t 4 d ty.width ty.elems (fun j => f (laneOf ty.width j (s.rdW a))) 0 :=
  (vec1_packs hg _ h).lanes_noFlags (fun _ _ => hf _ (laneOf_lt ..)) (width_mul_elems_le ty)

/-- A form of two registers without flags, element by element. -/
theorem vec2_sendsLanes {ty : VTy} {d a b : R64} (f : Nat → Nat → Nat) (h : exec i s = vec2 gd ty d a b (fun x y => (f x y, noFlags)) s)
    (hf : ∀ x < 2 ^ ty.width, ∀ y < 2 ^ ty.width, f x y < 2 ^ ty.width) :
    Does i s fun t => SendsLanes s t 4 d ty.width ty.elems (fun j => f (laneOf ty.width j (s.rdW a)) (laneOf ty.width j (s.rdW b))) 0 :=
  (vec2_packs hg _ h).lanes_noFlags (fun _ _ => hf _ (laneOf_lt ..) _ (laneOf_lt ..)) (width_mul_elems_le ty)

end

end Sys2Proof.Machine
end

section
/-!
The integer, bitwise, select and shift vector forms (13 R193, R195 to R197).
-/
namespace Sys2Proof.Machine

/-! ### Integers narrowed to a type -/

/-- An integer outside the range of a type, which SAT clamps. -/
def outside (n : Nat) (signed : Bool) (x : Int) : Bool := decide (x < intMin n signed) || decide (intMax n signed < x)

theorem outside_iff {n : Nat} {signed : Bool} {x : Int} : outside n signed x = true ↔ x < intMin n signed ∨ intMax n signed < x := by
  simp [outside]

theorem intMin_le_intMax (n : Nat) (signed : Bool) : intMin n signed ≤ intMax n signed := by
  have h (m : Nat) : (0 : Int) < 2 ^ m := Int.pow_pos (by decide)
  cases signed
  · have := h n
    simp only [intMin, intMax, Bool.false_eq_true, if_false]
    omega
  · have := h (n - 1)
    simp only [intMin, intMax, if_true]
    omega

theorem wrapInt_lt (n : Nat) (x : Int) : wrapInt n x < 2 ^ n := by
  have h : (0 : Int) < 2 ^ n := Int.pow_pos (by decide)
  have h1 := Int.emod_lt_of_pos x h
  have h2 := Int.emod_nonneg x (Int.ne_of_gt h)
  zify
  rwa [wrapInt, Int.toNat_of_nonneg h2]

/-- What narrowing keeps: the integer, clamped to the type with SAT, taken modulo the width. -/
theorem narrowInt_fst (n : Nat) (signed sat : Bool) (x : Int) : (narrowInt n signed sat x).1
    = wrapInt n (if sat then max (intMin n signed) (min (intMax n signed) x) else x) := by
  have hle := intMin_le_intMax n signed
  simp only [narrowInt]
  cases sat with
  | false => split <;> rfl
  | true =>
    rw [if_pos rfl, if_pos rfl]
    split
    · next h => rw [min_eq_right h.2, max_eq_right h.1]
    · next h =>
      split
      · next hx => rw [min_eq_right (by omega), max_eq_left (by omega)]
      · next hx => rw [min_eq_left (by omega), max_eq_right hle]

/-- Narrowing raises SAT just where it clamps. -/
theorem narrowInt_snd (n : Nat) (signed sat : Bool) (x : Int) :
    (narrowInt n signed sat x).2 = flagIf (sat && outside n signed x) fSAT := by
  simp only [narrowInt, outside, flagIf]
  by_cases h : intMin n signed ≤ x ∧ x ≤ intMax n signed
  · obtain ⟨hl, hu⟩ := h
    simp [hl, hu, Int.not_lt.2 hl, Int.not_lt.2 hu]
  · have ho : x < intMin n signed ∨ intMax n signed < x := by omega
    cases sat <;> simp [h, ho]

/-! ### Selected bits and shifted lanes -/

/-- VSEL takes each bit from the register that its bit of wC names (13 R193). -/
theorem getLsbD_select (a b c : BitVec 4096) (k : Nat) :
    ((a &&& c) ||| (b &&& ~~~c)).getLsbD k = if c.getLsbD k then a.getLsbD k else b.getLsbD k := by
  rw [BitVec.getLsbD_or, BitVec.getLsbD_and, BitVec.getLsbD_and, BitVec.getLsbD_not]
  by_cases hk : k < 4096
  · cases c.getLsbD k <;> simp [hk]
  · rw [BitVec.getLsbD_of_ge a k (by omega), BitVec.getLsbD_of_ge b k (by omega)]
    simp

theorem laneShl_lt (n x c : Nat) : laneShl n x c < 2 ^ n := by
  rw [laneShl]
  split
  · exact Nat.mod_lt _ (Nat.two_pow_pos n)
  · exact Nat.two_pow_pos n

theorem laneShr_lt {n x : Nat} (hx : x < 2 ^ n) (c : Nat) : laneShr n x c < 2 ^ n := by
  rw [laneShr]
  split
  · exact Nat.lt_of_le_of_lt (Nat.div_le_self _ _) hx
  · exact Nat.two_pow_pos n

theorem wrapInt_neg_one (n : Nat) : wrapInt n (-1) = 2 ^ n - 1 := by
  have h : (0 : Int) < 2 ^ n := Int.pow_pos (by decide)
  have e : (-1 : Int) % 2 ^ n = 2 ^ n - 1 := by
    rw [← Int.add_emod_right, Int.emod_eq_of_lt (by omega) (by omega)]
    omega
  zify [Nat.one_le_two_pow (n := n)]
  rw [wrapInt, e, Int.toNat_of_nonneg (by omega)]

/-- The sign of a lane is its highest bit. -/
theorem patInt_neg_iff {n x : Nat} (hx : x < 2 ^ n) : patInt n true x < 0 ↔ 2 ^ (n - 1) ≤ x := by
  have : (x : Int) < 2 ^ n := by exact_mod_cast hx
  simp only [patInt, true_and]
  split
  · next h => simp [h, this]
  · next h => simp [h]

/-- VSRA keeps the quotient rounded down, or nothing but copies of the sign. -/
theorem laneSra_eq {n x : Nat} (hx : x < 2 ^ n) (c : Nat) : laneSra n x c =
    if c < n then (patInt n true x / 2 ^ c % 2 ^ n).toNat else if 2 ^ (n - 1) ≤ x then 2 ^ n - 1 else 0 := by
  simp only [laneSra, patInt_neg_iff hx]
  split
  · rfl
  · split
    · exact wrapInt_neg_one n
    · simp [wrapInt]

/-! ### The forms -/

/-- `fl` is the SAT flag where SAT clamps one of the integers `r` to the type, and else none (13 R195). -/
def SatFlags (ty : VTy) (sat : Bool) (cnt : Nat) (r : Nat → Int) (fl : BitVec 7) : Prop :=
  let lo := intMin ty.width ty.isSigned
  let hi := intMax ty.width ty.isSigned
  fl = 32 ∧ sat = true ∧ (∃ j < cnt, r j < lo ∨ hi < r j) ∨ fl = 0 ∧ (sat = true → ∀ j < cnt, lo ≤ r j ∧ r j ≤ hi)

theorem satFlags_orFlags (ty : VTy) (sat : Bool) (cnt : Nat) (r : Nat → Int) :
    SatFlags ty sat cnt r (orFlags ((List.range cnt).map fun j => viRes ty sat (r j))) := by
  have hfl : orFlags ((List.range cnt).map fun j => viRes ty sat (r j))
      = flagIf ((List.range cnt).any fun j => sat && outside ty.width ty.isSigned (r j)) fSAT :=
    orFlags_map_of_flagIf fun j _ => narrowInt_snd ..
  rw [hfl]
  by_cases h : sat = true ∧ ∃ j < cnt, r j < intMin ty.width ty.isSigned ∨ intMax ty.width ty.isSigned < r j
  · obtain ⟨hs, j, hj, hr⟩ := h
    refine .inl ⟨?_, hs, j, hj, hr⟩
    rw [List.any_eq_true.2 ⟨j, List.mem_range.2 hj, by rw [hs, outside_iff.2 hr]; rfl⟩]
    rfl
  · refine .inr ⟨?_, fun hs j hj => ?_⟩
    · rw [List.any_eq_false.2 fun j hj hp => ?_]
      · rfl
      · obtain ⟨hs, hr⟩ := Bool.and_eq_true_iff.1 hp
        exact h ⟨hs, j, List.mem_range.1 hj, outside_iff.1 hr⟩
    · have hr := fun hr => h ⟨hs, j, hj, hr⟩
      exact ⟨Int.not_lt.1 fun hl => hr (.inl hl), Int.not_lt.1 fun hu => hr (.inr hu)⟩

/-- A form whose lanes are exact integers narrowed to the type. -/
theorem narrowed_sends {i : Instr} {s : State} {d : R64} {ty : VTy} {sat : Bool} {r : Nat → Int}
    (h : DoesPack i s 4 d ty.width ((List.range ty.elems).map fun j => viRes ty sat (r j))) :
    ∃ fl, SatFlags ty sat ty.elems r fl ∧ Does i s fun t => SendsLanes s t 4 d ty.width ty.elems
      (fun j => wrapInt ty.width (if sat then max (intMin ty.width ty.isSigned) (min (intMax ty.width ty.isSigned) (r j)) else r j)) fl := by
  have hv (j : Nat) := narrowInt_fst ty.width ty.isSigned sat (r j)
  simp only [← hv]
  exact ⟨_, satFlags_orFlags ty sat ty.elems r, h.lanes (fun j _ => (hv j).trans_lt (wrapInt_lt ..)) (width_mul_elems_le ty)⟩

/-- Settles O19: each lane is narrowed from its exact integer, or is a bitwise or shift result of its own. -/
theorem vectorIntegerAndBitResults : Obligations.VectorIntegerAndBitResults := by
  refine ⟨fun s gd ty sat d a b hg _ => ?_, fun s gd ty d a b c hg _ => ?_⟩
  · let x (r : R64) (j : Nat) : Int := viInt ty (laneOf ty.width j (s.rdW r))
    exact ⟨narrowed_sends (r := fun j => x a j + x b j) (vec2_packs hg (fun u v => viRes ty sat (viInt ty u + viInt ty v)) rfl),
      narrowed_sends (r := fun j => x a j - x b j) (vec2_packs hg (fun u v => viRes ty sat (viInt ty u - viInt ty v)) rfl),
      narrowed_sends (r := fun j => x a j * x b j) (vec2_packs hg (fun u v => viRes ty sat (viInt ty u * viInt ty v)) rfl),
      narrowed_sends (r := fun j => x a j * x b j + x d j)
        (vec3_packs hg (fun u v z => viRes ty sat (viInt ty u * viInt ty v + viInt ty z)) rfl)⟩
  · refine ⟨pushW_sends hg (fun s => s.rdW a &&& s.rdW b) rfl, pushW_sends hg (fun s => s.rdW a ||| s.rdW b) rfl,
      pushW_sends hg (fun s => s.rdW a ^^^ s.rdW b) rfl,
      ⟨_, getLsbD_select _ _ _, pushW_sends hg (fun s => (s.rdW a &&& s.rdW c) ||| (s.rdW b &&& ~~~s.rdW c)) rfl⟩,
      vec2_sendsLanes hg (laneShl ty.width) rfl fun x _ c _ => laneShl_lt _ x c,
      vec2_sendsLanes hg (laneShr ty.width) rfl fun x hx c _ => laneShr_lt hx c, ?_⟩
    simp only [← laneSra_eq (laneOf_lt ..)]
    exact vec2_sendsLanes hg (laneSra ty.width) rfl fun x _ c _ => wrapInt_lt ..

end Sys2Proof.Machine
end

section
/-!
The floating-point vector forms (13 R185, R188 to R192, R194).
-/
namespace Sys2Proof.Machine

/-! ### Codes of a floating-point type (12 Table 12.1) -/

theorem tyFmt_width : ∀ {ty : VTy}, ty.inF = true → (tyFmt ty).width = ty.width := by
  intro ty
  cases ty <;> decide

theorem defaultNan_lt : ∀ {ty : VTy}, ty.inF = true → defaultNan (tyFmt ty) < 2 ^ ty.width := by
  intro ty
  cases ty <;> decide

theorem negInf_lt : ∀ {ty : VTy}, ty.inF = true → negInf (tyFmt ty) < 2 ^ ty.width := by
  intro ty
  cases ty <;> decide

section
variable {ty : VTy} (hf : ty.inF = true)
include hf

theorem fpAbs_lt (x : Nat) : fpAbs (tyFmt ty) x < 2 ^ ty.width := by
  rw [fpAbs, tyFmt_width hf]
  split
  · exact defaultNan_lt hf
  · exact Nat.lt_of_lt_of_le (Nat.mod_lt _ (Nat.two_pow_pos _)) (Nat.pow_le_pow_right (by decide) (Nat.sub_le _ _))

theorem fpNeg_lt (x : Nat) : fpNeg (tyFmt ty) x < 2 ^ ty.width := by
  rw [fpNeg, tyFmt_width hf]
  split
  · exact defaultNan_lt hf
  · exact Nat.mod_lt _ (Nat.two_pow_pos _)

/-- VMIN and VMAX answer one of their operands or the default NaN. -/
theorem fpMinMax_lt (isMax : Bool) {x y : Nat} (hx : x < 2 ^ ty.width) (hy : y < 2 ^ ty.width) :
    fpMinMax (tyFmt ty) isMax x y < 2 ^ ty.width := by
  have hd := defaultNan_lt hf
  simp only [fpMinMax]
  split_ifs <;> assumption

end

/-! ### The forms -/

section
variable {s : State} {gd : Guard} {i : Instr} (hg : s.guard gd = true)
include hg

/-- A special function of each element, eight steps later (13 R190). -/
theorem vecSpecial_packs {ty : VTy} {d a : R64} (fn : Nat) (h : exec i s = vecSpecial gd fn ty d a s) :
    DoesPack i s 8 d ty.width ((List.range ty.elems).map fun j => specialLane ty fn (laneOf ty.width j (s.rdW a))) :=
  pushLanes_packs hg (fun s => (tyLanes ty (s.rdW a)).map (specialLane ty fn)) h (by rw [tyLanes_eq, List.map_map]; rfl)

/-- VMASK keeps the elements whose bit is set and puts −∞ in place of the others (13 R194). -/
theorem vmask_sendsLanes {ty : VTy} (hf : ty.inF = true) (d a b : R64) : Does (.vmask gd ty d a b) s fun t =>
    SendsLanes s t 4 d ty.width ty.elems
      (fun j => if (s.rdW b).getLsbD j then laneOf ty.width j (s.rdW a) else negInf (tyFmt ty)) 0 := by
  refine packed_sendsLanes hg (fun s => (tyLanes ty (s.rdW a)).zipIdx.map fun (x : Nat × Nat) =>
    if (s.rdW b).getLsbD x.2 then x.1 else negInf (tyFmt ty)) rfl ?_ (fun j _ => ?_) (width_mul_elems_le ty)
  · rw [tyLanes_eq, zipIdx_map_range, List.map_map]
    rfl
  · split
    · exact laneOf_lt ..
    · exact negInf_lt hf

end

theorem vcmpLane_lt (n : Nat) (p : Bool) : (if p then 2 ^ n - 1 else 0) < 2 ^ n := by
  have := Nat.two_pow_pos n
  split <;> omega

/-- Settles O20: the elements of a packed register; the forms that do not round; and those that do, whose lanes are the model's own
single roundings. -/
theorem vectorFloatResults : Obligations.VectorFloatResults := by
  refine ⟨fun n l _ hl hx => ⟨fun i hi => ?_, packLanes_high hx⟩, fun s gd ty fc d a b hg hf => ⟨?_, ?_, ?_, ?_, ?_, ?_⟩,
    fun s gd ty rm d a b v hg _ => ?_, fun s gd ty d a hg _ => ?_⟩
  · rw [laneOf_packLanes hx hl, List.getD_eq_getElem _ _ hi]
  · have h := vec1_sendsLanes hg (fpAbs (tyFmt ty)) (show exec (.vabs gd ty d a) s = _ from rfl) fun x _ => fpAbs_lt hf x
    simpa only [fpAbs, tyFmt_width hf] using h
  · have h := vec1_sendsLanes hg (fpNeg (tyFmt ty)) (show exec (.vneg gd ty d a) s = _ from rfl) fun x _ => fpNeg_lt hf x
    simpa only [fpNeg, tyFmt_width hf] using h
  · exact vec2_sendsLanes hg (fpMinMax (tyFmt ty) false) rfl fun x hx y hy => fpMinMax_lt hf _ hx hy
  · exact vec2_sendsLanes hg (fpMinMax (tyFmt ty) true) rfl fun x hx y hy => fpMinMax_lt hf _ hx hy
  · exact vec2_sendsLanes hg (fun x y => if fpCmp (tyFmt ty) fc x y then 2 ^ ty.width - 1 else 0) rfl
      fun x _ y _ => vcmpLane_lt _ _
  · exact vmask_sendsLanes hg hf d a b
  · exact ⟨vec2_packs hg (fpAdd (tyFmt ty) rm) rfl, vec2_packs hg (fpSub (tyFmt ty) rm) rfl, vec2_packs hg (fpMul (tyFmt ty) rm) rfl,
      vec3_packs hg (fpFma (tyFmt ty) rm false) rfl, vec3_packs hg (fpFma (tyFmt ty) rm true) rfl,
      vec1_packs hg (fun x => fpAdd fp32 .rn x (s.immV v).toNat) rfl,
      vec2_packs hg (fun x y => fpFma fp32 .rn false x y (s.immV v).toNat) rfl⟩
  · exact ⟨vecSpecial_packs hg 0x0C rfl, vecSpecial_packs hg 0x0D rfl, vecSpecial_packs hg 0x0E rfl, vecSpecial_packs hg 0x0F rfl,
      vecSpecial_packs hg 0x10 rfl, vecSpecial_packs hg 0x11 rfl, vecSpecial_packs hg 0x12 rfl, vecSpecial_packs hg 0x13 rfl⟩

end Sys2Proof.Machine
end

section
/-!
The conversions between vector types (13 R198 to R201).
-/
namespace Sys2Proof.Machine

/-- Results sent one after another. -/
theorem Sends.pushEach {α : Type} {b t : State} {fs : List Res} (h : Sends b t fs) (f : α → Res) (l : List α) :
    Sends b (l.foldl (fun s x => s.push (f x).1 (f x).2.1 (f x).2.2) t) (fs ++ l.map f) := by
  induction l generalizing t fs with
  | nil => simpa using h
  | cons x l ih => simpa using ih (h.push (f x).1 (f x).2.1 (f x).2.2)

/-- The source element of VNARR's lane `j`: element `j` div `r` of register A + `j` mod `r` (13 R199). -/
theorem getD_tyLanes_consecutive (s : State) (st : VTy) (a : R64) (r j : Nat) :
    (((List.range r).map fun k => tyLanes st (s.rdW (Fin.ofNat 64 (a.val + k)))).getD (j % r) []).getD (j / r) 0
      = if j % r < r ∧ j / r < st.elems then laneOf st.width (j / r) (s.rdW (Fin.ofNat 64 (a.val + j % r))) else 0 := by
  by_cases hr : j % r < r
  · by_cases he : j / r < st.elems <;> simp [tyLanes_eq, hr, he]
  · simp [hr]

section
variable {s : State} {gd : Guard} {i : Instr} (hg : s.guard gd = true)
include hg

/-- A form that spreads what `f` makes of each element over `cnt` registers (13 R199, R200). -/
theorem spread_sends {d a : R64} {st : VTy} {n cnt : Nat} (f : Nat → Nat × BitVec 7)
    (h : exec i s = vecDo gd (fun s => s.pushSpread d n cnt ((tyLanes st (s.rdW a)).map f)) s) :
    let l := (List.range st.elems).map fun j => f (laneOf st.width j (s.rdW a))
    Does i s fun t => Sends s t ((List.range cnt).map fun r =>
      (4, .w (Fin.ofNat 64 (d.val + r)) (packLanes n ((l.zipIdx.filter fun e => e.2 % cnt == r).map (·.1.1))),
        if r = 0 then orFlags l else 0)) := by
  refine does_vecDo hg h ?_
  rw [tyLanes_eq, List.map_map]
  exact (Sends.refl s).pushEach (fun r => (4, .w (Fin.ofNat 64 (d.val + r)) _, _)) (List.range cnt)

end

/-- Settles O21: each form converts the elements of its sources and packs them, or spreads them over registers. -/
theorem vectorConversionResults : Obligations.VectorConversionResults := by
  intro s gd dt st rm sat d a b hg
  refine ⟨pushLanes_packs hg (fun s => (tyLanes st (s.rdW a)).map (convertElem dt st rm sat)) rfl ?_,
    pushLanes_packs hg (fun s => (List.range dt.elems).map fun j => convertElem dt st rm sat
      ((((List.range (widthRatio st dt)).map fun k => tyLanes st (s.rdW (Fin.ofNat 64 (a.val + k)))).getD
        (j % widthRatio st dt) []).getD (j / widthRatio st dt) 0)) rfl ?_,
    pushLanes_packs hg (fun s => (List.zip (tyLanes st (s.rdW a)) (tyLanes st (s.rdW b))).flatMap fun (x : Nat × Nat) =>
      [convertElem dt st rm sat x.1, convertElem dt st rm sat x.2]) rfl ?_,
    spread_sends hg (fun x => ((convertElem dt st .rn false x).1, noFlags)) rfl, spread_sends hg (convertElem dt st rm sat) rfl⟩
  · rw [tyLanes_eq, List.map_map]
    rfl
  · simp only [getD_tyLanes_consecutive]
  · rw [tyLanes_eq, tyLanes_eq, List.zip_map', List.flatMap_map]

end Sys2Proof.Machine
end

section
/-!
Permutation and movement of lanes (13 R205 to R208).
-/
namespace Sys2Proof.Machine

/-- Two lists of lanes interleaved (13 R207): lane `j` comes from the first where `j` is even. -/
def interleave (x y : Nat → Nat) (j : Nat) : Nat := if j % 2 = 0 then x (j / 2) else y (j / 2)

theorem interleave_even (x y : Nat → Nat) (k : Nat) : interleave x y (2 * k) = x k := by
  simp [interleave]

theorem interleave_odd (x y : Nat → Nat) (k : Nat) : interleave x y (2 * k + 1) = y k := by
  have h1 : (2 * k + 1) % 2 = 1 := by omega
  have h2 : (2 * k + 1) / 2 = k := by omega
  simp [interleave, h1, h2]

theorem interleave_lt {x y : Nat → Nat} {m : Nat} (hx : ∀ i, x i < m) (hy : ∀ i, y i < m) (j : Nat) : interleave x y j < m := by
  rw [interleave]
  split
  · exact hx _
  · exact hy _

theorem flatMap_pair_eq (x y : Nat → Nat) (cnt : Nat) :
    ((List.range cnt).flatMap fun i => [x i, y i]) = (List.range (2 * cnt)).map (interleave x y) := by
  induction cnt with
  | zero => rfl
  | succ k ih =>
    rw [List.range_succ, List.flatMap_append, ih, Nat.mul_succ, List.range_succ, List.range_succ]
    simp [interleave_even, interleave_odd]

theorem take_map_range_two_mul {α : Type} (f : Nat → α) (cnt : Nat) :
    ((List.range (2 * cnt)).map f).take cnt = (List.range cnt).map f := by
  rw [← List.map_take, List.take_range, Nat.min_eq_left (by omega)]

theorem drop_map_range_two_mul {α : Type} (f : Nat → α) (cnt : Nat) :
    ((List.range (2 * cnt)).map f).drop cnt = (List.range cnt).map fun i => f (cnt + i) := by
  rw [Nat.two_mul, List.range_add, List.map_append, List.drop_left' (by simp), List.map_map]
  rfl

section
variable {s : State} {gd : Guard} (hg : s.guard gd = true)
include hg

/-- VPERM takes the lane of wA that each lane of wB names, in its block of 256 where lanes are bytes (13 R205). -/
theorem vperm_sendsLanes (lw : LaneW) (d a b : R64) : Does (.vperm gd lw d a b) s fun t =>
    SendsLanes s t 4 d lw.width (4096 / lw.width) (fun i => let y := laneOf lw.width i (s.rdW b)
      if lw = .b then laneOf lw.width (256 * (i / 256) + y) (s.rdW a) else laneOf lw.width (y % (4096 / lw.width)) (s.rdW a)) 0 := by
  refine packed_sendsLanes hg (fun s => (lanes lw.width (laneCount lw) (s.rdW b)).zipIdx.map fun (x : Nat × Nat) =>
    laneOf lw.width (if lw = .b then 256 * (x.2 / 256) + x.1 else x.1 % laneCount lw) (s.rdW a)) rfl ?_ (fun j _ => ?_)
    (laneWidth_mul_count lw).le
  · rw [lanes_eq, zipIdx_map_range, List.map_map]
    exact List.map_congr_left fun i _ => apply_ite (fun k => laneOf lw.width k (s.rdW a)) ..
  · dsimp only
    split
    · exact laneOf_lt ..
    · exact laneOf_lt ..

/-- One value in every lane (13 R206). -/
theorem broadcast_sendsLanes {i : Instr} {d : R64} {n cnt : Nat} (v : State → Nat)
    (h : exec i s = vecDo gd (fun s => s.pushW 4 d (packLanes n (List.replicate cnt (v s))) 0) s) (hv : v s < 2 ^ n)
    (hn : n * cnt ≤ 4096) : Does i s fun t => SendsLanes s t 4 d n cnt (fun _ => v s) 0 :=
  packed_sendsLanes hg (fun s => List.replicate cnt (v s)) h (by simp) (fun _ _ => hv) hn

/-- VSHUF interleaves two registers and sends the low half and the high half (13 R207). -/
theorem vshuf_sends (lw : LaneW) (d a b : R64) :
    let cnt := 4096 / lw.width
    let mix := interleave (fun i => laneOf lw.width i (s.rdW a)) (fun i => laneOf lw.width i (s.rdW b))
    Does (.vshuf gd lw d a b) s fun t => Sends s t
      [(4, .w d (packLanes lw.width ((List.range cnt).map mix)), 0),
        (4, .w (d + 1) (packLanes lw.width ((List.range cnt).map fun i => mix (cnt + i))), 0)] := by
  refine does_vecDo hg (show _ = execVshuf gd lw d a b s from rfl) ?_
  simp only [lanes_eq, List.zip_map', List.flatMap_map, flatMap_pair_eq, laneCount, take_map_range_two_mul, drop_map_range_two_mul]
  exact ((Sends.refl s).push ..).push ..

end

/-- Settles O22: each form packs the lanes it moves; VMOVG sends one of them to its g-register. -/
theorem vectorMovementResults : Obligations.VectorMovementResults := by
  intro s gd lw d a b v hg
  have hn := (laneWidth_mul_count lw).le
  refine ⟨vperm_sendsLanes hg lw d a b,
    broadcast_sendsLanes hg (fun s => (s.g a).toNat % 2 ^ lw.width) rfl (Nat.mod_lt _ (Nat.two_pow_pos _)) hn,
    broadcast_sendsLanes hg (fun s => (s.immV v).toNat) rfl (s.immV v).isLt (by decide),
    ⟨_, _, fun i hi => ⟨?_, ?_⟩, vshuf_sends hg lw d a b⟩, does_vecDo hg (show _ = execVmovg gd lw d a b s from rfl) (sends_pushG ..)⟩
  · exact laneOf_packLanes_range (fun j _ => interleave_lt (fun _ => laneOf_lt ..) (fun _ => laneOf_lt ..) j) hn hi
  · exact laneOf_packLanes_range (fun j _ => interleave_lt (fun _ => laneOf_lt ..) (fun _ => laneOf_lt ..) _) hn hi

end Sys2Proof.Machine
end

section
/-!
Reductions, scans and VARGMAX (13 R202 to R204), and the fixed tree over integers.
-/
namespace Sys2Proof.Machine

/-! ### The tree -/

theorem elems_pos (ty : VTy) : 0 < ty.elems := by cases ty <;> decide

theorem elems_eq_two_pow (ty : VTy) : ty.elems = 2 ^ Nat.log2 ty.elems := by cases ty <;> decide

theorem length_tyLanes (ty : VTy) (w : BitVec 4096) : (tyLanes ty w).length = 2 ^ Nat.log2 ty.elems := by
  rw [← elems_eq_two_pow, tyLanes_eq, List.length_map, List.length_range]

/-- A level of an even number of nodes is a list of pairs. -/
theorem pairs_induction {motive : (l : List Nat) → l.length % 2 = 0 → Prop} (nil : motive [] rfl)
    (pair : ∀ a b l (h : l.length % 2 = 0), motive l h → motive (a :: b :: l) ((Nat.add_mod_right ..).trans h)) :
    ∀ l hl, motive l hl
  | [], _ => nil
  | [_], h => absurd h (by simp)
  | a :: b :: l, h =>
    have hl : l.length % 2 = 0 := (Nat.add_mod_right ..).symm.trans h
    pair a b l hl (pairs_induction nil pair l hl)

theorem length_treeUp (ty : VTy) (c : Comb) {l : List Nat} (hl : l.length % 2 = 0) : (treeUp ty c l).length = l.length / 2 := by
  induction l, hl using pairs_induction with
  | nil => rfl
  | pair a b l _ ih =>
    rw [treeUp, List.length_cons, ih, List.length_cons, List.length_cons]
    omega

/-- What a level has and every level above it keeps, the root has. -/
theorem treeRoot_of_step {ty : VTy} {c : Comb} {P : List Nat → Prop}
    (step : ∀ l, l.length % 2 = 0 → P l → P ((treeUp ty c l).map (·.1))) (k : Nat) {l : List Nat} (hl : l.length = 2 ^ k) (h : P l) :
    P [treeNode (treeLevels ty c k l).1 k 0] := by
  induction k generalizing l with
  | zero =>
    obtain ⟨x, rfl⟩ := List.length_eq_one_iff.1 hl
    exact h
  | succ k ih =>
    have h2 : l.length = 2 ^ k * 2 := by rw [hl, Nat.pow_succ]
    have he : l.length % 2 = 0 := by rw [h2, Nat.mul_mod_left]
    exact ih (by rw [List.length_map, length_treeUp ty c he, h2, Nat.mul_div_cancel _ (by decide)]) (step l he h)

/-- A tree whose nodes raise no flag raises none. -/
theorem treeLevels_flags {ty : VTy} {c : Comb} (h : ∀ a b, (treeComb ty c a b).2 = noFlags) (k : Nat) (l : List Nat) :
    (treeLevels ty c k l).2 = 0 := by
  have hu (l : List Nat) : ∀ x ∈ treeUp ty c l, x.2 = noFlags := by
    fun_induction treeUp ty c l with
    | case1 a b rest ih => simpa [h] using ih
    | case2 => simp
  induction k generalizing l with
  | zero => rfl
  | succ k ih =>
    have e : (treeLevels ty c (k + 1) l).2 = orFlags (treeUp ty c l) ||| (treeLevels ty c k ((treeUp ty c l).map (·.1))).2 := rfl
    rw [e, ih, orFlags_of_noFlags (hu l)]
    rfl

/-! ### The tree over integers -/

theorem isFp_of_inI : ∀ {ty : VTy}, ty.inI = true → ty.isFp = false := by
  intro ty
  cases ty <;> decide

section
variable {ty : VTy} (hi : ty.isFp = false)
include hi

theorem treeComb_add (a b : Nat) : treeComb ty .add a b = ((a + b) % 2 ^ ty.width, noFlags) := by simp [treeComb, hi]

theorem treeComb_max (a b : Nat) : treeComb ty .max a b = (if viInt ty a < viInt ty b then b else a, noFlags) := by
  simp [treeComb, hi]

theorem treeComb_flags (c : Comb) (a b : Nat) : (treeComb ty c a b).2 = noFlags := by
  cases c <;> simp [treeComb, hi]

/-- Over integers a reduction is the root of the tree of the lanes, without flags. -/
theorem reduce_of_int (c : Comb) (w : BitVec 4096) : reduce ty c w
    = (treeNode (treeLevels ty c (Nat.log2 ty.elems) (tyLanes ty w)).1 (Nat.log2 ty.elems) 0, 0) := by
  have hl : (tyLanes ty w).map (treeLeaf ty c) = tyLanes ty w := by
    have e : treeLeaf ty c = id := funext fun x => by simp [treeLeaf, hi]
    rw [e, List.map_id]
  simp [reduce, treeOf, hl, treeOut, hi, treeLevels_flags (treeComb_flags hi c), noFlags]

/-- One level up keeps the sum, modulo the width. -/
theorem sum_treeUp {l : List Nat} (hl : l.length % 2 = 0) :
    ((treeUp ty .add l).map (·.1)).sum ≡ l.sum [MOD 2 ^ ty.width] ∧ ∀ y ∈ (treeUp ty .add l).map (·.1), y < 2 ^ ty.width := by
  induction l, hl using pairs_induction with
  | nil => exact ⟨rfl, by simp [treeUp]⟩
  | pair a b l _ ih =>
    obtain ⟨hs, hb⟩ := ih
    rw [treeUp, treeComb_add hi, List.map_cons, List.sum_cons, List.sum_cons, List.sum_cons, ← Nat.add_assoc]
    exact ⟨(Nat.mod_modEq _ _).add hs, List.forall_mem_cons.2 ⟨Nat.mod_lt _ (Nat.two_pow_pos _), hb⟩⟩

/-- One level up has lanes only, and for each lane one that is at least as great. -/
theorem treeUp_max {l : List Nat} (hl : l.length % 2 = 0) :
    (∀ y ∈ (treeUp ty .max l).map (·.1), y ∈ l) ∧ ∀ x ∈ l, ∃ y ∈ (treeUp ty .max l).map (·.1), viInt ty x ≤ viInt ty y := by
  induction l, hl using pairs_induction with
  | nil => simp [treeUp]
  | pair a b l _ ih =>
    obtain ⟨hs, hg⟩ := ih
    obtain ⟨k, e, hk, ha, hb⟩ : ∃ k, treeComb ty .max a b = (k, noFlags) ∧ (k = a ∨ k = b) ∧ viInt ty a ≤ viInt ty k
        ∧ viInt ty b ≤ viInt ty k := by
      rw [treeComb_max hi]
      by_cases h : viInt ty a < viInt ty b
      · exact ⟨b, by rw [if_pos h], .inr rfl, h.le, le_rfl⟩
      · exact ⟨a, by rw [if_neg h], .inl rfl, le_rfl, Int.not_lt.1 h⟩
    rw [treeUp, e, List.map_cons]
    refine ⟨List.forall_mem_cons.2 ⟨?_, fun y hy => ?_⟩, List.forall_mem_cons.2 ⟨⟨k, by simp, ha⟩,
      List.forall_mem_cons.2 ⟨⟨k, by simp, hb⟩, fun x hx => ?_⟩⟩⟩
    · rcases hk with rfl | rfl <;> simp
    · exact List.mem_cons_of_mem _ (List.mem_cons_of_mem _ (hs y hy))
    · obtain ⟨y, hy, hxy⟩ := hg x hx
      exact ⟨y, List.mem_cons_of_mem _ hy, hxy⟩

/-- Over integers VREDADD is the sum of the lanes, modulo the width. -/
theorem reduce_add_of_int (w : BitVec 4096) :
    (reduce ty .add w).1 = ((List.range ty.elems).map (laneOf ty.width · w)).sum % 2 ^ ty.width := by
  have hlanes : ∀ y ∈ tyLanes ty w, y < 2 ^ ty.width := fun y hy => by
    obtain ⟨i, -, rfl⟩ := mem_tyLanes.1 hy
    exact laneOf_lt ..
  obtain ⟨hs, hb⟩ := treeRoot_of_step (ty := ty) (c := .add)
    (P := fun l => l.sum ≡ (tyLanes ty w).sum [MOD 2 ^ ty.width] ∧ ∀ y ∈ l, y < 2 ^ ty.width)
    (fun l hl ⟨hs, _⟩ => ⟨(sum_treeUp hi hl).1.trans hs, (sum_treeUp hi hl).2⟩) _ (length_tyLanes ty w) ⟨rfl, hlanes⟩
  rw [List.sum_singleton] at hs
  rw [reduce_of_int hi]
  exact (Nat.mod_eq_of_lt (hb _ (List.mem_singleton_self _))).symm.trans hs

/-- Over integers VREDMAX is the greatest of the lanes. -/
theorem reduce_max_of_int (w : BitVec 4096) : ∃ i < ty.elems, (reduce ty .max w).1 = laneOf ty.width i w
    ∧ ∀ j < ty.elems, viInt ty (laneOf ty.width j w) ≤ viInt ty (laneOf ty.width i w) := by
  obtain ⟨hm, hg⟩ := treeRoot_of_step (ty := ty) (c := .max)
    (P := fun l => (∀ y ∈ l, y ∈ tyLanes ty w) ∧ ∀ x ∈ tyLanes ty w, ∃ y ∈ l, viInt ty x ≤ viInt ty y)
    (fun l hl ⟨hm, hg⟩ => ⟨fun y hy => hm y ((treeUp_max hi hl).1 y hy), fun x hx => by
      obtain ⟨y, hy, hxy⟩ := hg x hx
      obtain ⟨z, hz, hyz⟩ := (treeUp_max hi hl).2 y hy
      exact ⟨z, hz, hxy.trans hyz⟩⟩) _ (length_tyLanes ty w) ⟨fun _ hy => hy, fun x hx => ⟨x, hx, le_rfl⟩⟩
  rw [reduce_of_int hi]
  obtain ⟨i, hi, e⟩ := mem_tyLanes.1 (hm _ (List.mem_singleton_self _))
  refine ⟨i, hi, e.symm, fun j hj => ?_⟩
  obtain ⟨y, hy, hle⟩ := hg (laneOf ty.width j w) (mem_tyLanes.2 ⟨j, hj, rfl⟩)
  rw [List.mem_singleton.1 hy] at hle
  rwa [e]

end

/-! ### VARGMAX -/

/-- VARGMAX seeks the first lane with the greatest of the keys that there are. -/
theorem argmax_eq (ty : VTy) (l : List Nat) : argmax ty l
    = (l.foldl (fun b x => Option.merge max b (argKey ty x)) none).bind fun m => l.findIdx? fun x => argKey ty x == some m := by
  have step : (fun (b : Option Int) x => match b, argKey ty x with
      | none, k => k
      | some m, some k => some (max m k)
      | some m, none => some m) = fun b x => Option.merge max b (argKey ty x) := by
    funext b x
    cases b <;> cases argKey ty x <;> rfl
  have seek (best : Option Int) : (match best with
      | none => none
      | some m => l.findIdx? fun x => argKey ty x == some m) = best.bind fun m => l.findIdx? fun x => argKey ty x == some m := by
    cases best <;> rfl
  rw [← step]
  exact seek _

/-- Over integers every lane has a key. -/
theorem argmax_of_int {ty : VTy} (hi : ty.isFp = false) (l : List Nat) :
    argmax ty l = (l.map (viInt ty)).max?.bind fun m => l.findIdx? fun x => viInt ty x == m := by
  have hk (x : Nat) : argKey ty x = some (viInt ty x) := by simp [argKey, hi]
  have hf (l : List Nat) (m : Int) : l.foldl (fun b x => Option.merge max b (argKey ty x)) (some m)
      = some ((l.map (viInt ty)).foldl max m) := by
    induction l generalizing m with
    | nil => rfl
    | cons x l ih => rw [List.foldl_cons, hk, List.map_cons, List.foldl_cons]; exact ih _
  have hm : l.foldl (fun b x => Option.merge max b (argKey ty x)) none = (l.map (viInt ty)).max? := by
    cases l with
    | nil => rfl
    | cons x l => rw [List.foldl_cons, hk, List.map_cons, List.max?_cons']; exact hf l _
  rw [argmax_eq, hm]
  simp only [hk, Option.some_beq_some]

/-- Over integers VARGMAX gives the lowest lane that holds the greatest element (13 R204). -/
theorem argmax_spec {ty : VTy} (hi : ty.isFp = false) {n : Nat} (hn : 0 < n) (f : Nat → Nat) :
    ∃ i < n, (∀ j < n, viInt ty (f j) ≤ viInt ty (f i)) ∧ (∀ j < i, viInt ty (f j) < viInt ty (f i))
      ∧ argmax ty ((List.range n).map f) = some i := by
  obtain ⟨m, hm⟩ := Option.isSome_iff_exists.1 (List.isSome_max?_of_ne_nil (l := ((List.range n).map f).map (viInt ty))
    (by simp [Nat.ne_of_gt hn]))
  obtain ⟨hmem, hle⟩ := List.max?_eq_some_iff.1 hm
  obtain ⟨x, hx, hxm⟩ := List.mem_map.1 hmem
  have hfind := List.findIdx?_eq_some_of_exists (xs := (List.range n).map f) (p := fun x => viInt ty x == m) ⟨x, hx, by simp [hxm]⟩
  obtain ⟨hlt, he, hlow⟩ := List.findIdx?_eq_some_iff_getElem.1 hfind
  generalize ((List.range n).map f).findIdx (fun x => viInt ty x == m) = i at hfind hlt he hlow
  simp only [List.length_map, List.length_range, List.getElem_map, List.getElem_range, beq_iff_eq] at hlt he hlow
  have hmax (j : Nat) (hj : j < n) : viInt ty (f j) ≤ viInt ty (f i) :=
    he ▸ hle _ (List.mem_map_of_mem (List.mem_map_of_mem (List.mem_range.2 hj)))
  refine ⟨i, hlt, hmax, fun j hj => lt_of_le_of_ne (hmax j (hj.trans hlt)) (he ▸ hlow j hj), ?_⟩
  rw [argmax_of_int hi, hm]
  exact hfind

/-- Settles O23: each form is a value of the tree; over integers the tree adds or compares, and VARGMAX seeks the greatest. -/
theorem vectorReductionResults : Obligations.VectorReductionResults := by
  intro s gd ty op d a hg
  have hsum := pushLanes_packs hg (fun s => [reduce ty .add (s.rdW a)]) (show exec (.vredadd gd ty d a) s = _ from rfl) rfl
  have hmax := pushLanes_packs hg (fun s => [reduce ty .max (s.rdW a)]) (show exec (.vredmax gd ty d a) s = _ from rfl) rfl
  have harg := does_vecDo hg (show exec (.vargmax gd ty d a) s = execVargmax gd ty d a s from rfl) (sends_pushG ..)
  refine ⟨hsum.single, hmax.single, does_vecDo hg (show _ = execVscan gd op ty d a s from rfl) (sends_push ..), fun hty => ?_, harg⟩
  have hi := isFp_of_inI hty
  refine ⟨by rw [reduce_of_int hi], by rw [reduce_of_int hi], reduce_add_of_int hi _, reduce_max_of_int hi _, ?_⟩
  obtain ⟨i, hlt, hle, hlow, e⟩ := argmax_spec hi (elems_pos ty) fun j => laneOf ty.width j (s.rdW a)
  rw [tyLanes_eq, e] at harg
  exact ⟨i, hlt, hle, hlow, harg⟩

end Sys2Proof.Machine
end

section
/-!
The sets of domain registers (15 R210 to R212): what Canon finds, and that the helpers on sets lose no member they are to keep.
-/
namespace Sys2Proof.Machine

/-! ### The search for a bound -/

theorem findUp_of_some {m : Int → Bool} {h : Int} {n : Nat} {v w : Int} (e : findUp m h n v = some w) :
    v ≤ w ∧ w ≤ h ∧ m w = true ∧ ∀ u, v ≤ u → m u = true → w ≤ u := by
  induction n generalizing v with
  | zero => cases e
  | succ n ih =>
    rw [findUp] at e
    split_ifs at e with h1 h2
    · obtain rfl := Option.some.inj e
      exact ⟨le_rfl, not_lt.1 h1, h2, fun _ h _ => h⟩
    · obtain ⟨hv, hw, hm, hmin⟩ := ih e
      refine ⟨by omega, hw, hm, fun u hu hmu => hmin u ?_ hmu⟩
      have : u ≠ v := fun c => h2 (c ▸ hmu)
      omega

theorem findUp_of_none {m : Int → Bool} {h : Int} {n : Nat} {v : Int} (e : findUp m h n v = none) :
    ∀ u, v ≤ u → u < v + n → u ≤ h → m u = false := by
  induction n generalizing v with
  | zero => intro u _ _ _; omega
  | succ n ih =>
    rw [findUp] at e
    intro u hv hn hu
    split_ifs at e with h1 h2
    · omega
    · by_cases c : u = v
      · exact c ▸ eq_false_of_ne_true h2
      · exact ih e u (by omega) (by omega) hu

/-- The search downwards is the search upwards of the negated values. -/
theorem findDown_eq (m : Int → Bool) (l : Int) (n : Nat) (v : Int) :
    findDown m l n v = (findUp (fun u => m (-u)) (-l) n (-v)).map Neg.neg := by
  induction n generalizing v with
  | zero => rfl
  | succ n ih =>
    have e : -v + 1 = -(v - 1) := by omega
    simp only [findDown, findUp, neg_lt_neg_iff, neg_neg, ih, e]
    split_ifs
    · rfl
    · rw [Option.map_some, neg_neg]
    · rfl

theorem findDown_of_some {m : Int → Bool} {l : Int} {n : Nat} {v w : Int} (e : findDown m l n v = some w) :
    w ≤ v ∧ l ≤ w ∧ m w = true ∧ ∀ u, u ≤ v → m u = true → u ≤ w := by
  rw [findDown_eq, Option.map_eq_some_iff] at e
  obtain ⟨a, ha, rfl⟩ := e
  obtain ⟨h1, h2, h3, h4⟩ := findUp_of_some ha
  refine ⟨by omega, by omega, h3, fun u hu hmu => ?_⟩
  have := h4 (-u) (by omega) (by rwa [neg_neg])
  omega

/-! ### Canon -/

/-- Between `l` and `h` only values of two windows are left out, each of at most 65 values. -/
def FewHoles (m : Int → Bool) (l h : Int) : Prop :=
  ∃ a b : Int, ∀ u, l ≤ u → u ≤ h → m u = true ∨ (a ≤ u ∧ u < a + 65) ∨ (b ≤ u ∧ u < b + 65)

section
variable {l h : Int} {m : Int → Bool}

/-- Two windows do not cover three values 65 apart, so 132 candidates find a member where there is one. -/
theorem FewHoles.findUp {n : Nat} (hm : FewHoles m l h) (hn : 132 ≤ n) {v : Int} (hl : l ≤ v) (hh : v ≤ h) (hv : m v = true) :
    findUp m h n l ≠ none := by
  intro e
  obtain ⟨a, b, hab⟩ := hm
  have hnone := findUp_of_none e
  have hfar : l + n ≤ v := by
    by_contra c
    rw [hnone v hl (by omega) hh] at hv
    cases hv
  have hole (j : Int) (h0 : 0 ≤ j) (hj : j < 132) : (a ≤ l + j ∧ l + j < a + 65) ∨ (b ≤ l + j ∧ l + j < b + 65) := by
    refine (hab (l + j) (by omega) (by omega)).resolve_left fun c => ?_
    rw [hnone (l + j) (by omega) (by omega) (by omega)] at c
    cases c
  have h0 := hole 0 (by omega) (by omega)
  have h1 := hole 65 (by omega) (by omega)
  have h2 := hole 130 (by omega) (by omega)
  omega

theorem FewHoles.neg (hm : FewHoles m l h) : FewHoles (fun u => m (-u)) (-h) (-l) := by
  obtain ⟨a, b, hab⟩ := hm
  refine ⟨-(a + 64), -(b + 64), fun u h1 h2 => ?_⟩
  rcases hab (-u) (by omega) (by omega) with h | h | h
  · exact .inl h
  · exact .inr (.inl (by omega))
  · exact .inr (.inr (by omega))

theorem FewHoles.findDown {n : Nat} (hm : FewHoles m l h) (hn : 132 ≤ n) {v : Int} (hl : l ≤ v) (hh : v ≤ h) (hv : m v = true) :
    findDown m l n h ≠ none := by
  rw [findDown_eq, ne_eq, Option.map_eq_none_iff]
  exact hm.neg.findUp hn (v := -v) (by omega) (by omega) (by rwa [neg_neg])

/-- The bounds are 32-bit values. -/
def InWord32 (l h : Int) : Prop := -2147483648 ≤ l ∧ h ≤ 2147483647

theorem toInt_ofInt_32 {v : Int} (h : InWord32 v v) : (BitVec.ofInt 32 v).toInt = v := by
  obtain ⟨h1, h2⟩ := h
  rw [BitVec.toInt_ofInt, Int.bmod_def]
  omega

/-- The set Canon makes: its bounds are the least and the greatest member, and its mask shows the 64 values from the least on. -/
theorem canon_of_some (hw : InWord32 l h) {x : DomReg} (e : canon l h m = some x) : ∃ lo hi : Int,
    (l ≤ lo ∧ m lo = true ∧ ∀ u, l ≤ u → m u = true → lo ≤ u) ∧ (hi ≤ h ∧ m hi = true ∧ ∀ u, u ≤ h → m u = true → u ≤ hi)
    ∧ lo ≤ hi ∧ ∀ v, x.has v = true ↔ lo ≤ v ∧ v ≤ hi ∧ (64 ≤ v - lo ∨ m v = true) := by
  unfold canon at e
  obtain ⟨w1, w2⟩ := hw
  cases hu : findUp m h 132 l with
  | none => rw [hu] at e; cases e
  | some lo =>
    cases hd : findDown m lo 132 h with
    | none => rw [hu] at e; simp only [hd] at e; cases e
    | some hi =>
      rw [hu] at e
      simp only [hd] at e
      obtain rfl := Option.some.inj e
      obtain ⟨u1, u2, u3, u4⟩ := findUp_of_some hu
      obtain ⟨d1, d2, d3, d4⟩ := findDown_of_some hd
      refine ⟨lo, hi, ⟨u1, u3, u4⟩, ⟨d1, d3, d4⟩, d2, fun v => ?_⟩
      have hlo : (BitVec.ofInt 32 lo).toInt = lo := toInt_ofInt_32 ⟨by omega, by omega⟩
      have hhi : (BitVec.ofInt 32 hi).toInt = hi := toInt_ofInt_32 ⟨by omega, by omega⟩
      have hmask (i : Nat) (hi64 : i < 64) : (BitVec.ofNat 64 (bitSum (fun i => decide (lo + (i : Int) ≤ hi) && m (lo + (i : Int))) 64)).getLsbD i
          = (decide (lo + (i : Int) ≤ hi) && m (lo + (i : Int))) := by
        rw [BitVec.getLsbD_ofNat, testBit_bitSum _ hi64, decide_eq_true hi64, Bool.true_and]
      change (DomReg.mk (BitVec.ofInt 32 lo) (BitVec.ofInt 32 hi)
        (BitVec.ofNat 64 (bitSum (fun i => decide (lo + (i : Int) ≤ hi) && m (lo + (i : Int))) 64))).has v = true ↔ _
      simp only [DomReg.has, hlo, hhi, Bool.and_eq_true, decide_eq_true_eq, Bool.or_eq_true, and_assoc]
      refine and_congr_right fun h1 => and_congr_right fun h2 => ?_
      by_cases h3 : 64 ≤ v - lo
      · simp only [h3, true_or]
      · have e : lo + ((v - lo).toNat : Int) = v := by omega
        rw [hmask _ (by omega), e, decide_eq_true h2, Bool.true_and]

/-- A set that is made and has a value. -/
def Retains (o : Option DomReg) (v : Int) : Prop := ∃ x, o = some x ∧ x.has v = true

/-- Canon loses no member. -/
theorem canon_retains (hw : InWord32 l h) (hm : FewHoles m l h) {v : Int} (hl : l ≤ v) (hh : v ≤ h) (hv : m v = true) :
    Retains (canon l h m) v := by
  have hne : canon l h m ≠ none := by
    unfold canon
    obtain ⟨lo, hlo⟩ := Option.ne_none_iff_exists'.1 (hm.findUp le_rfl hl hh hv)
    obtain ⟨h1, -, -, h4⟩ := findUp_of_some hlo
    have hm' : FewHoles m lo h := by
      obtain ⟨a, b, hab⟩ := hm
      exact ⟨a, b, fun u hu => hab u (h1.trans hu)⟩
    obtain ⟨hi, hhi⟩ := Option.ne_none_iff_exists'.1 (hm'.findDown le_rfl (h4 v hl hv) hh hv)
    simp only [hlo, hhi]
    exact Option.some_ne_none _
  obtain ⟨x, hx⟩ := Option.ne_none_iff_exists'.1 hne
  obtain ⟨lo, hi, ⟨-, -, hlo⟩, ⟨-, -, hhi⟩, -, hhas⟩ := canon_of_some hw hx
  exact ⟨x, hx, (hhas v).2 ⟨hlo v hl hv, hhi v hh hv, .inr hv⟩⟩

end

/-! ### The helpers on sets -/

theorem DomReg.inWord32 (x : DomReg) : InWord32 x.lo.toInt x.lo.toInt ∧ InWord32 x.hi.toInt x.hi.toInt := by
  have h1 := x.lo.toInt_lt
  have h2 := x.lo.le_toInt
  have h3 := x.hi.toInt_lt
  have h4 := x.hi.le_toInt
  refine ⟨⟨?_, ?_⟩, ⟨?_, ?_⟩⟩ <;> omega

theorem DomReg.has_iff {x : DomReg} {v : Int} : x.has v = true ↔ x.lo.toInt ≤ v ∧ v ≤ x.hi.toInt ∧
    (64 ≤ v - x.lo.toInt ∨ x.mask.getLsbD (v - x.lo.toInt).toNat = true) := by
  simp only [DomReg.has, Bool.and_eq_true, Bool.or_eq_true, decide_eq_true_eq, and_assoc]

/-- The values a set leaves out between its bounds lie in its window. -/
theorem DomReg.has_or_window (x : DomReg) {u : Int} (h1 : x.lo.toInt ≤ u) (h2 : u ≤ x.hi.toInt) :
    x.has u = true ∨ (x.lo.toInt ≤ u ∧ u < x.lo.toInt + 64) := by
  rw [DomReg.has_iff]
  by_cases h : 64 ≤ u - x.lo.toInt
  · exact .inl ⟨h1, h2, .inl h⟩
  · exact .inr ⟨h1, by omega⟩

theorem clamp32_le {x v : Int} (h : x ≤ v) (hv : -2147483648 ≤ v) : clamp32 x ≤ v := by unfold clamp32; omega
theorem le_clamp32 {x v : Int} (h : v ≤ x) (hv : v ≤ 2147483647) : v ≤ clamp32 x := by unfold clamp32; omega
theorem inWord32_clamp32 (x y : Int) : InWord32 (clamp32 x) (clamp32 y) := by unfold InWord32 clamp32; omega

section
variable {x y : DomReg} {v : Int} (hx : x.has v = true)
include hx

theorem DomReg.inWord32_of_has : x.lo.toInt ≤ v ∧ v ≤ x.hi.toInt ∧ InWord32 v v := by
  obtain ⟨h1, h2, -⟩ := DomReg.has_iff.1 hx
  obtain ⟨⟨h3, -⟩, -, h4⟩ := x.inWord32
  exact ⟨h1, h2, h3.trans h1, h2.trans h4⟩

theorem restrict_retains {l h : Int} (hl : l ≤ v) (hh : v ≤ h) : Retains (x.restrict l h) v := by
  obtain ⟨h1, h2, h3, h4⟩ := DomReg.inWord32_of_has hx
  obtain ⟨⟨w1, -⟩, -, w4⟩ := x.inWord32
  refine canon_retains ⟨le_max_of_le_left w1, min_le_of_left_le w4⟩ ⟨x.lo.toInt, x.lo.toInt, fun u hu hu' => ?_⟩
    (max_le h1 (clamp32_le hl h3)) (le_min h2 (le_clamp32 hh h4)) hx
  refine (x.has_or_window ((le_max_left _ _).trans hu) (hu'.trans (min_le_left _ _))).imp_right fun h => .inl ⟨h.1, by omega⟩

theorem remove_retains {u : Int} (hu : v ≠ u) : Retains (x.remove u) v := by
  obtain ⟨h1, h2, -⟩ := DomReg.inWord32_of_has hx
  unfold DomReg.remove
  split_ifs
  · exact ⟨x, rfl, hx⟩
  · refine canon_retains ⟨x.inWord32.1.1, x.inWord32.2.2⟩ ⟨x.lo.toInt, u, fun w hw hw' => ?_⟩ h1 h2
      (by rw [hx, bne_iff_ne.2 hu]; rfl)
    rcases x.has_or_window hw hw' with h | h
    · by_cases c : w = u
      · exact .inr (.inr (by omega))
      · exact .inl (by rw [h, bne_iff_ne.2 c]; rfl)
    · exact .inr (.inl ⟨h.1, by omega⟩)

theorem meetShift_retains {k : Int} (hy : y.has (v - k) = true) : Retains (x.meetShift y k) v := by
  obtain ⟨h1, h2, h3, h4⟩ := DomReg.inWord32_of_has hx
  obtain ⟨g1, g2, -⟩ := DomReg.inWord32_of_has hy
  obtain ⟨⟨w1, -⟩, -, w4⟩ := x.inWord32
  refine canon_retains ⟨le_max_of_le_left w1, min_le_of_left_le w4⟩ ⟨x.lo.toInt, y.lo.toInt + k, fun u hu hu' => ?_⟩
    (max_le h1 (clamp32_le (by omega) h3)) (le_min h2 (le_clamp32 (by omega) h4)) (by rw [hx, hy]; rfl)
  obtain ⟨hxu, hyu⟩ := max_le_iff.1 hu
  obtain ⟨hxu', hyu'⟩ := le_min_iff.1 hu'
  have hy1 : y.lo.toInt ≤ u - k := by unfold clamp32 at hyu; omega
  have hy2 : u - k ≤ y.hi.toInt := by unfold clamp32 at hyu'; omega
  rcases x.has_or_window hxu hxu' with h | h
  · rcases y.has_or_window hy1 hy2 with h' | h'
    · exact .inl (by rw [h, h']; rfl)
    · exact .inr (.inr (by omega))
  · exact .inr (.inl ⟨h.1, by omega⟩)

theorem meet_retains (hy : y.has v = true) : Retains (x.meet y) v := meetShift_retains hx (k := 0) (by rwa [sub_zero])

theorem DomReg.eq_lo_of_single (hs : x.single = true) : v = x.lo.toInt := by
  obtain ⟨h1, h2, -⟩ := DomReg.inWord32_of_has hx
  rw [← eq_of_beq hs] at h2
  exact le_antisymm h2 h1

end

end Sys2Proof.Machine
end

section
/-!
The narrowing forms lose no solution of their relation (15 R220, R221, Table 15.5).
-/
namespace Sys2Proof.Machine

/-! ### The shapes of a narrowing -/

/-- A form makes values, and each has the register's value of an assignment. -/
def Narrowed.Keeps (n : Narrowed) (val : R64 → Int) : Prop := ∃ ws, n = .ok ws ∧ ∀ w ∈ ws, w.2.has (val w.1) = true

section
variable {val : R64 → Int} {d a b : R64}

theorem seq2_keeps {d' : Option DomReg} {fa : DomReg → Option DomReg} (hd : Retains d' (val d))
    (ha : ∀ x : DomReg, x.has (val d) = true → Retains (fa x) (val a)) : (seq2 d a d' fa).Keeps val := by
  obtain ⟨x, rfl, hx⟩ := hd
  obtain ⟨y, ey, hy⟩ := ha x hx
  refine ⟨[(d, x), (a, y)], by simp only [seq2, ey], ?_⟩
  simp only [List.forall_mem_cons, List.not_mem_nil, false_imp_iff, implies_true, and_true]
  exact ⟨hx, hy⟩

theorem seq3_keeps {d' : Option DomReg} {fa : DomReg → Option DomReg} {fb : DomReg → DomReg → Option DomReg}
    (hd : Retains d' (val d)) (ha : ∀ x : DomReg, x.has (val d) = true → Retains (fa x) (val a))
    (hb : ∀ x y : DomReg, x.has (val d) = true → y.has (val a) = true → Retains (fb x y) (val b)) :
    (seq3 d a b d' fa fb).Keeps val := by
  obtain ⟨x, rfl, hx⟩ := hd
  obtain ⟨y, ey, hy⟩ := ha x hx
  obtain ⟨z, ez, hz⟩ := hb x y hx hy
  refine ⟨[(d, x), (a, y), (b, z)], by simp only [seq3, ey, ez], ?_⟩
  simp only [List.forall_mem_cons, List.not_mem_nil, false_imp_iff, implies_true, and_true]
  exact ⟨hx, hy, hz⟩

/-! ### One register in several fields -/

theorem mergeWrites_keeps (ws acc : List (R64 × DomReg)) (hacc : ∀ w ∈ acc, w.2.has (val w.1) = true)
    (hws : ∀ w ∈ ws, w.2.has (val w.1) = true) : (mergeWrites acc ws).Keeps val := by
  induction ws generalizing acc with
  | nil => exact ⟨acc, rfl, hacc⟩
  | cons p rest ih =>
    obtain ⟨r, v⟩ := p
    obtain ⟨hv, hrest⟩ := List.forall_mem_cons.1 hws
    rw [mergeWrites]
    cases hf : acc.find? fun p => p.1 == r with
    | none => exact ih _ (List.forall_mem_append.2 ⟨hacc, List.forall_mem_singleton.2 hv⟩) hrest
    | some p =>
      have hp : p.2.has (val r) = true := by
        have e : p.1 = r := eq_of_beq (List.find?_some (p := fun p : R64 × DomReg => p.1 == r) hf)
        exact e ▸ hacc p (List.mem_of_find?_eq_some hf)
      obtain ⟨w, ew, hw⟩ := meet_retains hp hv
      simp only [ew]
      refine ih _ (fun q hq => ?_) hrest
      obtain ⟨q', hq', rfl⟩ := List.mem_map.1 hq
      split_ifs
      · exact hw
      · exact hacc q' hq'

theorem mergeWrites_nodup {ws acc us : List (R64 × DomReg)} (hacc : (acc.map Prod.fst).Nodup)
    (h : mergeWrites acc ws = .ok us) : (us.map Prod.fst).Nodup := by
  induction ws generalizing acc with
  | nil => exact Except.ok.inj h ▸ hacc
  | cons p rest ih =>
    obtain ⟨r, v⟩ := p
    rw [mergeWrites] at h
    cases hf : acc.find? fun p => p.1 == r with
    | none =>
      rw [hf] at h
      refine ih ?_ h
      rw [List.map_append, List.map_cons, List.map_nil]
      refine List.Nodup.append hacc (List.nodup_singleton r) ?_
      rw [List.disjoint_singleton]
      intro hr
      obtain ⟨q, hq, e⟩ := List.mem_map.1 hr
      exact List.find?_eq_none.1 hf q hq (beq_iff_eq.2 e)
    | some p =>
      rw [hf] at h
      cases hm : p.2.meet v with
      | none => simp only [hm] at h; cases h
      | some w =>
        simp only [hm] at h
        refine ih ?_ h
        have e : (acc.map fun q => if q.1 = r then (r, w) else q).map Prod.fst = acc.map Prod.fst := by
          rw [List.map_map]
          refine List.map_congr_left fun q _ => ?_
          by_cases c : q.1 = r
          · rw [Function.comp_apply, if_pos c, c]
          · rw [Function.comp_apply, if_neg c]
        exact e ▸ hacc

/-- The values of a form name each register once (R220). -/
theorem narrowVals_nodup {e : Constraint} {get : R64 → DomReg} {ws : List (R64 × DomReg)} (h : narrowVals e get = .ok ws) :
    (ws.map Prod.fst).Nodup := by
  unfold narrowVals at h
  split at h
  · cases h
  · exact mergeWrites_nodup (acc := []) List.nodup_nil h

theorem narrowVals_keeps {e : Constraint} {get : R64 → DomReg} (h : (narrowRaw e get).Keeps val) : (narrowVals e get).Keeps val := by
  obtain ⟨ws, ew, hw⟩ := h
  rw [narrowVals, ew]
  exact mergeWrites_keeps ws [] (fun _ h => absurd h List.not_mem_nil) hw

/-! ### The relations -/

section
variable {x y z : DomReg} {mask : Word} (hx : x.has (val d) = true)
include hx

/-- NIN: between 0 and 63 nothing is beyond one window. -/
theorem nin_retains (h : 0 ≤ val d ∧ val d ≤ 63 ∧ mask.getLsbD (val d).toNat = true) :
    Retains (canon (max x.lo.toInt 0) (min x.hi.toInt 63) fun v => x.has v && mask.getLsbD v.toNat) (val d) := by
  obtain ⟨h0, h63, hm⟩ := h
  obtain ⟨h1, h2, -⟩ := DomReg.inWord32_of_has hx
  refine canon_retains ⟨le_max_of_le_right (by omega), min_le_of_right_le (by omega)⟩ ⟨0, 0, fun u hu hu' => .inr (.inl ?_)⟩
    (max_le h1 h0) (le_min h2 h63) (by rw [hx, hm]; rfl)
  exact ⟨(le_max_right _ _).trans hu, by have := hu'.trans (min_le_right _ _); omega⟩

variable (hy : y.has (val a) = true)
include hy

/-- NEQ and NEQO with the offset `k`. -/
theorem neq_keeps {k : Int} (h : val d = val a + k) : (seq2 d a (x.meetShift y k) fun u => y.meetShift u (-k)).Keeps val := by
  refine seq2_keeps (meetShift_retains hx ?_) fun u hu => meetShift_retains hy ?_
  · rwa [h, add_sub_cancel_right]
  · rwa [sub_neg_eq_add, ← h]

/-- NNE and NNEO with the offset `k`. -/
theorem nne_keeps {k : Int} (h : val d ≠ val a + k) :
    (seq2 d a (if y.single then x.remove (y.lo.toInt + k) else some x) fun u =>
      if u.single then y.remove (u.lo.toInt - k) else some y).Keeps val := by
  refine seq2_keeps ?_ fun u hu => ?_
  · split_ifs with hs
    · exact remove_retains hx (DomReg.eq_lo_of_single hy hs ▸ h)
    · exact ⟨_, rfl, hx⟩
  · split_ifs with hs
    · refine remove_retains hy fun e => h ?_
      rw [e, ← DomReg.eq_lo_of_single hu hs, sub_add_cancel]
    · exact ⟨_, rfl, hy⟩

/-- The 32-bit values stand within the bound `inf`. -/
theorem within_inf : -inf ≤ val d ∧ -inf ≤ val a ∧ val a ≤ inf := by
  obtain ⟨-, -, h1, h2⟩ := DomReg.inWord32_of_has hx
  obtain ⟨-, -, h3, h4⟩ := DomReg.inWord32_of_has hy
  unfold inf
  omega

/-- NLT and NLE: `j` is 1 for the strict relation. -/
theorem nle_keeps {j : Int} (h : val d + j ≤ val a) :
    (seq2 d a (x.restrict (-inf) (y.hi.toInt - j)) fun u => y.restrict (u.lo.toInt + j) inf).Keeps val := by
  obtain ⟨i1, -, i3⟩ := within_inf hx hy
  obtain ⟨-, y2, -⟩ := DomReg.inWord32_of_has hy
  refine seq2_keeps (restrict_retains hx i1 (by omega)) fun u hu => restrict_retains hy ?_ i3
  obtain ⟨u1, -⟩ := DomReg.inWord32_of_has hu
  omega

theorem nabs_keeps (h : val d = |val a|) :
    (seq2 d a (x.restrict (if 0 ≤ y.lo.toInt then y.lo.toInt else if y.hi.toInt ≤ 0 then -y.hi.toInt else 0)
      (max y.lo.toInt.natAbs y.hi.toInt.natAbs)) fun u => y.restrict (-u.hi.toInt) u.hi.toInt).Keeps val := by
  rw [Int.abs_eq_natAbs] at h
  obtain ⟨y1, y2, -⟩ := DomReg.inWord32_of_has hy
  refine seq2_keeps (restrict_retains hx ?_ (by omega)) fun u hu => ?_
  · split_ifs <;> omega
  · obtain ⟨u1, u2, -⟩ := DomReg.inWord32_of_has hu
    exact restrict_retains hy (by omega) (by omega)

variable (hz : z.has (val b) = true)
include hz

theorem nadd_keeps (h : val d = val a + val b) :
    (seq3 d a b (x.restrict (y.lo.toInt + z.lo.toInt) (y.hi.toInt + z.hi.toInt))
      (fun u => y.restrict (u.lo.toInt - z.hi.toInt) (u.hi.toInt - z.lo.toInt))
      fun u v => z.restrict (u.lo.toInt - v.hi.toInt) (u.hi.toInt - v.lo.toInt)).Keeps val := by
  obtain ⟨y1, y2, -⟩ := DomReg.inWord32_of_has hy
  obtain ⟨z1, z2, -⟩ := DomReg.inWord32_of_has hz
  refine seq3_keeps (restrict_retains hx (by omega) (by omega)) (fun u hu => ?_) fun u v hu hv => ?_
  all_goals obtain ⟨u1, u2, -⟩ := DomReg.inWord32_of_has hu
  · exact restrict_retains hy (by omega) (by omega)
  · obtain ⟨v1, v2, -⟩ := DomReg.inWord32_of_has hv
    exact restrict_retains hz (by omega) (by omega)

theorem nsub_keeps (h : val d = val a - val b) :
    (seq3 d a b (x.restrict (y.lo.toInt - z.hi.toInt) (y.hi.toInt - z.lo.toInt))
      (fun u => y.restrict (u.lo.toInt + z.lo.toInt) (u.hi.toInt + z.hi.toInt))
      fun u v => z.restrict (v.lo.toInt - u.hi.toInt) (v.hi.toInt - u.lo.toInt)).Keeps val := by
  obtain ⟨y1, y2, -⟩ := DomReg.inWord32_of_has hy
  obtain ⟨z1, z2, -⟩ := DomReg.inWord32_of_has hz
  refine seq3_keeps (restrict_retains hx (by omega) (by omega)) (fun u hu => ?_) fun u v hu hv => ?_
  all_goals obtain ⟨u1, u2, -⟩ := DomReg.inWord32_of_has hu
  · exact restrict_retains hy (by omega) (by omega)
  · obtain ⟨v1, v2, -⟩ := DomReg.inWord32_of_has hv
    exact restrict_retains hz (by omega) (by omega)

theorem nmin_keeps (h : val d = min (val a) (val b)) :
    (seq3 d a b (x.restrict (min y.lo.toInt z.lo.toInt) (min y.hi.toInt z.hi.toInt)) (fun u => y.restrict u.lo.toInt inf)
      fun u _ => z.restrict u.lo.toInt inf).Keeps val := by
  obtain ⟨y1, y2, -⟩ := DomReg.inWord32_of_has hy
  obtain ⟨z1, z2, -⟩ := DomReg.inWord32_of_has hz
  obtain ⟨-, -, iy⟩ := within_inf hx hy
  obtain ⟨-, -, iz⟩ := within_inf hx hz
  refine seq3_keeps (restrict_retains hx (by omega) (by omega)) (fun u hu => ?_) fun u _ hu _ => ?_
  all_goals obtain ⟨u1, -⟩ := DomReg.inWord32_of_has hu
  · exact restrict_retains hy (by omega) iy
  · exact restrict_retains hz (by omega) iz

theorem nmax_keeps (h : val d = max (val a) (val b)) :
    (seq3 d a b (x.restrict (max y.lo.toInt z.lo.toInt) (max y.hi.toInt z.hi.toInt)) (fun u => y.restrict (-inf) u.hi.toInt)
      fun u _ => z.restrict (-inf) u.hi.toInt).Keeps val := by
  obtain ⟨y1, y2, -⟩ := DomReg.inWord32_of_has hy
  obtain ⟨z1, z2, -⟩ := DomReg.inWord32_of_has hz
  obtain ⟨-, iy, -⟩ := within_inf hx hy
  obtain ⟨-, iz, -⟩ := within_inf hx hz
  refine seq3_keeps (restrict_retains hx (by omega) (by omega)) (fun u hu => ?_) fun u _ hu _ => ?_
  all_goals obtain ⟨-, u2, -⟩ := DomReg.inWord32_of_has hu
  · exact restrict_retains hy iy (by omega)
  · exact restrict_retains hz iz (by omega)

end

end

/-- The values of NIN. -/
theorem narrowRaw_nin {d a b : R64} {o : BitVec 10} {mask : Word} {get : R64 → DomReg} {x : DomReg}
    (h : canon (max (get d).lo.toInt 0) (min (get d).hi.toInt 63) (fun v => (get d).has v && mask.getLsbD v.toNat) = some x) :
    narrowRaw ⟨0x51, d, a, b, o, mask⟩ get = .ok [(d, x)] := by
  show (match canon (max (get d).lo.toInt 0) (min (get d).hi.toInt 63) fun v => (get d).has v && mask.getLsbD v.toNat with
    | none => .error d
    | some x => .ok [(d, x)] : Narrowed) = _
  rw [h]

/-- Settles O11: each helper of Table 15.5 keeps the value of a solution, so its registers do, one after the other. -/
theorem narrowingKeepsSolutions : Obligations.NarrowingKeepsSolutions := by
  rintro ⟨opc, d, a, b, o, mask⟩ get val hregs hrel
  refine narrowVals_keeps (val := val) ?_
  dsimp only at hrel
  have two (h : Constraint.regs ⟨opc, d, a, b, o, mask⟩ = [d, a]) : (get d).has (val d) = true ∧ (get a).has (val a) = true := by
    rw [h] at hregs
    exact ⟨hregs d (by simp), hregs a (by simp)⟩
  have three (h : Constraint.regs ⟨opc, d, a, b, o, mask⟩ = [d, a, b]) :
      (get d).has (val d) = true ∧ (get a).has (val a) = true ∧ (get b).has (val b) = true := by
    rw [h] at hregs
    exact ⟨hregs d (by simp), hregs a (by simp), hregs b (by simp)⟩
  split at hrel
  · obtain ⟨hd, ha⟩ := two rfl
    exact neq_keeps hd ha (k := 0) (by rw [hrel, add_zero])
  · obtain ⟨hd, ha⟩ := two rfl
    exact nne_keeps hd ha (k := 0) (by rwa [add_zero])
  · obtain ⟨hd, ha⟩ := two rfl
    exact neq_keeps hd ha hrel
  · obtain ⟨hd, ha⟩ := two rfl
    exact nne_keeps hd ha hrel
  · obtain ⟨hd, ha⟩ := two rfl
    exact nle_keeps hd ha (j := 1) hrel
  · obtain ⟨hd, ha⟩ := two rfl
    have h := nle_keeps hd ha (j := 0) (by rwa [add_zero])
    simp only [sub_zero, add_zero] at h
    exact h
  · obtain ⟨hd, ha, hb⟩ := three rfl
    exact nadd_keeps hd ha hb hrel
  · obtain ⟨hd, ha, hb⟩ := three rfl
    exact nsub_keeps hd ha hb hrel
  · obtain ⟨hd, ha, hb⟩ := three rfl
    exact nmin_keeps hd ha hb hrel
  · obtain ⟨hd, ha, hb⟩ := three rfl
    exact nmax_keeps hd ha hb hrel
  · obtain ⟨hd, ha⟩ := two rfl
    exact nabs_keeps hd ha hrel
  · obtain ⟨x, ex, hx⟩ := nin_retains (hregs d (List.mem_singleton_self d)) hrel
    exact ⟨[(d, x)], narrowRaw_nin ex, List.forall_mem_singleton.2 hx⟩
  · exact hrel.elim

end Sys2Proof.Machine
end

section
/-!
The forms of domain registers at their commit (15 R216 to R223, R225, R226, R234, R235, R237 to R239): the effect each one leaves
pending, or its failure.
-/
namespace Sys2Proof.Machine

/-! ### The sets that DSET and DSETM make -/

section
variable {l h : Int} {m : Int → Bool} (hw : InWord32 l h)
include hw

/-- A set that leaves out values of its first 64 alone is made whole. -/
theorem canon_of_window (hm : ∀ v, l + 64 ≤ v → v ≤ h → m v = true) (he : ∃ v, l ≤ v ∧ v ≤ h ∧ m v = true) :
    ∃ x, canon l h m = some x ∧ ∀ v, x.has v = true ↔ l ≤ v ∧ v ≤ h ∧ m v = true := by
  obtain ⟨w, w1, w2, w3⟩ := he
  have few : FewHoles m l h := ⟨l, l, fun u hu hu' => by
    by_cases c : l + 64 ≤ u
    · exact .inl (hm u c hu')
    · exact .inr (.inl ⟨hu, by omega⟩)⟩
  obtain ⟨x, hx, -⟩ := canon_retains hw few w1 w2 w3
  obtain ⟨lo, hi, ⟨l1, -, l3⟩, ⟨h1, -, h3⟩, -, hhas⟩ := canon_of_some hw hx
  refine ⟨x, hx, fun v => (hhas v).trans ⟨fun ⟨v1, v2, v3⟩ => ?_, fun ⟨v1, v2, v3⟩ => ⟨l3 v v1 v3, h3 v v2 v3, .inr v3⟩⟩⟩
  exact ⟨l1.trans v1, v2.trans h1, v3.elim (fun c => hm v (by omega) (v2.trans h1)) id⟩

/-- An empty set is not made. -/
theorem canon_of_empty (he : ∀ v, ¬(l ≤ v ∧ v ≤ h ∧ m v = true)) : canon l h m = none := by
  by_contra hne
  obtain ⟨x, hx⟩ := Option.ne_none_iff_exists'.1 hne
  obtain ⟨lo, hi, ⟨l1, l2, -⟩, ⟨h1, -⟩, hlh, -⟩ := canon_of_some hw hx
  exact he lo ⟨l1, hlh.trans h1, l2⟩

end

/-- The set of DSET. -/
def State.dsetSet (s : State) (a b : R64) (k : BitVec 10) : Option DomReg :=
  canon (clamp32 ((s.g a).toInt + k.toInt)) (clamp32 ((s.g b).toInt + k.toInt)) fun _ => true

/-- The set of DSETM: a mask over the bounds. -/
def State.dsetmSet (s : State) (d a : R64) : Option DomReg :=
  canon (s.rdD d).lo.toInt (s.rdD d).hi.toInt fun v =>
    decide (64 ≤ v - (s.rdD d).lo.toInt) || (s.g a).getLsbD (v - (s.rdD d).lo.toInt).toNat

theorem dsetSet_of_le {s : State} {a b : R64} {k : BitVec 10}
    (h : clamp32 ((s.g a).toInt + k.toInt) ≤ clamp32 ((s.g b).toInt + k.toInt)) : ∃ x, s.dsetSet a b k = some x ∧
      ∀ v, x.has v = true ↔ clamp32 ((s.g a).toInt + k.toInt) ≤ v ∧ v ≤ clamp32 ((s.g b).toInt + k.toInt) := by
  obtain ⟨x, hx, hhas⟩ := canon_of_window (m := fun _ => true) (inWord32_clamp32 _ _) (fun _ _ _ => rfl) ⟨_, le_rfl, h, rfl⟩
  exact ⟨x, hx, fun v => by rw [hhas]; simp only [and_true]⟩

theorem dsetSet_of_lt {s : State} {a b : R64} {k : BitVec 10}
    (h : clamp32 ((s.g b).toInt + k.toInt) < clamp32 ((s.g a).toInt + k.toInt)) : s.dsetSet a b k = none :=
  canon_of_empty (inWord32_clamp32 _ _) fun _ hv => absurd (hv.1.trans hv.2.1) (not_le.2 h)

section
variable {s : State} {d a : R64}

theorem dsetmMask_iff {v : Int} : (decide (64 ≤ v - (s.rdD d).lo.toInt) || (s.g a).getLsbD (v - (s.rdD d).lo.toInt).toNat) = true ↔
    64 ≤ v - (s.rdD d).lo.toInt ∨ (s.g a).getLsbD (v - (s.rdD d).lo.toInt).toNat = true := by
  rw [Bool.or_eq_true, decide_eq_true_eq]

theorem dsetmSet_of_exists (he : ∃ v, (s.rdD d).lo.toInt ≤ v ∧ v ≤ (s.rdD d).hi.toInt ∧
      (64 ≤ v - (s.rdD d).lo.toInt ∨ (s.g a).getLsbD (v - (s.rdD d).lo.toInt).toNat = true)) :
    ∃ x, s.dsetmSet d a = some x ∧ ∀ v, x.has v = true ↔ (s.rdD d).lo.toInt ≤ v ∧ v ≤ (s.rdD d).hi.toInt ∧
      (64 ≤ v - (s.rdD d).lo.toInt ∨ (s.g a).getLsbD (v - (s.rdD d).lo.toInt).toNat = true) := by
  simp only [← dsetmMask_iff] at he ⊢
  exact canon_of_window ⟨(s.rdD d).inWord32.1.1, (s.rdD d).inWord32.2.2⟩ (fun v hv _ => dsetmMask_iff.2 (.inl (by omega))) he

theorem dsetmSet_of_not_exists (he : ∀ v, ¬((s.rdD d).lo.toInt ≤ v ∧ v ≤ (s.rdD d).hi.toInt ∧
      (64 ≤ v - (s.rdD d).lo.toInt ∨ (s.g a).getLsbD (v - (s.rdD d).lo.toInt).toNat = true))) : s.dsetmSet d a = none := by
  simp only [← dsetmMask_iff] at he
  exact canon_of_empty ⟨(s.rdD d).inWord32.1.1, (s.rdD d).inWord32.2.2⟩ he

end

/-! ### Failure at commit -/

/-- The state a failure at commit leaves is the one the statements name. -/
theorem State.failCommit_eq {s : State} (he : s.cur.episode = none) (r : R64) : s.failCommit r =
    if s.rdCr 0x023 = 0 then (s.failing r).slotFaultFree 0x08
    else (s.failing r).modEnv fun e => { e with transfer := some ⟨s.rdCr 0x023, 3, true⟩, yield := false, discard := true } := by
  have hc : s.cur.fail 1 r.val 0x100 s.env.hdr = { s.cur with
      fpc := fpcWord 1 r.val 0x100 s.env.hdr
      nstat := { s.cur.nstat with
        act := false
        fail := true
        bud := false
        fp := false }
      pendDom := [] } := by
    simp only [Ctx.fail, he]
  have e : ((s.modCur fun t => t.fail 1 r.val 0x100 s.env.hdr).dropDom s.env.core s.env.ctx) = s.failing r := by
    unfold State.failing State.modCur
    rw [State.modCtx_eq_const, State.modCtx_eq_const s]
    exact congrArg (fun t : Ctx => (s.modCtx s.env.core s.env.ctx fun _ => t).dropDom s.env.core s.env.ctx) hc
  unfold State.failCommit
  dsimp only [State.modCur, State.modCtx_env]
  exact e ▸ rfl

theorem State.HandlerReady.failing {s : State} (h : s.HandlerReady) (r : R64) : (s.failing r).HandlerReady := by
  obtain ⟨h1, h2, h3, h4⟩ := h
  simp only [State.HandlerReady, State.failing, State.cur, State.ctx, State.modCur, State.modCtx, State.modCore_env, State.core_modCore,
    Core.ctx_modCtx]
  exact ⟨h1, h2, h3, h4⟩

/-- A failure where cr.ftv is 0 enters the handler. -/
theorem enters_failing {s : State} (h : s.HandlerReady) (r : R64) : Enters (s.failing r) ((s.failing r).slotFaultFree 0x08) 0x08 := by
  obtain ⟨h1, h2, h3, h4⟩ := h.failing r
  have h' : (s.failing r).freeWord.2.HandlerReady := ⟨h1, h2, h3, h4⟩
  exact (entersAt_slotFault h' 0x08 _ 0 rfl).1

/-! ### A domain form outside handler mode -/

section
variable {i : Instr} {gd : Guard} {regs : List R64} {f : State → State} {s : State} (h : exec i s = domDo gd regs f s)
  (hg : s.guard gd = true) (hu : s.user) (hr : ∀ r ∈ regs, r.val < s.alloc.domains)
include h hg hu hr

/-- Its d-registers lie below DOMAINS, so its effect is taken. -/
theorem exec_domDo : exec i s = .next (if (f s).env.stopped then f s else (f s).chargeSlot .scalar) := by
  have e : (regs.any fun r => decide (s.alloc.domains ≤ r.val)) = false := by
    rw [List.any_eq_false]
    intro r hm
    rw [decide_eq_true_eq, not_le]
    exact hr r hm
  rw [h, domDo, slotDo_of_guard hg]
  dsimp only
  rw [State.outsideHandler_of_user hu, e]
  rfl

theorem does_domDo {b : State} {fs : List Res} (hf : Sends b (f s) fs) : Does i s fun t => Sends b t fs := by
  refine ⟨_, exec_domDo h hg hu hr, ?_⟩
  split
  · exact hf
  · exact hf.slotCharged _

/-- An effect that is left pending. -/
theorem domDo_pending {lat : Nat} {eff : DomEff} (hf : f s = s.pushDom lat eff) :
    Does i s fun t => Sends (s.pending lat eff) t [] :=
  does_domDo h hg hu hr (hf ▸ Sends.refl _)

/-- An effect that is a failure. -/
theorem domDo_fails {r : R64} (he : s.cur.episode = none) (hf : f s = s.failCommit r) : FailsAtCommit i s r := by
  rw [State.failCommit_eq he] at hf
  refine ⟨fun hv => does_domDo h hg hu hr ?_, fun hv hready => ?_⟩
  · rw [hf, if_neg hv]
    exact Sends.refl _
  · rw [if_pos hv] at hf
    have hent := enters_failing hready r
    refine ⟨f s, (exec_domDo h hg hu hr).trans (congrArg _ (if_pos ?_)), hf ▸ hent⟩
    rw [hf]
    exact hent.1

end

/-! ### The forms -/

/-- What DSET and DSETM do with the set they make. -/
def State.setOrFail (s : State) (d : R64) : Option DomReg → State
  | none => s.failCommit d
  | some x => s.pushDom 2 (.set d x)

section
variable {s : State} {gd : Guard}

theorem exec_dset (d a b : R64) (k : BitVec 10) :
    exec (.dset gd d a b k) s = domDo gd [d] (fun s => s.setOrFail d (s.dsetSet a b k)) s := by
  show execDset gd d a b k s = _
  unfold execDset
  congr 1

theorem exec_dsetm (d a : R64) : exec (.dsetm gd d a) s = domDo gd [d] (fun s => s.setOrFail d (s.dsetmSet d a)) s := by
  show execDsetm gd d a s = _
  unfold execDsetm
  congr 1

variable (hg : s.guard gd = true) (hu : s.user)
include hg hu

/-- DLO, DHI and DCNT: a result that g0 discards. -/
theorem domRead_sends {i : Instr} {r d : R64} {v : State → Word} (h : exec i s = domDo gd [d] (fun s => s.pushRead r (v s)) s)
    (hd : d.val < s.alloc.domains) : Does i s fun t => Sends s t (if r = 0 then [] else [(2, .dom r (v s), 0)]) := by
  refine does_domDo h hg hu (List.forall_mem_singleton.2 hd) ?_
  unfold State.pushRead
  split
  · exact Sends.refl s
  · exact sends_push s _ _ _

/-- A form without d-registers, whose effect stands pending. -/
theorem propagation_pending {i : Instr} {f : State → State} {lat : Nat} {eff : DomEff} (h : exec i s = domDo gd [] f s)
    (hf : f s = s.pushDom lat eff) : Does i s fun t => Sends (s.pending lat eff) t [] :=
  domDo_pending h hg hu (fun _ hr => absurd hr List.not_mem_nil) hf

/-- A narrowing form with room for its record. -/
theorem narrowForm_results {i : Instr} {k : Bool} {e : Constraint} (h : exec i s = narrowForm gd k e s)
    (hroom : k = true → s.cur.store.length + s.cur.pendingRecords ≠ min s.alloc.store 256)
    (hr : ∀ r ∈ e.regs, r.val < s.alloc.domains) :
    (∀ ws, narrowVals e s.rdD = .ok ws → (ws.map Prod.fst).Nodup
      ∧ Does i s fun t => Sends (s.pending 2 (.narrow ws (if k then some e else none))) t [])
    ∧ ∀ r, narrowVals e s.rdD = .error r → s.cur.episode = none → FailsAtCommit i s r := by
  have hk : (k && s.cur.store.length + s.cur.pendingRecords == min s.alloc.store 256) = false := by
    cases k with
    | false => rfl
    | true => exact beq_eq_false_iff_ne.2 (hroom rfl)
  refine ⟨fun ws hw => ⟨narrowVals_nodup hw, domDo_pending h hg hu hr ?_⟩, fun r hw he => domDo_fails h hg hu hr he ?_⟩
  · simp only [hk, hw, Bool.false_eq_true, if_false]
  · simp only [hk, hw, Bool.false_eq_true, if_false]

end

/-- Settles O9: DSET and DSETM leave the set they make pending, the reads send a result, and the other forms leave their effect. -/
theorem domainReadAndPropagationForms : Obligations.DomainReadAndPropagationForms := by
  refine ⟨fun s gd d r a b k hg hu => ?_, fun s gd hg hu => ⟨?_, ?_, fun hl => ?_, fun hl => ⟨?_, ?_⟩⟩⟩
  · intro lo hi x inMask width pop reads hd
    refine ⟨fun hle => ?_, fun hex => ?_, ?_, ?_, ?_⟩
    · obtain ⟨y, hy, hhas⟩ := dsetSet_of_le hle
      refine ⟨y, hhas, domDo_pending (exec_dset d a b k) hg hu (List.forall_mem_singleton.2 hd) ?_⟩
      rw [hy]
      rfl
    · obtain ⟨y, hy, hhas⟩ := dsetmSet_of_exists hex
      refine ⟨y, hhas, domDo_pending (exec_dsetm d a) hg hu (List.forall_mem_singleton.2 hd) ?_⟩
      rw [hy]
      rfl
    · exact domRead_sends hg hu (show _ = execDlo gd r d s from rfl) hd
    · exact domRead_sends hg hu (show _ = execDhi gd r d s from rfl) hd
    · exact domRead_sends hg hu (show _ = execDcnt gd r d s from rfl) hd
  · exact propagation_pending hg hu (show _ = execNprop gd s from rfl) rfl
  · exact propagation_pending hg hu (show _ = execNclr gd s from rfl) rfl
  · exact propagation_pending hg hu (show _ = execNckpt gd s from rfl) (if_neg hl)
  · exact propagation_pending hg hu (show _ = execNrest gd s from rfl) (if_neg hl)
  · exact propagation_pending hg hu (show _ = execNpop gd s from rfl) (if_neg hl)

/-- Settles O10: every form is a narrowing form of its own constraint. -/
theorem narrowingFormResults : Obligations.NarrowingFormResults := by
  intro s gd k d a b o hg hu hroom
  exact ⟨narrowForm_results hg hu (show _ = execNeq gd k d a s from rfl) hroom,
    narrowForm_results hg hu (show _ = execNne gd k d a s from rfl) hroom,
    narrowForm_results hg hu (show _ = execNeqo gd k d a o s from rfl) hroom,
    narrowForm_results hg hu (show _ = execNneo gd k d a o s from rfl) hroom,
    narrowForm_results hg hu (show _ = execNlt gd k d a s from rfl) hroom,
    narrowForm_results hg hu (show _ = execNle gd k d a s from rfl) hroom,
    narrowForm_results hg hu (show _ = execNadd gd k d a b s from rfl) hroom,
    narrowForm_results hg hu (show _ = execNsub gd k d a b s from rfl) hroom,
    narrowForm_results hg hu (show _ = execNmul gd k d a b s from rfl) hroom,
    narrowForm_results hg hu (show _ = execNmin gd k d a b s from rfl) hroom,
    narrowForm_results hg hu (show _ = execNmax gd k d a b s from rfl) hroom,
    narrowForm_results hg hu (show _ = execNabs gd k d a s from rfl) hroom,
    narrowForm_results hg hu (show _ = execNin gd k d a s from rfl) hroom,
    narrowForm_results hg hu (show _ = execNdiff gd k d o s from rfl) hroom⟩

end Sys2Proof.Machine
end

section
/-!
What every trap leaves of a context's domain registers, its store and its levels (15 R234, 24 R360 to R363): a trap that enters a
handler, a double trap and a fatal trap change none of them, and send no result of DLO, DHI or DCNT.
-/
namespace Sys2Proof.Machine

/-- The domain state of a context, with its g-registers. -/
def Ctx.domain (t : Ctx) := (t.d, t.store, t.levels, t.g, t.pendDom, t.episode, t.fpc, t.nstat)

/-- No result of DLO, DHI or DCNT of a context is in flight. -/
def Core.NoDomResult (x : CtxId) (k : Core) : Prop := ∀ f ∈ k.inflight, f.ctx = x → ∀ g w, f.wr ≠ .dom g w

/-- From `k` to `j` the domain state of context `x` is kept, no domain result of it appears, and it stays held where it was. -/
structure Core.KeepsDomain (x : CtxId) (k j : Core) : Prop where
  domain : (j.ctxs[x]).domain = (k.ctxs[x]).domain
  noDom : k.NoDomResult x → j.NoDomResult x
  held : (k.ctxs[x]).run = .held → (j.ctxs[x]).run = .held

/-- The same of context `x` of core `c`. -/
def KeepsDomain (c : CoreId) (x : CtxId) (s t : State) : Prop := (s.core c).KeepsDomain x (t.core c)

section
variable {x : CtxId}

theorem Core.KeepsDomain.refl (k : Core) : k.KeepsDomain x k := ⟨rfl, id, id⟩
theorem Core.KeepsDomain.trans {i j k : Core} (h : i.KeepsDomain x j) (h' : j.KeepsDomain x k) : i.KeepsDomain x k :=
  ⟨h'.domain.trans h.domain, h'.noDom ∘ h.noDom, h'.held ∘ h.held⟩

theorem Core.keepsDomain_of_fields {k j : Core} (hc : j.ctxs = k.ctxs) (hi : j.inflight = k.inflight) : k.KeepsDomain x j :=
  ⟨by rw [hc], fun h => by rwa [Core.NoDomResult, hi], fun h => by rwa [hc]⟩

theorem Core.keepsDomain_modCtx (k : Core) (y : CtxId) {f : Ctx → Ctx}
    (hd : ∀ t, (f t).domain = t.domain) (hr : ∀ t, t.run = .held → (f t).run = .held) : k.KeepsDomain x (k.modCtx y f) := by
  rcases eq_or_ne x y with rfl | hne
  · exact ⟨by rw [Core.ctx_modCtx, hd], id, fun h => by rw [Core.ctx_modCtx]; exact hr _ h⟩
  · exact ⟨by rw [Core.ctx_modCtx_ne k f hne], id, fun h => by rwa [Core.ctx_modCtx_ne k f hne]⟩

theorem Core.keepsDomain_modCtx_ne (k : Core) {y : CtxId} (f : Ctx → Ctx) (hne : x ≠ y) : k.KeepsDomain x (k.modCtx y f) :=
  ⟨by rw [Core.ctx_modCtx_ne k f hne], id, fun h => by rwa [Core.ctx_modCtx_ne k f hne]⟩

theorem Core.keepsDomain_completeFmt (k : Core) (y : CtxId) : k.KeepsDomain x (k.completeFmt y) := by
  refine ⟨rfl, fun h f hf => ?_, id⟩
  obtain ⟨g, hg, rfl⟩ := List.mem_map.1 hf
  dsimp only
  generalize (g.ctx == y && _) = b
  cases b
  · exact h g hg
  · exact h g hg

theorem Core.inflight_switchPoint (k : Core) : k.switchPoint.inflight = k.inflight := by
  have h (k : Core) : k.select.inflight = k.inflight := by
    unfold Core.select
    split <;> rfl
  refine (h _).trans ?_
  dsimp only
  split <;> rfl

theorem Core.keepsDomain_switchPoint (k : Core) : k.KeepsDomain x k.switchPoint := by
  have hd : (k.switchPoint.ctxs[x]).placed.domain = (k.ctxs[x]).placed.domain := congrArg Ctx.domain (k.placed_switchPoint x)
  refine ⟨hd, fun h => ?_, fun h => ?_⟩
  · rwa [Core.NoDomResult, Core.inflight_switchPoint]
  · exact (congrArg Prod.fst (Core.watch_switchPoint (.inr (.inr h)))).trans h

end

section
variable {c : CoreId} {x : CtxId} {s : State}

theorem KeepsDomain.refl (s : State) : KeepsDomain c x s s := Core.KeepsDomain.refl _
theorem KeepsDomain.trans {s t u : State} (h : KeepsDomain c x s t) (h' : KeepsDomain c x t u) : KeepsDomain c x s u :=
  Core.KeepsDomain.trans h h'
theorem KeepsDomain.foldl {α : Type} {f : State → α → State} (h : ∀ s a, KeepsDomain c x s (f s a)) (l : List α) (s : State) :
    KeepsDomain c x s (l.foldl f s) := by
  induction l generalizing s with
  | nil => exact .refl s
  | cons a l ih => exact (h s a).trans (ih (f s a))

theorem keepsDomain_of_cores {s t : State} (h : t.cores = s.cores) : KeepsDomain c x s t := by
  have e : t.core c = s.core c := congrArg (fun v => v[c]) h
  rw [KeepsDomain, e]
  exact .refl _

theorem keepsDomain_modCore (s : State) (d : CoreId) {f : Core → Core} (h : ∀ k : Core, k.KeepsDomain x (f k)) :
    KeepsDomain c x s (s.modCore d f) := by
  rcases eq_or_ne c d with rfl | hne
  · rw [KeepsDomain, State.core_modCore]
    exact h _
  · rw [KeepsDomain, State.core_modCore_ne s f hne]
    exact .refl _

theorem keepsDomain_modCtx (s : State) (d : CoreId) (y : CtxId) {f : Ctx → Ctx} (hd : ∀ t, (f t).domain = t.domain)
    (hr : ∀ t, t.run = .held → (f t).run = .held) : KeepsDomain c x s (s.modCtx d y f) :=
  keepsDomain_modCore s d fun k => k.keepsDomain_modCtx y hd hr

/-- A change of another context. -/
theorem keepsDomain_modCtx_ne (s : State) {u : CoreId × CtxId} (hu : u ≠ (c, x)) (f : Ctx → Ctx) :
    KeepsDomain c x s (s.modCtx u.1 u.2 f) := by
  obtain ⟨d, y⟩ := u
  rcases eq_or_ne c d with rfl | hne
  · rw [KeepsDomain, State.modCtx, State.core_modCore]
    exact Core.keepsDomain_modCtx_ne _ f fun e => hu (e ▸ rfl)
  · rw [KeepsDomain, State.modCtx, State.core_modCore_ne s _ hne]
    exact .refl _

/-! ### Bracken operations that settle -/

theorem keepsDomain_chargeExact (s : State) (d : CoreId) (y : CtxId) (w den : Nat) : KeepsDomain c x s (s.chargeExact d y w den) := by
  obtain ⟨f, hf, e⟩ := s.chargeExact_eq d y w den
  have hd (t : Ctx) : (f t).domain = t.domain := by
    have h : (f t).unpaid.domain = t.unpaid.domain := congrArg Ctx.domain (hf t)
    exact h
  have hr (t : Ctx) : (f t).run = t.run := by
    have h : (f t).unpaid.run = t.unpaid.run := congrArg Ctx.run (hf t)
    exact h
  rw [e]
  exact (keepsDomain_modCtx s d y hd fun t h => (hr t).trans h).trans (keepsDomain_of_cores rfl)

theorem keepsDomain_ddEnd (s : State) (d : CoreId) (e : R16) (n : DdEntry) (o : Nat) (st : BitVec 8) (res aux : Word) :
    KeepsDomain c x s (s.ddEnd d e n o st res aux) := by
  rw [State.ddEnd_eq, State.ddDone]
  have h : KeepsDomain c x s (s.modCore d fun k => k.retire e o st res aux) := keepsDomain_modCore s d fun k =>
    Core.keepsDomain_of_fields (k.kept_retire e o st res aux).2 (by simp only [Core.retire, Core.putRecord])
  refine h.trans (KeepsDomain.trans ?_ (keepsDomain_chargeExact _ d n.ctx _ _))
  exact keepsDomain_modCtx _ d n.ctx (fun _ => rfl) fun _ => id

theorem keepsDomain_ddDrop (s : State) (d : CoreId) (e : R16) (n : DdEntry) : KeepsDomain c x s (s.ddDrop d e n) := by
  unfold State.ddDrop
  refine KeepsDomain.trans ?_ (keepsDomain_modCore _ d fun k => Core.keepsDomain_of_fields rfl rfl)
  split
  · next o _ =>
    have h : KeepsDomain c x s (s.modCore d fun k => k.putRecord o 5 0 0) := keepsDomain_modCore s d fun k =>
      Core.keepsDomain_of_fields (k.ctxs_putRecord o 5 0 0) rfl
    refine h.trans ?_
    unfold State.countOps
    split
    · exact keepsDomain_of_cores rfl
    · exact .refl _
  · exact .refl s

theorem keepsDomain_ddAbandoned (s : State) (d : CoreId) (e : R16) (n : DdEntry) : KeepsDomain c x s (s.ddAbandoned d e n) := by
  have h : KeepsDomain c x s (s.setEntry d e (some { n with accepted := false })) :=
    keepsDomain_modCore s d fun k => Core.keepsDomain_of_fields rfl rfl
  exact h.trans (keepsDomain_modCtx _ d n.ctx (fun _ => rfl) fun _ => id)

theorem keepsDomain_ddSettle (s : State) (d : CoreId) (y : CtxId) : KeepsDomain c x s (s.ddSettle d y) := by
  unfold State.ddSettle
  refine KeepsDomain.foldl (fun s e => ?_) _ s
  split_ifs
  · exact (keepsDomain_ddDrop s d _ _).trans (keepsDomain_of_cores rfl)
  · exact keepsDomain_ddAbandoned s d _ _
  · split
    · exact (keepsDomain_ddEnd s d _ _ _ _ _ _).trans (keepsDomain_of_cores rfl)
    · exact .refl s

/-! ### The hold of a context, and the records of others -/

theorem State.cores_hostWrite (s : State) (f : BitVec 7) (a : Nat) (data : List Byte) : (s.hostWrite f a data).cores = s.cores := by
  unfold State.hostWrite
  split
  · obtain ⟨n, o, q, e⟩ := s.hostSend_eq ⟨f, a, data⟩
    rw [e]
  · rfl

theorem State.cores_trapRecord (s : State) (r : TrapRec) : (s.trapRecord r).cores = s.cores := by
  unfold State.trapRecord
  split_ifs
  · rfl
  · exact s.cores_hostWrite _ _ _
  · rfl

theorem keepsDomain_fatalHold (s : State) (faddr info : Word) : KeepsDomain c x s (s.fatalHold c x faddr info)
    ∧ ((s.fatalHold c x faddr info).ctx c x).run = .held := by
  have h1 : KeepsDomain c x s ((s.modCtx c x fun t => { t with run := .held }).saveRecord c x).2 :=
    (keepsDomain_modCtx s c x (f := fun t => { t with run := .held }) (fun _ => rfl) fun _ _ => rfl).trans (keepsDomain_of_cores rfl)
  have h2 : ∀ t : State, KeepsDomain c x t (if (s.core c).current == some x then t.modCore c Core.switchPoint else t) := fun t => by
    split
    · exact keepsDomain_modCore t c Core.keepsDomain_switchPoint
    · exact .refl t
  have hr : (((s.modCtx c x fun t => { t with run := .held }).saveRecord c x).2.ctx c x).run = .held :=
    congrArg Ctx.run (s.ctx_modCtx c x fun t => { t with run := .held })
  rw [State.fatalHold_eq]
  have h3 : KeepsDomain c x (s.heldAside c x) (let t := (s.heldAside c x).trapRecord (s.heldRecord c x faddr info)
      { t with groups := t.groups.map (·.addRecords (s.core c).alloc.group
        [(ctxUnit c x, BitVec.ofNat 64 (64 * Config.recBase + s.recNext))]) }) := keepsDomain_of_cores (State.cores_trapRecord _ _)
  exact ⟨h1.trans ((h2 _).trans h3), ((h2 _).trans h3).held hr⟩

theorem State.saveOthers_eq (s : State) (g : Nat) :
    s.saveOthers g = allCtx.foldl (fun s u => if s.toSave g u then s.saveOther g u else s) s := rfl

/-- The records of others leave a held context alone. -/
theorem keepsDomain_saveOthers {s : State} (h : (s.ctx c x).run = .held) (g : Nat) : KeepsDomain c x s (s.saveOthers g) := by
  rw [State.saveOthers_eq]
  generalize allCtx = l
  induction l generalizing s with
  | nil => exact .refl s
  | cons u l ih =>
    have hu : KeepsDomain c x s (if s.toSave g u then s.saveOther g u else s) := by
      split
      · next hs =>
        have hne : u ≠ (c, x) := by
          rintro rfl
          exact (State.toSave_iff.1 hs).2.2 h
        exact ((keepsDomain_modCtx_ne s hne Ctx.interrupt).trans (keepsDomain_ddSettle _ u.1 u.2)).trans (keepsDomain_of_cores rfl)
      · exact .refl s
    exact hu.trans (ih (hu.held h))

/-! ### The stop of a group -/

theorem keepsDomain_killWork (s : State) (d : CoreId) (y : CtxId) : KeepsDomain c x s (s.killWork d y) := by
  unfold State.killWork
  extract_lets g recs s1 s2 s3 s4
  have h1 : KeepsDomain c x s s2 := keepsDomain_of_cores rfl
  have h2 : KeepsDomain c x s2 s3 := keepsDomain_modCore s2 d fun k => by
    have hc : ((recs.foldl (fun (k : Core) a => k.putRecord a 5 0 0) k).ctxs) = k.ctxs := (Core.kept_putRecords recs k).2
    refine ⟨congrArg (fun v => (v[x]).domain) hc, fun h f hf => ?_, fun h => (congrArg (fun v => (v[x]).run) hc).trans h⟩
    exact h f (List.mem_of_mem_filter hf)
  exact (h1.trans h2).trans (keepsDomain_of_cores rfl)

theorem keepsDomain_endPinsHalted (s : State) (g : Nat) : KeepsDomain c x s (s.endPinsHalted g) := by
  unfold State.endPinsHalted
  split
  · exact keepsDomain_of_cores rfl
  · exact .refl s

/-- The kill of another context. -/
theorem keepsDomain_killCtx (s : State) {u : CoreId × CtxId} (hu : u ≠ (c, x)) : KeepsDomain c x s (s.killCtx u.1 u.2) := by
  unfold State.killCtx
  extract_lets s1 was s2 s3
  have h1 : KeepsDomain c x s s1 := keepsDomain_killWork s u.1 u.2
  have h2 : KeepsDomain c x s1 s2 := keepsDomain_modCtx_ne s1 hu Ctx.killed
  have h3 : KeepsDomain c x s2 s3 := by
    dsimp only [s3]
    split
    · exact keepsDomain_modCore s2 u.1 Core.keepsDomain_switchPoint
    · exact .refl s2
  refine (h1.trans h2).trans (h3.trans ?_)
  split
  · exact keepsDomain_endPinsHalted s3 _
  · exact .refl s3

/-- A held context is not stopped with its group. -/
theorem keepsDomain_killCore {s : State} (h : (s.ctx c x).run = .held) (d : CoreId) : KeepsDomain c x s (s.killCore d) := by
  unfold State.killCore
  generalize List.finRange 4 = l
  induction l generalizing s with
  | nil => exact .refl s
  | cons y l ih =>
    have hy : KeepsDomain c x s (let r := (s.ctx d y).run
        if r = .unloaded ∨ r = .halted ∨ r = .held then s else s.killCtx d y) := by
      dsimp only
      split
      · exact .refl s
      · next hn =>
        refine keepsDomain_killCtx s (u := (d, y)) fun e => hn ?_
        obtain ⟨rfl, rfl⟩ := Prod.mk.inj e
        exact .inr (.inr h)
    exact hy.trans (ih (hy.held h))

theorem keepsDomain_stopGroup {s : State} (h : (s.ctx c x).run = .held) (g : Nat) : KeepsDomain c x s (s.stopGroup g) := by
  rw [State.stopGroup_eq]
  refine KeepsDomain.trans ?_ (keepsDomain_endPinsHalted _ g)
  generalize List.finRange 192 = l
  induction l generalizing s with
  | nil => exact .refl s
  | cons d l ih =>
    have hd : KeepsDomain c x s (if s.inGroup g d then s.killCore d else s) := by
      split
      · exact keepsDomain_killCore h d
      · exact .refl s
    exact hd.trans (ih (hd.held h))

theorem keepsDomain_failGroup (s : State) (g code : Nat) : KeepsDomain c x s (s.failGroup g code) := keepsDomain_of_cores rfl

theorem keepsDomain_fatal (s : State) (faddr info : Word) : KeepsDomain c x s (s.fatal c x faddr info) := by
  have h0 := keepsDomain_ddSettle (c := c) (x := x) s c x
  obtain ⟨h1, hr⟩ := keepsDomain_fatalHold (c := c) (x := x) (s.ddSettle c x) faddr info
  unfold State.fatal
  dsimp only
  generalize (s.ddSettle c x).fatalHold c x faddr info = u at h1 hr ⊢
  generalize (s.core c).alloc.group = g
  have h2 := keepsDomain_saveOthers hr g
  generalize u.saveOthers g = v at h2 ⊢
  generalize (if (v.ctx c x).frame.cause = 0x21 then 5 else 4) = code
  have h3 := keepsDomain_failGroup (c := c) (x := x) v g code
  exact ((h0.trans h1).trans h2).trans (h3.trans (keepsDomain_stopGroup (h3.held (h2.held hr)) g))

/-! ### Traps -/

theorem keepsDomain_trapping (s : State) : KeepsDomain c x s (s.trapping c x) :=
  KeepsDomain.trans (t := s.modEnv fun e => if e.core = c ∧ e.ctx = x then { e with stopped := true } else e)
    (keepsDomain_of_cores rfl) (keepsDomain_modCore _ c fun k => k.keepsDomain_completeFmt x)

theorem keepsDomain_holdFrame (s : State) (f : Frame) : KeepsDomain c x s (s.holdFrame c x f) :=
  keepsDomain_modCtx s c x (fun _ => rfl) fun _ => id

/-- A stop at a switch point changes no domain state. -/
theorem keepsDomain_stopHere (s : State) : KeepsDomain c x s (s.stopHere c x) := by
  have hstop (t : Ctx) : t.stop.domain = t.domain ∧ t.stop.run = t.run := by
    unfold Ctx.stop
    exact ⟨rfl, rfl⟩
  unfold State.stopHere
  split
  · exact (keepsDomain_modCtx s c x (fun t => (hstop t).1) fun t h => (hstop t).2.trans h).trans (keepsDomain_of_cores rfl)
  · refine KeepsDomain.trans (keepsDomain_modCtx s c x (fun t => ?_) fun t h => ?_) (keepsDomain_of_cores rfl)
    · split <;> rfl
    · split <;> exact h
  · exact .refl s

theorem State.run_holdFrame (s : State) (c : CoreId) (x : CtxId) (f : Frame) : ((s.holdFrame c x f).ctx c x).run = (s.ctx c x).run := by
  obtain ⟨g, hg, e⟩ := s.holdFrame_eq c x f
  rw [e, State.ctx_modCtx]
  exact congrArg Prod.fst (hg _)

/-- A context that is not held enters its handler. -/
theorem keepsDomain_enter (hr : (s.ctx c x).run ≠ .held) : KeepsDomain c x s (s.modCtx c x Ctx.enter) := by
  rw [KeepsDomain, State.modCtx, State.core_modCore]
  exact ⟨by rw [Core.ctx_modCtx]; rfl, id, fun h => absurd h hr⟩

/-- Whatever becomes of a trap, it changes no domain state of its context. -/
theorem keepsDomain_takeTrap (s : State) (f : Frame) (hdr : Word) (slot : R8) : KeepsDomain c x s (s.takeTrap c x f hdr slot) := by
  have hcause (u : State) (cause : BitVec 8) (hm : Ctx → Bool) :
      KeepsDomain c x u (u.modCtx c x fun t => { t with hm := hm t, frame := { t.frame with cause := cause } }) :=
    keepsDomain_modCtx u c x (fun _ => rfl) fun _ => id
  unfold State.takeTrap
  extract_lets t s1 s2 double held entered noMark
  have h0 : KeepsDomain c x s s2 := keepsDomain_trapping s
  have hs : s2.ctx c x = t := State.ctx_trapping
  clear_value s2
  have h1 : KeepsDomain c x s held := h0.trans (keepsDomain_holdFrame s2 f)
  have hrun : (held.ctx c x).run = t.run := (s2.run_holdFrame c x f).trans (congrArg Ctx.run hs)
  have h2 (h : ¬t.run = .held) : KeepsDomain c x s entered := h1.trans (keepsDomain_enter fun e => h (hrun.symm.trans e))
  split_ifs with hheld
  · exact h0.trans (hcause s2 f.cause Ctx.hm)
  · exact (h0.trans (hcause s2 f.cause Ctx.hm)).trans (keepsDomain_fatal ..)
  · exact h1.trans (keepsDomain_fatal held ..)
  · exact (h0.trans (hcause s2 0x22 Ctx.hm)).trans (keepsDomain_fatal double ..)
  · exact (h2 hheld).trans ((keepsDomain_stopHere entered).trans (keepsDomain_modCore _ c Core.keepsDomain_switchPoint))
  · exact h2 hheld
  · exact h1.trans ((hcause held 0x22 fun _ => true).trans (keepsDomain_fatal noMark ..))
  · exact h1.trans (keepsDomain_fatal held ..)

end
end Sys2Proof.Machine
end

section
/-!
Failures and traps met while domain effects are applied (15 R232, R234, R236): what they leave, and where control passes.
-/
namespace Sys2Proof.Machine

section
variable {c : CoreId} {x : CtxId} {s : State}

/-! ### The trap of the point due -/

theorem Core.skipPads_congr {j k : Core} (h : j.ispad = k.ispad) (e n : Nat) : j.skipPads e n = k.skipPads e n := by
  induction n with
  | zero => rfl
  | succ n ih => rw [Core.skipPads, Core.skipPads, h, ih]

theorem Core.markOk_congr {j k : Core} (h : j.marks = k.marks) : j.markOk = k.markOk :=
  funext fun a => by rw [Core.markOk, Core.markOk, h]

/-- The point due depends on the instruction banks and their start marks alone, and on where its context stands. -/
theorem Core.dueAddr_congr {j k : Core} (hi : j.ispad = k.ispad) (hm : j.marks = k.marks) {t u : Ctx} (hp : t.pc = u.pc)
    (ht : t.transferred = u.transferred) : j.dueAddr t = k.dueAddr u := by
  have hf : j.fetchFrom = k.fetchFrom := funext₂ fun hdr a => by rw [Core.fetchFrom, Core.fetchFrom, hi, Core.skipPads_congr hi]
  rw [Core.dueAddr, Core.dueAddr, hf, Core.markOk_congr hm, hp, ht]

theorem State.dueFrame_addr (s : State) (c : CoreId) (x : CtxId) (cause : BitVec 8) (faddr info : Word) :
    (s.dueFrame c x cause faddr info).addr = ((s.core c).dueAddr (s.ctx c x)).setWidth 56 := by
  unfold State.dueFrame
  extract_lets t f0 f
  have hf : f.addr = ((s.core c).dueAddr (s.ctx c x)).setWidth 56 := by
    dsimp only [f]
    split <;> rfl
  split
  · rw [(f.withBlocks_point _).2.1, hf]
  · exact hf

theorem State.dueFrame_sr {s : State} (h : (s.ctx c x).replay = none) (cause : BitVec 8) (faddr info : Word) :
    (s.dueFrame c x cause faddr info).sr = 0 := by
  unfold State.dueFrame
  simp only [h]
  split
  · exact (Frame.withBlocks_point _ _).2.2.1
  · rfl

/-- From the context `t` of core `k` a trap of the point due has entered the handler in `u`. -/
structure EntersDue (k : Core) (t : Ctx) (cause : BitVec 8) (u : Ctx) : Prop where
  hm : u.hm = true
  pc : u.pc = t.thv
  bubbles : u.bubbles = 3
  valid : u.frame.valid = true
  cause : u.frame.cause = cause
  addr : u.frame.addr = (k.dueAddr t).setWidth 56
  sr : t.replay = none → u.frame.sr = 0

theorem EntersDue.of_code {j k : Core} {t t' u : Ctx} {cause : BitVec 8} (h : EntersDue j t' cause u) (hi : j.ispad = k.ispad)
    (hm : j.marks = k.marks) (hthv : t'.thv = t.thv) (hp : t'.pc = t.pc) (htr : t'.transferred = t.transferred)
    (hr : t'.replay = t.replay) : EntersDue k t cause u :=
  ⟨h.hm, h.pc.trans hthv, h.bubbles, h.valid, h.cause, h.addr.trans (congrArg _ (Core.dueAddr_congr hi hm hp htr)),
    fun hn => h.sr (hr.trans hn)⟩

theorem dueTrap_enters (h : s.Handles c x) {cause : BitVec 8} (hf : fatalCause cause = false) :
    EntersDue (s.core c) (s.ctx c x) cause ((s.dueTrap c x cause).ctx c x) := by
  let f := s.freeWord.2.dueFrame c x cause s.freeWord.1 0
  have hcause : f.cause = cause := State.dueFrame_cause _ _ _ _ _ _
  have he : EntersBefore c x f s (s.dueTrap c x cause) :=
    (entersBefore_takeTrap (s := s.freeWord.2) (h.of_fields rfl) f ((s.core c).dueAddr (s.ctx c x)) 0 (hcause ▸ hf)).of_fields rfl rfl
  have hfr := he.frame
  simp only [Prod.mk.injEq] at hfr
  obtain ⟨h1, h2, h3, -, h5, -⟩ := hfr
  exact ⟨he.hm, he.pc, he.bubbles, h1, h2.trans hcause, h3.trans (State.dueFrame_addr _ _ _ _ _ _),
    fun hr => h5.trans (State.dueFrame_sr (s := s.freeWord.2) hr _ _ _)⟩

theorem keepsDomain_dueTrap (s : State) (cause : BitVec 8) : KeepsDomain c x s (s.dueTrap c x cause) :=
  KeepsDomain.trans (t := s.freeWord.2) (keepsDomain_of_cores rfl) (keepsDomain_takeTrap ..)

theorem keepsDomain_userTransfer (s : State) (target : Word) : KeepsDomain c x s (s.userTransfer c x target) := by
  unfold State.userTransfer
  dsimp only
  split
  · exact keepsDomain_modCtx s c x (fun _ => rfl) fun _ => id
  · exact keepsDomain_takeTrap ..

theorem State.userTransfer_of_mark {target : Word} (h : (s.core c).markOk target = true) :
    s.userTransfer c x target = s.modCtx c x fun t => { t with
      pc := target
      bubbles := 3
      transferred := true
      replay := none
      fired := none
      noRewrite := false } := if_pos h

/-! ### Pending results that are discarded -/

theorem noDomResult_dropDom (s : State) : ((s.dropDom c x).core c).NoDomResult x := by
  rw [State.dropDom, State.core_modCore]
  rintro f hf rfl g w hw
  have h := (List.mem_filter.1 hf).2
  rw [hw, beq_self_eq_true] at h
  cases h

/-! ### The failure -/

/-- The state of a failure before control passes. -/
def State.failedApply (s : State) (c : CoreId) (x : CtxId) (r : R64) (entry : Nat) (hdr : Word) : State :=
  (s.modCtx c x fun t => t.fail 2 r.val entry hdr).dropDom c x

/-- What a failure met while an effect is applied leaves, from the context `t` of core `k` on. -/
structure FailsApplied (c : CoreId) (x : CtxId) (k : Core) (t : Ctx) (r : R64) (entry : Nat) (hdr : Word) (u : State) : Prop where
  domain : (u.ctx c x).domain = (t.fail 2 r.val entry hdr).domain
  noDom : (u.core c).NoDomResult x
  transfer : t.run ≠ .halted → t.ftv ≠ 0 → k.markOk t.ftv = true →
    (u.ctx c x).pc = t.ftv ∧ (u.ctx c x).bubbles = 3 ∧ (u.ctx c x).hm = t.hm ∧ (u.ctx c x).run = t.run
  trap : t.ftv = 0 → t.hm = false → t.run ≠ .held → t.run ≠ .halted → t.thv ≠ 0 → k.markOk t.thv = true →
    EntersDue k t 0x08 (u.ctx c x)

/-- Of the core only its instruction banks and start marks count. -/
theorem FailsApplied.of_code {j k : Core} {t : Ctx} {r : R64} {entry : Nat} {hdr : Word} {u : State}
    (h : FailsApplied c x j t r entry hdr u) (hi : j.ispad = k.ispad) (hm : j.marks = k.marks) : FailsApplied c x k t r entry hdr u := by
  have hk : j.markOk = k.markOk := Core.markOk_congr hm
  refine ⟨h.domain, h.noDom, hk ▸ h.transfer, fun h0 h1 h2 h3 h4 h5 => ?_⟩
  exact (h.trap h0 h1 h2 h3 h4 (by rwa [hk])).of_code hi hm rfl rfl rfl rfl

theorem State.ctx_failedApply (s : State) (c : CoreId) (x : CtxId) (r : R64) (entry : Nat) (hdr : Word) :
    (s.failedApply c x r entry hdr).ctx c x = (s.ctx c x).fail 2 r.val entry hdr := by
  rw [State.failedApply, State.dropDom, State.ctx_modCore]
  exact State.ctx_modCtx ..

theorem State.core_failedApply (s : State) (c : CoreId) (x : CtxId) (r : R64) (entry : Nat) (hdr : Word) :
    ((s.failedApply c x r entry hdr).core c).markOk = (s.core c).markOk
    ∧ ((s.failedApply c x r entry hdr).core c).dueAddr = (s.core c).dueAddr := by
  rw [State.failedApply, State.dropDom, State.core_modCore, State.modCtx, State.core_modCore]
  exact ⟨rfl, funext fun t => by apply Core.dueAddr_congr <;> rfl⟩

theorem failsApplied (s : State) (c : CoreId) (x : CtxId) (r : R64) (entry : Nat) (hdr : Word) :
    FailsApplied c x (s.core c) (s.ctx c x) r entry hdr (s.failApply c x r entry hdr) := by
  have hx := s.ctx_failedApply c x r entry hdr
  obtain ⟨hk, hd⟩ := s.core_failedApply c x r entry hdr
  have hn : ((s.failedApply c x r entry hdr).core c).NoDomResult x := noDomResult_dropDom _
  have e : s.failApply c x r entry hdr = if (s.ctx c x).run = .halted then s.failedApply c x r entry hdr
      else if (s.ctx c x).ftv = 0 then (s.failedApply c x r entry hdr).dueTrap c x 0x08
      else (s.failedApply c x r entry hdr).userTransfer c x (s.ctx c x).ftv := by
    have h (u : State) (hu : u.ctx c x = (s.ctx c x).fail 2 r.val entry hdr) :
        (if (u.ctx c x).run = .halted then u else if (u.ctx c x).ftv = 0 then u.dueTrap c x 0x08 else u.userTransfer c x (u.ctx c x).ftv)
        = if (s.ctx c x).run = .halted then u else if (s.ctx c x).ftv = 0 then u.dueTrap c x 0x08
          else u.userTransfer c x (s.ctx c x).ftv := by
      rw [hu]
      rfl
    exact h _ hx
  generalize s.failedApply c x r entry hdr = v at hx hk hd hn e
  have hkeeps : KeepsDomain c x v (s.failApply c x r entry hdr) := by
    rw [e]
    split_ifs
    · exact .refl v
    · exact keepsDomain_dueTrap v 0x08
    · exact keepsDomain_userTransfer v _
  refine ⟨hkeeps.domain.trans (congrArg Ctx.domain hx), hkeeps.noDom hn, fun hrun hftv hmark => ?_,
    fun hftv hm hheld hrun hthv hmark => ?_⟩
  · rw [e, if_neg hrun, if_neg hftv, State.userTransfer_of_mark (hk ▸ hmark), State.ctx_modCtx, hx]
    exact ⟨rfl, rfl, rfl, rfl⟩
  · rw [e, if_neg hrun, if_pos hftv]
    have hh : v.Handles c x := by
      constructor <;> rw [hx]
      · exact hm
      · exact hheld
      · exact hthv
      · rw [hk]
        exact hmark
    obtain ⟨h1, h2, h3, h4, h5, h6, h7⟩ := dueTrap_enters hh (cause := 0x08) rfl
    rw [hx] at h2 h6 h7
    rw [hd] at h6
    exact ⟨h1, h2, h3, h4, h5, h6, h7⟩

/-- So does one of a context that has just been set. -/
theorem failsApplied_modCtx (s : State) (c : CoreId) (x : CtxId) (t : Ctx) (r : R64) (entry : Nat) (hdr : Word) :
    FailsApplied c x (s.core c) t r entry hdr ((s.modCtx c x fun _ => t).failApply c x r entry hdr) := by
  have hf := failsApplied (s.modCtx c x fun _ => t) c x r entry hdr
  rw [State.ctx_modCtx] at hf
  refine hf.of_code ?_ ?_
  all_goals rw [State.modCtx, State.core_modCore]; rfl

end
end Sys2Proof.Machine
end

section
/-!
The writes of a narrowing (15 R215, R222): each register meets its value, and all are written or none.
-/
namespace Sys2Proof.Machine

/-! ### Sets of registers as masks -/

theorem getLsbD_zero_word (i : Nat) : (0 : Word).getLsbD i = false := BitVec.getLsbD_zero

theorem getLsbD_regMask (rs : List R64) (r : R64) : (regMask rs).getLsbD r.val = true ↔ r ∈ rs := by
  have h (l : List R64) (m : Word) : (l.foldl (fun m r => m ||| BitVec.ofNat 64 (2 ^ r.val)) m).getLsbD r.val = true ↔
      m.getLsbD r.val = true ∨ r ∈ l := by
    induction l generalizing m with
    | nil => simp
    | cons q l ih =>
      have hb : (BitVec.ofNat 64 (2 ^ q.val)).getLsbD r.val = true ↔ r = q := by
        rw [BitVec.getLsbD_ofNat, Nat.testBit_two_pow, decide_eq_true r.isLt, Bool.true_and, decide_eq_true_eq, Fin.ext_iff, eq_comm]
      rw [List.foldl_cons, ih, BitVec.getLsbD_or, Bool.or_eq_true, hb, List.mem_cons, or_assoc]
  rw [regMask, h, getLsbD_zero_word]
  simp

/-- A word is the mask of the registers whose bits it has. -/
theorem eq_regMask {m : Word} {rs : List R64} (h : ∀ r : R64, m.getLsbD r.val = true ↔ r ∈ rs) : m = regMask rs := by
  refine BitVec.eq_of_getLsbD_eq fun i hi => ?_
  rw [Bool.eq_iff_iff, h ⟨i, hi⟩]
  exact (getLsbD_regMask rs ⟨i, hi⟩).symm

theorem regMask_ne_zero {rs : List R64} : regMask rs ≠ 0 ↔ rs ≠ [] := by
  constructor
  · rintro h rfl
    exact h rfl
  · intro h e
    obtain ⟨r, hr⟩ := List.exists_mem_of_ne_nil rs h
    have := (getLsbD_regMask rs r).2 hr
    rw [e, getLsbD_zero_word] at this
    cases this

theorem and_ne_zero_iff {m n : Word} : m &&& n ≠ 0 ↔ ∃ r : R64, m.getLsbD r.val = true ∧ n.getLsbD r.val = true := by
  constructor
  · intro h
    by_contra hn
    refine h (BitVec.eq_of_getLsbD_eq fun i hi => ?_)
    rw [getLsbD_zero_word, BitVec.getLsbD_and, Bool.and_eq_false_imp]
    exact fun h1 => eq_false_of_ne_true fun h2 => hn ⟨⟨i, hi⟩, h1, h2⟩
  · rintro ⟨r, h1, h2⟩ e
    have := getLsbD_zero_word r.val
    rw [← e, BitVec.getLsbD_and, h1, h2] at this
    cases this

/-- A form watches the registers it names. -/
theorem Constraint.watch_eq (e : Constraint) : e.watch = regMask e.regs := by
  unfold Constraint.watch Constraint.regs
  split_ifs <;> rfl

/-! ### The writes -/

theorem applyWrites_cons_none {d : Vector DomReg 64} {r : R64} {v : DomReg} (h : (d[r]).meet v = none) (rest : List (R64 × DomReg)) :
    applyWrites d ((r, v) :: rest) = .error r := by
  show (match (d[r]).meet v with
    | none => .error r
    | some w => match applyWrites d rest with
      | .error q => .error q
      | .ok (d', ch) => .ok (d'.set r w, if w = d[r] then ch else r :: ch) : Except R64 (Vector DomReg 64 × List R64)) = _
  rw [h]

theorem applyWrites_cons_some {d : Vector DomReg 64} {r : R64} {v w : DomReg} (h : (d[r]).meet v = some w) (rest : List (R64 × DomReg)) :
    applyWrites d ((r, v) :: rest) = (applyWrites d rest).map fun p => (p.1.set r w, if w = d[r] then p.2 else r :: p.2) := by
  show (match (d[r]).meet v with
    | none => .error r
    | some w => match applyWrites d rest with
      | .error q => .error q
      | .ok (d', ch) => .ok (d'.set r w, if w = d[r] then ch else r :: ch) : Except R64 (Vector DomReg 64 × List R64)) = _
  rw [h]
  cases applyWrites d rest <;> rfl

section
variable {d0 d : Vector DomReg 64} {ws : List (R64 × DomReg)}

/-- Writes that all leave something: each register named takes its value, and the list names those that change. -/
theorem applyWrites_of_meets (hm : ∀ q ∈ ws, (d0[q.1]).meet q.2 = some d[q.1]) : ∃ d' ch, applyWrites d0 ws = .ok (d', ch)
    ∧ (∀ r : R64, d'[r] = if r ∈ ws.map Prod.fst then d[r] else d0[r]) ∧ ∀ r : R64, r ∈ ch ↔ r ∈ ws.map Prod.fst ∧ d[r] ≠ d0[r] := by
  induction ws with
  | nil => exact ⟨d0, [], rfl, fun r => rfl, fun r => by simp⟩
  | cons p rest ih =>
    obtain ⟨q, v⟩ := p
    obtain ⟨hq, hrest⟩ := List.forall_mem_cons.1 hm
    obtain ⟨d', ch, e, hd, hch⟩ := ih hrest
    refine ⟨_, _, by rw [applyWrites_cons_some hq, e]; rfl, fun r => ?_, fun r => ?_⟩
    · by_cases hr : r = q
      · subst hr
        simp
      · have hne : (q : Nat) ≠ r := fun h => hr (Fin.ext h.symm)
        have : (d'.set q d[q])[r] = d'[r] := Vector.getElem_set_ne _ _ hne
        rw [this, hd]
        exact if_congr (by rw [List.map_cons, List.mem_cons, or_iff_right hr]) rfl rfl
    · dsimp only
      split_ifs with hw
      · rw [hch, List.map_cons, List.mem_cons]
        refine ⟨fun h => ⟨.inr h.1, h.2⟩, fun ⟨h1, h2⟩ => ⟨h1.resolve_left fun hr => h2 ?_, h2⟩⟩
        exact hr ▸ hw
      · rw [List.mem_cons, hch, List.map_cons, List.mem_cons, or_and_right]
        exact or_congr_left ⟨fun h => ⟨h, h ▸ hw⟩, And.left⟩

/-- The registers after such writes, and those that changed. -/
theorem applyWrites_eq (hm : ∀ q ∈ ws, (d0[q.1]).meet q.2 = some d[q.1]) (hr : ∀ r : R64, r ∉ ws.map Prod.fst → d[r] = d0[r]) :
    ∃ ch, applyWrites d0 ws = .ok (d, ch) ∧ ∀ r : R64, r ∈ ch ↔ d[r] ≠ d0[r] := by
  obtain ⟨d', ch, e, hd, hch⟩ := applyWrites_of_meets hm
  obtain rfl : d' = d := by
    refine Vector.ext fun i hi => ?_
    refine (hd ⟨i, hi⟩).trans ?_
    split_ifs with h
    · rfl
    · exact (hr _ h).symm
  exact ⟨ch, e, fun r => (hch r).trans ⟨And.right, fun h => ⟨not_not.1 fun c => h (hr r c), h⟩⟩⟩

/-- The first register that would be empty. -/
theorem applyWrites_error {pre post : List (R64 × DomReg)} {r : R64} {v : DomReg}
    (hpre : ∀ q ∈ pre, ((d0[q.1]).meet q.2).isSome = true) (hv : (d0[r]).meet v = none) :
    applyWrites d0 (pre ++ (r, v) :: post) = .error r := by
  induction pre with
  | nil => exact applyWrites_cons_none hv post
  | cons p pre ih =>
    obtain ⟨q, w⟩ := p
    obtain ⟨hq, hrest⟩ := List.forall_mem_cons.1 hpre
    obtain ⟨y, hy⟩ := Option.isSome_iff_exists.1 hq
    rw [List.cons_append, applyWrites_cons_some hy, ih hrest]
    rfl

end

/-! ### Poison of the words written -/

/-- Registers named by a list or by its mask lose the same poison. -/
theorem Core.freshD_congr (k : Core) (x : CtxId) {ds : List R64} {p : R64 → Bool} (h : ∀ r, ds.contains r = p r) :
    k.freshD x ds = { k with rpoison := k.rpoison.filter fun r => match r with
      | .d y q _ => y != x || !p q
      | _ => true } := by
  have e : p = fun r => ds.contains r := funext fun r => (h r).symm
  rw [e]
  rfl

end Sys2Proof.Machine
end

section
/-!
Checkpoint levels in the save RAM (15 R237, R238, 10 R165).
-/
namespace Sys2Proof.Machine

/-! ### Reads of several fields -/

theorem memReadN_add (m : Memory) (a n k : Nat) : memReadN m a (n + k) = memReadN m a n + 2 ^ (8 * n) * memReadN m (a + n) k := by
  induction n generalizing a with
  | zero => simp [memReadN]
  | succ n ih =>
    rw [Nat.succ_add, memReadN, ih, memReadN, show a + 1 + n = a + (n + 1) by omega, show 8 * (n + 1) = 8 + 8 * n by omega, Nat.pow_add]
    ring

/-- A domain register is read of its three fields. -/
theorem memReadN_domReg (m : Memory) (a : Nat) :
    memReadN m a 16 = memReadN m a 4 + 2 ^ 32 * memReadN m (a + 4) 4 + 2 ^ 64 * memReadN m (a + 8) 8 := by
  have h1 := memReadN_add m a 4 12
  have h2 := memReadN_add m (a + 4) 4 8
  rw [show a + 4 + 4 = a + 8 by omega] at h2
  norm_num at h1 h2 ⊢
  omega

theorem DomReg.ofNum_memReadN (m : Memory) (a : Nat) : DomReg.ofNum (memReadN m a 16) =
    ⟨BitVec.ofNat 32 (memReadN m a 4), BitVec.ofNat 32 (memReadN m (a + 4) 4), BitVec.ofNat 64 (memReadN m (a + 8) 8)⟩ := by
  have h4 := memReadN_lt m a 4
  have h4' := memReadN_lt m (a + 4) 4
  have h8 := memReadN_lt m (a + 8) 8
  rw [memReadN_domReg, DomReg.ofNum, DomReg.mk.injEq]
  refine ⟨?_, ?_, ?_⟩
  all_goals
    apply BitVec.eq_of_toNat_eq
    simp only [BitVec.toNat_ofNat]
    omega

theorem domReg_fields_of_num {m : Memory} {a : Nat} {r : DomReg} (h : memReadN m a 16 = r.num) :
    memReadN m a 4 = r.lo.toNat ∧ memReadN m (a + 4) 4 = r.hi.toNat ∧ memReadN m (a + 8) 8 = r.mask.toNat := by
  have h4 := memReadN_lt m a 4
  have h4' := memReadN_lt m (a + 4) 4
  have hl := r.lo.isLt
  have hh := r.hi.isLt
  rw [memReadN_domReg, DomReg.num] at h
  omega

theorem DomReg.num_lt (r : DomReg) : r.num < 256 ^ 16 := by
  have hl := r.lo.isLt
  have hh := r.hi.isLt
  have hm := r.mask.isLt
  rw [DomReg.num]
  omega

/-! ### A level that is saved -/

/-- The records of some registers, of 16 bytes each, written one after the other. -/
def writeRecords (a : Nat) (v : R64 → Nat) (rs : List R64) (m : Memory) : Memory :=
  rs.foldl (fun m r => memWriteN m (a + 16 * r.val) 16 (v r)) m

section
variable {a : Nat} {v : R64 → Nat}

/-- Bytes of no record stay. -/
theorem memRead_writeRecords (rs : List R64) {m : Memory} (hm : memWf m = true) {b : Nat}
    (hb : ∀ r ∈ rs, ¬(a + 16 * r.val ≤ b ∧ b < a + 16 * r.val + 16)) : memRead (writeRecords a v rs m) b = memRead m b := by
  induction rs generalizing m with
  | nil => rfl
  | cons r rs ih =>
    obtain ⟨h1, h2⟩ := List.forall_mem_cons.1 hb
    refine (ih (memWf_memWriteN hm ..) h2).trans ?_
    rw [memRead_memWriteN hm, if_neg h1]

/-- Each record is read back. -/
theorem memReadN_writeRecords {rs : List R64} (hn : rs.Nodup) {m : Memory} (hm : memWf m = true) {r : R64} (hr : r ∈ rs) :
    memReadN (writeRecords a v rs m) (a + 16 * r.val) 16 = v r % 256 ^ 16 := by
  induction rs generalizing m with
  | nil => exact absurd hr List.not_mem_nil
  | cons q rs ih =>
    obtain ⟨hq, hn⟩ := List.nodup_cons.1 hn
    have hm' := memWf_memWriteN hm (a + 16 * q.val) 16 (v q)
    rcases List.mem_cons.1 hr with rfl | hr
    · rw [← memReadN_memWriteN hm]
      refine memReadN_congr fun y h1 h2 => memRead_writeRecords rs hm' fun p hp hy => hq ?_
      have e : r = p := Fin.ext (by omega)
      exact e ▸ hp
    · exact ih hn hm' hr

end

section
variable {k : Core} {x : CtxId}

theorem Core.saveRam_saveLevel (j : Nat) (d : Vector DomReg 64) :
    (k.saveLevel x j d).saveRam = writeRecords (levelAt x j) (fun r => (d[r]).num) (List.finRange 64) k.saveRam := by
  simp only [Core.saveLevel, writeRecords]

theorem Core.memReadN_saveLevel (hm : memWf k.saveRam = true) (j : Nat) (d : Vector DomReg 64) (r : R64) :
    memReadN (k.saveLevel x j d).saveRam (levelAt x j + 16 * r.val) 16 = (d[r]).num := by
  rw [Core.saveRam_saveLevel, memReadN_writeRecords (List.nodup_finRange 64) hm (List.mem_finRange r)]
  exact Nat.mod_eq_of_lt (DomReg.num_lt _)

theorem Core.memRead_saveLevel (hm : memWf k.saveRam = true) (j : Nat) (d : Vector DomReg 64) {b : Nat} (hb : b / 1024 ≠ 16 * x.val + j) :
    memRead (k.saveLevel x j d).saveRam b = memRead k.saveRam b := by
  rw [Core.saveRam_saveLevel]
  refine memRead_writeRecords _ hm fun r _ h => hb ?_
  have := r.isLt
  unfold levelAt at h
  omega

/-! ### A level that is restored -/

theorem Core.savedLevel_eq (k : Core) (x : CtxId) (j : Nat) : k.savedLevel x j = Vector.ofFn fun r : R64 =>
    ⟨BitVec.ofNat 32 (memReadN k.saveRam (levelAt x j + 16 * r.val) 4),
      BitVec.ofNat 32 (memReadN k.saveRam (levelAt x j + 16 * r.val + 4) 4),
      BitVec.ofNat 64 (memReadN k.saveRam (levelAt x j + 16 * r.val + 8) 8)⟩ :=
  congrArg Vector.ofFn (funext fun _ => DomReg.ofNum_memReadN _ _)

/-- The words of the context's d-registers have the poison of the level's words; those of another context keep theirs. -/
theorem Core.mem_restorePoison (j : Nat) {y : CtxId} {q : R64} {i : Nat} (hi : i < 2) :
    RWord.d y q i ∈ (k.restorePoison x j).rpoison ↔
      if y = x then (16 * x.val + j) * 128 + 2 * q.val + i ∈ k.spoison else RWord.d y q i ∈ k.rpoison := by
  have hg : levelAt x j / 8 = (16 * x.val + j) * 128 := by unfold levelAt; omega
  have hfresh : RWord.d y q i ∈ (k.freshD x (List.finRange 64)).rpoison ↔ RWord.d y q i ∈ k.rpoison ∧ y ≠ x := by
    refine List.mem_filter.trans (and_congr_right fun _ => ?_)
    simp
  have hmap (p : Nat) : RWord.d x (Fin.ofNat 64 ((p - (16 * x.val + j) * 128) / 2)) ((p - (16 * x.val + j) * 128) % 2) = RWord.d y q i ↔
      x = y ∧ (p - (16 * x.val + j) * 128) / 2 % 64 = q.val ∧ (p - (16 * x.val + j) * 128) % 2 = i := by
    rw [RWord.d.injEq, Fin.ext_iff (b := q), Fin.val_ofNat]
  have hq := q.isLt
  unfold Core.restorePoison
  simp only [List.mem_append, hfresh, List.mem_map, List.mem_filter, Bool.and_eq_true, decide_eq_true_eq, hg, hmap]
  split_ifs with h
  · subst h
    constructor
    · rintro (⟨-, h⟩ | ⟨p, ⟨hp, h1, h2⟩, -, h3, h4⟩)
      · exact absurd rfl h
      · have : (16 * y.val + j) * 128 + 2 * q.val + i = p := by omega
        exact this ▸ hp
    · intro hp
      exact .inr ⟨_, ⟨hp, by omega, by omega⟩, rfl, by omega, by omega⟩
  · constructor
    · rintro (⟨hk, -⟩ | ⟨p, -, rfl, -⟩)
      · exact hk
      · exact absurd rfl h
    · exact fun hk => .inl ⟨hk, h⟩

end

end Sys2Proof.Machine
end

section
/-!
DOMAIN_EFFECT_APPLY of a pending effect (15 R215, R222, R225, R226, R236 to R238).
-/
namespace Sys2Proof.Machine

/-! ### The effect that is due -/

/-- A change of the rest of a core between two changes of one of its contexts. -/
theorem State.modCtx_around (s : State) (c : CoreId) (x : CtxId) (t : Ctx) {f : Core → Core} (g : Ctx → Ctx)
    (hf : ∀ k : Core, f (k.modCtx x fun _ => t) = (f k).modCtx x fun _ => t) :
    ((s.modCtx c x fun _ => t).modCore c f).modCtx c x g = (s.modCore c f).modCtx c x fun _ => g t := by
  simp only [State.modCtx, State.modCore_modCore]
  congr 1
  funext k
  simp only [Function.comp_apply, hf, Core.modCtx_modCtx]
  rfl

theorem Core.saveLevel_modCtx (k : Core) (x : CtxId) (j : Nat) (d : Vector DomReg 64) (y : CtxId) (f : Ctx → Ctx) :
    (k.modCtx y f).saveLevel x j d = (k.saveLevel x j d).modCtx y f := by
  simp only [Core.saveLevel, Core.modCtx]

/-- A context without the effect it takes. -/
def Ctx.taking (t : Ctx) (rest : List PendDom) : Ctx := { t with pendDom := rest }

section
variable {s : State} {c : CoreId} {x : CtxId} {p : PendDom} {rest : List PendDom}

/-- With no episode the oldest effect is taken when it is due. -/
theorem exec_dueEffect (he : (s.ctx c x).episode = none) (hp : (s.ctx c x).pendDom = p :: rest) (hd : p.due ≤ (s.core c).step) :
    exec (.domainEffectApply c x) s = .next ((s.modCtx c x fun _ => (s.ctx c x).taking rest).applyDom c x p) := by
  have hf : (s.ctx c x).pendDom.find? (fun p => decide (p.due ≤ (s.core c).step)) = some p := by
    rw [hp, List.find?_cons_of_pos (p := fun p : PendDom => decide (p.due ≤ (s.core c).step)) (decide_eq_true hd)]
  have hr : { s.ctx c x with pendDom := (s.ctx c x).pendDom.erase p } = (s.ctx c x).taking rest := by
    rw [hp, List.erase_cons_head]
    rfl
  show execDomainEffectApply c x s = _
  unfold execDomainEffectApply
  simp only [he, hf]
  rw [State.modCtx_eq_const, hr]

-- The context in which the effect is taken is `t`.
variable (s c x) (t : Ctx)

theorem applyDom_set {d : R64} {r : DomReg} (h : p.eff = .set d r) : (s.modCtx c x fun _ => t).applyDom c x p =
    (s.modCore c fun k => k.freshD x [d]).modCtx c x fun _ => { t with d := t.d.set d r } := by
  unfold State.applyDom
  rw [h]
  exact s.modCtx_around c x t _ fun _ => rfl

theorem applyDom_nclr (h : p.eff = .nclr) : (s.modCtx c x fun _ => t).applyDom c x p =
    s.modCtx c x fun _ => { t with store := match t.levels with
      | [] => []
      | l :: _ => t.store.take l.top } := by
  unfold State.applyDom
  rw [h]
  exact State.modCtx_modCtx ..

theorem applyDom_npop (h : p.eff = .npop) :
    (s.modCtx c x fun _ => t).applyDom c x p = s.modCtx c x fun _ => { t with levels := t.levels.tail } := by
  unfold State.applyDom
  rw [h]
  exact State.modCtx_modCtx ..

theorem applyDom_nprop (h : p.eff = .nprop) : (s.modCtx c x fun _ => t).applyDom c x p = s.modCtx c x fun _ =>
    if t.store = [] then { t with nstat := ⟨0, 0, 0, false, false, false, true⟩ } else t.startEpisode true 0 p.hdr := by
  unfold State.applyDom
  rw [h]
  exact State.modCtx_modCtx ..

theorem applyDom_nckpt {d : Vector DomReg 64} {l : Level} (h : p.eff = .nckpt d l) : (s.modCtx c x fun _ => t).applyDom c x p =
    (s.modCore c fun k => k.saveLevel x t.levels.length d).modCtx c x fun _ => { t with levels := l :: t.levels } := by
  unfold State.applyDom
  rw [h]
  dsimp only
  rw [State.ctx_modCtx]
  exact s.modCtx_around c x t _ fun k => k.saveLevel_modCtx ..

theorem applyDom_nrest (h : p.eff = .nrest) {l : Level} {ls : List Level} (hl : t.levels = l :: ls) :
    (s.modCtx c x fun _ => t).applyDom c x p = (s.modCore c fun k => k.restorePoison x ls.length).modCtx c x fun _ => { t with
      d := (s.core c).savedLevel x ls.length
      store := t.store.take l.top
      nstat := l.nstat } := by
  have hk : ((s.modCtx c x fun _ => t).core c).savedLevel x ls.length = (s.core c).savedLevel x ls.length := by
    rw [State.modCtx, State.core_modCore]
    rfl
  unfold State.applyDom
  rw [h]
  dsimp only
  rw [State.ctx_modCtx]
  simp only [hl]
  rw [s.modCtx_around c x t _ fun _ => rfl]
  simp only [hl, hk]

/-! ### Narrowing -/

theorem applyDom_narrow_ok {ws : List (R64 × DomReg)} {rec1 : Option Constraint} (h : p.eff = .narrow ws rec1)
    {d : Vector DomReg 64} {ch : List R64} (hw : applyWrites t.d ws = .ok (d, ch)) :
    (s.modCtx c x fun _ => t).applyDom c x p = (s.modCore c fun k => k.freshD x (ws.map Prod.fst)).modCtx c x fun _ =>
      let u := { t with d := d, store := t.store ++ rec1.toList }
      if ch ≠ [] ∧ u.npe ∧ u.store ≠ [] then u.startEpisode false (regMask ch) p.hdr else u := by
  unfold State.applyDom
  rw [h]
  dsimp only
  rw [State.ctx_modCtx]
  simp only [hw]
  exact s.modCtx_around c x t _ fun _ => rfl

theorem applyDom_narrow_error {ws : List (R64 × DomReg)} {rec1 : Option Constraint} (h : p.eff = .narrow ws rec1)
    {r : R64} (hw : applyWrites t.d ws = .error r) :
    (s.modCtx c x fun _ => t).applyDom c x p = (s.modCtx c x fun _ => t).failApply c x r 0x100 p.hdr := by
  unfold State.applyDom
  rw [h]
  dsimp only
  rw [State.ctx_modCtx]
  simp only [hw]

end

/-- The number of cr.fpc. -/
theorem toNat_fpcWord {cause entry : Nat} (hc : cause < 4) (r : R64) (he : entry < 512) (hdr : Word) :
    (fpcWord cause r.val entry hdr).toNat = cause * 2 ^ 62 + r.val * 2 ^ 56 + entry * 2 ^ 47 + 2 * 2 ^ 44 + hdr.toNat % 2 ^ 44 := by
  have := r.isLt
  rw [fpcWord, BitVec.toNat_ofNat]
  omega

/-! ### The statement -/

section
variable {s : State} {c : CoreId} {x : CtxId} {p : PendDom} {rest : List PendDom}
  (he : (s.ctx c x).episode = none) (hp : (s.ctx c x).pendDom = p :: rest) (hd : p.due ≤ (s.core c).step)
include he hp hd

/-- NCKPT writes its level into the save RAM (R237). -/
theorem nckpt_saves {d : Vector DomReg 64} {l : Level} (h : p.eff = .nckpt d l) (hm : memWf (s.core c).saveRam = true) :
    Does (.domainEffectApply c x) s fun t => t.ctx c x = { (s.ctx c x).taking rest with levels := l :: (s.ctx c x).levels }
      ∧ t.gmem = s.gmem
      ∧ (∀ r : R64, let b := (16 * x.val + (s.ctx c x).levels.length) * 1024 + 16 * r.val
          memReadN (t.core c).saveRam b 4 = (d[r]).lo.toNat ∧ memReadN (t.core c).saveRam (b + 4) 4 = (d[r]).hi.toNat
          ∧ memReadN (t.core c).saveRam (b + 8) 8 = (d[r]).mask.toNat)
      ∧ ∀ b : Nat, b / 1024 ≠ 16 * x.val + (s.ctx c x).levels.length → memRead (t.core c).saveRam b = memRead (s.core c).saveRam b := by
  refine ⟨_, (exec_dueEffect he hp hd).trans (congrArg _ (applyDom_nckpt s c x _ h)), State.ctx_modCtx .., rfl, fun r => ?_, fun b hb => ?_⟩
  all_goals rw [State.modCtx, State.core_modCore, State.core_modCore, Core.modCtx_saveRam]
  · exact domReg_fields_of_num (Core.memReadN_saveLevel hm _ d r)
  · exact Core.memRead_saveLevel hm _ d hb

/-- NREST takes back the registers of its level, with the poison of their words (R238, 10 R165). -/
theorem nrest_restores (h : p.eff = .nrest) {l : Level} {ls : List Level} (hl : (s.ctx c x).levels = l :: ls) : ∃ b : State,
    (∀ y, y ≠ c → b.core y = s.core y) ∧ { b.core c with rpoison := (s.core c).rpoison } = s.core c
    ∧ { b with cores := s.cores } = s
    ∧ (∀ (y : CtxId) (q : R64) (j : Nat), j < 2 → (RWord.d y q j ∈ (b.core c).rpoison ↔
        if y = x then (16 * x.val + ls.length) * 128 + 2 * q.val + j ∈ (s.core c).spoison else RWord.d y q j ∈ (s.core c).rpoison))
    ∧ exec (.domainEffectApply c x) s = .next (b.modCtx c x fun _ => { (s.ctx c x).taking rest with
        d := (s.core c).savedLevel x ls.length
        store := (s.ctx c x).store.take l.top
        nstat := l.nstat }) := by
  refine ⟨s.modCore c fun k => k.restorePoison x ls.length, fun y hy => s.core_modCore_ne _ hy, ?_, rfl, fun y q j hj => ?_,
    (exec_dueEffect he hp hd).trans (congrArg _ (applyDom_nrest s c x _ h hl))⟩
  · rw [State.core_modCore]
    rfl
  · rw [State.core_modCore]
    exact Core.mem_restorePoison ls.length hj

/-- A narrowing that leaves no register empty. -/
theorem narrow_applies {ws : List (R64 × DomReg)} {rec1 : Option Constraint} {d : Vector DomReg 64} {m : Word}
    (h : p.eff = .narrow ws rec1) (hm : ∀ q ∈ ws, ((s.ctx c x).d[q.1]).meet q.2 = some d[q.1])
    (hr : ∀ r : R64, r ∉ ws.map Prod.fst → d[r] = (s.ctx c x).d[r]) (hch : ∀ r : R64, m.getLsbD r.val = true ↔ d[r] ≠ (s.ctx c x).d[r]) :
    exec (.domainEffectApply c x) s = .next ((s.modCore c fun k => k.freshD x (ws.map Prod.fst)).modCtx c x fun _ =>
      let u := { (s.ctx c x).taking rest with d := d, store := (s.ctx c x).store ++ rec1.toList }
      if m ≠ 0 ∧ u.npe = true ∧ u.store ≠ [] then { u with episode := some ⟨false, 0, 1, 0, m, 0, p.hdr⟩ } else u) := by
  obtain ⟨ch, hw, hmem⟩ := applyWrites_eq hm hr
  obtain rfl : m = regMask ch := eq_regMask fun r => (hch r).trans (hmem r).symm
  refine (exec_dueEffect he hp hd).trans (congrArg _ ((applyDom_narrow_ok s c x ((s.ctx c x).taking rest) h hw).trans ?_))
  simp only [regMask_ne_zero]
  rfl

/-- A narrowing that would leave a register empty (R236). -/
theorem narrow_fails {pre post : List (R64 × DomReg)} {r : R64} {v : DomReg} {rec1 : Option Constraint}
    (h : p.eff = .narrow (pre ++ (r, v) :: post) rec1) (hpre : ∀ q ∈ pre, (((s.ctx c x).d[q.1]).meet q.2).isSome = true)
    (hv : ((s.ctx c x).d[r]).meet v = none) : Does (.domainEffectApply c x) s
      (FailsApplied c x (s.core c) ((s.ctx c x).taking rest) r 0x100 p.hdr) := by
  refine ⟨_, (exec_dueEffect he hp hd).trans (congrArg _ (applyDom_narrow_error s c x _ h (applyWrites_error hpre hv))), ?_⟩
  exact failsApplied_modCtx s c x ((s.ctx c x).taking rest) r 0x100 p.hdr

end

/-- Settles O12: an empty set fails at commit, and the effect that is due has the outcome of its kind. -/
theorem domainFailuresAndEffects : Obligations.DomainFailuresAndEffects := by
  refine ⟨fun s gd d a b k hg hu hd he => ?_, fun s c x p rest he hp hdue => ?_⟩
  · intro x inMask
    refine ⟨fun hlt => ?_, fun hno => ?_⟩
    · refine domDo_fails (exec_dset d a b k) hg hu (List.forall_mem_singleton.2 hd) he ?_
      rw [dsetSet_of_lt hlt]
      rfl
    · refine domDo_fails (exec_dsetm d a) hg hu (List.forall_mem_singleton.2 hd) he ?_
      rw [dsetmSet_of_not_exists hno]
      rfl
  · intro k t0 out level fresh
    have hexec := exec_dueEffect he hp hdue
    refine ⟨fun d r h => hexec.trans (congrArg _ (applyDom_set s c x t0 h)), fun h => hexec.trans (congrArg _ (applyDom_nclr s c x t0 h)),
      fun h => hexec.trans (congrArg _ (applyDom_npop s c x t0 h)), fun d l h hm => nckpt_saves he hp hdue h hm,
      fun l ls h hl => ?_, fun h hs => ?_, fun h hs => ?_, fun ws rec1 d m h hnd hm hr hch => ?_,
      fun pre post r v rec1 h hpre hv => ?_⟩
    · obtain ⟨b, h1, h2, h3, h4, h5⟩ := nrest_restores he hp hdue h hl
      rw [Core.savedLevel_eq] at h5
      exact ⟨b, h1, h2, h3, h4, h5⟩
    · refine hexec.trans (congrArg _ ((applyDom_nprop s c x t0 h).trans ?_))
      rw [if_neg hs]
      rfl
    · refine hexec.trans (congrArg _ ((applyDom_nprop s c x t0 h).trans ?_))
      rw [if_pos hs]
    · intro t1 out1
      have hn := narrow_applies he hp hdue h hm hr hch
      have hnext {u v : Ctx} (e : u = v) : (.next ((fresh (ws.map Prod.fst)).modCtx c x fun _ => u) : Out)
          = .next ((fresh (ws.map Prod.fst)).modCtx c x fun _ => v) := by rw [e]
      exact ⟨fun hc => hn.trans (hnext (if_pos hc)), fun hc => hn.trans (hnext (if_neg hc))⟩
    · obtain ⟨t, ht, hf⟩ := narrow_fails he hp hdue h hpre hv
      have hdom := hf.domain
      have hep : t0.episode = none := he
      change Ctx.domain _ = (t0.fail 2 r.val 0x100 p.hdr).domain at hdom
      simp only [Ctx.domain, Ctx.fail, hep, Prod.mk.injEq] at hdom
      obtain ⟨h1, h2, h3, h4, h5, h6, h7, h8⟩ := hdom
      refine ⟨t, ht, h1, h2, h3, h4, h5, h6, ?_, h8, hf.noDom, hf.transfer, fun g1 g2 g3 g4 g5 g6 => ?_⟩
      · rw [h7, toNat_fpcWord (by omega) r (by omega)]
      · obtain ⟨e1, e2, e3, e4, e5, -, e7⟩ := hf.trap g1 g2 g3 g4 g5 g6
        exact ⟨e1, e2, e3, e4, e5, e7⟩

end Sys2Proof.Machine
end

section
/-!
Propagation episodes (15 R227 to R236, Table 15.6): the next entry of a pass, one re-execution, and the three ends.
-/
namespace Sys2Proof.Machine

/-! ### The entry that is next -/

/-- Entry `j` is to be re-executed in the pass of the episode: every one in the first pass of NPROP, else one that watches a register
changed in the pass before. -/
def Episode.Due (e : Episode) (store : List Constraint) (j : Nat) : Prop :=
  ∃ w, store[j]? = some w ∧ (e.pass = 1 ∧ e.all = true ∨ ∃ r ∈ w.regs, e.prev.getLsbD r.val = true)

/-- The test of `nextEntry`. -/
def Episode.dueNow (e : Episode) (store : List Constraint) (j : Nat) : Bool :=
  match store[j]? with
  | some w => (e.pass == 1 && e.all) || (w.watch &&& e.prev) != 0
  | none => false

section
variable {e : Episode} {store : List Constraint} {start : Nat}

theorem nextEntry_eq_find (e : Episode) (store : List Constraint) (start : Nat) : nextEntry store e.all e.prev e.pass start =
    (List.range store.length).find? fun j => decide (start ≤ j) && e.dueNow store j := rfl

theorem dueNow_iff {j : Nat} : e.dueNow store j = true ↔ e.Due store j := by
  unfold Episode.Due Episode.dueNow
  cases store[j]? with
  | none => simp
  | some w =>
    have hw : (w.watch &&& e.prev != 0) = true ↔ ∃ r ∈ w.regs, e.prev.getLsbD r.val = true := by
      rw [bne_iff_ne, and_ne_zero_iff, Constraint.watch_eq]
      exact exists_congr fun r => and_congr_left' (getLsbD_regMask _ r)
    simp only [Bool.or_eq_true, Bool.and_eq_true, beq_iff_eq, hw, Option.some.injEq, exists_eq_left']

theorem Episode.Due.mem_range {j : Nat} (h : e.Due store j) : j ∈ List.range store.length := by
  obtain ⟨w, hw, -⟩ := h
  exact List.mem_range.2 (List.getElem?_eq_some_iff.1 hw).1

theorem nextEntry_eq_none (h : ∀ j, start ≤ j → ¬e.Due store j) : nextEntry store e.all e.prev e.pass start = none := by
  rw [nextEntry_eq_find, List.find?_eq_none]
  intro j _ hb
  rw [Bool.and_eq_true, decide_eq_true_eq, dueNow_iff] at hb
  exact h j hb.1 hb.2

theorem nextEntry_eq_some {i : Nat} (hi : start ≤ i) (hd : e.Due store i) (h : ∀ j, start ≤ j → j < i → ¬e.Due store j) :
    nextEntry store e.all e.prev e.pass start = some i := by
  rw [nextEntry_eq_find, List.find?_range_eq_some, decide_eq_true hi, Bool.true_and, dueNow_iff]
  refine ⟨hd, hd.mem_range, fun j hj => ?_⟩
  rw [Bool.not_eq_true', Bool.and_eq_false_imp, decide_eq_true_eq]
  exact fun hs => eq_false_of_ne_true fun hb => h j hs hj (dueNow_iff.1 hb)

/-- An entry that is to be re-executed stands in the store. -/
theorem getElem_of_nextEntry {i : Nat} (h : nextEntry store e.all e.prev e.pass start = some i) : ∃ w, store[i]? = some w := by
  rw [nextEntry_eq_find, List.find?_range_eq_some] at h
  exact ⟨_, List.getElem?_eq_getElem (List.mem_range.1 h.2.1)⟩

/-- An episode that is not idle has a next entry. -/
theorem exists_nextEntry (h : ¬∀ j, start ≤ j → ¬e.Due store j) : ∃ i, nextEntry store e.all e.prev e.pass start = some i := by
  rw [← Option.ne_none_iff_exists', nextEntry_eq_find]
  intro hn
  rw [List.find?_eq_none] at hn
  refine h fun j hj hd => hn j hd.mem_range ?_
  rw [decide_eq_true hj, Bool.true_and]
  exact dueNow_iff.2 hd

/-- Where no entry of the pass is left and none has changed a register, the episode is at its end. -/
theorem goOn_of_idle (h : ∀ j, e.entry ≤ j → ¬e.Due store j) (hc : e.cur = 0) : e.goOn store = (e, none) := by
  unfold Episode.goOn
  rw [nextEntry_eq_none h]
  exact if_pos hc

/-- The next pass of an episode. -/
def Episode.nextPass (e : Episode) : Episode := { e with
  pass := e.pass + 1
  entry := 0
  prev := e.cur
  cur := 0 }

/-- Where registers have changed the next pass begins. -/
theorem goOn_nextPass (h : ∀ j, e.entry ≤ j → ¬e.Due store j) (hc : e.cur ≠ 0) : e.nextPass.goOn store = e.goOn store := by
  have e1 : e.goOn store = (e.nextPass, nextEntry store e.nextPass.all e.nextPass.prev e.nextPass.pass 0) := by
    unfold Episode.goOn
    rw [nextEntry_eq_none h]
    exact if_neg hc
  rw [e1]
  unfold Episode.goOn
  change (match nextEntry store e.nextPass.all e.nextPass.prev e.nextPass.pass 0 with
    | some i => (e.nextPass, some i)
    | none => if (0 : Word) = 0 then (e.nextPass, none) else (e.nextPass.nextPass, _)) = _
  cases nextEntry store e.nextPass.all e.nextPass.prev e.nextPass.pass 0 with
  | none => exact if_pos rfl
  | some i => rfl

theorem goOn_of_next {i : Nat} (h : nextEntry store e.all e.prev e.pass e.entry = some i) : e.goOn store = (e, some i) := by
  unfold Episode.goOn
  rw [h]

/-- The entry at which an episode goes on stands in the store. -/
theorem getElem_of_goOn {e' : Episode} {i : Nat} (h : e.goOn store = (e', some i)) : ∃ w, store[i]? = some w := by
  unfold Episode.goOn at h
  cases hn : nextEntry store e.all e.prev e.pass e.entry with
  | some j =>
    rw [hn] at h
    obtain ⟨-, hj⟩ := Prod.mk.inj h
    exact getElem_of_nextEntry (hj ▸ hn)
  | none =>
    rw [hn] at h
    dsimp only at h
    split_ifs at h
    · cases (Prod.mk.inj h).2
    · exact getElem_of_nextEntry (e := e.nextPass) (Prod.mk.inj h).2

end

/-! ### What one step of an episode does -/

/-- The values an entry gives the registers, and those it changes. -/
def entryWrites (w : Constraint) (d : Vector DomReg 64) : Except R64 (Vector DomReg 64 × List R64) :=
  match narrowVals w fun q => d[q] with
  | .error q => .error q
  | .ok ws => applyWrites d ws

/-- A core that re-executes an entry is frozen for two cycles more. -/
def Core.reexecutes (k : Core) : Core := { k with freezeLeft := k.freezeLeft + 2, freezeWhy := .domain }

section
variable (s : State) (c : CoreId) (x : CtxId) (t : Ctx) {e e' : Episode} {i : Nat}

theorem episodeStep_fixedPoint (h : e.goOn t.store = (e', none)) : (s.modCtx c x fun _ => t).episodeStep c x e =
    s.modCtx c x fun _ => t.endEpisode e' false true := by
  unfold State.episodeStep
  rw [State.ctx_modCtx]
  simp only [h]
  exact State.modCtx_modCtx ..

/-- The context of an episode that ends at its limit with the budget trap. -/
def Ctx.budgetSpent (t : Ctx) (e : Episode) (k : Core) : Ctx := { t.endEpisode e true false with
  fpc := fpcWord 3 0 0x100 (k.dueAddr t)
  pendDom := [] }

section
variable (h : e.goOn t.store = (e', some i))
include h

theorem episodeStep_limit (hu : e'.used = t.nbud.toNat) (hb : t.nbt = false) : (s.modCtx c x fun _ => t).episodeStep c x e =
    s.modCtx c x fun _ => t.endEpisode e' true false := by
  unfold State.episodeStep
  rw [State.ctx_modCtx]
  simp only [h, hu, hb, if_true, Bool.false_eq_true, if_false]
  exact State.modCtx_modCtx ..

theorem episodeStep_budgetTrap (hu : e'.used = t.nbud.toNat) (hb : t.nbt = true) : (s.modCtx c x fun _ => t).episodeStep c x e =
    let v := (s.modCtx c x fun _ => t.budgetSpent e' (s.core c)).dropDom c x
    if t.run = .halted then v else v.dueTrap c x 0x09 := by
  have hk : (((s.modCtx c x fun _ => t).modCtx c x fun t => t.endEpisode e' true false).core c).dueAddr (t.endEpisode e' true false)
      = (s.core c).dueAddr t := by
    rw [State.modCtx_modCtx, State.modCtx, State.core_modCore]
    apply Core.dueAddr_congr <;> rfl
  have hv : (((s.modCtx c x fun _ => t).modCtx c x fun t => t.endEpisode e' true false).modCtx c x fun u => { u with
        fpc := fpcWord 3 0 0x100
          ((((s.modCtx c x fun _ => t).modCtx c x fun t => t.endEpisode e' true false).core c).dueAddr u)
        pendDom := [] }) = s.modCtx c x fun _ => t.budgetSpent e' (s.core c) := by
    rw [State.modCtx_eq_const, State.ctx_modCtx, State.ctx_modCtx, hk, State.modCtx_modCtx, State.modCtx_modCtx]
    rfl
  unfold State.episodeStep
  rw [State.ctx_modCtx]
  simp only [h, hu, hb, if_true]
  rw [hv]

variable {w : Constraint} (hw : t.store[i]? = some w) (hu : e'.used ≠ t.nbud.toNat)
include hw hu

theorem episodeStep_entry {d : Vector DomReg 64} {ch : List R64} (hd : entryWrites w t.d = .ok (d, ch)) :
    (s.modCtx c x fun _ => t).episodeStep c x e = (s.modCore c fun k => k.reexecutes.freshD x ch).modCtx c x fun _ => { t with
      d := d
      episode := some { e' with used := e'.used + 1, entry := i + 1, cur := e'.cur ||| regMask ch } } := by
  have e1 : (s.modCtx c x fun _ => t).episodeStep c x e = (((s.modCtx c x fun _ => t).modCore c Core.reexecutes).modCore c fun k =>
      k.freshD x ch).modCtx c x fun t => { t with
        d := d
        episode := some { e' with used := e'.used + 1, entry := i + 1, cur := e'.cur ||| regMask ch } } := by
    unfold State.episodeStep
    rw [State.ctx_modCtx]
    simp only [h, if_neg hu, hw]
    show (match entryWrites w t.d with
      | .error q => _
      | .ok (d', ch) => _) = _
    rw [hd]
    rfl
  rw [e1, State.modCore_modCore]
  exact s.modCtx_around c x t _ fun _ => rfl

theorem episodeStep_fails {q : R64} (hd : entryWrites w t.d = .error q) :
    (s.modCtx c x fun _ => t).episodeStep c x e = ((s.modCore c Core.reexecutes).modCtx c x fun _ => { t with
      episode := some { e' with used := e'.used + 1 } }).failApply c x q i e'.hdr := by
  have e1 : (s.modCtx c x fun _ => t).episodeStep c x e = (((s.modCtx c x fun _ => t).modCore c Core.reexecutes).modCtx c x fun t => { t with
        episode := some { e' with used := e'.used + 1 } }).failApply c x q i e'.hdr := by
    unfold State.episodeStep
    rw [State.ctx_modCtx]
    simp only [h, if_neg hu, hw]
    show (match entryWrites w t.d with
      | .error q => _
      | .ok (d', ch) => _) = _
    rw [hd]
    rfl
  rw [e1, s.modCtx_around c x t _ fun _ => rfl]

end
end

/-! ### An episode that is not at its end -/

section
variable {s : State} {c : CoreId} {x : CtxId} {t : Ctx} {e : Episode}

/-- A step of an episode sees of it only where it goes on. -/
theorem episodeStep_congr {e' : Episode} (h : e.goOn t.store = e'.goOn t.store) :
    (s.modCtx c x fun _ => t).episodeStep c x e = (s.modCtx c x fun _ => t).episodeStep c x e' := by
  unfold State.episodeStep
  rw [State.ctx_modCtx]
  dsimp only
  rw [h]

/-- Nor does it read the episode that its context holds. -/
theorem episodeStep_episode (o : Option Episode) :
    (s.modCtx c x fun _ => { t with episode := o }).episodeStep c x e = (s.modCtx c x fun _ => t).episodeStep c x e := by
  rcases h : e.goOn t.store with ⟨e', _ | i⟩
  · exact (episodeStep_fixedPoint s c x { t with episode := o } h).trans (episodeStep_fixedPoint s c x t h).symm
  · by_cases hu : e'.used = t.nbud.toNat
    · rcases Bool.eq_false_or_eq_true t.nbt with hb | hb
      · exact (episodeStep_budgetTrap s c x { t with episode := o } h hu hb).trans (episodeStep_budgetTrap s c x t h hu hb).symm
      · exact (episodeStep_limit s c x { t with episode := o } h hu hb).trans (episodeStep_limit s c x t h hu hb).symm
    · obtain ⟨w, hw⟩ := getElem_of_goOn h
      cases hd : entryWrites w t.d with
      | error q =>
        exact (episodeStep_fails s c x { t with episode := o } h hw hu hd).trans (episodeStep_fails s c x t h hw hu hd).symm
      | ok p =>
        exact (episodeStep_entry s c x { t with episode := o } h hw hu hd).trans (episodeStep_entry s c x t h hw hu hd).symm

/-- A context whose episode goes on, whether or not it was interrupted (R228, R233). -/
def Ctx.resumed (t : Ctx) : Ctx := { t with nstat := { t.nstat with
  act := false
  entry := 0 } }

theorem exec_episode (he : (s.ctx c x).episode = some e) :
    exec (.domainEffectApply c x) s = .next ((s.modCtx c x fun _ => (s.ctx c x).resumed).episodeStep c x e) := by
  show execDomainEffectApply c x s = _
  unfold execDomainEffectApply
  simp only [he]
  rw [State.modCtx_eq_const]
  rfl

/-- The next pass begins in the step that finds no entry left. -/
theorem exec_nextPass (he : (s.ctx c x).episode = some e) (h : ∀ j, e.entry ≤ j → ¬e.Due (s.ctx c x).store j) (hc : e.cur ≠ 0) :
    exec (.domainEffectApply c x) s = exec (.domainEffectApply c x) (s.modCtx c x fun t => { t with episode := some e.nextPass }) := by
  have hx : (s.modCtx c x fun t => { t with episode := some e.nextPass }).ctx c x = { s.ctx c x with episode := some e.nextPass } :=
    State.ctx_modCtx ..
  have hx' : ((s.modCtx c x fun t => { t with episode := some e.nextPass }).ctx c x).episode = some e.nextPass := by rw [hx]
  rw [exec_episode he, exec_episode hx', hx, State.modCtx_modCtx]
  refine congrArg _ (Eq.trans ?_ (episodeStep_episode (s := s) (t := (s.ctx c x).resumed) (e := e.nextPass) (some e.nextPass)).symm)
  exact episodeStep_congr (goOn_nextPass h hc).symm

/-! ### The ends that are traps or failures -/

/-- What the budget trap leaves (R232). -/
theorem budgetTrap_leaves (s : State) (c : CoreId) (x : CtxId) (t : Ctx) (e : Episode) :
    let v := (s.modCtx c x fun _ => t.budgetSpent e (s.core c)).dropDom c x
    let u := if t.run = .halted then v else v.dueTrap c x 0x09
    (u.ctx c x).domain = (t.budgetSpent e (s.core c)).domain ∧ (u.core c).NoDomResult x
    ∧ (t.hm = false → t.run ≠ .held → t.run ≠ .halted → t.thv ≠ 0 → (s.core c).markOk t.thv = true →
        EntersDue (s.core c) t 0x09 (u.ctx c x)) := by
  intro v u
  have hx : v.ctx c x = t.budgetSpent e (s.core c) := by
    change (State.dropDom _ c x).ctx c x = _
    rw [State.dropDom, State.ctx_modCore]
    exact State.ctx_modCtx ..
  have hk : (v.core c).ispad = (s.core c).ispad ∧ (v.core c).marks = (s.core c).marks := by
    change ((State.dropDom _ c x).core c).ispad = _ ∧ ((State.dropDom _ c x).core c).marks = _
    rw [State.dropDom, State.core_modCore, State.modCtx, State.core_modCore]
    exact ⟨rfl, rfl⟩
  have hn : (v.core c).NoDomResult x := noDomResult_dropDom _
  have hkeeps : KeepsDomain c x v u := by
    dsimp only [u]
    split
    · exact .refl v
    · exact keepsDomain_dueTrap v 0x09
  refine ⟨hkeeps.domain.trans (congrArg Ctx.domain hx), hkeeps.noDom hn, fun hm hheld hrun hthv hmark => ?_⟩
  have hh : v.Handles c x := by
    constructor <;> rw [hx]
    · exact hm
    · exact hheld
    · exact hthv
    · rw [Core.markOk_congr hk.2]
      exact hmark
  have hent := dueTrap_enters hh (cause := 0x09) rfl
  rw [hx] at hent
  have eu : u = v.dueTrap c x 0x09 := if_neg hrun
  rw [eu]
  exact hent.of_code hk.1 hk.2 rfl rfl rfl rfl

/-- The first register found empty by a re-execution. -/
theorem entryWrites_error {w : Constraint} {d : Vector DomReg 64} {r : R64} (h : narrowVals w (fun r => d[r]) = .error r ∨
    ∃ pre post v, narrowVals w (fun r => d[r]) = .ok (pre ++ (r, v) :: post) ∧ (∀ q ∈ pre, ((d[q.1]).meet q.2).isSome = true)
      ∧ (d[r]).meet v = none) : entryWrites w d = .error r := by
  unfold entryWrites
  rcases h with h | ⟨pre, post, v, h, hpre, hv⟩
  · rw [h]
  · rw [h]
    exact applyWrites_error hpre hv

end

/-- A context of a core that has just been set is that core's own. -/
theorem State.modCtx_setCore (s : State) (c : CoreId) (x : CtxId) {k : Core} {t : Ctx} (h : k.ctxs[x] = t) (f : Ctx → Ctx) :
    (s.setCore c k).modCtx c x f = (s.setCore c k).modCtx c x fun _ => f t := by
  rw [State.modCtx_eq_const, State.ctx, State.core_setCore, h]

/-- What a re-execution that fails leaves, from the context `t` on. -/
def FailedEpisode (c : CoreId) (x : CtxId) (k : Core) (t : Ctx) (e : Episode) (r : R64) (i : Nat) (u : State) : Prop :=
  FailsApplied c x k { t.resumed with episode := some { e with used := e.used + 1 } } r i e.hdr u

section
variable {s : State} {c : CoreId} {x : CtxId} {e : Episode} {i : Nat} {w : Constraint}
  (he : (s.ctx c x).episode = some e) (hgo : e.goOn (s.ctx c x).store = (e, some i)) (hw : (s.ctx c x).store[i]? = some w)
  (hu : e.used ≠ (s.ctx c x).nbud.toNat)
include he hgo hw hu

/-- A re-execution that leaves no register empty. -/
theorem reexecution_applies {ws : List (R64 × DomReg)} {d : Vector DomReg 64} {m : Word}
    (hv : narrowVals w (fun r => (s.ctx c x).d[r]) = .ok ws) (hm : ∀ q ∈ ws, ((s.ctx c x).d[q.1]).meet q.2 = some d[q.1])
    (hr : ∀ r : R64, r ∉ ws.map Prod.fst → d[r] = (s.ctx c x).d[r]) (hch : ∀ r : R64, m.getLsbD r.val = true ↔ d[r] ≠ (s.ctx c x).d[r]) :
    exec (.domainEffectApply c x) s = .next ((s.setCore c { s.core c with
      freezeLeft := (s.core c).freezeLeft + 2
      freezeWhy := .domain
      rpoison := (s.core c).rpoison.filter fun r => match r with
        | .d y q _ => y != x || !m.getLsbD q.val
        | _ => true }).modCtx c x fun t => { t.resumed with
        d := d
        episode := some { e with
          used := e.used + 1
          entry := i + 1
          cur := e.cur ||| m } }) := by
  obtain ⟨ch, hwr, hmem⟩ := applyWrites_eq hm hr
  obtain rfl : m = regMask ch := eq_regMask fun r => (hch r).trans (hmem r).symm
  have hd : entryWrites w (s.ctx c x).d = .ok (d, ch) := by
    unfold entryWrites
    rw [hv]
    exact hwr
  refine (exec_episode he).trans (congrArg _ ((episodeStep_entry s c x (s.ctx c x).resumed hgo hw hu hd).trans ?_))
  have hf := Core.freshD_congr (s.core c).reexecutes x (p := fun q => (regMask ch).getLsbD q.val) fun r => by
    rw [Bool.eq_iff_iff, List.contains_iff_mem]
    exact (getLsbD_regMask ch r).symm
  change (s.setCore c ((s.core c).reexecutes.freshD x ch)).modCtx c x _ = _
  rw [hf]
  refine Eq.trans ?_ (State.modCtx_setCore s c x rfl _).symm
  rfl

/-- A re-execution that would leave a register empty. -/
theorem reexecution_fails {r : R64} (herr : narrowVals w (fun r => (s.ctx c x).d[r]) = .error r ∨
    ∃ pre post v, narrowVals w (fun r => (s.ctx c x).d[r]) = .ok (pre ++ (r, v) :: post)
      ∧ (∀ q ∈ pre, (((s.ctx c x).d[q.1]).meet q.2).isSome = true) ∧ ((s.ctx c x).d[r]).meet v = none) :
    Does (.domainEffectApply c x) s (FailedEpisode c x (s.core c) (s.ctx c x) e r i) := by
  refine ⟨_, (exec_episode he).trans
    (congrArg _ (episodeStep_fails s c x (s.ctx c x).resumed hgo hw hu (entryWrites_error herr))), ?_⟩
  have hf := failsApplied_modCtx (s.modCore c Core.reexecutes) c x { (s.ctx c x).resumed with
    episode := some { e with used := e.used + 1 } } r i e.hdr
  rw [State.core_modCore] at hf
  exact hf.of_code rfl rfl

end

section
variable {c : CoreId} {x : CtxId} {k : Core} {t : Ctx} {e : Episode} {r : R64} {i : Nat} {u : State}
  (h : FailedEpisode c x k t e r i u)
include h

theorem FailedEpisode.domain : (u.ctx c x).domain = (t.d, t.store, t.levels, t.g, [], none, fpcWord 2 r.val i e.hdr,
    ⟨BitVec.ofNat 32 (e.used + 1), 0, BitVec.ofNat 11 (min e.pass 2047), false, true, false, false⟩) :=
  FailsApplied.domain h

theorem FailedEpisode.trap (hftv : t.ftv = 0) (hm : t.hm = false) (hheld : t.run ≠ .held) (hrun : t.run ≠ .halted) (hthv : t.thv ≠ 0)
    (hmark : k.markOk t.thv = true) : EntersDue k t 0x08 (u.ctx c x) :=
  (FailsApplied.trap h hftv hm hheld hrun hthv hmark).of_code rfl rfl rfl rfl rfl rfl

end

/-- Settles O59: the step of an episode by the entry that is next, by its limit, and by what the entry leaves. -/
theorem propagationEpisodes : Obligations.PropagationEpisodes := by
  intro s c x e he k t due idle ends
  have hexec := exec_episode he
  refine ⟨fun hidle hc => ?_, fun hidle hc => exec_nextPass he hidle hc, fun hidle hu hb => ?_,
    fun i w ws d m hi hw hdue hfirst hu hv hm hr hch => ?_, ?_⟩
  · exact hexec.trans (congrArg _ (episodeStep_fixedPoint s c x _ (goOn_of_idle hidle hc)))
  · obtain ⟨i, hi⟩ := exists_nextEntry hidle
    exact hexec.trans (congrArg _ (episodeStep_limit s c x _ (goOn_of_next hi) hu hb))
  · exact reexecution_applies he (goOn_of_next (nextEntry_eq_some hi hdue hfirst)) hw hu hv hm hr hch
  · intro stays traps
    refine ⟨fun i w r hi hw hdue hfirst hu herr => ?_, fun hidle hu hb => ?_⟩
    · obtain ⟨u, hstep, hf⟩ := reexecution_fails he (goOn_of_next (nextEntry_eq_some hi hdue hfirst)) hw hu herr
      have hdom := hf.domain
      simp only [Ctx.domain, Prod.mk.injEq] at hdom
      obtain ⟨h1, h2, h3, h4, h5, h6, h7, h8⟩ := hdom
      refine ⟨u, hstep, ⟨h1, h2, h3, h4, h5, h6, hf.noDom⟩, h8, h7, hf.transfer, fun hftv hm hheld hrun hthv hmark => ?_⟩
      obtain ⟨e1, e2, e3, e4, e5, e6, e7⟩ := hf.trap hftv hm hheld hrun hthv hmark
      exact ⟨e1, e2, e3, e4, e5, e6, e7⟩
    · obtain ⟨i, hi⟩ := exists_nextEntry hidle
      obtain ⟨hdom, hno, htrap⟩ := budgetTrap_leaves s c x (s.ctx c x).resumed e
      refine ⟨_, hexec.trans (congrArg _ (episodeStep_budgetTrap s c x _ (goOn_of_next hi) hu hb)), ?_⟩
      simp only [Ctx.domain, Ctx.budgetSpent, Ctx.endEpisode, Prod.mk.injEq] at hdom
      obtain ⟨h1, h2, h3, h4, h5, h6, h7, h8⟩ := hdom
      refine ⟨⟨h1, h2, h3, h4, h5, h6, hno⟩, h8, h7, fun hm hheld hrun hthv hmark => ?_⟩
      obtain ⟨e1, e2, e3, e4, e5, e6, e7⟩ := htrap hm hheld hrun hthv hmark
      exact ⟨e1, e2, e3, e4, e5, e6, e7⟩

end Sys2Proof.Machine
end
